-- ==== Sys2Proof/Word.lean ====
section
/-! DEFINITION. The word types of the TMC-2840 and the sparse table type that the state is built from. -/
namespace Sys2Proof

/-- One byte. -/
abbrev Byte := BitVec 8
/-- A 16-bit value. -/
abbrev Half := BitVec 16
/-- A 32-bit value: a register, a control word. -/
abbrev Word := BitVec 32
/-- A 64-bit value: a general register (R88), a record word (R170), ring time in ns (R257). -/
abbrev DWord := BitVec 64
/-- A local context id (R169). -/
abbrev CtxId := BitVec 18
/-- A work queue number (R233). -/
abbrev QId := BitVec 12
/-- A general register number, g0 to g15 (R88). -/
abbrev Reg := BitVec 4
/-- A privilege level P0, P1 or P2 (R134). -/
abbrev Lvl := BitVec 2
/-- A table with few entries away from their default: keys strictly rising, no entry equal to the default of its key. -/
abbrev Sparse (α : Type) := List (Nat × α)

end Sys2Proof
end

