-- ==== Sys2Proof/Syntax.lean ====
section
/-! DEFINITION. The commands of the block: one constructor per row of spec/opcode_table.json, with the row's operands. -/
namespace Sys2Proof

/-- Who runs a Clana instruction: a context on a channel engine thread, or a management processor (R88, R133). -/
inductive Thread where
  | ctx (c : CtxId)
  | mp (n : BitVec 2)
deriving DecidableEq, Repr

/-- The prefix words before an instruction (R100, R101): REP, then EXT with its IMMHI. -/
structure Pfx where
  rep : Bool
  ext : Option Half
deriving DecidableEq, Repr

/-- The owner of a mover channel (R205). -/
inductive Owner where
  | ctx (c : CtxId)
  | mp (n : BitVec 2)
  | sct (i : BitVec 6)
deriving DecidableEq, Repr

/-- The indirect access ports (R518). -/
inductive AccPort where
  | gal | wq | pa | pb | rm | dpt | evt
deriving DecidableEq, Repr

/-- What an ECC decode of an access found (R440 to R443). -/
inductive Ecc where
  | good
  | ce (syn : Byte)
  | ue (syn : Byte)
  | addr (syn : Byte)
  | link (lanes : Byte)
  | chkmis (syn : Byte)
deriving DecidableEq, Repr

/-- What the decodes of the words of a line or of a record found: the words that are not good, by number. -/
abbrev WordEcc (n : Nat) := List (BitVec n × Ecc)

/-- A code line that fills an instruction cache (R190), what the decode of the Orchard's copy of it found, and what that of the cache's (R440). -/
structure CodeLine where
  line : BitVec 42
  orch : Ecc
  icache : Ecc
deriving DecidableEq, Repr

/-- A session between this device and a host or another device (R284). -/
inductive SessKey where
  | host (n : BitVec 6)
  | peer (addr : Byte)
deriving DecidableEq, Repr

/-- What MACsec found on a received frame (R327): explicit tells whether the SecTAG itself carries the SCI. -/
inductive SecTag where
  | none
  | sa (an : BitVec 2) (sci : DWord) (explicit : Bool) (pn : DWord) (icvGood : Bool)
deriving DecidableEq, Repr

/-- An Ethernet frame without its FCS; body holds every byte after the EtherType (R281, R315). -/
structure Frame where
  da : BitVec 48
  sa : BitVec 48
  ctag : Option Half
  rtag : Option Half
  etype : Half
  body : List Byte
deriving DecidableEq, Repr

/-- A frame as a ring port receives it (R315, R325): frags is the number of fragments it was reassembled from beside the first, none when the
reassembly failed; ecc lists what decodes of its buffer words in the Vestibule found (R440), by buffer offset; other tells of a frame that arrived while
the other copy of its number was in reception on the other port whether that copy is in reception still (R317). -/
structure RxFrame where
  frame : Frame
  frags : Option Nat
  ecc : List (Word × Ecc) := []
  other : Option Bool := none
deriving DecidableEq, Repr

/-- How a received unit of transfer ends (R41, R58, R394 to R397). -/
structure RxEnd where
  crcBad : Bool
  portErr : Bool
  code : BitVec 5
deriving DecidableEq, Repr

/-- A packet as a CSI receiver takes it from its lanes (R392 to R394): the ring time of its header, data type, virtual channel, whether ECC corrected its
header, whether it could not, whether the packet CRC failed, and the payload. -/
structure CsiPkt where
  time : DWord := 0
  dt : Byte := 0
  vc : BitVec 4 := 0
  cor : Bool := false
  unc : Bool := false
  bad : Bool := false
  pay : List Byte := []
deriving DecidableEq, Repr

/-- What a CSI receiver sees of a frame on its lanes (R392 to R394): ring time and frame number of its Frame Start, its packets in order, whether the frame
ends after them, and whether a Frame Start ends it while it is open. In FRAME mode the frame always ends. -/
structure CsiUnit where
  start : DWord := 0
  frame : Half := 0
  pkts : List CsiPkt := []
  last : Bool := true
  seq : Bool := false
deriving DecidableEq, Repr

/-- A serial message that a SENT fast message completes (R396): enhanced or short, message ID, configuration bit, data, and whether its CRC failed. -/
structure SentSerial where
  enh : Bool
  id : Byte
  cfg : Bool
  data : Half
  bad : Bool
deriving DecidableEq, Repr

/-- A SENT message on the pin (R396): the length of its sync pulse in ps, its nibbles from the status nibble to the CRC, whether a pause pulse follows, and
the serial message that it completes. -/
structure SentMsg where
  sync : Word := 0
  nibs : List (BitVec 4) := []
  pause : Bool := false
  ser : Option SentSerial := none
deriving DecidableEq, Repr

/-- A unit of transfer as a device port receives it: its bytes, what a CSI or a SENT receiver saw of it, and whether it began before the last landing (R384);
the other classes have no use for what CSI and SENT saw. -/
structure RxUnit where
  bytes : List Byte
  csi : CsiUnit := {}
  sent : SentMsg := {}
  old : Bool := false
deriving DecidableEq, Repr

/-- How the transmission of a record goes (R376): whether it succeeds, and the collisions that a T1S frame met before (R389, R403). -/
structure TxDone where
  good : Bool
  coll : BitVec 4 := 0
deriving DecidableEq, Repr

/-- An edge at a timer pin (R398): the level after it, and whether it began before the last landing (R384). -/
structure PinEdge where
  level : Bool
  old : Bool := false
deriving DecidableEq, Repr

/-- What a Sync and its Follow_Up bring (R259, R331): the measured rate, the precise origin timestamp, the correction in 2^-16 ns, and the residence
time in 2^-16 ns until the Sync is relayed. -/
structure SyncMsg where
  rate : Word
  origin : BitVec 80
  corr : DWord
  resid : DWord
deriving DecidableEq, Repr

/-- What a Pdelay exchange measures (R332): the delay, and the neighbour rate ratio beside 1 in units of 2^-41. -/
structure PdelayMeas where
  delay : BitVec 28
  ratio : Word
deriving DecidableEq, Repr

/-- What the PCS of a ring port counted in the flight that ends (R311): 10-bit symbols received, symbols corrected, codewords that it
could not correct. -/
structure Fec where
  syms : Nat := 0
  corr : Nat := 0
  unc : Nat := 0
deriving DecidableEq, Repr

/-- What the collector sees in a SAFE cycle beside a source (R458): the information that comes with its detection, the other sources that latch in the
same cycle, and the level sources whose signals are asserted. -/
structure FaultDet where
  info : Word
  also : List (BitVec 9) := []
  held : List (BitVec 9) := []
deriving DecidableEq, Repr

/-- The commands. -/
inductive Instr where
  -- registers and time
  | registerWrite (lvl : Lvl) (addr : BitVec 24) (v : Word)
  | rcRead (lvl : Lvl) (addr : BitVec 24)
  | glbRsvdWrClear (lvl : Lvl) (v : Word)
  | timeNowNsLoRead (lvl : Lvl)
  | timeLndNumLoRead (lvl : Lvl)
  | stbyPllLock
  -- channel programs
  | stepFetch (c : CtxId)
  | nopStep (c : CtxId)
  | jump (c : CtxId)
  | waitStep (c : CtxId)
  | signalStep (c : CtxId)
  | reportStep (c : CtxId)
  | endStep (c : CtxId)
  | moveIn (c : CtxId)
  | moveOut (c : CtxId)
  | moveMem (c : CtxId)
  | controlStep (c : CtxId)
  | senseStep (c : CtxId)
  | routineStep (c : CtxId)
  | timeWaitEnd (c : CtxId)
  -- Clana: ALU register group
  | add (t : Thread) (p : Pfx) (w : Bool) (gd ga gb : Reg)
  | sub (t : Thread) (p : Pfx) (w : Bool) (gd ga gb : Reg)
  | and (t : Thread) (p : Pfx) (w : Bool) (gd ga gb : Reg)
  | or (t : Thread) (p : Pfx) (w : Bool) (gd ga gb : Reg)
  | xor (t : Thread) (p : Pfx) (w : Bool) (gd ga gb : Reg)
  | andn (t : Thread) (p : Pfx) (w : Bool) (gd ga gb : Reg)
  | mov (t : Thread) (p : Pfx) (w : Bool) (gd ga : Reg)
  | not (t : Thread) (p : Pfx) (w : Bool) (gd ga : Reg)
  | neg (t : Thread) (p : Pfx) (w : Bool) (gd ga : Reg)
  | cmp (t : Thread) (p : Pfx) (w : Bool) (ga gb : Reg)
  | tst (t : Thread) (p : Pfx) (w : Bool) (ga gb : Reg)
  | shl (t : Thread) (p : Pfx) (w : Bool) (gd ga gb : Reg)
  | shr (t : Thread) (p : Pfx) (w : Bool) (gd ga gb : Reg)
  | sar (t : Thread) (p : Pfx) (w : Bool) (gd ga gb : Reg)
  | rol (t : Thread) (p : Pfx) (w : Bool) (gd ga gb : Reg)
  | ror (t : Thread) (p : Pfx) (w : Bool) (gd ga gb : Reg)
  | min (t : Thread) (p : Pfx) (w : Bool) (gd ga gb : Reg)
  | max (t : Thread) (p : Pfx) (w : Bool) (gd ga gb : Reg)
  | minu (t : Thread) (p : Pfx) (w : Bool) (gd ga gb : Reg)
  | maxu (t : Thread) (p : Pfx) (w : Bool) (gd ga gb : Reg)
  | clz (t : Thread) (p : Pfx) (w : Bool) (gd ga : Reg)
  | ctz (t : Thread) (p : Pfx) (w : Bool) (gd ga : Reg)
  | popc (t : Thread) (p : Pfx) (w : Bool) (gd ga : Reg)
  | bswap (t : Thread) (p : Pfx) (w : Bool) (gd ga : Reg)
  -- Clana: immediate group
  | addi (t : Thread) (p : Pfx) (w : Bool) (gd ga : Reg) (imm : Half)
  | cmpi (t : Thread) (p : Pfx) (w : Bool) (ga : Reg) (imm : Half)
  | andi (t : Thread) (p : Pfx) (w : Bool) (gd ga : Reg) (imm : Half)
  | ori (t : Thread) (p : Pfx) (w : Bool) (gd ga : Reg) (imm : Half)
  | xori (t : Thread) (p : Pfx) (w : Bool) (gd ga : Reg) (imm : Half)
  | movi (t : Thread) (p : Pfx) (gd : Reg) (imm : Half)
  | ins (t : Thread) (p : Pfx) (gd : Reg) (h : BitVec 2) (imm : Half)
  | shi (t : Thread) (p : Pfx) (kind : BitVec 2) (w : Bool) (gd ga : Reg) (n : Byte)
  -- Clana: memory access
  | ld (t : Thread) (p : Pfx) (sz : BitVec 2) (gd ga : Reg) (imm : Half)
  | lds (t : Thread) (p : Pfx) (sz : BitVec 2) (gd ga : Reg) (imm : Half)
  | st (t : Thread) (p : Pfx) (sz : BitVec 2) (gd ga : Reg) (imm : Half)
  | ldP (t : Thread) (p : Pfx) (sz : BitVec 2) (gd ga : Reg) (imm : Half)
  | ldsP (t : Thread) (p : Pfx) (sz : BitVec 2) (gd ga : Reg) (imm : Half)
  | stP (t : Thread) (p : Pfx) (sz : BitVec 2) (gd ga : Reg) (imm : Half)
  | loadDataArrival (t : Thread) (gd : Reg)
  -- Clana: control transfer
  | bc (t : Thread) (p : Pfx) (cond : BitVec 4) (off : BitVec 22)
  | bl (t : Thread) (p : Pfx) (off : BitVec 26)
  | b (t : Thread) (p : Pfx) (off : BitVec 26)
  | cbz (t : Thread) (p : Pfx) (ga : Reg) (imm : Half)
  | cbnz (t : Thread) (p : Pfx) (ga : Reg) (imm : Half)
  | br (t : Thread) (p : Pfx) (ga : Reg)
  | blr (t : Thread) (p : Pfx) (ga : Reg)
  | ret (t : Thread) (p : Pfx)
  -- Clana: multiplier and divider
  | mul (t : Thread) (p : Pfx) (ga gb : Reg)
  | mulu (t : Thread) (p : Pfx) (ga gb : Reg)
  | div (t : Thread) (p : Pfx) (ga gb : Reg)
  | divu (t : Thread) (p : Pfx) (ga gb : Reg)
  | muldivResult (t : Thread)
  -- Clana: data movement, channel, port, control and system groups
  | move (t : Thread) (p : Pfx) (fs fd bar : Bool) (crc : BitVec 3) (gd gs gn : Reg)
  | chain (t : Thread) (p : Pfx) (ga : Reg)
  | sdone (t : Thread) (p : Pfx) (ga : Reg)
  | sfail (t : Thread) (p : Pfx) (ga : Reg)
  | pwr (t : Thread) (p : Pfx) (unit : Byte) (ga gb : Reg)
  | prd (t : Thread) (p : Pfx) (unit : Byte) (gd ga : Reg)
  | psend (t : Thread) (p : Pfx) (unit : Byte) (ga gb : Reg)
  | psendAt (t : Thread) (p : Pfx) (unit : Byte) (gd ga gb : Reg)
  | precv (t : Thread) (p : Pfx) (unit : Byte) (gd ga gb : Reg)
  | waite (t : Thread) (p : Pfx) (gd ga gb : Reg)
  | waitt (t : Thread) (p : Pfx) (ga : Reg)
  | signal (t : Thread) (p : Pfx) (gd ga gb : Reg)
  | resume (t : Thread) (p : Pfx) (gd ga gb : Reg)
  | yield (t : Thread) (p : Pfx)
  | susp (t : Thread) (p : Pfx)
  | wfi (t : Thread) (p : Pfx)
  | sys (t : Thread) (p : Pfx) (code : Byte)
  | retx (t : Thread) (p : Pfx)
  | brk (t : Thread) (p : Pfx) (code : Byte)
  | mfs (t : Thread) (p : Pfx) (gd : Reg) (x : Byte)
  | mts (t : Thread) (p : Pfx) (x : Byte) (ga : Reg)
  | bar (t : Thread) (p : Pfx)
  | ibar (t : Thread) (p : Pfx) (ga : Reg)
  | nop (t : Thread) (p : Pfx)
  | lck (t : Thread) (p : Pfx) (gd ga : Reg)
  | ulk (t : Thread) (p : Pfx) (gd ga : Reg)
  -- exceptions and scheduling
  | asyncEntry (t : Thread) (k : Nat)
  | runLimit (c : CtxId)
  | quantumExpiry (c : CtxId)
  | preemption (cl : BitVec 6)
  | slotFill (cl : BitVec 6)
  | contextSwitch (cl : BitVec 6)
  | recordLoad (c : CtxId) (found : WordEcc 5)
  | interruptEntry (n : BitVec 2)
  -- Gallery
  | galAccRead (lvl : Lvl)
  | galAccWrite (lvl : Lvl)
  | indirectAccessDone (a : AccPort)
  | alloc (lvl : Lvl) (c : CtxId)
  | release (lvl : Lvl) (c : CtxId)
  | reset (lvl : Lvl) (c : CtxId)
  | halt (lvl : Lvl) (c : CtxId)
  | galCctSyncGo (lvl : Lvl)
  | cctCopyDone
  | galLockCmdBreak (lvl : Lvl) (cell : BitVec 12)
  | engCodeInvGo (lvl : Lvl)
  | codeInvDone
  -- movers
  | moverComplete (o : Owner)
  | channelPreempt (winner victim : Owner) (rd wr : Nat)
  | queryChannel (lvl : Lvl) (c : CtxId)
  | enableChannel (lvl : Lvl) (c : CtxId)
  | disableChannel (lvl : Lvl) (c : CtxId)
  | channelDrainEnd (c : CtxId)
  | stop (lvl : Lvl) (c : CtxId)
  | stopDone (c : CtxId) (rd : Nat)
  | unpause (lvl : Lvl) (c : CtxId)
  | pauseBulk (lvl : Lvl)
  | unpauseBulk (lvl : Lvl)
  -- work queues
  | wqDoorbell (lvl : Lvl) (q : QId)
  | queryQueue (lvl : Lvl) (q : QId)
  | enableQueue (lvl : Lvl) (q : QId)
  | disableQueue (lvl : Lvl) (q : QId)
  | queueDrainEnd (q : QId)
  | wqAccRead (lvl : Lvl)
  | wqAccWrite (lvl : Lvl)
  | wqDsyncGo (lvl : Lvl)
  | wqCopyDone
  | entryFetch (q : QId)
  | pollWaitEnd (q : QId)
  | wqStart (q : QId)
  | wqResume (q : QId)
  | wqSignal (q : QId)
  | wqMove (q : QId)
  | wqHalt (q : QId)
  | queueError (q : QId)
  | coalTimeExpiry (q : QId)
  -- landings
  | landingJudgement
  | landing (fecA fecB : Fec)
  | commit (lvl : Lvl) (seq : Half)
  | cancel (lvl : Lvl)
  | lndSyncRegs (lvl : Lvl)
  | lndSyncAll (lvl : Lvl)
  | lndCopyDone
  | landackDeadline
  | landstage (peer : Byte)
  | landcommit (peer : Byte)
  | landack (peer : Byte)
  | landrevert (peer : Byte)
  -- SCT transport
  | frameReceive (portB : Bool) (f : RxFrame) (fcsGood : Bool) (sec : SecTag)
  | frerReset (stream : BitVec 13)
  | hello
  | helloAck
  | enum
  | enumReply
  | announce
  | read (k : SessKey)
  | readData (k : SessKey)
  | write (k : SessKey)
  | writeAck (k : SessKey)
  | post (k : SessKey)
  | doorbell (k : SessKey)
  | sctResume (k : SessKey)
  | sctSignal (k : SessKey)
  | ballot (peer : Byte)
  | takeover (peer : Byte)
  | sctFault (k : SessKey)
  | keepalive
  | sessionKeepalive
  | nak (k : SessKey)
  | rtoExpiry (k : SessKey)
  | ackHoldoff (k : SessKey)
  | sessionIdle (k : SessKey)
  | sessionQuery (lvl : Lvl) (n : BitVec 6)
  | sessionClose (lvl : Lvl) (n : BitVec 6)
  | expressDispatch (portB : Bool) (f : Frame)
  | expressStatusWrite (cl : BitVec 6) (slot : BitVec 2) (fcsGood : Bool)
  | sendWordStore (c : CtxId) (slot : BitVec 2)
  | releaseWordStore (c : CtxId) (slot : BitVec 2)
  | peerSessionOpen (peer : Byte)
  -- ring ports
  | portEnable (lvl : Lvl) (portB : Bool)
  | portDisable (lvl : Lvl) (portB : Bool)
  | portDrainEnd (portB : Bool)
  | retrain (lvl : Lvl) (portB : Bool)
  | signalDetect (portB : Bool)
  | linkUp (portB : Bool)
  | signalLoss (portB : Bool)
  | linkRetry (portB : Bool)
  | portFrameTransmit (portB : Bool)
  | qbvGateEntry (portB : Bool)
  | streamGateEntry (g : BitVec 6)
  | verifyRetry (portB : Bool) (succeeded : Bool)
  | syncReceive (portB : Bool) (dom1 : Bool) (offset : DWord) (msg : SyncMsg)
  | syncSend (dom1 : Bool)
  | syncLoss (portB : Bool) (dom1 : Bool)
  | pdelayReqSend (portB : Bool)
  | pdelayResponse (portB : Bool) (meas : PdelayMeas)
  | pdelayMiss (portB : Bool)
  | paMrxDoneWrite (lvl : Lvl) (portB : Bool) (v : Half)
  | paMtxSend (lvl : Lvl) (portB : Bool) (ofs : BitVec 18) (len : BitVec 14)
  | mtxDone (portB : Bool)
  | paTacRead (lvl : Lvl) (portB : Bool)
  | paTacWrite (lvl : Lvl) (portB : Bool)
  -- ring management
  | electionClaim
  | enumTmo
  | announceRepeat
  | keepaliveSend
  | stationAbsent (addr : Byte)
  | managerLoss
  | authLoss
  | announceCmd (lvl : Lvl)
  | detach (lvl : Lvl)
  | rmTagsetWrite (lvl : Lvl) (tag : Half)
  | rmPtRead (lvl : Lvl)
  | rmPtWrite (lvl : Lvl)
  | pairSilent (e : BitVec 14)
  -- device ports
  | unitEnable (lvl : Lvl) (u : BitVec 7)
  | unitDisable (lvl : Lvl) (u : BitVec 7)
  | unitDrainEnd (u : BitVec 7)
  | drainTmo (u : BitVec 7)
  | ackAttn (u : BitVec 7)
  | flushRx (u : BitVec 7)
  | flushTx (u : BitVec 7)
  | recover (u : BitVec 7)
  | mdioRd (u : BitVec 7)
  | mdioWr (u : BitVec 7)
  | mdioDone (u : BitVec 7) (phy : Option Half)
  | wakeCmd (u : BitVec 7)
  | setLevel (u : BitVec 7)
  | recordReceive (u : BitVec 7) (r : RxUnit) (e : RxEnd)
  | launchTime (u : BitVec 7)
  | recordTransmit (u : BitVec 7) (d : TxDone)
  | busOffRecovery (u : BitVec 7)
  | plcaLost (u : BitVec 7)
  | mgLinkChange (u : BitVec 7) (up : Bool) (rate : BitVec 2)
  | linHeader (u : BitVec 7) (pid : BitVec 6) (r : RxUnit) (e : RxEnd)
  | noResp (u : BitVec 7) (r : RxUnit)
  | captureEdge (u : BitVec 7) (p : PinEdge)
  | compareEdge (u : BitVec 7)
  | dptTacRead (lvl : Lvl)
  | dptTacWrite (lvl : Lvl)
  -- event controller
  | eventRecordWrite
  | claim (lvl : Lvl) (t : BitVec 5) (g : BitVec 3)
  | eoi (lvl : Lvl) (src : BitVec 11) (t : BitVec 5)
  | claimWindowEnd (src : BitVec 11)
  | modTimeExpiry (t : BitVec 5)
  | eventSend (t : BitVec 5)
  | hold (lvl : Lvl)
  | releaseHold (lvl : Lvl)
  | evtSwset (lvl : Lvl) (idx : BitVec 7) (info : Half)
  | evtTIdle (lvl : Lvl) (t : BitVec 5)
  | evtAccRead (lvl : Lvl)
  | evtAccWrite (lvl : Lvl)
  | wakeMatch (k : BitVec 5)
  | evtWkStsClear (lvl : Lvl) (v : Word)
  -- staircase arbiters
  | arbitrationPhase (k : BitVec 4) (bank : BitVec 6) (req : BitVec 48) (withdrawn : Bool)
  | arbSlotWrite (lvl : Lvl) (k : BitVec 4) (j : BitVec 4) (v : Word)
  | arbQuotaWrite (lvl : Lvl) (k : BitVec 4) (v : Word)
  | quotaWindowEnd (k : BitVec 4)
  | arbDupClear (lvl : Lvl) (v : Word)
  -- memory
  | dramAccessDone (addr : BitVec 48) (wr : Bool) (e : Ecc)
  | correctionWriteback (m : BitVec 4)
  | scrubRead (m : BitVec 4) (found : WordEcc 3)
  | memLogSelWrite (lvl : Lvl) (v : Word)
  | memLogRidxWrite (lvl : Lvl) (v : Word)
  | memRetSelWrite (lvl : Lvl) (v : Word)
  | remove (lvl : Lvl) (page : BitVec 23)
  | retireDone
  | memGrowCmdGo (lvl : Lvl) (c : CtxId)
  | rowRetireDone (found : WordEcc 5)
  | trackingStep (i : Bool) (temp : Byte)
  | retrain0 (lvl : Lvl)
  | retrain1 (lvl : Lvl)
  | retrainDone (i : Bool) (good : Bool)
  -- fault collector
  | faultLatch (src : BitVec 9) (det : FaultDet)
  | fltForce (lvl : Lvl) (src : BitVec 9)
  | fltNmtAck (lvl : Lvl) (v : Word)
  | fltLock (lvl : Lvl) (v : Word)
  | fltStkClear (lvl : Lvl) (w : BitVec 4) (v : Word)
  | fltWdKick (lvl : Lvl) (n : BitVec 2)
  | watchdogTimeout (n : BitVec 2)
  | safestateAssert
  | safestateRelease
  | vddCorePowerLoss
  -- start-up
  | porstN (straps : BitVec 4)
  | sysrstN
  | glbRstCmd (lvl : Lvl) (key : Word)
  | bootDone
  | bootUpdCmdGo (lvl : Lvl) (slotB : Bool) (recovery : Bool)
  | updateDone (flashGood : Bool)
  | program (lvl : Lvl) (k : BitVec 2)
  | revoke (lvl : Lvl) (k : BitVec 2)
  | fuseSecure (lvl : Lvl)
  | standby (lvl : Lvl)
  | off (lvl : Lvl)
  | resumeFromStandby
  | supplyValid
  | supplyTimeout
  | memRetCmdAdd (lvl : Lvl) (page : BitVec 23)
  | illegalInstruction (t : Thread) (p : Pfx) (w : Word)
  | instructionFetchFault (t : Thread) (word : BitVec 2)
  | devicePortBusDone (o : Owner)
  | storeBufferDrain (t : Thread) (i : BitVec 3)
  | gallerySaveDone (cl : BitVec 6)
  | instructionCacheFill (cl : BitVec 6) (l : CodeLine)
  | wakeInLevelChange (i : BitVec 2) (level : Bool)
  | plcaBeaconReturn (u : BitVec 7) (nodeCnt : Byte)
  | slewComplete
  | referenceClockReturn (refB : Bool)
deriving DecidableEq, Repr

end Sys2Proof
end

