-- ==== Sys2Proof/Decode.lean ====
section
/-! DEFINITION. The words of commands: spec/opcode_table.json gives no row any bits, so no word spells a command (assumption log 1). -/
namespace Sys2Proof

/-- The command that a word of the opcode table spells: none, since no row of the table has bits.
DESIGN CHOICE, safe (log 1). -/
def decodeTableWord (_nbits _w : Nat) : Option Instr := none

end Sys2Proof
end

