-- ==== Sys2Proof/Config.lean ====
section
/-! DEFINITION. What one implementation fixes, and the values that the manual leaves open. -/
namespace Sys2Proof.Config

/-- A byte whose value the manual leaves undefined (R212, R229, R448, R180), one per count; assumption log 3.
DESIGN CHOICE, safe (log 3). -/
opaque freeByte : Nat → Byte
/-- What a byte of memory holds after a reset that leaves it undefined (R454, R474), by the number of such resets and the byte; log 3.
DESIGN CHOICE, safe (log 3). -/
opaque memByte : Nat → Nat → Byte
/-- A 64-bit value that the manual leaves undefined (R180), one per count; assumption log 3.
DESIGN CHOICE, safe (log 3). -/
opaque freeDWord : Nat → DWord
/-- Which line of a full set of the Orchard or of an instruction cache gives way to a new one (R191 states no rule), one per fill; assumption log 14. -/
opaque victim : Nat → Nat
/-- Whether an ECDSA P-384 signature verifies (R488): public key, signed bytes, signature; assumption log 40.
DESIGN CHOICE, safe (log 40). -/
opaque ecdsaVerifies : List Byte → List Byte → List Byte → Bool
/-- The SHA-384 digest of a byte string (R488); assumption log 40.
DESIGN CHOICE, safe (log 40). -/
opaque sha384 : List Byte → List Byte

end Sys2Proof.Config
end

