-- ==== Sys2Proof/Machine/Bits.lean ====
section
/-! DEFINITION. Bit fields, byte orders and the CRC algorithms of R36 and R363. -/
namespace Sys2Proof.Machine

/-- The w-bit field at bit lo, as a number. -/
def fld {n : Nat} (v : BitVec n) (lo w : Nat) : Nat := (v.toNat >>> lo) % 2 ^ w
/-- Bit i. -/
def bit {n : Nat} (v : BitVec n) (i : Nat) : Bool := v.getLsbD i
/-- 1 for true. -/
def b2n (b : Bool) : Nat := if b then 1 else 0
/-- v with the w-bit field at bit lo replaced by x. -/
def setFld {n : Nat} (v : BitVec n) (lo w x : Nat) : BitVec n :=
  let m : BitVec n := BitVec.ofNat n ((2 ^ w - 1) <<< lo)
  (v &&& ~~~m) ||| (BitVec.ofNat n ((x % 2 ^ w) <<< lo))
/-- n little-endian bytes of v. -/
def leBytes : Nat → Nat → List Byte
  | 0, _ => []
  | n + 1, v => BitVec.ofNat 8 v :: leBytes n (v / 256)
/-- The little-endian value of bytes. -/
def leNat : List Byte → Nat
  | [] => 0
  | b :: bs => b.toNat + 256 * leNat bs
/-- The big-endian value of bytes (R282). -/
def beNat (bs : List Byte) : Nat := bs.foldl (fun a b => a * 256 + b.toNat) 0
/-- n big-endian bytes of v (R282). -/
def beBytes (n v : Nat) : List Byte := (leBytes n v).reverse
/-- n bytes of bs from offset o; bytes beyond the end read 0. -/
def slice (bs : List Byte) (o n : Nat) : List Byte :=
  let x := (bs.drop o).take n
  x ++ List.replicate (n - x.length) 0
/-- Byte o of bs; 0 beyond the end. -/
def byteAt (bs : List Byte) (o : Nat) : Byte := bs.getD o 0
/-- bs padded with zeros to a multiple of n (R373). -/
def padTo (n : Nat) (bs : List Byte) : List Byte := bs ++ List.replicate ((n - bs.length % n) % n) 0
/-- The smaller of x + k and 2^32 − 1: a saturating 32-bit counter. -/
def satAdd (x : Word) (k : Nat) : Word := BitVec.ofNat 32 (Nat.min (x.toNat + k) 0xFFFF_FFFF)

/-- n steps of a bit-serial reflected CRC register. -/
def crcRefl (poly : Nat) : Nat → Nat → Nat
  | 0, r => r
  | n + 1, r => crcRefl poly n (if r % 2 = 1 then (r / 2) ^^^ poly else r / 2)
/-- n steps of a bit-serial CRC register of width w, most significant bit first. -/
def crcFwd (w poly : Nat) : Nat → Nat → Nat
  | 0, r => r
  | n + 1, r => crcFwd w poly n (if r / 2 ^ (w - 1) % 2 = 1 then ((2 * r) % 2 ^ w) ^^^ poly else (2 * r) % 2 ^ w)
/-- The initial register of a CRCSEL (R36). -/
def crcInit (sel : BitVec 3) : Nat :=
  match sel.toNat with
  | 1 => 0xFFFF_FFFF | 2 => 0xFFFF_FFFF | 3 => 0xFFFF | 4 => 0xFF | _ => 0
/-- The final XOR of a CRCSEL (R36). -/
def crcXor (sel : BitVec 3) : Nat :=
  match sel.toNat with
  | 1 => 0xFFFF_FFFF | 2 => 0xFFFF_FFFF | 4 => 0xFF | _ => 0
/-- The register after one more byte (R36); reflected algorithms use the reversed polynomial. -/
def crcByte (sel : BitVec 3) (r : Nat) (b : Byte) : Nat :=
  match sel.toNat with
  | 1 => crcRefl 0x82F6_3B78 8 (r ^^^ b.toNat)
  | 2 => crcRefl 0xEDB8_8320 8 (r ^^^ b.toNat)
  | 3 => crcFwd 16 0x1021 8 (r ^^^ (b.toNat * 256))
  | 4 => crcFwd 8 0x1D 8 (r ^^^ b.toNat)
  | _ => 0
/-- The register after bytes. -/
def crcFold (sel : BitVec 3) (r : Nat) (bs : List Byte) : Nat := bs.foldl (crcByte sel) r
/-- The finished CRC of a byte string (R36). -/
def crcOf (sel : BitVec 3) (bs : List Byte) : Nat := crcFold sel (crcInit sel) bs ^^^ crcXor sel
/-- A finished CRC continued over more bytes (R123). -/
def crcContinue (sel : BitVec 3) (fin : Nat) (bs : List Byte) : Nat := crcFold sel (fin ^^^ crcXor sel) bs ^^^ crcXor sel
/-- CRC-32C of bytes (R36, R237, R481). -/
def crc32c (bs : List Byte) : Nat := crcOf 1 bs
/-- The CRC-64/XZ register after bytes (R363). -/
def crc64Fold (r : Nat) (bs : List Byte) : Nat :=
  bs.foldl (fun r b => crcRefl 0xC96C_5795_D787_0F42 8 (r ^^^ b.toNat)) r

end Sys2Proof.Machine
end

