-- ==== Sys2Proof/Machine/RegMap.lean ====
section
/-! DEFINITION. The register map: every register table of the manual as rows (R3 to R7, R30), and the named addresses. -/
namespace Sys2Proof.Machine

/-- The access codes (R3). -/
inductive Acc where
  | rw | ro | rc | w1c | w1s | wo
deriving DecidableEq, Repr

/-- A defined field: lowest bit, width, the ranges of its defined encodings (none listed: all), and whether it is read only. dep lists
(k, a, b) where the defined encodings are a to b while bits [3:0] of the register hold k (R424). -/
structure Fld where
  lo : Nat
  w : Nat
  ok : List (Nat × Nat) := []
  ro : Bool := false
  dep : List (Nat × Nat × Nat) := []
deriving DecidableEq, Repr

/-- A register row: address, stride and count, a second stride and count inside it, access, LS (true) or IM, the reset value and
the defined fields by index (index = i × n2 + j). -/
structure Row where
  addr : Nat
  st : Nat := 4
  n : Nat := 1
  st2 : Nat := 4
  n2 : Nat := 1
  acc : Acc
  ls : Bool
  reset : Nat → Nat := fun _ => 0
  flds : Nat → List Fld := fun _ => []

/-- A field whose every encoding is defined. -/
def F (lo w : Nat) : Fld := { lo := lo, w := w }
/-- A field with defined encodings a to b. -/
def FR (lo w a b : Nat) : Fld := { lo := lo, w := w, ok := [(a, b)] }
/-- A staged setting (RW, LS). -/
def ls (addr reset : Nat) (f : List Fld) : Row := { addr := addr, acc := .rw, ls := true, reset := fun _ => reset, flds := fun _ => f }
/-- An operand register (RW, IM). -/
def im (addr : Nat) (f : List Fld) : Row := { addr := addr, acc := .rw, ls := false, flds := fun _ => f }
/-- All 32 bits. -/
def all32 : List Fld := [F 0 32]
/-- A status register (RO) with its defined fields. -/
def ro (addr : Nat) (f : List Fld := all32) : Row := { addr := addr, acc := .ro, ls := false, flds := fun _ => f }
/-- A counter that a read clears (RC) with its defined fields. -/
def rc (addr : Nat) (f : List Fld := all32) : Row := { addr := addr, acc := .rc, ls := false, flds := fun _ => f }
/-- A command register (WO). -/
def wo (addr : Nat) (f : List Fld) : Row := { addr := addr, acc := .wo, ls := false, flds := fun _ => f }
/-- The row repeated n times at a stride. -/
def Row.rep (r : Row) (st n : Nat) : Row := { r with st := st, n := n }

/-- The defined fault sources (R470): first number, last number, class, default REACT (IRQ 1, NMT 2, BLKRST 4, CHIPRST 8, PIN 16). -/
def faultTable : List (Nat × Nat × Nat × Nat) :=
  [(0x000, 0x020, 2, 2), (0x040, 0x043, 2, 2), (0x044, 0x047, 2, 2), (0x048, 0x04B, 2, 2), (0x04C, 0x04F, 2, 4), (0x050, 0x050, 2, 2),
   (0x060, 0x060, 1, 1), (0x061, 0x061, 3, 24), (0x062, 0x062, 2, 2), (0x080, 0x080, 1, 1), (0x081, 0x081, 1, 1), (0x082, 0x082, 1, 1),
   (0x083, 0x083, 2, 2), (0x084, 0x084, 1, 1), (0x085, 0x085, 1, 1), (0x0A0, 0x0A1, 3, 24), (0x0A2, 0x0A4, 2, 2), (0x0A5, 0x0A6, 1, 1),
   (0x0A7, 0x0A8, 1, 1), (0x0A9, 0x0A9, 2, 2), (0x0AA, 0x0AA, 3, 24), (0x0C0, 0x0C1, 3, 24), (0x0C2, 0x0C5, 2, 2), (0x0C6, 0x0C6, 3, 24),
   (0x0E0, 0x0E0, 1, 1), (0x0E1, 0x0E1, 2, 2), (0x0E2, 0x0E2, 4, 0), (0x0F0, 0x0F0, 2, 2), (0x0F1, 0x0F1, 3, 24)]
/-- The class and default REACT of fault source n, none when it is reserved (R470). -/
def faultSrc (n : Nat) : Option (Nat × Nat) :=
  (faultTable.find? fun r => decide (r.1 ≤ n ∧ n ≤ r.2.1)).map fun r => r.2.2
/-- Whether a unit number exists (R39, R373). -/
def unitOk (u : Nat) : Bool := decide (u ≤ 0x1B ∨ (0x20 ≤ u ∧ u ≤ 0x3B) ∨ (0x40 ≤ u ∧ u ≤ 0x6F))
/-- The port class of a unit (R373): CAN 0, T1S 1, MG 2, CSI 3, SPI 4, SENT 5, LIN 6, TMR 7. -/
def unitClass (u : Nat) : Nat :=
  if u ≤ 0x0F then 0 else if u ≤ 0x17 then 1 else if u ≤ 0x1B then 2 else if u ≤ 0x27 then 3 else if u ≤ 0x2F then 4
  else if u ≤ 0x37 then 5 else if u ≤ 0x3B then 6 else 7

/-- The class settings CFG0 to CFG3 (R402). -/
def cfgFlds (cls i : Nat) : List Fld :=
  match cls, i with
  | 0, 3 => [F 0 8, F 8 6, F 16 6, F 24 6]
  | 0, _ => [F 0 8, F 8 8, F 16 7, F 24 7]
  | 1, 0 => [F 0 1, F 8 8, F 16 8, F 24 8]
  | 1, 1 => [F 0 8, F 8 8, F 16 1, F 17 1]
  | 1, 2 => all32
  | 1, _ => [F 0 16]
  | 2, 0 => [F 0 2, F 2 14, F 16 1, F 17 1]
  | 2, 2 => all32
  | 2, 3 => [F 0 16]
  | 3, 0 => [F 0 2, F 2 1, F 4 4, F 8 1]
  | 3, 1 => all32
  | 3, 2 => all32
  | 4, 0 => [F 0 8, F 8 1, F 9 1, F 10 1, F 11 2]
  | 4, 1 => [F 0 8, F 8 8, F 16 8]
  | 5, 0 => [F 0 14, F 14 3, F 17 1, F 18 1, F 19 2]
  | 6, 0 => [F 0 1, F 1 18, F 19 4]
  | 6, 1 => all32
  | 6, 2 => all32
  | 7, 0 => [F 0 2, F 2 2, F 4 8, FR 12 2 0 2, F 14 1]
  | _, _ => []

/-- GLB (R19, R496). -/
def rowsGlb : List Row :=
  [ro 0x0000 [F 0 8, F 16 16], ro 0x0004, ro 0x0008 [F 0 10], ro 0x000C [F 0 5, F 8 4, F 16 8], ro 0x0010 [F 0 16], ro 0x0014, ro 0x0018,
   ls 0x0020 0 [FR 0 3 0 3], ro 0x0024 [F 0 6], ro 0x0028 [F 0 4], ro 0x002C [F 0 5],
   { addr := 0x0030, acc := .w1c, ls := false, flds := fun _ => [F 0 1] },
   wo 0x0034 [FR 0 2 0 2], wo 0x0038 all32]
/-- BOOT (R497). -/
def rowsBoot : List Row :=
  [ro 0x0000 [F 0 3, F 4 5], ro 0x0004, ro 0x0008 [F 0 8], ro 0x000C, im 0x0010 all32, im 0x0014 [F 0 16], im 0x0018 all32,
   wo 0x001C [F 0 1, F 1 1, F 31 1], ro 0x0020 [F 0 4], wo 0x0030 [F 0 2, F 2 2], ro 0x0034 [F 0 9], (im 0x0040 all32).rep 4 12]
/-- CLK (R498). -/
def rowsClk : List Row := [ls 0x0000 0 [FR 0 2 0 2], ls 0x0004 0 [F 0 8], ro 0x0008 [F 0 8]]
/-- TIME (R280). -/
def rowsTime : List Row :=
  [ls 0x0000 0 [F 0 1, F 1 1], ro 0x0004 [F 0 4], ls 0x0008 0x1F4 [FR 0 20 50 1000000],
   ro 0x0010, ro 0x0014, ro 0x0018 [F 0 30], ro 0x001C, ro 0x0020 [F 0 16], rc 0x0030, ro 0x0034,
   ls 0x0040 0xF4240 [FR 0 27 25000 100000000], ls 0x0044 0 all32, ls 0x0048 0 all32,
   ro 0x0050, ro 0x0054, ro 0x0058, ro 0x005C, ls 0x0060 0x2710 [FR 0 26 2000 50000000],
   im 0x0064 all32, wo 0x0068 [F 0 16, FR 16 2 0 2], ro 0x006C, ro 0x0070 [F 0 15, F 16 16], ro 0x0074, rc 0x0078 [F 0 16], rc 0x007C [F 0 16],
   wo 0x0080 [F 0 1, F 1 1], ro 0x0084 [F 0 1], ro 0x0088]
/-- PA and PB (R336). -/
def rowsPort : List Row :=
  [ls 0x0000 0x240040 [FR 0 3 0 2, FR 3 2 0 1, F 5 1, F 6 1, FR 8 14 64 9216], wo 0x0004 [FR 0 2 0 2, F 2 1], ro 0x0008 [F 0 9],
   ls 0x0010 0x14186A0 [F 0 20, FR 20 4 1 15, F 24 8], ro 0x0014, rc 0x0018, rc 0x001C, ls 0x0020 0 all32,
   ls 0x0030 0x10010 [F 0 2, F 2 2, F 4 1, F 8 7, F 16 7], ls 0x0034 0x1388 [F 0 27], ro 0x0038 [F 0 28], ro 0x003C [F 0 5, F 8 8],
   ls 0x0050 2 [F 0 1, FR 1 11 1 1024], ls 0x0054 0 [F 0 27],
   { addr := 0x0060, n := 8, acc := .rw, ls := true, reset := fun q => if q = 7 then 0x1C4000 else 0x1C0000,
     flds := fun _ => [{ lo := 0, w := 14, ok := [(0, 0), (64, 9216)] }, F 14 1, FR 16 8 1 255] },
   ls 0x0080 0xFAC688 [F 0 27], ls 0x0084 0x7C001 [F 0 19], ls 0x0088 0xA3 [F 0 1, F 1 1, F 2 2, FR 4 8 1 128], ro 0x008C [F 0 4],
   ls 0x0090 0x4A6 [F 0 1, F 1 1, F 2 1, FR 3 2 0 2, F 5 1, FR 6 2 0 2, F 8 2, F 10 1], ls 0x0094 0 all32,
   im 0x00A0 [F 0 12, FR 12 4 0 6, F 16 4, F 20 1], im 0x00A4 all32, im 0x00A8 all32, wo 0x00AC [FR 0 2 0 2], ro 0x00B0 [F 0 2],
   ls 0x00C0 0 [F 0 12, FR 12 4 0 8], ro 0x00C4 [F 0 16], wo 0x00C8 [F 0 16], wo 0x00CC [F 0 18, FR 18 14 60 9212], ro 0x00D0 [F 0 2],
   (rc 0x0100).rep 4 22]
/-- SCT (R305) and ring management (R371). -/
def rowsSct : List Row :=
  [ls 0x0000 0x102288B5 [FR 0 16 0x600 0xFFFF, { lo := 16, w := 8, ok := [(0x10, 0x11), (0x20, 0x22)] },
     { lo := 24, w := 8, ok := [(0x10, 0x11), (0x20, 0x22)] }],
   ls 0x0004 0x54430001 all32, ls 0x0008 0x353 [F 0 16], ls 0x000C 0x40 [FR 0 8 1 255], ls 0x0010 0x820 [FR 0 7 1 64, FR 8 4 1 15],
   ls 0x0014 0x3E8 [FR 0 16 1 65535], ls 0x0018 0xA00008 [FR 0 6 1 63, FR 16 16 1 65535], ls 0x001C 0x7530 [FR 0 24 100 16777215],
   ls 0x0020 0xFFFFFFFF all32, ls 0x0024 0xFFFFFFFF all32, ls 0x0028 0 [F 0 1], wo 0x0030 [F 0 6, FR 8 2 0 1], ro 0x0034 [F 0 31], ro 0x0038, ro 0x003C,
   rc 0x0040, rc 0x0044, rc 0x0048, rc 0x004C, rc 0x0050, rc 0x0054, rc 0x0058, rc 0x005C, rc 0x0060, rc 0x0064, rc 0x0068,
   { addr := 0x0100, st := 8, n := 64, n2 := 2, acc := .rw, ls := true,
     flds := fun i => if i % 2 = 0 then [F 0 16, F 16 8, F 31 1] else [F 0 18, F 18 5] },
   ls 0x0400 0x140A00 [F 0 8, FR 8 8 3 255, FR 16 8 1 255], ls 0x0404 0x1388 [F 0 27], ro 0x0410 [F 0 20, F 24 8], ro 0x0414, ro 0x0418, ro 0x0420, ro 0x0424 [F 0 24],
   wo 0x0430 [FR 0 2 0 2], wo 0x0434 [F 0 16], im 0x0450 [F 0 14], im 0x0454 [F 0 2, F 2 1], im 0x0458 all32, im 0x045C all32,
   wo 0x0460 [FR 0 2 0 2], ro 0x0464 [F 0 2], rc 0x0470, rc 0x0474, rc 0x0478, rc 0x047C, (ro 0x0500 [F 0 20]).rep 4 56]
/-- ENG (R73, R167, R204). -/
def rowsEng : List Row :=
  [(ro 0x0000 [F 0 16]).rep 4 33, ro 0x0090 [F 0 3, F 8 6], ls 0x00A0 0x4000 [F 0 24],
   { addr := 0x0100, st := 8, n := 8, n2 := 2, acc := .rw, ls := true,
     flds := fun i => if i % 2 = 0 then [F 0 1, F 11 21] else [F 0 16] },
   ls 0x0200 0 all32, ls 0x0210 0 [F 0 18, F 18 1, F 19 1, F 20 1, F 21 1, F 31 1], ls 0x0214 0 [F 3 29], ls 0x0218 0 [F 0 16],
   ls 0x021C 0 [F 3 29], ls 0x0300 0 [FR 0 9 0 192], wo 0x0304 [F 0 1], ro 0x0308 [F 0 1], rc 0x0310]
/-- GAL (R203). -/
def rowsGal : List Row :=
  [im 0x0000 [F 0 18], im 0x0004 [F 3 5, F 8 2], im 0x0008 all32, im 0x000C all32, wo 0x0010 [FR 0 2 0 2], ro 0x0014 [F 0 3],
   wo 0x0020 [F 0 18, FR 24 3 1 4], ro 0x0024 [F 0 23], wo 0x0030 [F 0 1], ro 0x0034 [F 0 1], ro 0x0040 [F 0 19], ro 0x0044 [F 0 19], wo 0x0050 [F 0 12, F 31 1], rc 0x0054 [F 0 16],
   (ro 0x4000).rep 4 4096]
/-- MOV (R232). -/
def rowsMov : List Row :=
  [wo 0x0000 [F 0 1, F 1 1], ro 0x0004 [F 0 13, F 16 7, F 31 1], ls 0x0008 0x18 [F 0 5], wo 0x0010 [F 0 18, FR 20 3 0 4], ro 0x0014 [F 0 27], rc 0x0020, rc 0x0024, rc 0x0028,
   { addr := 0x0108, st := 8, n := 31, acc := .rw, ls := true, reset := fun _ => 0x3F0100, flds := fun _ => [FR 0 9 0 256, F 16 6] },
   (ro 0x010C [F 0 15]).rep 8 31,
   { addr := 0x0200, n := 28, acc := .rw, ls := true,
     flds := fun k => if k = 7 ∨ k = 15 then [] else [F 0 5, F 8 5, F 16 5, F 24 5] }]
/-- WQ (R256). -/
def rowsWq : List Row :=
  [wo 0x0000 [F 0 12], wo 0x0004 [F 0 12, FR 12 2 0 2], ro 0x0008 [F 0 16], im 0x0010 [F 0 12], im 0x0014 [F 0 3, F 3 1], im 0x0018 all32,
   im 0x001C all32, wo 0x0020 [FR 0 2 0 2], ro 0x0024 [F 0 2], wo 0x0030 [F 0 1], ro 0x0034 [F 0 1], ro 0x0040, ro 0x0044, rc 0x0048, rc 0x004C, ro 0x0050 [F 0 12, F 16 4]]
/-- EVT (R423, R424). -/
def rowsEvt : List Row :=
  [ls 0x0000 3 [FR 0 2 1 3], ls 0x0004 0x64 [F 0 16], wo 0x0010 [F 0 1, F 1 1], ro 0x0014 [F 0 13], wo 0x0018 [F 0 7, F 16 16],
   wo 0x0020 [F 0 11, F 16 5], im 0x0030 [F 0 11], im 0x0034 [F 0 1, F 1 1], im 0x0038 all32, wo 0x003C [FR 0 2 0 2], ro 0x0040 [F 0 2],
   rc 0x0050, rc 0x0054, rc 0x0058,
   { addr := 0x0100, st := 0x40, n := 20, acc := .rw, ls := true, reset := fun _ => 0x40, flds := fun _ => [F 0 1, FR 4 4 4 10, F 8 6, F 16 12] },
   (ls 0x0104 0 [F 0 8, F 16 16]).rep 0x40 20, (ro 0x0108 [F 0 11, F 16 8]).rep 0x40 20, (wo 0x010C [F 0 1]).rep 0x40 20,
   { addr := 0x0120, st := 0x40, n := 20, n2 := 8, acc := .rc, ls := false, flds := fun _ => [F 0 14, F 16 10] },
   (ls 0x0800 0 [{ lo := 4, w := 4, dep := [(2, 0, 3), (3, 0, 1), (4, 0, 0)] }, FR 8 3 0 4, F 11 1,
     { lo := 12, w := 20, dep := [(4, 1, 0xFFFFF)] }, FR 0 4 0 4]).rep 4 32,
   ls 0x0880 0x10002 [FR 0 8 1 255, FR 16 4 1 10], { addr := 0x0884, acc := .w1c, ls := false, flds := fun _ => [F 0 5, F 5 1] }]
/-- ARB (R436). -/
def rowsArb : List Row :=
  [{ addr := 0x0000, st := 0x80, n := 9, n2 := 12, acc := .rw, ls := false, reset := fun i => 0x03020100 + 0x04040404 * (i % 12),
     flds := fun _ => [F 0 6, F 8 6, F 16 6, F 24 6] },
   { addr := 0x0030, st := 0x80, n := 9, acc := .rw, ls := false, reset := fun _ => 0x04000020, flds := fun _ => [F 0 6, F 8 8, FR 16 16 1 65535] },
   (ro 0x0038 [F 0 19]).rep 0x80 9, (rc 0x003C).rep 0x80 9, (rc 0x0040).rep 0x80 9,
   { addr := 0x0480, acc := .w1c, ls := false, flds := fun _ => [F 0 9] }]
/-- MEM (R455). -/
def rowsMem : List Row :=
  [ls 0x0000 6 [FR 0 2 0 2, F 2 1, F 3 1], ls 0x0004 0x40 [F 0 16], ls 0x0008 0x37F [F 0 7, F 8 2], wo 0x0010 [F 0 1, F 1 1], ro 0x0014 [F 0 5, F 8 5, F 16 3], ro 0x0018,
   rc 0x0020, rc 0x0024, rc 0x0028, rc 0x002C, ro 0x0030 [F 0 16], im 0x0034 [F 0 16], rc 0x0038, rc 0x003C, im 0x0040 [F 0 8], (ro 0x0044).rep 4 4,
   wo 0x0060 [F 0 23, FR 24 2 0 2], ro 0x0064 [F 0 24], im 0x0068 [F 0 10, F 10 1], ro 0x006C [F 0 23, F 31 1], wo 0x0070 [F 0 18, F 31 1], ro 0x0074 [F 0 11],
   (ro 0x0100).rep 4 7, (ro 0x0120).rep 4 2, (ro 0x0200 [F 0 7, F 8 7, F 16 7, F 24 7]).rep 4 16]
/-- FLT (R473). -/
def rowsFlt : List Row :=
  [ls 0x0000 0x20 [F 0 2, { lo := 4, w := 3, ok := [(0, 2), (7, 7)] }, F 8 1], ro 0x0004 [F 0 7, F 8 3], wo 0x0008 [F 0 9, F 31 1], wo 0x000C [F 0 1],
   { addr := 0x0010, acc := .w1s, ls := false, flds := fun _ => [F 0 1] }, ro 0x0014 [F 0 3, F 16 9], rc 0x0018,
   (ls 0x0020 0 [F 0 16, F 16 16]).rep 8 4, (wo 0x0024 [F 0 1]).rep 8 4,
   { addr := 0x0100, n := 12, acc := .w1c, ls := false, flds := fun _ => all32 },
   { addr := 0x1000, n := 384, acc := .rw, ls := true,
     reset := fun n => match faultSrc n with | some (c, r) => r + c * 0x100 + 0x80000000 | none => 0,
     flds := fun n => if (faultSrc n).isSome then [F 0 5, { lo := 8, w := 3, ro := true }, { lo := 31, w := 1, ro := true }] else [] }]
/-- The counters that a class has (R403). -/
def cntNum (cls : Nat) : Nat :=
  match cls with
  | 0 => 8 | 1 => 8 | 2 => 6 | 3 => 8 | 4 => 4 | 5 => 5 | 6 => 7 | _ => 5
/-- DPT (R401). -/
def rowsDpt : List Row :=
  [ls 0x0000 0x2710 [F 0 20], im 0x0010 [F 0 8, FR 8 4 0 0, F 12 1], im 0x0014 all32, im 0x0018 all32, wo 0x001C [FR 0 2 0 2], ro 0x0020 [F 0 2],
   (ls 0x1000 0 [FR 0 2 0 1, F 2 1]).rep 0x40 112, (wo 0x1004 [FR 0 2 0 2]).rep 0x40 112, (ro 0x1008 [F 0 10, F 16 11]).rep 0x40 112,
   { addr := 0x1010, st := 0x40, n := 112, n2 := 4, acc := .rw, ls := true, flds := fun i => cfgFlds (unitClass (i / 4)) (i % 4) },
   { addr := 0x1020, st := 0x40, n := 112, n2 := 8, acc := .rc, ls := false
     flds := fun i => if i % 8 < cntNum (unitClass (i / 8)) then [F 0 32] else [] }]
/-- MPC (R168). -/
def rowsMpc : List Row :=
  [(ls 0x0000 0 [F 7 11]).rep 0x100 4, (ls 0x0004 0 [F 7 11]).rep 0x100 4, (ls 0x0008 0 [F 7 11]).rep 0x100 4, (ro 0x000C [F 7 11]).rep 0x100 4,
   (ls 0x0010 0 [F 0 8]).rep 0x100 4, (ro 0x0014 [F 0 9]).rep 0x100 4, (ro 0x0018 [F 0 8]).rep 0x100 4, (ro 0x001C [F 0 4]).rep 0x100 4]

/-- The rows of a register block (R30). -/
def blockRows (blk : Nat) : List Row :=
  match blk with
  | 0x0 => rowsGlb | 0x1 => rowsBoot | 0x2 => rowsClk | 0x3 => rowsTime | 0x4 => rowsPort | 0x5 => rowsPort | 0x6 => rowsSct
  | 0x7 => rowsEng | 0x8 => rowsGal | 0x9 => rowsMov | 0xA => rowsWq | 0xB => rowsEvt | 0xC => rowsArb | 0xD => rowsMem | 0xE => rowsFlt
  | 0xF => rowsDpt | 0x10 => rowsMpc | _ => []

/-- The index of an offset in a row, none when the row does not hold it. -/
def Row.index (r : Row) (off : Nat) : Option Nat :=
  if off < r.addr then none else
    let d := off - r.addr
    let i := if r.n = 1 then 0 else d / r.st
    let e := d - i * r.st
    let j := if r.n2 = 1 then 0 else e / r.st2
    if i < r.n ∧ j < r.n2 ∧ e = j * r.st2 then some (i * r.n2 + j) else none

/-- The first row of a list that holds an offset, with its index. -/
def findIn : List Row → Nat → Option (Row × Nat)
  | [], _ => none
  | r :: rs, off => match r.index off with | some i => some (r, i) | none => findIn rs off

/-- The register at an address: its row and index, none where no register lies (R28); unit offsets need a unit (R401). -/
def regAt (addr : Nat) : Option (Row × Nat) :=
  let blk := addr / 0x10000
  let off := addr % 0x10000
  if blk = 0xF ∧ 0x1000 ≤ off ∧ !unitOk ((off - 0x1000) / 0x40) then none else findIn (blockRows blk) off

/-- The reset value of the register at an address; 0 where no register lies. -/
def resetOf (addr : Nat) : Word :=
  match regAt addr with | some (r, i) => BitVec.ofNat 32 (r.reset i) | none => 0

/-- Whether an encoding of a field is defined. -/
def Fld.valid (f : Fld) (x : Nat) : Bool := f.ok.isEmpty || f.ok.any fun r => decide (r.1 ≤ x ∧ x ≤ r.2)

/-- Whether a field takes an encoding when the fields after it in its list have given the register the value o. -/
def Fld.takes (f : Fld) (o : Word) (x : Nat) : Bool :=
  f.valid x && f.dep.all fun r => decide (fld o 0 4 ≠ r.1 ∨ (r.2.1 ≤ x ∧ x ≤ r.2.2))

/-- A written value taken field by field (R5), the last field of the list first: a defined encoding replaces the field, a reserved one keeps
it, and so does a field that is read only (R3); the flag tells whether a reserved encoding, or a 1 in a reserved bit, was written. -/
def mergeFlds (old v : Word) : List Fld → Word × Bool × Nat
  | [] => (old, false, 0)
  | f :: fs =>
    let (o, bad, m) := mergeFlds old v fs
    let x := fld v f.lo f.w
    let m' := m + (2 ^ f.w - 1) * 2 ^ f.lo
    if f.ro then (o, bad, m') else if f.takes o x then (setFld o f.lo f.w x, bad, m') else (o, true, m')
/-- The new value of a register and the reserved-write flag (R5). -/
def mergeReg (old v : Word) (fs : List Fld) : Word × Bool :=
  let (o, bad, m) := mergeFlds old v fs
  (o, bad || decide (v &&& ~~~(BitVec.ofNat 32 m) ≠ 0))

/-! Addresses of registers that the meanings use (R30). -/
/-- GLB_PROFILE -/ def aPROFILE : Nat := 0x000020
/-- MEM_CFG -/ def aMEMCFG : Nat := 0x0D0000
/-- TIME_CFG -/ def aTIMECFG : Nat := 0x030000
/-- TIME_STEP_THR -/ def aSTEPTHR : Nat := 0x030008
/-- TIME_STEP_CNT -/ def aSTEPCNT : Nat := 0x030030
/-- TIME_LAST_STEP -/ def aLASTSTEP : Nat := 0x030034
/-- FLT_PERIOD -/ def aPERIOD : Nat := 0x030040
/-- FLT_EPOCH_LO -/ def aEPOCHLO : Nat := 0x030044
/-- FLT_EPOCH_HI -/ def aEPOCHHI : Nat := 0x030048
/-- LND_GUARD -/ def aGUARD : Nat := 0x030060
/-- LND_COMMIT_TGT -/ def aTGT : Nat := 0x030064
/-- LND_MISS -/ def aMISS : Nat := 0x030078
/-- LND_SKIP -/ def aSKIP : Nat := 0x03007C
/-- LND_LAST_MISS -/ def aLASTMISS : Nat := 0x030088
/-- The base of a ring port's block: PA or PB -/ def aPort (b : Bool) : Nat := if b then 0x050000 else 0x040000
/-- Counter PA_CNT_k or PB_CNT_k (R337) -/ def aPCnt (b : Bool) (k : Nat) : Nat := aPort b + 0x100 + 4 * k
/-- SCT block -/ def aSCT : Nat := 0x060000
/-- ENG block -/ def aENG : Nat := 0x070000
/-- GAL block -/ def aGAL : Nat := 0x080000
/-- MOV block -/ def aMOV : Nat := 0x090000
/-- WQ block -/ def aWQ : Nat := 0x0A0000
/-- EVT block -/ def aEVT : Nat := 0x0B0000
/-- ARB block -/ def aARB : Nat := 0x0C0000
/-- MEM block -/ def aMEM : Nat := 0x0D0000
/-- FLT block -/ def aFLT : Nat := 0x0E0000
/-- DPT block -/ def aDPT : Nat := 0x0F0000
/-- MPC block -/ def aMPC : Nat := 0x100000
/-- DPT_U_u register at an offset -/ def aUnit (u off : Nat) : Nat := 0x0F1000 + 0x40 * u + off

end Sys2Proof.Machine
end

