-- ==== Sys2Proof/Machine/Sparse.lean ====
section
/-! DEFINITION. Reading and writing a sparse table: keys strictly rising, no entry equal to its key's default. -/
namespace Sys2Proof.Machine

/-- The value of key k; d where no entry is listed. -/
def sget {α : Type} (d : α) : Sparse α → Nat → α
  | [], _ => d
  | (j, v) :: m, k => if k < j then d else if k = j then v else sget d m k

/-- The entries with a key above k. -/
def sdrop {α : Type} (k : Nat) : Sparse α → Sparse α
  | [] => []
  | (j, v) :: m => if j ≤ k then sdrop k m else (j, v) :: m

/-- The table with key k set to v; setting the default removes the entry. -/
def sset {α : Type} [DecidableEq α] (d : α) : Sparse α → Nat → α → Sparse α
  | [], k, v => if v = d then [] else [(k, v)]
  | (j, w) :: m, k, v =>
    if k < j then (if v = d then (j, w) :: m else (k, v) :: (j, w) :: m)
    else if k = j then (if v = d then sdrop k m else (k, v) :: m)
    else (j, w) :: sset d m k v

/-- The canonical form above a bound: keys strictly rising and above lo, no entry equal to its default. -/
def swfFrom {α : Type} [DecidableEq α] (d : Nat → α) : Nat → Sparse α → Bool
  | _, [] => true
  | lo, (j, v) :: m => decide (lo ≤ j) && decide (v ≠ d j) && swfFrom d (j + 1) m

/-- The canonical form. -/
def swf {α : Type} [DecidableEq α] (d : Nat → α) (m : Sparse α) : Bool := swfFrom d 0 m

end Sys2Proof.Machine
end

