-- ==== Sys2Proof/Machine/State.lean ====
section
/-! DEFINITION. The state of the TMC-2840 as plain data, the machine right after reset, and the reasons to stop. -/
namespace Sys2Proof.Machine

/-- The state of a context (R176). -/
inductive CtxState where
  | free | idle | ready | resident | waiting | held | halted
deriving DecidableEq, Repr

/-- The live control word of a context (R173): PEND, RIDX, STATE, WAITK. -/
structure Live where
  pend : Word := 0
  ridx : Half := 0
  st : CtxState := .free
  waitk : BitVec 4 := 0
deriving DecidableEq, Repr

/-- One register set: a Gallery record (R170), a thread slot's registers, or a management processor's (R88, R89, R144).
stb is the STATE of the last save; g holds the general registers that are not 0. -/
structure Regs where
  g : Sparse DWord := []
  pc : DWord := 0
  lr : DWord := 0
  rc : DWord := 0
  ml : DWord := 0
  mh : DWord := 0
  epc : DWord := 0
  eval : DWord := 0
  rsp : DWord := 0
  stpa : DWord := 0
  stpw : DWord := 0
  sr : Word := 0
  esr : Word := 0
  ecause : Half := 0
  stb : Byte := 0
  ceil : BitVec 2 := 0
  rlen : Bool := false
  wen : Bool := false
  cpl : BitVec 2 := 0
  siga : Word := 0
  waitw : DWord := 0
  repa : DWord := 0
  exv : DWord := 0
  sw : DWord := 0
deriving DecidableEq, Repr

/-- A step of a channel program: bits [63:0] and bits [127:64] (R34). -/
structure StepW where
  lo : DWord := 0
  hi : DWord := 0
deriving DecidableEq, Repr

/-- What a context does when it is resident: Clana code, the fetch of the step at STPA, or the step just fetched. -/
inductive Phase where
  | code | fetch | step
deriving DecidableEq, Repr

/-- A CONT run in progress (R37, R51): the first step's ACT, PORT and CRCSEL, the running CRC register, the bytes of the
received unit that the run has not read, how that unit ended, and the bytes gathered for the port. -/
structure Run where
  act : Byte := 0
  port : Byte := 0
  crcsel : BitVec 3 := 0
  crc : Word := 0
  inData : List Byte := []
  inEnd : Option RxEnd := none
  out : List Byte := []
deriving DecidableEq, Repr

/-- What a waiting context waits for (R43, R127): signal mask, deadline, next landing, and whether that landing has come since the WAIT was
decoded; gd is the destination of a WAITE. -/
structure Wait where
  mask : Word := 0
  till : Option DWord := none
  landing : Bool := false
  landed : Bool := false
  gd : Option Reg := none
deriving DecidableEq, Repr

/-- One entry of a thread's store buffer (R112). -/
structure SbEntry where
  addr : DWord
  bytes : List Byte
  lvl : Lvl
deriving DecidableEq, Repr

/-- An access on the device-port bus (R520): unit, offset in its window, the word of a write, the destination of a read. -/
structure BusOp where
  unit : BitVec 7
  off : Half
  val : Option Word
  gd : Reg := 0
deriving DecidableEq, Repr

/-- What a save keeps of the step engine of a context (R87, R196): the return of CHAIN, the CONT run as the step at STPA finds it, whether that step
had been fetched, whether the rest of a run is skipped and HOLD passed there, the unit of transfer that the step had taken, and the level before its
routine. regs holds the record as that save left it, once a wake has moved the context on. -/
structure Saved where
  callPc : Option DWord := none
  run : Option Run := none
  inStep : Bool := false
  skip : Bool := false
  holdPass : Bool := false
  taken : Option (List Byte × RxEnd) := none
  lvl : Option Lvl := none
  regs : Option Regs := none
deriving DecidableEq, Repr

/-- What a report says beside CTX and TIME (R82). -/
structure Rep where
  next : DWord
  residual : Nat := 0
  status : Nat
  reason : Nat
  psts : Byte := 0
  crc : Nat := 0
deriving DecidableEq, Repr

/-- A final report that waits for the stores of its context (R62): that of a halt, with status, reason and residual, or that of a chain, and whether a
failed step ends it. -/
inductive LastRep where
  | halt (status reason residual : Nat)
  | chain (r : Rep) (fail : Bool)
deriving DecidableEq, Repr

/-- What the device keeps for a thread beside its registers: the step engine's buffers (R33), the outstanding loads and the
multiplier result (R112, R118), the level before a routine (R137), the store buffer (R112), pending asynchronous causes (R141), the wait, the held address (R65),
the entry that started the work (R244), the unit whose data it waits for, its bus access (R520), the return of CHAIN (R79), the CONT run as the step in progress found it and the unit of transfer that this step took, what the last save keeps (R196), the ages that scheduling compares (R183, R184), a message that
waits for egress (R519), HALT entries that wait for the halt, a final report that waits for stores (R62), the residual when a fence took the channel
(R195), and what the digest of a flight was before the port instruction in progress (R363). -/
structure Thr where
  phase : Phase := .code
  cur : StepW := {}
  src : StepW := {}
  line : Option (Nat × List Byte) := none
  holdPass : Bool := false
  run : Option Run := none
  rtPl : Lvl := 0
  skip : Bool := false
  callPc : Option DWord := none
  start : Option Run := none
  taken : Option (List Byte × RxEnd) := none
  saved : Saved := {}
  loads : List (Reg × DWord) := []
  md : Option (DWord × DWord) := none
  mdFrame : List (DWord × DWord × Nat) := []
  sb : List SbEntry := []
  inRep : Bool := false
  watch : Option DWord := none
  limit : Option DWord := none
  wait : Option Wait := none
  heldAt : DWord := 0
  origin : Option (QId × Word) := none
  pwait : Option Nat := none
  abandoned : Option Reg := none
  bus : Option BusOp := none
  wqMove : Option Nat := none
  readyAt : Nat := 0
  resAt : Nat := 0
  egress : Option (Option Reg × Bool) := none
  haltEnt : List (QId × Word) := []
  last : Option LastRep := none
  cut : Option Nat := none
  undig : Option (DWord × Option DWord) := none
deriving DecidableEq, Repr

/-- A management processor beside its registers (R157 to R168). -/
structure Mp where
  lvl : BitVec 4 := 0
  isp : BitVec 18 := 0
  depth : BitVec 4 := 0
  stopped : Bool := false
  double : Bool := false
  istack : Bool := false
  fenced : Bool := false
  wfi : Bool := false
deriving DecidableEq, Repr

/-- The mode of a cluster (R204). -/
inductive ClMode where
  | active | frugal | fenced | standby
deriving DecidableEq, Repr

/-- A cluster beside its thread slots (R181, R188, R189, R78, R191, R195): load and save buffers, the switch decided, the dispatch
cache and the instruction cache (most recent first), and the ring time at which its fault latched. -/
structure Cluster where
  mode : ClMode := .active
  serves : BitVec 6 := 0
  loadBufs : List (CtxId × Regs) := []
  saveBufs : List (CtxId × Regs) := []
  switch : Option (CtxId × CtxId) := none
  dcache : List (Nat × DWord) := []
  icache : List Nat := []
  faultAt : Option DWord := none
deriving DecidableEq, Repr

/-- The clusters (R181 to R197): thread slots in use (key 16 × cluster + slot), the current register sets that are not just
what the record holds (key: context id, or 2^18 + n for processor n), what the device keeps per thread, the clusters, the Orchard lines (R191), the spare (R204).
victims counts the lines placed in caches and is the argument of the free choice Config.victim (log 14). -/
structure Eng where
  occ : Sparse (Option CtxId) := []
  slots : Sparse (Option Regs) := []
  thr : Sparse Thr := []
  mps : Sparse Mp := []
  cls : Sparse Cluster := []
  orch : List (Nat × List Byte) := []
  invBusy : Bool := false
  victims : Nat := 0
  sparePending : Bool := false
  spareInUse : Bool := false
  spareUnavail : Bool := false
  spareFor : BitVec 6 := 0x3F
  noSpareAt : List (BitVec 6) := []
deriving DecidableEq, Repr

/-- An indirect access in progress (R518): the command's OP and the operands that it was given. -/
structure AccOp where
  write : Bool
  sel : Nat
  data : DWord
deriving DecidableEq, Repr

/-- The Gallery (R169 to R203): live words, records, lock cells (R198), the accesses and commands in progress. epoch counts the
resets that leave the records and the memories on the chip undefined (R180, R474). -/
structure Gal where
  live : Sparse Live := []
  recs : Sparse Regs := []
  epoch : Nat := 0
  locks : Sparse Word := []
  cmdBusy : Option (CtxId × BitVec 3) := none
  cctBusy : Bool := false
deriving DecidableEq, Repr

/-- What a mover channel serves (R205). -/
inductive XKind where
  | moveIn | moveOut | sense | moveMem | move | psend | psendAt | precv | sctRead | sctWrite | sctPost | wqMove
deriving DecidableEq, Repr

/-- Why a channel stops (R218, R221, R222): a STOP of a BULK channel, a STOP of a TIMED one, the global pause, or a HALT. -/
inductive Stop where
  | bulk | timed | glob | halt
deriving DecidableEq, Repr

/-- A mover channel (R205 to R222): request, addresses, bytes left, kept holding-register bytes (R217), CRC register, state;
req names the session and the SEQ of the SCT request that it serves (R521); rxEnd tells how the unit that a PRECV took ended; cl is the cluster whose scratch the alias means (R208). -/
structure Xfer where
  kind : XKind
  cl : BitVec 6 := 0
  src : DWord := 0
  dst : DWord := 0
  count : Nat := 0
  left : Nat := 0
  read : Nat := 0
  fs : Bool := false
  fd : Bool := false
  barrier : Bool := false
  crcsel : BitVec 3 := 0
  srcList : Bool := false
  dstList : Bool := false
  maxFrag : Nat := 65536
  drop : Bool := false
  unit : BitVec 7 := 0
  data : List Byte := []
  kept : List Byte := []
  lvl : Lvl := 0
  gd : Reg := 0
  ga : Reg := 0
  gb : Reg := 0
  launch : Option DWord := none
  flight : DWord := 0
  granted : Bool := true
  stopping : Option Stop := none
  paused : Bool := false
  running : Bool := false
  offered : Bool := false
  since : Nat := 0
  age : Nat := 0
  req : Option (Nat × Word) := none
  queued : Nat := 0
  posted : Bool := false
  rxEnd : Option RxEnd := none
deriving DecidableEq, Repr

/-- The enable state of R8. -/
inductive EnState where
  | disabled | active | draining | error
deriving DecidableEq, Repr

/-- The channel state of a context (R218, R223): enable state, ENABLE_PENDING, PAUSED. -/
structure ChSt where
  en : EnState := .active
  enPend : Bool := false
  paused : Bool := false
deriving DecidableEq, Repr

/-- The movers (R205 to R232): channels by owner key (context id, 2^18 + n for processor n, 2^19 + i for SCT entry i), channel
states, limiter credits in quarter bytes (R225), the global pause, and the last channel command. -/
structure Mov where
  chans : List (Nat × Xfer) := []
  chst : Sparse ChSt := []
  cred : Sparse Nat := []
  bulkPaused : Bool := false
  cmdCtx : CtxId := 0
  cmdBusy : Bool := false
  cmdRes : BitVec 2 := 0
deriving DecidableEq, Repr

/-- An entry fetched and not completed (R241 to R247): its count, its bytes, its error code, whether it started and completed. -/
structure WqEntry where
  cnt : Word
  bytes : List Byte
  err : BitVec 4 := 0
  started : Bool := false
  done : Bool := false
deriving DecidableEq, Repr

/-- The live half of a queue descriptor (R255) and what the queue keeps beside it (R241 to R250). -/
structure WqLive where
  head : Word := 0
  tail : Word := 0
  st : EnState := .disabled
  enPend : Bool := false
  errcode : BitVec 4 := 0
  badkind : BitVec 4 := 0
  badreason : Byte := 0
  erridx : Word := 0
  badidx : Word := 0
  pubhead : Word := 0
  base : DWord := 0
  log2 : BitVec 5 := 4
  ents : List WqEntry := []
  polling : Option DWord := none
  stopRead : Bool := false
  rung : Bool := false
  coal : Option DWord := none
  notify : Bool := false
  tokens : Byte := 0
deriving DecidableEq, Repr

/-- The work queues (R233 to R256): live halves by queue, the state of commands and copies, and the round (R245). -/
structure Wq where
  q : Sparse WqLive := []
  cmdQ : QId := 0
  cmdRefused : Bool := false
  copyBusy : Bool := false
  visit : Option (QId × Byte × Byte) := none
deriving DecidableEq, Repr

/-- A commit or a LANDREVERT that is pending (R266, R277): target landing, tag, ring-wide, prior tag of a revert and the landing
that it reverts, time of receipt, COUNT of the LANDSTAGE set, first failed check shown. -/
structure Commit where
  tgt : DWord
  seq : Half
  ring : Bool
  revert : Option (Half × DWord) := none
  rcv : DWord
  cnt : Byte := 0
  preason : BitVec 4 := 0
deriving DecidableEq, Repr

/-- A write to a STAGED bank, by register address or table key: the value written, and the bits of the word that it covers. -/
structure StgWrite where
  table : Bool
  key : Nat
  val : DWord
  mask : DWord := 0xFFFF_FFFF_FFFF_FFFF
deriving DecidableEq, Repr

/-- A LANDSTAGE set (R273): landing, count of messages, indices received, whether a record or a count breaks it. -/
structure StageSet where
  lnd : DWord
  cnt : Byte
  got : List Byte
  bad : Bool := false
deriving DecidableEq, Repr

/-- The manager's view of a ring-wide landing (R275): its number, its prior tag, the workers whose ARMED LANDACK has arrived, whether its deadline has
been judged, and, once it has been reverted, the workers that have not answered its LANDREVERT (R276). -/
structure RingView where
  l : DWord
  prior : Half
  acks : List Byte := []
  due : Bool := false
  rev : Option (List Byte) := none
deriving DecidableEq, Repr

/-- Flights, banks and commits (R261 to R280). judged holds the landing judged with the commit and its reason, 0 when it passes; held
and heldGo hold the writes and GOs of R270; landed is the number of the last landing that swapped the banks here. ring holds the manager's views of
ring-wide landings (R275). -/
structure Lnd where
  num : DWord := 0
  tagA : Half := 0
  tagS : Half := 0
  pend : Option Commit := none
  judged : Option (DWord × Option (Commit × BitVec 4)) := none
  held : List StgWrite := []
  heldGo : List Byte := []
  last : BitVec 2 := 0
  lreason : BitVec 4 := 0
  wrdl : Bool := false
  syncwr : Bool := false
  syncBusy : Option Bool := none
  stage : List StageSet := []
  landed : Option DWord := none
  ring : List RingView := []
deriving DecidableEq, Repr

/-- The state of ring time (R258). -/
inductive TimeState where
  | freerun | sync | holdover
deriving DecidableEq, Repr

/-- Ring time (R257 to R260): nanoseconds since the epoch, state, reference in service, slew left, measured rate, Syncs seen. -/
structure RTime where
  now : DWord := 0
  st : TimeState := .freerun
  ref : Bool := false
  slew : DWord := 0
  rate : Word := 0
  rateOk : Bool := false
  syncs : Nat := 0
  gm : Bool := false
deriving DecidableEq, Repr

/-- The state of an event source (R406). -/
inductive SrcState where
  | inactive | pending | active | activePending
deriving DecidableEq, Repr

/-- The live word of an event source (R424) and what the controller keeps beside it (R405, R410, R414). gen counts the
source's ordinary records; the record of generation gen is claimed when gen ≤ claimed. -/
structure EvSrc where
  st : SrcState := .inactive
  queued : Bool := false
  owner : BitVec 5 := 0
  runprio : Byte := 0
  rrptr : BitVec 5 := 0
  level : Bool := false
  info : Word := 0
  time : DWord := 0
  more : Bool := false
  gen : Nat := 0
  claimed : Nat := 0
  window : Option DWord := none
  opened : Nat := 0
deriving DecidableEq, Repr

/-- A record in a group queue (R410 to R414): slot, source, offered, generation, sent to the host, the message that carries it and its session, priority, time,
and its number among the records of the queue. -/
structure EvRec where
  slot : Nat
  src : BitVec 11
  offered : Bool
  gen : Nat
  sent : Bool := false
  seq : Word := 0
  sess : Nat := 0
  prio : Byte := 0
  time : DWord := 0
  num : Nat := 0
deriving DecidableEq, Repr

/-- A target's group queue (R411): the next write index, the number of records written so far, and the unclaimed records, oldest first. -/
structure EvQ where
  wr : Nat := 0
  num : Nat := 0
  recs : List EvRec := []
deriving DecidableEq, Repr

/-- An event target (R412, R417, R420): released, holdoff start, IDLE, delivering processor. -/
structure EvTgt where
  released : Bool := false
  holdoff : Option DWord := none
  idle : Bool := false
  deliv : BitVec 2 := 0
deriving DecidableEq, Repr

/-- The event controller (R404 to R424): sources, group queues (key 8 × target + group), targets, the hold and its time,
EOI_BAD, the wake latch, the WAKE_IN pins that rose and that fell since the watcher was armed (R421). -/
structure Evt where
  src : Sparse EvSrc := []
  q : Sparse EvQ := []
  tgt : Sparse EvTgt := []
  hold : Bool := false
  holdAt : DWord := 0
  eoiBad : Bool := false
  wkValid : Bool := false
  wkSlot : BitVec 5 := 0
  wkArmed : Bool := false
  wkRose : BitVec 4 := 0
  wkFell : BitVec 4 := 0
deriving DecidableEq, Repr

/-- A window watchdog (R466): running, and the time of the last kick. -/
structure Wd where
  on : Bool := false
  kick : DWord := 0
deriving DecidableEq, Repr

/-- The fault collector (R456 to R473): sticky bits, detections raised by blocks and not yet
taken, the F4 latch, the NMT request, the pins, the watchdogs, the level sources last seen asserted (R458), the cause of the last reset, and a reset
that reactions ask for.
DESIGN CHOICE, unsafe (log 10). -/
structure Flt where
  sticky : BitVec 384 := 0
  det : List (BitVec 9 × Word) := []
  f4 : Bool := false
  nmtPend : Bool := false
  maxclass : BitVec 3 := 0
  safestate : Bool := false
  lock : Bool := false
  lockwr : Bool := false
  cause : BitVec 3 := 0
  causeSrc : BitVec 9 := 0
  wd : Sparse Wd := []
  held : List (BitVec 9) := []
  rstPend : Option (BitVec 9) := none
deriving DecidableEq, Repr

/-- The state of a session (R305). -/
inductive SessSt where
  | closed | opened | failed
deriving DecidableEq, Repr

/-- Who waits for a message to enter Vestibule egress (R519): nobody, a context or processor, or a queue entry by its count. -/
inductive SendOwner where
  | nobody
  | thread (t : Thread)
  | entry (q : QId) (cnt : Word)
deriving DecidableEq, Repr

/-- A sequenced message that is sent and not acknowledged, or that waits for the window (R299): SEQ, TYPE, payload, LAST, the
ring time at which it was last sent, and who waits for it. -/
structure TxMsg where
  seq : Word := 0
  typ : Byte
  body : List Byte
  last : Bool := true
  sent : DWord := 0
  own : SendOwner := .nobody
deriving DecidableEq, Repr

/-- An accepted frame that is not yet acted on (R297, R300), or a sessionless frame: header fields, payload, port. -/
structure RxMsg where
  typ : Byte
  ver : Byte := 0
  flags : Byte := 0
  src : Byte := 0
  dst : Byte := 0
  hops : Byte := 0
  session : Half := 0
  seq : Word := 0
  body : List Byte := []
  portB : Bool := false
deriving DecidableEq, Repr

/-- A session (R295 to R303): state, version, owner, window, receive and send sequence state, buffers, timers, express count. oooAt is when
NAK OUT_OF_ORDER was last sent for E; reqs are the requests sent and not answered, with whether each is a WRITE; sigs are the SEQ and TARGET
of the SIGNALs and RESUMEs sent (R291). -/
structure Sess where
  st : SessSt := .closed
  ver : Byte := 0
  host : Byte := 0
  win : BitVec 7 := 0
  e : Word := 1
  next : Word := 1
  unacked : List TxMsg := []
  waitq : List TxMsg := []
  rxq : List RxMsg := []
  timeouts : Nat := 0
  accCnt : Nat := 0
  accAt : Option DWord := none
  oooAt : Option DWord := none
  express : Word := 1
  lastRx : DWord := 0
  fresh : Bool := false
  reqs : List (Word × Bool) := []
  sigs : List (Word × Word) := []
  helloSent : Bool := false
deriving DecidableEq, Repr

/-- An express mailbox (R303): full, frame complete, release recorded; the SRC and R-TAG number of the frame that it took last, and whether
that frame ended without a good FCS (R317); the second copy that came meanwhile, with its port. -/
structure Mbox where
  full : Bool := false
  complete : Bool := true
  relPend : Bool := false
  took : Option (Byte × Half) := none
  bad : Bool := false
  copy : Option (Bool × Frame) := none
deriving DecidableEq, Repr

/-- The SCT transport (R281 to R306): sessions (key 0–63 host, 0x40 + address peer), sessionless frames not yet acted on,
the R-TAG counter (R316), mailboxes (key 4 × cluster + slot), the last session command. -/
structure Sct where
  sess : Sparse Sess := []
  inbox : List RxMsg := []
  rtag : Half := 0
  mbox : Sparse Mbox := []
  cmdSess : BitVec 6 := 0
deriving DecidableEq, Repr

/-- A frame in an egress queue of a ring port (R320): the frame, whether it goes on by cut-through (R321). -/
structure EgFrame where
  f : Frame
  cut : Bool := false
deriving DecidableEq, Repr

/-- What MACsec puts on a frame that is sent (R327): AN, the SCI when the SecTAG carries one, PN, and the confidentiality offset when it encrypts. -/
structure TxSec where
  an : BitVec 2
  sci : Option DWord
  pn : DWord
  conf : Option Nat
deriving DecidableEq, Repr

/-- The frame whose transmission a port began last (R323, R325): whether it is express, when it begins and ends, and the preemption settings with which
it began (R324): whether preemption is used, and ADDFRAG. -/
structure OnWire where
  f : Frame
  sec : Option TxSec
  express : Bool
  start : DWord
  till : DWord
  pre : Bool := false
  frag : Nat := 0
deriving DecidableEq, Repr

/-- A ring port (R307 to R338) beside its registers; queue 8 is the express path of R12, mode the mode that a waiting port keeps (R313), rest the
time in ns that the frame it preempted still needs (R325), nrr the neighbour rate ratio beside 1 in units of 2^-41. -/
structure Port where
  st : EnState := .active
  enPend : Bool := false
  link : BitVec 3 := 0
  rtrReq : Bool := false
  rtrWait : Bool := false
  rtrSeen : Bool := false
  fecCnt : Nat := 0
  mode : Option (BitVec 6) := none
  signal : Bool := false
  q : Sparse (List EgFrame) := []
  gateIdx : Nat := 0
  gateOff : Nat := 0
  gateCyc : Nat := 0
  macHold : Bool := false
  vstat : BitVec 3 := 0
  ascap : Bool := false
  pdlyValid : Bool := false
  ofsErr : Bool := false
  sync0 : Bool := false
  sync1 : Bool := false
  syncAge0 : Nat := 0
  syncAge1 : Nat := 0
  pdlyMiss : Byte := 0
  pdlyRun : Nat := 0
  pdlyOpen : Bool := false
  pdly : List Nat := []
  nrr : Word := 0
  wire : Option OnWire := none
  rest : Nat := 0
  mrxHead : Half := 0
  mrxDone : Half := 0
  mtxBusy : Option Frame := none
  mtxRefused : Bool := false
  pn : Sparse Nat := []
deriving DecidableEq, Repr

/-- A stream's recovery history (R316, R317): numbers taken, newest first, how many numbers the history spans, LASTSEQ and LOST (R335),
the time of the last frame taken. -/
structure Frer where
  hist : List Half := []
  span : Nat := 0
  last : Half := 0
  lost : Word := 0
  at_ : DWord := 0
deriving DecidableEq, Repr

/-- A flow meter's token buckets (R326, MEF 10.3): committed and excess tokens in millionths of a bit, the time of the last update, and
whether every frame is red. -/
structure Meter where
  c : Nat := 0
  e : Nat := 0
  at_ : DWord := 0
  started : Bool := false
  red : Bool := false
deriving DecidableEq, Repr

/-- A copy of a frame that is stored while the other copy is in reception on the other port (R317): its port, fragments and SecTAG. -/
structure Stored where
  portB : Bool
  f : Frame
  frags : Option Nat
  sec : SecTag
deriving DecidableEq, Repr

/-- Both ring ports and what they share. -/
structure Ring where
  a : Port := {}
  b : Port := {}
  frer : Sparse Frer := []
  blocked : Sparse Bool := []
  meters : Sparse Meter := []
  gates : Sparse (Nat × Nat) := []
  stored : List Stored := []
deriving DecidableEq, Repr

/-- The role of a device (R371). -/
inductive Role where
  | unaddressed | worker | standby | manager | segManager | detached
deriving DecidableEq, Repr

/-- A station of the ring table (R345, R371): address, host, class, priority, UID, versions, presence, flights without a
KEEPALIVE (R350), position. -/
structure Station where
  addr : Byte
  host : Bool := false
  cls : BitVec 2 := 0
  prio : Byte := 0
  uid : DWord := 0
  present : Bool := true
  age : Nat := 0
  detaching : Bool := false
  pos : Nat := 0
  role : Byte := 0
deriving DecidableEq, Repr

/-- The state of a pair entry (R360). -/
inductive PairSt where
  | off | paired | solo | yielded
deriving DecidableEq, Repr

/-- The live words of a pair entry (R360) and what the device keeps beside them (R363 to R368): the digests by flight, the
landing of the last change, whether the entry breaks R361 and so acts as OFF, with the state that it keeps meanwhile (R368), the ballots received. -/
structure PairL where
  st : PairSt := .off
  silent : BitVec 2 := 0
  supp : Bool := false
  mism : Byte := 0
  own : DWord := 0
  part : DWord := 0
  since : DWord := 0
  viol : Bool := false
  kept : PairSt := .off
  dig : List (DWord × DWord) := []
  got : List (DWord × DWord) := []
deriving DecidableEq, Repr

/-- Ring management (R339 to R372). -/
structure Rm where
  addr : Byte := 0
  role : Role := .unaddressed
  auth : Bool := false
  straps : BitVec 2 := 0
  term : BitVec 31 := 0
  termSeen : BitVec 31 := 0
  mseq : DWord := 0
  mgr : Byte := 0
  table : List Station := []
  enumOn : Bool := false
  enumPhase : Bool := false
  enumAddr : Byte := 0
  directed : Option (DWord × Byte × Bool × Bool) := none
  annq : List (DWord × Bool) := []
  ofsErr : Bool := false
  tagref : Bool := false
  ptDup : Bool := false
  ptVer : Bool := false
  noMgr : Nat := 0
  noWorker : Nat := 0
  authKa : List Bool := []
  links : List (Byte × Byte) := []
  heardMgr : Bool := false
  pairs : Sparse PairL := []
  restore : List Byte := []
deriving DecidableEq, Repr

/-- A record in a unit's transmit buffer (R376): bytes, launch time, eligible since, the context that waits for its launch. -/
structure TxRec where
  bytes : List Byte
  launch : Option DWord := none
  eligible : Option Nat := none
  waiter : Option CtxId := none
  late : Bool := false
deriving DecidableEq, Repr

/-- A unit of transfer in a receive buffer (R377) and how it ended. -/
structure RxRec where
  bytes : List Byte
  fin : RxEnd
deriving DecidableEq, Repr

/-- A device port unit (R373 to R403) beside its registers. -/
structure DUnit where
  st : EnState := .disabled
  enPend : Bool := false
  attn : Bool := false
  code : BitVec 5 := 0
  refused : Bool := false
  tx : List TxRec := []
  rx : List RxRec := []
  arg0 : Word := 0
  arg1 : Word := 0
  mdio : Option (Bool × Half) := none
  mdioData : Half := 0
  mdioDone : Bool := false
  tec : Byte := 0
  rec_ : Byte := 0
  canSt : BitVec 2 := 0
  recovering : Bool := false
  busOffAt : DWord := 0
  beacons : Bool := false
  nodeCnt : Byte := 0
  link : BitVec 2 := 0
  csiTime : DWord := 0
  csiNum : Half := 0
  csiPkts : Word := 0
  csiBytes : Word := 0
  tick : Word := 0
  serial : Word := 0
  linSt : BitVec 2 := 0
  linPid : Byte := 0
  armed : List (BitVec 6 × List Byte) := []
  level : Bool := false
  drainAt : DWord := 0
  rxStop : Bool := false
  edgeAt : Option DWord := none
  applied : List Word := []
  resume : Bool := false
  linSub : Bool := false
  spiRx : List (List Byte) := []
  filt : List DWord := []
  was : Option (List Word × List DWord) := none
  syncPs : Option Word := none
deriving DecidableEq, Repr

/-- The levels at which the device holds the pins of a unit (R399), by class: TX of CAN and LIN; TX_EN and MDC; a transmitter in electrical idle; inputs, by
whether their terminations are on; CS_N, SCK and SDO; the timer pin, none for high impedance. -/
inductive Pins where
  | tx (high : Bool)
  | mii (txEn mdc : Bool)
  | serdes (idle : Bool)
  | inputs (terminated : Bool)
  | spi (csN sck sdo : Bool)
  | timer (level : Option Bool)
deriving DecidableEq, Repr

/-- One arbiter (R425, R431, R433): the parked owner, the grants counted in the window by input. -/
structure Arb where
  parked : Option (BitVec 6) := none
  cnt : Sparse Nat := []
deriving DecidableEq, Repr

/-- The arbiters (key 64 × set + bank): sets with a duplicate decision (ARB_DUP), last duplicate decision by set (ARB_k_STS) (R436). -/
structure Arbs where
  arb : Sparse Arb := []
  dup : BitVec 9 := 0
  sts : Sparse Word := []
deriving DecidableEq, Repr

/-- An ECC log entry (R446). -/
structure LogEnt where
  addr : BitVec 48 := 0
  memid : BitVec 4 := 0
  typ : BitVec 4 := 0
  syn : Byte := 0
  time : DWord := 0
deriving DecidableEq, Repr

/-- An LP5X interface (R437, R450 to R453); dens is the density that training reads, in the CAP
encoding; bad tells that the interface fails its training at boot (assumption log 25); cmds counts the commands in its queue (R439).
DESIGN CHOICE, unsafe (log 10), DESIGN CHOICE, unsafe (log 25). -/
structure MemIf where
  dens : BitVec 2 := 2
  bad : Bool := false
  trained : Bool := false
  stale : Bool := false
  retraining : Bool := false
  wait : Bool := false
  failed : Bool := false
  temp : Byte := 0
  ttrain : Byte := 0
  ceCnt : Nat := 0
  ret : List Nat := []
  due : Bool := false
  cmds : Nat := 0
deriving DecidableEq, Repr

/-- Memory and ECC (R437 to R455): interfaces, log, correction queues (key MEMID), scrub pointers (lines) and lap starts, 8-byte words that
hold an uncorrectable error (by address), retirement and row replacement in progress, spare rows by bank, rows moved. por counts the resets that
leave the DRAM contents undefined (R454). -/
structure Memc where
  i0 : MemIf := {}
  i1 : MemIf := {}
  capUsed : BitVec 2 := 0
  capMis : Bool := false
  log : Sparse LogEnt := []
  widx : Half := 0
  corr : Sparse (List Nat) := []
  upset : List Nat := []
  scrub : Sparse Nat := []
  lapAt : Sparse DWord := []
  retBusy : Option Nat := none
  retRefused : Bool := false
  growBusy : Option CtxId := none
  growRefused : Bool := false
  growOut : Bool := false
  growLoss : Bool := false
  growBank : BitVec 6 := 0
  spares : Sparse Nat := []
  rows : Sparse Nat := []
  firstStale : Bool := false
  por : Nat := 0
deriving DecidableEq, Repr

/-- The state of the device as a whole (R493, R496), with VDD_CORE lost and OFF. -/
inductive PwrState where
  | boot | run | maint | stbyEntry | resume | standby | off | lost
deriving DecidableEq, Repr

/-- An image update in progress (R491): flash and slot, the image, its destination. -/
structure Upd where
  slot : BitVec 2
  img : List Byte
deriving DecidableEq, Repr

/-- Start-up, power, clocks and identity (R474 to R508): GLB_STATE, what GLB_RST_CMD and GLB_PWR_CMD ask for, the boot outcome (loaded: an image is applied; first: it was the first slot tried), the update, fuses and OTP, PLLs, pins; cold until the first reset after power-on, and
fltKept while the collector's settings stand against the image (R472).
DESIGN CHOICE, unsafe (log 10). -/
structure Boot where
  st : PwrState := .boot
  swrst : Bool := false
  rstCmd : Bool := false
  pwrCmd : BitVec 2 := 0
  straps : BitVec 4 := 8
  slot : BitVec 2 := 0
  maint : Bool := false
  failmask : BitVec 4 := 0
  loaded : Bool := false
  first : Bool := false
  signed : Bool := false
  seq : Word := 0
  tdone : Word := 0
  upd : Option Upd := none
  updRes : BitVec 3 := 0
  secure : Bool := false
  prog : BitVec 4 := 0
  revoked : BitVec 4 := 0
  keyRefused : Bool := false
  keys : Sparse (BitVec 384) := []
  otpSlot : Byte := 127
  otpBase : BitVec 4 := 0
  otp : List (Nat × Word) := []
  otpTab : List (Nat × DWord) := []
  lot : BitVec 42 := 0
  wafer : BitVec 5 := 0
  dieX : Byte := 0
  dieY : Byte := 0
  fab : BitVec 4 := 0
  testrev : Byte := 0
  uid : DWord := 1
  pll : Bool := false
  stbyLock : Bool := false
  stbyFreq : Nat := 0
  stbyBusy : Bool := false
  profile : BitVec 3 := 0
  vid : BitVec 4 := 0
  inh : Bool := true
  refA : Bool := true
  refB : Bool := true
  tcmWritten : BitVec 4 := 0
  modes : List (CtxId × Bool) := []
  wakeIn : BitVec 4 := 0
  cold : Bool := true
  fltKept : Bool := false
deriving DecidableEq, Repr

/-- Registers: the two banks of every LS register (by address; an absent key reads as the reset value), IM operand and counter
registers, and the two banks of every double-banked table (R6, R264). -/
structure Bank where
  act : Sparse Word := []
  stg : Sparse Word := []
  im : Sparse Word := []
  tabA : Sparse DWord := []
  tabS : Sparse DWord := []
  rsvd : Bool := false
  acc : List (AccPort × AccOp) := []
  accRef : List AccPort := []
  accEcc : Bool := false
deriving DecidableEq, Repr

/-- The machine. pending is the queue of commands, first in, first out. mem holds every byte of memory that differs from what an
unlisted address reads as. stamp orders events; free counts the values that the manual leaves open.
DESIGN CHOICE, unsafe (log 12). -/
structure State where
  pending : List Instr := []
  mem : List Host.Cell := []
  reg : Bank := {}
  gal : Gal := {}
  eng : Eng := {}
  mov : Mov := {}
  wq : Wq := {}
  lnd : Lnd := {}
  time : RTime := {}
  evt : Evt := {}
  flt : Flt := {}
  sct : Sct := {}
  ring : Ring := {}
  rm : Rm := {}
  dpt : Sparse DUnit := []
  arb : Arbs := {}
  memc : Memc := {}
  boot : Boot := {}
  stamp : Nat := 0
  free : Nat := 0
deriving DecidableEq, Repr

/-- The machine right after reset.
DESIGN CHOICE, unsafe (log 4). -/
def State.reset : State := {}

/-- The reasons to stop with a fault: none. The device reports every error as an effect of a command (R26, R147, R456), so this
model never stops with a fault; the type has no constructor. -/
inductive Fault where
deriving DecidableEq, Repr

/-- The reasons to refuse a command. -/
inductive Refusal where
  /-- Raised by exec for a command without a meaning, by its mnemonic; safe: nothing is claimed of such a command. -/
  | notModelled (mnemonic : String)
deriving DecidableEq, Repr

end Sys2Proof.Machine
end

