-- ==== Sys2Proof/Machine/Ops.lean ====
section
/-! DEFINITION. The named operations over registers, tables, contexts, memory, time, events and faults. -/
namespace Sys2Proof.Machine

/-- What a meaning answers. -/
abbrev Res := Host.Outcome State Fault Refusal

/-! Registers and tables (R6, R264). -/
/-- The ACTIVE value of the LS register at an address. -/
def act (s : State) (a : Nat) : Word := sget (resetOf a) s.reg.act a
/-- The STAGED value of the LS register at an address. -/
def stg (s : State) (a : Nat) : Word := sget (resetOf a) s.reg.stg a
/-- An IM operand or counter register. -/
def imr (s : State) (a : Nat) : Word := sget (resetOf a) s.reg.im a
/-- Sets the STAGED value. -/
def setStg (s : State) (a : Nat) (v : Word) : State := { s with reg := { s.reg with stg := sset (resetOf a) s.reg.stg a v } }
/-- Sets the ACTIVE value. -/
def setAct (s : State) (a : Nat) (v : Word) : State := { s with reg := { s.reg with act := sset (resetOf a) s.reg.act a v } }
/-- Sets an IM register. -/
def setIm (s : State) (a : Nat) (v : Word) : State := { s with reg := { s.reg with im := sset (resetOf a) s.reg.im a v } }
/-- Adds 1 to a counter that saturates at 0xFFFF_FFFF. -/
def bump (s : State) (a : Nat) : State := setIm s a (satAdd (imr s a) 1)
/-- Adds k to a counter that saturates at 0xFFFF_FFFF. -/
def bumpBy (s : State) (a k : Nat) : State := setIm s a (satAdd (imr s a) k)
/-- Adds 1 to a counter that saturates at 0xFFFF. -/
def bump16 (s : State) (a : Nat) : State := setIm s a (BitVec.ofNat 32 (Nat.min ((imr s a).toNat + 1) 0xFFFF))
/-- Sets GLB_RSVD_WR (R5, R28). -/
def setRsvd (s : State) : State := { s with reg := { s.reg with rsvd := true } }
/-- Sets GLB_RSVD_WR when the flag is set. -/
def rsvdIf (f : Bool) (s : State) : State := if f then setRsvd s else s

/-- A write of v to the command or acknowledgement register at an address: the effect f of the defined bits, then GLB_RSVD_WR when a reserved
one was written (R4, R5). -/
def withRsvd (a : Nat) (v : Word) (f : State → State) (s : State) : State :=
  rsvdIf (match regAt a with | some (r, i) => (mergeReg 0 v (r.flds i)).2 | none => true) (f s)

/-- The double-banked tables (R172, R254, R335, R360, R401, R424). -/
inductive Tab where
  | cct | wq | gclA | gclB | saA | saB | streamId | frer | filter | meter | gate | pair | canFilter | evt
deriving DecidableEq, Repr
/-- The number of a table in the key of its words. -/
def Tab.no : Tab → Nat
  | .cct => 0 | .wq => 1 | .gclA => 2 | .gclB => 3 | .saA => 4 | .saB => 5 | .streamId => 6 | .frer => 7 | .filter => 8 | .meter => 9
  | .gate => 10 | .pair => 11 | .canFilter => 12 | .evt => 13
/-- The key of word w of entry i of a table. -/
def tkeyOf (t : Tab) (i w : Nat) : Nat := t.no * 0x1000000 + i * 16 + w
/-- The reset value of a table word: word 1 of a queue descriptor (R254), 0 elsewhere. -/
def tabReset (k : Nat) : DWord := if k / 0x1000000 = 1 ∧ k % 16 = 1 then 0x10_0001_0104#64 else 0
/-- The ACTIVE table word. -/
def tabA (s : State) (t : Tab) (i w : Nat) : DWord := sget (tabReset (tkeyOf t i w)) s.reg.tabA (tkeyOf t i w)
/-- The STAGED table word. -/
def tabS (s : State) (t : Tab) (i w : Nat) : DWord := sget (tabReset (tkeyOf t i w)) s.reg.tabS (tkeyOf t i w)
/-- Sets a word of the STAGED bank by key. -/
def setTabS (s : State) (k : Nat) (v : DWord) : State := { s with reg := { s.reg with tabS := sset (tabReset k) s.reg.tabS k v } }
/-- Sets a word of the ACTIVE bank by key. -/
def setTabA (s : State) (k : Nat) (v : DWord) : State := { s with reg := { s.reg with tabA := sset (tabReset k) s.reg.tabA k v } }

/-! Contexts and threads (R170, R173). -/
/-- The key of a thread: its context id, or 2^18 + n for management processor n. -/
def tkey : Thread → Nat
  | .ctx c => c.toNat
  | .mp n => 0x40000 + n.toNat
/-- The live control word. -/
def liveOf (s : State) (c : CtxId) : Live := sget {} s.gal.live c.toNat
/-- Sets the live control word. -/
def setLive (s : State) (c : CtxId) (l : Live) : State := { s with gal := { s.gal with live := sset {} s.gal.live c.toNat l } }
/-- The state of a context. -/
def stOf (s : State) (c : CtxId) : CtxState := (liveOf s c).st
/-- Sets STATE and WAITK. -/
def setSt (s : State) (c : CtxId) (st : CtxState) (wk : BitVec 4 := 0) : State :=
  setLive s c { liveOf s c with st := st, waitk := wk }
/-- What a record holds that nothing has written since reset number e: zero before the first such reset (assumption log 4),
values that the manual leaves undefined after it (R180, assumption log 3), with their reserved bits 0 (R80, R91, R93 to R95).
DESIGN CHOICE, safe (log 3), DESIGN CHOICE, unsafe (log 4). -/
def recDefault (e id : Nat) : Regs :=
  if e = 0 then {} else
    let f := fun i => Config.freeDWord (((e * 0x40000) + id) * 64 + i)
    { pc := f 0, lr := f 1, rc := f 2, ml := f 3, mh := f 4, epc := f 5, eval := f 6, rsp := f 7 &&& 0xFFFF_FFFF_FFFF_FFF8#64, stpa := f 8, stpw := f 9,
      sr := (f 10).setWidth 32 &&& 0xF3F#32, esr := (f 11).setWidth 32 &&& 0xF3F#32, ecause := (f 12).setWidth 16 &&& 0x3FF#16, stb := (f 13).setWidth 8, ceil := (f 14).setWidth 2,
      rlen := (f 15).getLsbD 0, wen := (f 16).getLsbD 0, cpl := (f 17).setWidth 2, siga := (f 18).setWidth 32, waitw := f 19, repa := f 20 &&& 0xFFFF_FFFF_FFFF#64,
      exv := f 21 &&& 0xFFFF_FFFF_FF00#64, sw := f 22, g := (List.range 16).map fun i => (i, f (32 + i)) }
/-- A Gallery record. -/
def recOf (s : State) (c : CtxId) : Regs := sget (recDefault s.gal.epoch c.toNat) s.gal.recs c.toNat
/-- Writes a Gallery record. -/
def setRec (s : State) (c : CtxId) (r : Regs) : State :=
  { s with gal := { s.gal with recs := sset (recDefault s.gal.epoch c.toNat) s.gal.recs c.toNat r } }
/-- The thread slot that a context occupies: 16 × cluster + slot. -/
def slotOf (s : State) (c : CtxId) : Option Nat := (s.eng.occ.find? fun e => e.2 = some c).map (·.1)
/-- The current register set of a thread, none for a context whose current registers are those of its record. -/
def slotRegs (s : State) (k : Nat) : Option Regs := sget none s.eng.slots k
/-- Writes the current register set of a thread. -/
def setSlotRegs (s : State) (k : Nat) (r : Option Regs) : State := { s with eng := { s.eng with slots := sset none s.eng.slots k r } }
/-- Whether a context is in a thread slot. -/
def inSlot (s : State) (c : CtxId) : Bool := (slotOf s c).isSome
/-- The current registers of a thread.
DESIGN CHOICE, unsafe (log 4). -/
def regsOf (s : State) : Thread → Regs
  | .mp n => (slotRegs s (tkey (.mp n))).getD {}
  | .ctx c => (slotRegs s c.toNat).getD (recOf s c)
/-- What the device keeps for a thread beside its registers. -/
def thrOf (s : State) (t : Thread) : Thr := sget {} s.eng.thr (tkey t)
/-- Writes what the device keeps for a thread. -/
def setThr (s : State) (t : Thread) (x : Thr) : State := { s with eng := { s.eng with thr := sset {} s.eng.thr (tkey t) x } }
/-- The record of a waiting or READY context is about to be moved on by a wake, which is no save: what the last save left is kept (R171, R196). -/
def keepSaved (s : State) (c : CtxId) : State :=
  let x := thrOf s (.ctx c)
  match stOf s c with
  | .ready | .waiting =>
    if x.saved.regs.isNone then setThr s (.ctx c) { x with saved := { x.saved with regs := some (recOf s c) } } else s
  | _ => s
/-- The record of a context as its last save left it (R171). -/
def savedRec (s : State) (c : CtxId) : Regs := (thrOf s (.ctx c)).saved.regs.getD (recOf s c)
/-- Writes the current registers of a thread: those of a context outside its slot are in its record. -/
def putRegs (s : State) (t : Thread) (r : Regs) : State :=
  match t with
  | .mp n => setSlotRegs s (tkey (.mp n)) (some r)
  | .ctx c => if inSlot s c then setSlotRegs s c.toNat (some r) else setRec (setSlotRegs s c.toNat none) c r
/-- The same for what an instruction or the end of a step writes, which a record outside its slot takes from a wake.
DEDUCED, unsafe (log 126). -/
def setRegs (s : State) (t : Thread) (r : Regs) : State :=
  match t with
  | .mp _ => putRegs s t r
  | .ctx c => putRegs (if inSlot s c then s else keepSaved s c) t r
/-- A general register. -/
def Regs.gr (r : Regs) (i : Reg) : DWord := sget 0 r.g i.toNat
/-- The register set with a general register written. -/
def Regs.setG (r : Regs) (i : Reg) (v : DWord) : Regs := { r with g := sset 0 r.g i.toNat v }
/-- A management processor. -/
def mpOf (s : State) (n : BitVec 2) : Mp := sget {} s.eng.mps n.toNat
/-- Writes a management processor. -/
def setMp (s : State) (n : BitVec 2) (m : Mp) : State := { s with eng := { s.eng with mps := sset {} s.eng.mps n.toNat m } }
/-- A cluster's reset value: active and serving itself; cluster 32 stands by as the spare (R204). -/
def clReset (c : Nat) : Cluster := if c = 32 then { mode := .standby, serves := 0x3F } else { serves := BitVec.ofNat 6 c }
/-- A cluster. -/
def clOf (s : State) (c : Nat) : Cluster := sget (clReset c) s.eng.cls c
/-- Writes a cluster. -/
def setCl (s : State) (c : Nat) (x : Cluster) : State := { s with eng := { s.eng with cls := sset (clReset c) s.eng.cls c x } }
/-- The next stamp: an age that grows with every event that scheduling compares. -/
def nextStamp (s : State) : Nat × State := (s.stamp, { s with stamp := s.stamp + 1 })

/-! The ACTIVE staged control word (R172). -/
/-- The ACTIVE staged control word of a context. -/
def cctA (s : State) (c : CtxId) : DWord := tabA s .cct c.toNat 0
/-- PRIO -/ def prioOf (s : State) (c : CtxId) : Nat := fld (cctA s c) 0 4
/-- HOME: also the physical cluster that runs the context -/ def homeOf (s : State) (c : CtxId) : Nat := fld (cctA s c) 4 6
/-- PIN -/ def pinOf (s : State) (c : CtxId) : Bool := bit (cctA s c) 10
/-- TCLASS: true for TIMED -/ def timedOf (s : State) (c : CtxId) : Bool := bit (cctA s c) 11
/-- EVL -/ def evlOf (s : State) (c : CtxId) : Nat := fld (cctA s c) 12 10
/-- RLIM -/ def rlimOf (s : State) (c : CtxId) : Nat := fld (cctA s c) 22 5
/-- CEIL, where 0b10 and 0b11 act as 0b01 (R135). -/
def ceilOf (r : Regs) : Lvl := if r.ceil = 0 then 0 else 1

/-! Whether the device runs (R464, R493). -/
/-- The CORE and MPC clocks run: no F4 latch, and neither STANDBY, OFF nor VDD_CORE lost.
DEDUCED, safe (log 6). -/
def clocksOn (s : State) : Bool := !s.flt.f4 && (s.boot.st != .standby && s.boot.st != .off && s.boot.st != .lost)
/-- A command of the core: its effect while the clocks run, none while they are stopped (assumption log 6).
DEDUCED, safe (log 6). -/
def onCore (f : State → State) (s : State) : Res := .next (if clocksOn s then f s else s)
/-- The boot phases are over and the device runs (R478, R493). -/
def running (s : State) : Bool := clocksOn s && (s.boot.st == .run || s.boot.st == .maint)

/-! Free values. -/
/-- A byte that the manual leaves undefined.
DESIGN CHOICE, safe (log 3). -/
def freshByte (s : State) : Byte × State := (Config.freeByte s.free, { s with free := s.free + 1 })

/-! Memory (R24 to R29). -/
/-- Who accesses memory: a channel engine thread or step engine on a physical cluster, a processor, or the SCT block. -/
inductive Agent where
  | cl (c : Nat)
  | mp (n : BitVec 2)
  | sct
deriving DecidableEq, Repr
/-- The kinds of memory of R24. -/
inductive Kind where
  | reg | scratch | tcm | sram | orch | dram | flash
deriving DecidableEq, Repr
/-- What an unlisted byte of memory reads as: 0xFF in the flash windows; 0 in the Orchard window (R191); elsewhere 0 before the first reset command (assumption log 5), and a
value that the manual leaves undefined after a reset that the byte does not survive (R454, R474, assumption log 3): e counts the resets
of the memories on the chip, p those of the DRAM.
DESIGN CHOICE, safe (log 3), DESIGN CHOICE, unsafe (log 5). -/
def memDefault (e p : Nat) (k : Nat) : Byte :=
  if 0x20_0000_0000 ≤ k ∧ k < 0x21_0000_0000 then 0xFF
  else if 0x2_0000_0000 ≤ k ∧ k < 0x2_0200_0000 then 0
  else
    let n := if 0x10_0000_0000 ≤ k ∧ k < 0x18_0000_0000 then p else e
    if n = 0 then 0 else Config.memByte n k
/-- The defaults of the memory of a state. -/
def memDef (s : State) : Nat → Byte := memDefault s.gal.epoch s.memc.por
/-- One byte of memory by key.
DESIGN CHOICE, unsafe (log 5). -/
def memGet (s : State) (k : Nat) : Byte := sget (memDef s k) s.mem k
/-- Writes one byte of memory by key. -/
def memSet (s : State) (k : Nat) (b : Byte) : State := { s with mem := sset (memDef s k) s.mem k b }
/-- The canonical form of memory. -/
def memWf (s : State) : Bool := swf (memDef s) s.mem
/-- The key of offset o of processor n's tightly coupled memory: a place of the model's own above every device address. -/
def tcmKey (n : BitVec 2) (o : Nat) : Nat := 0x30_0000_0000 + n.toNat * 0x40000 + o
/-- The interface that holds an offset from the start of DRAM (R438). -/
def dramIf (s : State) (a : Nat) : MemIf := if a / 4096 % 2 = 0 then s.memc.i0 else s.memc.i1
/-- Usable DRAM in bytes (R25): 7/8 of the capacity in use on both interfaces. -/
def dramSize (s : State) : Nat := 7 * 2 ^ 30 * 2 ^ s.memc.capUsed.toNat
/-- Whether an offset lies in usable DRAM, on an interface in service, and on no retired page (R25, R448, R450). -/
def dramOk (s : State) (a : Nat) : Bool :=
  decide (a < dramSize s) && (dramIf s a).trained && !(dramIf s a).ret.contains (a / 4096)
/-- The window of the Orchard in bytes (R191). -/
def orchSize (s : State) : Nat := fld (act s (aENG + 0x300)) 0 9 * 0x10000
/-- Whether the scratch of a physical cluster is mapped (R29): not that of a cluster whose contexts the spare has taken over. -/
def scratchOk (s : State) (c : Nat) : Bool := decide (c ≤ 32) && !(decide (c < 32) && decide ((clOf s c).serves = 0x3F))
/-- Where a device address leads for an agent: the kind of memory and the key of the byte; none for a bus error (R24, R26). -/
def locate (s : State) (ag : Agent) (a : Nat) : Option (Kind × Nat) :=
  if a < 0x11_0000 then some (.reg, a)
  else if 0x1000_0000 ≤ a ∧ a < 0x1021_0000 then
    (if scratchOk s ((a - 0x1000_0000) / 0x1_0000) then some (.scratch, a) else none)
  else if 0x2000_0000 ≤ a ∧ a < 0x2001_0000 then
    match ag with
    | .cl c => if scratchOk s c then some (.scratch, 0x1000_0000 + c * 0x1_0000 + (a - 0x2000_0000)) else none
    | _ => none
  else if 0x3000_0000 ≤ a ∧ a < 0x3004_0000 then
    match ag with
    | .mp n => some (.tcm, tcmKey n (a - 0x3000_0000))
    | _ => none
  else if 0x1_0000_0000 ≤ a ∧ a < 0x1_0100_0000 then some (.sram, a)
  else if 0x2_0000_0000 ≤ a ∧ a < 0x2_0000_0000 + orchSize s then some (.orch, a)
  else if 0x10_0000_0000 ≤ a ∧ a < 0x18_0000_0000 then
    (if dramOk s (a - 0x10_0000_0000) then some (.dram, a) else none)
  else if 0x20_0000_0000 ≤ a ∧ a < 0x20_4000_0000 then some (.flash, a)
  else none
/-- Whether an agent at a level may write a kind of memory (R24): the Orchard window at P2 only, flash never. -/
def mayWrite (lvl : Lvl) : Kind → Bool
  | .flash => false
  | .orch => decide (lvl = 2)
  | .reg => false
  | _ => true
/-- Whether the 8-byte word of a key holds an uncorrectable error (R440). -/
def isUpset (s : State) (k : Nat) : Bool := s.memc.upset.contains (k / 8 * 8)
/-- The key of a byte that an agent may read; none for a bus error, uncorrectable errors included. Registers are no bytes.
DEDUCED, unsafe (log 23). -/
def rdKey (s : State) (ag : Agent) (a : Nat) : Option Nat :=
  match locate s ag a with
  | some (.reg, _) => none
  | some (_, k) => if isUpset s k then none else some k
  | none => none
/-- The key of a byte that an agent may write; none for a bus error. -/
def wrKey (s : State) (ag : Agent) (lvl : Lvl) (a : Nat) : Option Nat :=
  match locate s ag a with
  | some (kd, k) => if mayWrite lvl kd then some k else none
  | none => none
/-- Reads n bytes; none for a bus error on any of them. -/
def rdBytes (s : State) (ag : Agent) : Nat → Nat → Option (List Byte)
  | _, 0 => some []
  | a, n + 1 =>
    match rdKey s ag a with
    | none => none
    | some k => (rdBytes s ag (a + 1) n).map (memGet s k :: ·)
/-- Whether all of n bytes may be written. -/
def wrOk (s : State) (ag : Agent) (lvl : Lvl) : Nat → Nat → Bool
  | _, 0 => true
  | a, n + 1 => (wrKey s ag lvl a).isSome && wrOk s ag lvl (a + 1) n
/-- Writes bytes; a byte that may not be written is left out. A write of a whole word ends an uncorrectable error there. -/
def wrBytes (s : State) (ag : Agent) (lvl : Lvl) : Nat → List Byte → State
  | _, [] => s
  | a, b :: bs =>
    match wrKey s ag lvl a with
    | some k => wrBytes (memSet s k b) ag lvl (a + 1) bs
    | none => wrBytes s ag lvl (a + 1) bs
/-- Ends the uncorrectable errors of the words that a write of n bytes at key k covers whole (R441). -/
def healWords (s : State) (k n : Nat) : State :=
  if s.memc.upset.isEmpty then s else
    { s with memc := { s.memc with upset := s.memc.upset.filter fun u => !(decide (k ≤ u ∧ u + 8 ≤ k + n)) } }
/-- Abandons the corrections that wait for words that a write of n bytes at key k reaches (R442). -/
def dropCorr (s : State) (k n : Nat) : State :=
  if s.memc.corr.isEmpty then s else
    { s with memc := { s.memc with
        corr := s.memc.corr.filterMap fun e =>
          let l := e.2.filter fun u => !(decide (u < k + n ∧ k < u + 8))
          if l.isEmpty then none else some (e.1, l) } }
/-- Whether a write of n bytes at key k touches a send word while the express path is on (R303, R523). -/
def touchesSend (s : State) (k n : Nat) : Bool :=
  decide (0x1000_0000 ≤ k ∧ k < 0x1021_0000 ∧ k % 0x1_0000 < 0xFC10 ∧ 0xFC00 < k % 0x1_0000 + n) && bit (act s (aSCT + 0x28)) 0
/-- Writes bytes with the effects of R441 and R442 on the words written; one that touches a send word sets GLB_RSVD_WR (R523). -/
def storeBytes (s : State) (ag : Agent) (lvl : Lvl) (a : Nat) (bs : List Byte) : State :=
  match wrKey s ag lvl a with
  | some k => rsvdIf (touchesSend s k bs.length) (wrBytes (dropCorr (healWords s k bs.length) k bs.length) ag lvl a bs)
  | none => wrBytes s ag lvl a bs
/-- A DRAM write that covers part of a word with an uncorrectable error fails (R441). -/
def partialUpset (s : State) (ag : Agent) (lvl : Lvl) (a n : Nat) : Bool :=
  (List.range n).any fun i =>
    match locate s ag (a + i) with
    | some (.dram, k) => mayWrite lvl .dram && isUpset s k && !(decide (a ≤ a + i - (a + i) % 8 ∧ a + i - (a + i) % 8 + 8 ≤ a + n))
    | _ => false

/-! Ring time (R257). -/
/-- Ring time no earlier than a due time: a command that a deadline brings about happens at that time or later.
DESIGN CHOICE, unsafe (log 13). -/
def atTime (s : State) (t : DWord) : State :=
  if s.time.now.toNat < t.toNat then { s with time := { s.time with now := t } } else s
/-- Whether ring time has reached a time. -/
def timeGe (s : State) (t : DWord) : Bool := decide (t.toNat ≤ s.time.now.toNat)
/-- FLT_PERIOD in force -/ def period (s : State) : Nat := (act s aPERIOD).toNat
/-- FLT_EPOCH in force -/ def epoch (s : State) : Nat := (act s aEPOCHLO).toNat + (act s aEPOCHHI).toNat * 2 ^ 32
/-- T(L), the time of landing L (R261). -/
def lndTime (s : State) (l : Nat) : DWord := BitVec.ofNat 64 (epoch s + l * period s)
/-- The time from FLT_EPOCH to a time, modulo 2^64 as T(L) is; 0 before the epoch. -/
def sinceEpoch (s : State) (t : DWord) : Nat :=
  let d := (t - BitVec.ofNat 64 (epoch s)).toNat
  if d < 2 ^ 63 then d else 0
/-- The highest landing whose time is at or before a time (R261, R271). -/
def lndAt (s : State) (t : DWord) : Nat := if period s = 0 then 0 else sinceEpoch s t / period s

/-! Faults (R456): a block hands a detection to the collector, which FAULT_LATCH takes. -/
/-- A detection of fault source n with its information. -/
def raise (s : State) (n : Nat) (info : Word := 0) : State :=
  { s with flt := { s.flt with det := s.flt.det ++ [(BitVec.ofNat 9 n, info)] } }

/-! Events (R404 to R406). -/
/-- A source of the event controller. -/
def evSrc (s : State) (n : Nat) : EvSrc := sget {} s.evt.src n
/-- Writes a source of the event controller. -/
def setEvSrc (s : State) (n : Nat) (x : EvSrc) : State := { s with evt := { s.evt with src := sset {} s.evt.src n x } }
/-- Word 0 of a source's entry, ACTIVE bank (R424). -/
def evW0 (s : State) (n : Nat) : DWord := tabA s .evt n 0
/-- Whether a source number can be raised (R404). -/
def evReal (n : Nat) : Bool :=
  decide (n < 0x400) || (decide (0x400 ≤ n ∧ n < 0x470) && unitOk (n - 0x400)) || decide ((0x470 ≤ n ∧ n ≤ 0x477) ∨ n = 0x480 ∨ n = 0x481
    ∨ (0x490 ≤ n ∧ n ≤ 0x493) ∨ n = 0x4A0 ∨ n = 0x4A1 ∨ (0x4B0 ≤ n ∧ n ≤ 0x4B2) ∨ n = 0x4C0 ∨ n = 0x4C1 ∨ (0x4D0 ≤ n ∧ n ≤ 0x4D4)
    ∨ (0x680 ≤ n ∧ n ≤ 0x6FF)) || (decide (0x500 ≤ n ∧ n ≤ 0x67F) && (faultSrc (n - 0x500)).isSome)
/-- A firing of a source (R406): PENDING, coalesced, or ACTIVE_PENDING; no effect on an INACTIVE source with EN = 0. -/
def evFire (s : State) (n : Nat) (info : Word) : State :=
  let x := evSrc s n
  match x.st with
  | .inactive => if bit (evW0 s n) 11 then setEvSrc s n { x with st := .pending, queued := false, info := info, time := s.time.now, more := false } else s
  | .pending => setEvSrc s n { x with more := true }
  | .active => setEvSrc s n { x with st := .activePending, info := info, time := s.time.now, more := false }
  | .activePending => setEvSrc s n { x with more := true }
/-- Whether SENSE makes a level source pending when its signal goes from a to b (R405); level modes fire while the level holds. -/
def senseFires (sense : Nat) (a b : Bool) : Bool :=
  match sense with
  | 0 => b
  | 1 => !b
  | 2 => !a && b
  | 3 => a && !b
  | 4 => a != b
  | _ => false
/-- The signal of a level source takes a level (R405). A source in level mode that holds its level does not fire again while PENDING. -/
def evLevel (s : State) (n : Nat) (b : Bool) (info : Word) : State :=
  let x := evSrc s n
  let sense := fld (evW0 s n) 8 3
  let s1 := setEvSrc s n { x with level := b }
  if senseFires sense x.level b && (decide (2 ≤ sense) || decide (x.st = .inactive) || (x.level != b && decide (x.st = .active))) then evFire s1 n info else s1

end Sys2Proof.Machine
end

