-- ==== Sys2Proof/Machine/Ecc.lean ====
section
/-! DEFINITION. What an ECC decode found (R440 to R443): the log, the corrections, the words that hold an uncorrectable error, and the waits for an
interface that is retrained (R453). -/
namespace Sys2Proof.Machine

/-- The key of word w of a Gallery record among the words with uncorrectable errors: a place of the model's own. -/
def recKey (c : CtxId) (w : Nat) : Nat := 0x40_0000_0000 + c.toNat * 256 + w * 8
/-- A DRAM interface: 0 or 1. -/
def memIf (s : State) (i : Bool) : MemIf := if i then s.memc.i1 else s.memc.i0
/-- Writes a DRAM interface. -/
def setIf (s : State) (i : Bool) (x : MemIf) : State :=
  if i then { s with memc := { s.memc with i1 := x } } else { s with memc := { s.memc with i0 := x } }
/-- Source 0x4C1 follows the STALE bits (R452). -/
def staleSignal (s : State) : State :=
  evLevel s 0x4C1 (s.memc.i0.stale || s.memc.i1.stale) (BitVec.ofNat 32 (b2n s.memc.firstStale))
/-- STALE of an interface is set (R452); a retrain falls due at the next landing (R453). -/
def setStale (s : State) (i : Bool) : State :=
  let x := memIf s i
  if x.stale then s
  else
    let s1 := setIf s i { x with stale := true, due := true }
    staleSignal (if (memIf s (!i)).stale then s1 else { s1 with memc := { s1.memc with firstStale := i } })
/-- Whether the temperature of an interface makes it stale (R452). -/
def staleTemp (s : State) (i : Bool) : Bool :=
  let x := memIf s i
  decide (20 < (x.temp.toInt - x.ttrain.toInt).natAbs)
/-- Whether the corrected errors of a tracking period make an interface stale (R452). -/
def staleCe (s : State) (i : Bool) : Bool :=
  let th := fld (act s (aMEM + 4)) 0 16
  decide (th ≠ 0) && decide (th ≤ (memIf s i).ceCnt)
/-- Counts a corrected error (R452, R455). -/
def countCe (s : State) (m : Nat) : State :=
  if m ≤ 1 then
    let i := decide (m = 1)
    let s1 := bump s (aMEM + 0x20 + 4 * m)
    let s2 := setIf s1 i { memIf s1 i with ceCnt := (memIf s1 i).ceCnt + 1 }
    if staleCe s2 i then setStale s2 i else s2
  else bump s (aMEM + 0x28)
/-- MEM_LOG_WIDX less MEM_LOG_RIDX. -/
def logFill (s : State) : Nat := (s.memc.widx - (imr s (aMEM + 0x34)).setWidth 16).toNat
/-- An entry of the ECC log is written (R447). -/
def logWrite (s : State) (m typ : Nat) (syn : Byte) (addr : Nat) : State :=
  let i := s.memc.widx.toNat % 256
  let e : LogEnt := { addr := BitVec.ofNat 48 addr, memid := BitVec.ofNat 4 m, typ := BitVec.ofNat 4 typ, syn := syn, time := s.time.now }
  let s1 := if logFill s = 256 then bump s (aMEM + 0x38) else s
  evFire { s1 with memc := { s1.memc with log := sset {} s1.memc.log i e, widx := s1.memc.widx + 1 } } 0x4C0 (BitVec.ofNat 32 i)
/-- A correctable error that a read found waits for its write-back when the queue of its memory has room (R442). -/
def corrAdd (s : State) (m key : Nat) : State :=
  let l := sget [] s.memc.corr m
  if l.length < 8 then { s with memc := { s.memc with corr := sset [] s.memc.corr m (l ++ [key / 8 * 8]) } } else s
/-- The word of a key holds an uncorrectable error. -/
def upsetAdd (s : State) (key : Nat) : State :=
  let u := key / 8 * 8
  if s.memc.upset.contains u then s else { s with memc := { s.memc with upset := s.memc.upset ++ [u] } }
/-- An uncorrectable entry of the tables: it reads as its reset value in the bank in force, until it is written (R440).
DEDUCED, unsafe (log 33). -/
def tabUe (s : State) (n : Nat) : State :=
  let k := n / 0x1_0000 * 0x100_0000 + n % 0x1_0000 * 16
  { s with reg := { s.reg with tabA := s.reg.tabA.filter fun e => e.1 / 16 ≠ k / 16 } }
/-- What a decode is for: a read whose correction is written back, a write, a scrub read, or a cached line that is discarded and fetched again. -/
inductive EccUse where
  | read | write | scrub | refetch
deriving DecidableEq, Repr
/-- What the decode of a word found: memory, log address, the key of the word in this model, the finding and its use. -/
structure EccHit where
  m : Nat
  addr : Nat
  key : Nat
  e : Ecc
  use : EccUse
/-- Whether a finding is uncorrectable (R440, R443). -/
def eccBad : Ecc → Bool
  | .ue _ | .addr _ | .chkmis _ => true
  | _ => false
/-- The TYPE and SYNDROME of the log entry of a finding (R446); none when it found nothing. -/
def eccType (use : EccUse) : Ecc → Option (Nat × Byte)
  | .good => none
  | .ce syn => some (if use = .scrub then 6 else 0, syn)
  | .ue syn => some (match use with | .scrub => 7 | .refetch => 4 | _ => 1, syn)
  | .addr syn => some (match use with | .scrub => 7 | .refetch => 4 | _ => 2, syn)
  | .link lanes => some (3, lanes)
  | .chkmis syn => some (5, syn)
/-- What a finding does beside its log entry (R440 to R443): a correctable error is counted, and one that a read found waits for its write-back; an
uncorrectable one is counted and raises MEM_UE, and its word reads so from then on but for a line discarded, a frame in the Vestibule, and a
mismatch of the decoders, which says nothing of the word stored.
DEDUCED, unsafe (log 23). -/
def eccAct (s : State) (h : EccHit) : State :=
  match h.e with
  | .good => s
  | .link _ => countCe s h.m
  | .ce _ =>
    let s1 := countCe s h.m
    if h.use = .write then s1 else corrAdd s1 h.m h.key
  | .chkmis _ => raise (raise (bump s (aMEM + 0x2C)) 0x060) 0x061
  | _ => raise (bump (if h.use = .refetch ∨ h.m = 5 then s else if h.m = 9 then tabUe s h.addr else upsetAdd s h.key) (aMEM + 0x2C)) 0x060
/-- A finding is logged, or lost and counted in MEM_LOG_LOST, and has its effects (R447). -/
def eccPut (lost : Bool) (s : State) (h : EccHit) : State :=
  match eccType h.use h.e with
  | none => s
  | some (t, syn) => eccAct (if lost then bump s (aMEM + 0x3C) else logWrite s h.m t syn h.addr) h
/-- The findings that are not good, those of a higher MEMID first (R447). -/
def eccOrder (l : List EccHit) : List EccHit :=
  (List.range 16).reverse.flatMap fun m => l.filter fun h => h.m = m && h.e != .good
/-- The findings of one command: they arrive in one cc, so that one is written, eight wait, and the rest are lost (R447).
DESIGN CHOICE, unsafe (log 131). -/
def eccAll (s : State) (l : List EccHit) : State := (eccOrder l).zipIdx.foldl (fun s h => eccPut (decide (9 ≤ h.2)) s h.1) s
/-- One finding. -/
def eccNote (s : State) (m addr key : Nat) (e : Ecc) (use : EccUse) : State := eccAll s [{ m := m, addr := addr, key := key, e := e, use := use }]
/-- The entry of an uncorrectable error outside DRAM that a read meets in word u of a kind of memory (R131, R229, R440); its syndrome is a free value.
That of DRAM is logged by DRAM_ACCESS_DONE.
DEDUCED, unsafe (log 23). -/
def noteWord (s : State) (kind : Kind) (u : Nat) : State :=
  let m := match kind with | .orch => some 3 | .sram => some 4 | .scratch => some 6 | .tcm => some 8 | _ => none
  match m with
  | some m =>
    let at_ := if m = 8 then u % 0x4_0000 + u / 0x4_0000 % 4 * 2 ^ 40 else u
    eccNote { s with free := s.free + 1 } m at_ u (.ue (Config.freeByte s.free)) .read
  | none => s
/-- That of a mover read, which reads the line of an address (R229). -/
def noteUe (s : State) (ag : Agent) (a : Nat) : State :=
  match locate s ag a with
  | some (kind, key) =>
    match s.memc.upset.find? fun u => decide (u < key / 64 * 64 + 64 ∧ key < u + 8) with
    | some u => noteWord s kind u
    | none => s
  | none => s
/-- That of the first of n bytes that meets a bus error (R131). -/
def noteUeIn (s : State) (ag : Agent) (a n : Nat) : State :=
  match (List.range n).find? fun i => (rdKey s ag (a + i)).isNone with
  | some i => (match locate s ag (a + i) with | some (kind, key) => if isUpset s key then noteWord s kind (key / 8 * 8) else s | none => s)
  | none => s
/-- The entry of an uncorrectable error that a read of word w of a record meets (R203, R440). -/
def noteRec (s : State) (c : CtxId) (w : Nat) : State :=
  eccNote { s with free := s.free + 1 } 2 (256 * c.toNat + 8 * w) (recKey c w) (.ue (Config.freeByte s.free)) .read
/-- What decodes of the words of a record found: what the state already knows of its words, then the findings listed (R440). -/
def recFinds (s : State) (c : CtxId) (found : WordEcc 5) (use : EccUse) : List EccHit × State :=
  let known := (List.range 32).filter fun w => s.memc.upset.contains (recKey c w)
  let hit := fun (w : Nat) (e : Ecc) => ({ m := 2, addr := 256 * c.toNat + 8 * w, key := recKey c w, e := e, use := use } : EccHit)
  ((known.zipIdx.map fun k => hit k.1 (.ue (Config.freeByte (s.free + k.2)))) ++
    (found.filter fun f => !known.contains f.1.toNat).map fun f => hit f.1.toNat f.2, { s with free := s.free + known.length })
/-- The entries of a record load that fails on errors already known (R440). -/
def noteRecs (s : State) (c : CtxId) : State := let (l, s1) := recFinds s c [] .read; eccAll s1 l
/-- Abandons the corrections that wait for entries of a table that a write reaches (R442): n entries from entry i. -/
def dropTab (s : State) (tab i n : Nat) : State :=
  if i < 0x1_0000 then dropCorr s (0x60_0000_0000 + 8 * (tab * 0x1_0000 + i)) (8 * Nat.min n (0x1_0000 - i)) else s
/-- Whether an access at an address waits for a DRAM interface that is being retrained (R453). -/
def stalled (s : State) (ag : Agent) (a : Nat) : Bool :=
  match locate s ag a with
  | some (.dram, _) => (memIf s (decide (a / 4096 % 2 = 1))).retraining
  | _ => false

/-- Whether one of n bytes waits so. -/
def stalledIn (s : State) (ag : Agent) (a n : Nat) : Bool :=
  (s.memc.i0.retraining || s.memc.i1.retraining) && (stalled s ag a || stalled s ag (a + n - 1))

end Sys2Proof.Machine
end

