-- ==== Sys2Proof/Machine/Unit.lean ====
section
/-! DEFINITION. The status of a device port unit (R378 to R380) and its events. -/
namespace Sys2Proof.Machine

/-- A device port unit. -/
def unitOf (s : State) (u : Nat) : DUnit := sget {} s.dpt u
/-- Writes a device port unit. -/
def setUnit (s : State) (u : Nat) (x : DUnit) : State := { s with dpt := sset {} s.dpt u x }
/-- The encoding of an enable state (R8, R249, R378). -/
def enCode : EnState → Nat
  | .disabled => 0 | .active => 1 | .draining => 2 | .error => 3
/-- PORT_STS of a unit (R378). -/
def portSts (s : State) (u : Nat) : Byte :=
  let x := unitOf s u
  BitVec.ofNat 8 (x.code.toNat + 32 * enCode x.st + 128 * b2n x.attn)
/-- DPT_U_u_CTL.EVEN -/ def unitEven (s : State) (u : Nat) : Bool := bit (act s (aUnit u 0)) 2
/-- DPT_U_u_CTL.ACC: the step access level (R383) -/ def unitAcc (s : State) (u : Nat) : Nat := fld (act s (aUnit u 0)) 0 2
/-- A class setting of a unit. -/
def unitCfg (s : State) (u i : Nat) : Word := act s (aUnit u (0x10 + 4 * i))
/-- Adds k to counter k of a unit (R403). -/
def unitCount (s : State) (u k : Nat) (n : Nat := 1) : State := bumpBy s (aUnit u (0x20 + 4 * k)) n
/-- The signal of the unit's event source follows ATTN while EVEN = 1 (R378). -/
def unitSignal (s : State) (u : Nat) : State :=
  evLevel s (0x400 + u) ((unitOf s u).attn && unitEven s u) ((portSts s u).setWidth 32)
/-- The unit records a condition (R378); attn tells whether it sets ATTN. -/
def unitNote (s : State) (u code : Nat) (attn : Bool) : State :=
  let x := unitOf s u
  unitSignal (setUnit s u { x with code := BitVec.ofNat 5 code, attn := x.attn || attn }) u
/-- A pulse at the end of a drain while EVEN = 1 (R404). -/
def unitPulse (s : State) (u : Nat) : State := if unitEven s u then evFire s (0x400 + u) ((portSts s u).setWidth 32) else s
/-- TXDEPTH of a class (R376); 0 for a class that only receives. -/
def txDepth (cls : Nat) : Nat :=
  match cls with
  | 0 => 16 | 1 => 4 | 2 => 4 | 4 => 8 | 6 => 4 | 7 => 8 | _ => 0
/-- RXDEPTH of a class (R377); 0 for CSI, which has no record count. -/
def rxDepth (cls : Nat) : Nat :=
  match cls with
  | 0 => 32 | 1 => 8 | 2 => 4 | 4 => 8 | 5 => 32 | 6 => 8 | 7 => 32 | _ => 0
/-- The element size of a class (R373). -/
def elemSize (cls : Nat) : Nat := if cls = 3 then 64 else if cls = 4 then 4 else 16
/-- Whether a class can send (R39). -/
def canSend (cls : Nat) : Bool := cls != 3 && cls != 5
/-- The bytes in a CSI receive FIFO (R394). -/
def rxBytes (x : DUnit) : Nat := (x.rx.map fun r => r.bytes.length).foldl (· + ·) 0

end Sys2Proof.Machine
end

