-- ==== Sys2Proof/Machine/Send.lean ====
section
/-! DEFINITION. Sending: the egress queues of the ring ports (R320, R322), SCT frames (R281, R283, R316) and sessions (R297, R299). -/
namespace Sys2Proof.Machine

/-- A ring port. -/
def portOf (s : State) (b : Bool) : Port := if b then s.ring.b else s.ring.a
/-- Writes a ring port. -/
def setPort (s : State) (b : Bool) (p : Port) : State :=
  if b then { s with ring := { s.ring with b := p } } else { s with ring := { s.ring with a := p } }
/-- Adds 1 to counter k of a port (R337). -/
def portCount (s : State) (b : Bool) (k : Nat) : State := bump s (aPCnt b k)
/-- The bytes of a frame on the wire from DA to FCS, padded to the Ethernet minimum (R281). -/
def frameLen (f : Frame) : Nat :=
  Nat.max 64 (14 + f.body.length + 4 + (if f.ctag.isSome then 4 else 0) + (if f.rtag.isSome then 6 else 0))
/-- An egress queue of a port. -/
def egQ (s : State) (b : Bool) (q : Nat) : List EgFrame := sget [] (portOf s b).q q
/-- Writes an egress queue of a port. -/
def setEgQ (s : State) (b : Bool) (q : Nat) (l : List EgFrame) : State :=
  setPort s b { portOf s b with q := sset [] (portOf s b).q q l }
/-- The bytes in a queue. -/
def queueBytes (l : List EgFrame) : Nat := (l.map fun e => frameLen e.f).foldl (· + ·) 0
/-- The bytes in the eight queues of a port. -/
def portBytes (s : State) (b : Bool) : Nat := (((portOf s b).q.filter fun e => e.1 ≠ 8).map fun e => queueBytes e.2).foldl (· + ·) 0
/-- PA_CFG.MAXLEN -/ def maxLen (s : State) (b : Bool) : Nat := fld (act s (aPort b)) 8 14
/-- The queue of a PCP (R320). -/
def pcpQueue (s : State) (b : Bool) (pcp : Nat) : Nat := fld (act s (aPort b + 0x80)) (3 * pcp) 3
/-- MAXSDU of queue q; 0 stands for MAXLEN (R336). -/
def maxSdu (s : State) (b : Bool) (q : Nat) : Nat :=
  let m := fld (act s (aPort b + 0x60 + 4 * q)) 0 14
  if m = 0 then maxLen s b else m
/-- A frame enters queue q of a port under the limits of R320, against which it counts with n bytes; port c counts a drop (R337), and cut tells
whether it goes on by cut-through. Nothing is added while the port is not ACTIVE (R314). -/
def enqueueAs (s : State) (b : Bool) (q : Nat) (f : Frame) (c : Bool) (n : Nat) (cut : Bool) : State :=
  if (portOf s b).st ≠ .active then s
  else if maxSdu s b q < frameLen f then portCount s c 6
  else if fld (act s (aPort b + 0x60 + 4 * q)) 16 8 * 0x10000 < queueBytes (egQ s b q) + n
      ∨ 28 * 0x100000 < portBytes s false + portBytes s true + n then portCount s c 5
  else setEgQ s b q (egQ s b q ++ [{ f := f, cut := cut }])
/-- A frame of this device enters queue q of a port (R320, R337). -/
def enqueue (s : State) (b : Bool) (q : Nat) (f : Frame) : State := enqueueAs s b q f b (frameLen f) false

/-- VMAX -/ def vMax (s : State) : Byte := BitVec.ofNat 8 (fld (act s aSCT) 16 8)
/-- VMIN -/ def vMin (s : State) : Byte := BitVec.ofNat 8 (fld (act s aSCT) 24 8)
/-- The ring group address (R281). -/
def groupAddr (s : State) : BitVec 48 := BitVec.ofNat 48 ((act s (aSCT + 8)).toNat % 0x10000 * 0x1_0000_0000 + (act s (aSCT + 4)).toNat)
/-- The source MAC address of this device (R281). -/
def ownMac (s : State) : BitVec 48 := BitVec.ofNat 48 (0x0253_4354_0000 + s.rm.addr.toNat)
/-- The first 14 bytes of an SCT header (R283). -/
def hdr14 (ver typ flags dst src hops : Byte) (session : Half) (seq : Word) (len : Nat) : List Byte :=
  [ver, typ, flags, dst, src, hops] ++ beBytes 2 session.toNat ++ beBytes 4 seq.toNat ++ beBytes 2 len
/-- A header with its HCHK (R283). -/
def hdr16 (h : List Byte) : List Byte := h ++ beBytes 2 (crcOf 3 h)
/-- FLAGS bits (R283). -/
def flagsOf (ackreq express last retry : Bool) : Byte := BitVec.ofNat 8 (b2n ackreq + 2 * b2n express + 4 * b2n last + 8 * b2n retry)

/-- A frame that this device originates on one port: the C-tag of PA_OTAG, queued by its PCP (R322). -/
def sendOn (s : State) (b : Bool) (f : Frame) (express : Bool) : State :=
  let o := act s (aPort b + 0x84)
  let pcp := if express then fld o 15 3 else fld o 12 3
  let f' := if bit o 18 then { f with ctag := some (BitVec.ofNat 16 (pcp * 0x2000 + fld o 0 12)) } else f
  enqueue s b (pcpQueue s b pcp) f'
/-- The frame of an SCT header and payload with the next R-TAG number (R316). -/
def sctFrame (s : State) (h body : List Byte) : Frame :=
  { da := groupAddr s, sa := ownMac s, ctag := none, rtag := some s.sct.rtag, etype := (act s aSCT).setWidth 16, body := hdr16 h ++ body }
/-- The R-TAG counter advances by 1 (R316). -/
def nextRtag (s : State) : State := { s with sct := { s.sct with rtag := s.sct.rtag + 1 } }
/-- An SCT frame queued on both ports (R316). -/
def sendSct (s : State) (ver typ flags dst : Byte) (session : Half) (seq : Word) (body : List Byte) : State :=
  let h := hdr14 ver typ flags dst s.rm.addr (BitVec.ofNat 8 (fld (act s (aSCT + 0xC)) 0 8)) session seq body.length
  let f := sctFrame s h body
  let ex := bit flags 1
  sendOn (sendOn (nextRtag s) false f ex) true f ex
/-- A sessionless message with the sender's VMAX (R296). -/
def sendLess (s : State) (typ dst : Byte) (body : List Byte) : State := sendSct s (vMax s) typ 4 dst 0xFFFF 0 body

/-- The key of a session. -/
def skey : SessKey → Nat
  | .host n => n.toNat
  | .peer a => 0x40 + a.toNat
/-- A session. -/
def sessOf (s : State) (k : Nat) : Sess := sget {} s.sct.sess k
/-- Writes a session. -/
def setSess (s : State) (k : Nat) (x : Sess) : State := { s with sct := { s.sct with sess := sset {} s.sct.sess k x } }
/-- SESSION of a key (R284). -/
def sessNo (k : Nat) : Half := if k < 0x40 then BitVec.ofNat 16 k else 0x8000
/-- The address at the other end of a session. -/
def sessDst (s : State) (k : Nat) : Byte := if k < 0x40 then (sessOf s k).host else BitVec.ofNat 8 (k - 0x40)
/-- Whether a session is OPEN. -/
def isOpen (s : State) (k : Nat) : Bool := (sessOf s k).st == .opened
/-- A frame of a session. -/
def sendSess (s : State) (k : Nat) (typ flags : Byte) (seq : Word) (body : List Byte) : State :=
  sendSct s (sessOf s k).ver typ flags (sessDst s k) (sessNo k) seq body

/-- The queues of a HEADPUB that enters egress take PUBHEAD := HEAD, and their COAL_TIME timers stop (R248). -/
def pubSent (s : State) : List Byte → State
  | a :: b :: _ :: _ :: e :: f :: g :: h :: r =>
    let q := beNat [a, b]
    let x : WqLive := sget {} s.wq.q q
    pubSent { s with wq := { s.wq with
      q := sset {} s.wq.q q { x with pubhead := BitVec.ofNat 32 (beNat [e, f, g, h]), coal := none } } } r
  | _ => s
/-- A message is given its SEQ, leaves for the ring and stays until it is acknowledged; ack is ACKREQ (R297, R299). A request is noted
until it is answered (R286), a SIGNAL or RESUME with its target (R291). -/
def transmit (s : State) (k : Nat) (m : TxMsg) (ack : Bool) : State :=
  let x := sessOf s k
  let m' := { m with seq := x.next, sent := s.time.now }
  let s1 := if m.typ = 0x17 then pubSent s m.body else s
  let y : Sess := { x with next := x.next + 1, unacked := x.unacked ++ [m'] }
  let z : Sess :=
    if m.typ = 0x10 ∨ m.typ = 0x12 then { y with reqs := y.reqs ++ [(x.next, m.typ == 0x12)] }
    else if m.typ = 0x16 ∨ m.typ = 0x19 then { y with sigs := y.sigs ++ [(x.next, BitVec.ofNat 32 (beNat (m.body.take 4)))] }
    else y
  sendSess (setSess s1 k z) k m.typ (flagsOf ack false m.last false) x.next m.body
/-- Whether the window has room for one more message (R299). -/
def hasWindow (s : State) (k : Nat) : Bool := decide ((sessOf s k).unacked.length < (sessOf s k).win.toNat)
/-- Sends waiting messages while the window has room; answers who waited for the messages that left (R519). -/
def pumpList (s : State) (k : Nat) : List TxMsg → State × List SendOwner
  | [] => (setSess s k { sessOf s k with waitq := [] }, [])
  | m :: ms =>
    if hasWindow s k then
      let fills := decide ((sessOf s k).unacked.length + 1 = (sessOf s k).win.toNat)
      let (s', os) := pumpList (transmit s k m (fills || ms.isEmpty)) k ms
      (s', m.own :: os)
    else (setSess s k { sessOf s k with waitq := m :: ms }, [])
/-- Sends what the window of an open session allows. -/
def pump (s : State) (k : Nat) : State × List SendOwner :=
  if isOpen s k then pumpList s k (sessOf s k).waitq else (s, [])
/-- Hands messages to the send path of a session; they leave at once when nothing waits before them and the window has room.
DEDUCED, unsafe (log 50). -/
def sessPush (s : State) (k : Nat) (ms : List TxMsg) : State × List SendOwner :=
  pump (setSess s k { sessOf s k with waitq := (sessOf s k).waitq ++ ms }) k
/-- A message for which nobody waits. -/
def sessSend (s : State) (k : Nat) (typ : Byte) (body : List Byte) : State := (sessPush s k [{ typ := typ, body := body }]).1

/-- The device that answers at the manager alias 0xFE (R346, R354): the present manager, else a present segment manager.
DEDUCED, unsafe (log 46). -/
def aliasAddr (s : State) : Byte :=
  match s.rm.table.find? fun t => t.present && t.role == 2 with
  | some t => t.addr
  | none => match s.rm.table.find? fun t => t.present && t.role == 3 with
    | some t => t.addr
    | none => s.rm.mgr
/-- A worker's SCT FAULT to the manager (R294, R469): source, class, information, with the ring time of the occurrence. -/
def reportFault (s : State) (src cls : Nat) (info : Word) : State :=
  let a := aliasAddr s
  if (s.rm.role = .worker ∨ s.rm.role = .standby) ∧ a ≠ 0 ∧ a ≠ s.rm.addr then
    sessSend s (0x40 + a.toNat) 0x38 (beBytes 2 src ++ [BitVec.ofNat 8 cls, 0] ++ beBytes 8 s.time.now.toNat ++ beBytes 4 info.toNat)
  else s

/-- The payload of a NAK (R290). -/
def nakBody (reqseq : Word) (reason typ : Byte) (detail : Nat) : List Byte :=
  beBytes 4 reqseq.toNat ++ [reason, typ, 0, 0] ++ beBytes 8 detail
/-- Counts a NAK sent. -/
def nakCount (s : State) : State := bump s (aSCT + 0x5C)
/-- A sequenced NAK on an open session (R290). -/
def nakSeq (s : State) (k : Nat) (reqseq : Word) (reason typ : Byte) (detail : Nat := 0) : State :=
  sessSend (nakCount s) k 0x3F (nakBody reqseq reason typ detail)
/-- NAK OUT_OF_ORDER on an open session: unsequenced, SEQ 0 (R290, R297).
DEDUCED, unsafe (log 81). -/
def nakOoo (s : State) (k : Nat) (e : Word) (typ : Byte) : State := sendSess (nakCount s) k 0x3F 4 0 (nakBody e 1 typ 0)
/-- An unsequenced NAK to an address on a SESSION value (R290, R295, R296). -/
def nakRaw (s : State) (dst : Byte) (session : Half) (reqseq : Word) (reason typ : Byte) : State :=
  sendSct (nakCount s) (vMax s) 0x3F 4 dst session 0 (nakBody reqseq reason typ 0)
/-- The acknowledgement: a session KEEPALIVE with ACKSEQ = E − 1 and the free window (R298). -/
def sendAck (s : State) (k : Nat) : State :=
  let x := sessOf s k
  sendSess (setSess s k { x with accCnt := 0, accAt := none }) k 0x3E 4 0
    (beBytes 4 (x.e - 1).toNat ++ beBytes 2 (x.win.toNat - x.rxq.length) ++ [0, 0])

end Sys2Proof.Machine
end

