-- ==== Sys2Proof/Machine/WqCore.lean ====
section
/-! DEFINITION. The completion of queue entries: bad entries (R246), HEAD (R247) and its publication (R248). -/
namespace Sys2Proof.Machine

/-- The live half of a queue. -/
def wqOf (s : State) (q : QId) : WqLive := sget {} s.wq.q q.toNat
/-- Writes the live half of a queue. -/
def setWq (s : State) (q : QId) (x : WqLive) : State := { s with wq := { s.wq with q := sset {} s.wq.q q.toNat x } }
/-- Word w of the staged half of a descriptor, ACTIVE bank (R254). -/
def wqW (s : State) (q : QId) (w : Nat) : DWord := tabA s .wq q.toNat w
/-- WEIGHT -/ def wqWeight (s : State) (q : QId) : Nat := fld (wqW s q 1) 8 8
/-- BURST -/ def wqBurst (s : State) (q : QId) : Nat := fld (wqW s q 1) 16 7
/-- The address of the entry with a count (R233). -/
def entryAddr (x : WqLive) (cnt : Word) : Nat := x.base.toNat + 64 * (cnt.toNat % 2 ^ x.log2.toNat)
/-- A queue's event (R254): the event line EVL when EVEN = 1, with KIND and a reason (R404). -/
def wqEvent (s : State) (q : QId) (kind reason : Nat) : State :=
  if bit (wqW s q 3) 10 then evFire s (fld (wqW s q 3) 0 10) (BitVec.ofNat 32 (q.toNat + kind * 0x100000 + reason * 0x1000000)) else s

/-- The entries of HEADPUB with the HEAD of a queue added; a later HEAD of a queue in the list replaces the earlier (R292). -/
def pubJoin (q : QId) (head : Word) : List Byte → List Byte
  | a :: b :: c :: d :: e :: f :: g :: h :: r =>
    if beNat [a, b] = q.toNat then [a, b, c, d] ++ beBytes 4 head.toNat ++ r else a :: b :: c :: d :: e :: f :: g :: h :: pubJoin q head r
  | _ => beBytes 2 q.toNat ++ [0, 0] ++ beBytes 4 head.toNat
/-- The messages that wait with a publication joined to a HEADPUB among them that has room; none when there is none (R292). -/
def pubInto (q : QId) (head : Word) : List TxMsg → Option (List TxMsg)
  | [] => none
  | m :: ms =>
    if m.typ = 0x17 ∧ (pubJoin q head m.body).length ≤ 512 then some ({ m with body := pubJoin q head m.body } :: ms)
    else (pubInto q head ms).map (m :: ·)
/-- A publication falls due: HEADPUB to the subscriber session, or the drop of R292. PUBHEAD is written when the message enters
egress (transmit). -/
def publish (s : State) (q : QId) : State :=
  let x := wqOf s q
  let k := fld (wqW s q 1) 24 6
  if isOpen s k && decide (0x20 ≤ (sessOf s k).ver.toNat) then
    match pubInto q x.head (sessOf s k).waitq with
    | some l => setSess s k { sessOf s k with waitq := l }
    | none => sessSend s k 0x17 (pubJoin q x.head [])
  else bump (setWq s q { x with pubhead := x.head, coal := none }) (aSCT + 0x60)
/-- The publication rules of R248 after HEAD has advanced or the queue has changed; force stands for ERROR and drain end.
DESIGN CHOICE, unsafe (log 142). -/
def pubCheck (s : State) (q : QId) (force : Bool) : State :=
  let x := wqOf s q
  if !bit (wqW s q 1) 31 ∨ x.head = x.pubhead then setWq s q { x with notify := false }
  else
    let due := force || x.notify || decide (Nat.max 1 (fld (wqW s q 2) 0 16) ≤ (x.head - x.pubhead).toNat)
    let x' := { x with notify := false, coal := if x.coal.isNone then some s.time.now else x.coal }
    if due then publish (setWq s q x') q else setWq s q x'

/-- The leading entries that have completed: how many, whether one carries NOTIFY, and the entries after them (R247). -/
def popDone : List WqEntry → Nat × Bool × List WqEntry
  | [] => (0, false, [])
  | e :: es =>
    if e.done then
      let (n, nt, r) := popDone es
      (n + 1, nt || bit (byteAt e.bytes 2) 1, r)
    else (0, false, e :: es)
/-- HEAD advances over the completed entries, and the publication rules run (R247, R248). -/
def headAdvance (s : State) (q : QId) : State :=
  let x := wqOf s q
  let (n, nt, r) := popDone x.ents
  if n = 0 then s
  else pubCheck (setWq s q { x with head := x.head + BitVec.ofNat 32 n, ents := r, notify := x.notify || nt }) q false
/-- An entry completes (R244, R247). -/
def entryDone (s : State) (q : QId) (cnt : Word) : State :=
  let x := wqOf s q
  headAdvance (setWq s q { x with ents := x.ents.map fun e => if e.cnt = cnt then { e with started := true, done := true } else e }) q
/-- An entry completes as bad: byte 0 := 0x7F, BADIDX, BADKIND and BADREASON, WQ_BAD_CNT and the event (R246). -/
def entryBad (s : State) (q : QId) (cnt : Word) (kind : Nat) (reason : Byte) : State :=
  let x := wqOf s q
  let s1 := storeBytes s .sct 2 (entryAddr x cnt) [0x7F]
  let s2 := bump (setWq s1 q { x with badidx := cnt, badkind := BitVec.ofNat 4 kind, badreason := reason }) (aWQ + 0x48)
  entryDone (wqEvent s2 q 4 reason.toNat) q cnt
/-- The started entries of a queue that have not completed. -/
def wqStarted (x : WqLive) : Nat := (x.ents.filter fun e => e.started && !e.done).length

end Sys2Proof.Machine
end

