-- ==== Sys2Proof/Machine/Context.lean ====
section
/-! DEFINITION. Contexts: saves and slots (R170, R187), waits, reports (R80 to R86), the end of a step and of a chain (R48 to R56), and
every entry into HALTED (R177, R200). -/
namespace Sys2Proof.Machine

/-! Status bits (R84) and reasons (R85). -/
/-- DONE -/ abbrev sDONE : Nat := 0x0001
/-- SHORT -/ abbrev sSHORT : Nat := 0x0002
/-- LONG -/ abbrev sLONG : Nat := 0x0004
/-- HELD -/ abbrev sHELD : Nat := 0x0008
/-- NOTED -/ abbrev sNOTED : Nat := 0x0010
/-- FAULT_BUS -/ abbrev sBUS : Nat := 0x0020
/-- FAULT_ALIGN -/ abbrev sALIGN : Nat := 0x0040
/-- FAULT_PROT -/ abbrev sPROT : Nat := 0x0080
/-- CRC_BAD -/ abbrev sCRC : Nat := 0x0100
/-- CHAIN_BAD -/ abbrev sCHAIN : Nat := 0x0200
/-- PORT_ERR -/ abbrev sPORT : Nat := 0x0400
/-- PORT_ATTN -/ abbrev sATTN : Nat := 0x0800
/-- ABORTED -/ abbrev sABORT : Nat := 0x1000
/-- TAKEN_OVER -/ abbrev sTAKEN : Nat := 0x2000

/-- Whether status bits mean failure (R53). -/
def failed (st : Nat) (shortOk : Bool) : Bool := decide (st &&& 0x37E4 ≠ 0) || (decide (st &&& sSHORT ≠ 0) && !shortOk)

/-- Who a context is to memory: its home cluster (R208). -/
def ctxAgent (s : State) (c : CtxId) : Agent := .cl (homeOf s c)
/-- CTX of a context: local id and ring address (R82, R94). -/
def ctxWord (s : State) (c : CtxId) : Word := BitVec.ofNat 32 (c.toNat + s.rm.addr.toNat * 0x40000)
/-- An event of a context on its line EVL (R404). -/
def ctxEvent (s : State) (c : CtxId) (kind reason : Nat) : State :=
  evFire s (evlOf s c) (BitVec.ofNat 32 (c.toNat + kind * 0x100000 + reason * 0x1000000))

/-! Saves, slots and waits. -/
/-- SR.EM -/ def srEM (r : Regs) : Bool := bit r.sr 10
/-- SR.PL -/ def srPL (r : Regs) : Lvl := BitVec.ofNat 2 (fld r.sr 8 2)
/-- The STATE code of R176. -/
def stCode : CtxState → Nat
  | .free => 0 | .idle => 1 | .ready => 2 | .resident => 3 | .waiting => 4 | .held => 5 | .halted => 6
/-- WAITW of a wait: the deadline when it has one, else the signal mask (R170). -/
def waitWord : Option Wait → DWord
  | none => 0
  | some w => w.till.getD (w.mask.setWidth 64)
/-- The registers with the outstanding loads and multiplier result written: a save waits for them (R112, R119). -/
def settleRegs (x : Thr) (r : Regs) : Regs :=
  let r1 := x.loads.foldl (fun r l => r.setG l.1 l.2) r
  match x.md with
  | some (lo, hi) => { r1 with ml := lo, mh := hi }
  | none => r1
/-- Whether a record holds an uncorrectable error (R440). -/
def recUpset (s : State) (c : CtxId) : Bool :=
  s.memc.upset.any fun k => decide (recKey c 0 ≤ k ∧ k < recKey c 32)
/-- A save writes the words of a record but REPA, EXV and the software word, and of the word that holds ECAUSE only a part (R170): it ends the
uncorrectable errors of the words that it writes whole (R440), and the corrections that wait for a word that it reaches (R442). -/
def healRec (s : State) (c : CtxId) : State := dropCorr (healWords (healWords s (recKey c 0) 216) (recKey c 28) 8) (recKey c 0) 232
/-- What a save keeps of the step engine of a context (R196): a step in progress is kept as it began. -/
def savedOf (x : Thr) (r : Regs) (held : Bool) : Saved :=
  let inStep := held || decide (x.phase = .step) || (decide (x.phase = .code) && decide (r.stpa ≠ 0))
  if x.phase = .fetch then { callPc := x.callPc, run := x.run, inStep := inStep, skip := x.skip, holdPass := x.holdPass }
  else
    { callPc := x.callPc, run := x.start, inStep := inStep, taken := x.taken
      lvl := if x.phase = .code ∧ r.stpa ≠ 0 then some x.rtPl else none }
/-- A save of the current register set of a context, with STATE st (R170). -/
def saveRec (s : State) (c : CtxId) (st : CtxState) : State :=
  match slotRegs s c.toNat with
  | some r =>
    let ww := if st = .waiting then waitWord (thrOf s (.ctx c)).wait else 0
    let s1 := setThr s (.ctx c) { thrOf s (.ctx c) with saved := savedOf (thrOf s (.ctx c)) r (decide (st = .held)) }
    setRec (healRec s1 c) c { settleRegs (thrOf s (.ctx c)) r with stb := BitVec.ofNat 8 (stCode st), waitw := ww }
  | none => s
/-- The registers of a context are those of its record from now on. Nothing is outstanding for it but its stores (R112).
DEDUCED, unsafe (log 60). -/
def dropRegs (s : State) (c : CtxId) : State :=
  setSlotRegs (setThr s (.ctx c) { thrOf s (.ctx c) with loads := [], md := none }) c.toNat none
/-- A record whose SR.PL or CPL lies above its CEIL, which a write may leave while the context is HELD, is loaded with CEIL in their place: no context
runs above it (R135).
DEDUCED, safe (log 109). -/
def boundLvl (s : State) (c : CtxId) : State :=
  let r := recOf s c
  let top := (ceilOf r).toNat
  if (srPL r).toNat ≤ top ∧ r.cpl.toNat ≤ top then s
  else setRec s c { r with sr := setFld r.sr 8 2 (Nat.min (srPL r).toNat top), cpl := BitVec.ofNat 2 (Nat.min r.cpl.toNat top) }
/-- The record of a context is loaded: its registers are current (R187, R189). -/
def loadRec (s : State) (c : CtxId) : State :=
  let s1 := boundLvl s c
  setSlotRegs s1 c.toNat (some (recOf s1 c))
/-- A context gives up its thread slot. -/
def leaveSlot (s : State) (c : CtxId) : State :=
  let s1 := match slotOf s c with
    | some k => { s with eng := { s.eng with occ := sset none s.eng.occ k none } }
    | none => s
  dropRegs s1 c
/-- A context is saved and HELD; a pinned one keeps its slot, and loads its record again when it is resumed (R187). -/
def enterHeld (s : State) (c : CtxId) : State :=
  let s1 := saveRec s c .held
  setSt (if pinOf s c then dropRegs s1 c else leaveSlot s1 c) c .held
/-- A context that has work: a pinned context that keeps its slot is RESIDENT, any other is READY (R177, R187). -/
def becomeReady (s : State) (c : CtxId) : State :=
  let (n, s1) := nextStamp s
  let s0 := if inSlot s1 c && (slotRegs s1 c.toNat).isNone then loadRec s1 c else s1
  if inSlot s0 c then setThr (setSt s0 c .resident) (.ctx c) { thrOf s (.ctx c) with wait := none, pwait := none, resAt := n }
  else setThr (setSt s0 c .ready) (.ctx c) { thrOf s (.ctx c) with wait := none, pwait := none, readyAt := n }
/-- A context begins to wait with WAITK k: an unpinned context is saved and gives up its slot (R177, R187). The run
limit starts anew (R145). -/
def beginWait (s : State) (c : CtxId) (k : BitVec 4) (w : Wait) : State :=
  let s1 := setThr s (.ctx c) { thrOf s (.ctx c) with wait := some w }
  setSt (if pinOf s c then s1 else leaveSlot (saveRec s1 c .waiting) c) c .waiting k

/-! Reports (R80 to R86). -/
/-- The 32 bytes of a report (R82). -/
def repBytes (s : State) (c : CtxId) (r : Rep) : List Byte :=
  leBytes 8 r.next.toNat ++ leBytes 4 r.residual ++ leBytes 2 r.status ++ [r.psts, BitVec.ofNat 8 r.reason] ++
    leBytes 4 (ctxWord s c).toNat ++ leBytes 4 r.crc ++ leBytes 8 s.time.now.toNat
/-- The address of the next report (R80). -/
def repAddr (s : State) (c : CtxId) : Nat :=
  let repa := (regsOf s (.ctx c)).repa
  fld repa 5 43 * 32 + (liveOf s c).ridx.toNat % 2 ^ Nat.min 16 (fld repa 0 5) * 32
/-- Writes a report; false when its write met a bus error (R80, R81).
DEDUCED, unsafe (log 16), DEDUCED, safe (log 133). -/
def putReport (s : State) (c : CtxId) (r : Rep) : State × Bool :=
  if (regsOf s (.ctx c)).repa = 0 then (s, true)
  else if wrOk s (ctxAgent s c) (ceilOf (regsOf s (.ctx c))) (repAddr s c) 32 then
    let s1 := storeBytes s (ctxAgent s c) (ceilOf (regsOf s (.ctx c))) (repAddr s c) (repBytes s c r)
    (setLive s1 c { liveOf s1 c with ridx := (liveOf s1 c).ridx + 1 }, true)
  else (s, false)

/-! Locks (R198, R200). -/
/-- A lock cell. -/
def lockOf (s : State) (n : Nat) : Word := sget 0 s.gal.locks n
/-- Writes a lock cell. -/
def setLock (s : State) (n : Nat) (v : Word) : State := { s with gal := { s.gal with locks := sset 0 s.gal.locks n v } }
/-- A held cell is released with BROKEN (R200): GAL_LOCK_BRK counts and LOCK_BROKEN fires. -/
def breakCell (s : State) (n : Nat) : State :=
  if bit (lockOf s n) 19 then
    evFire (bump16 (setLock s n (setFld (setFld (lockOf s n) 19 1 0) 20 1 1)) (aGAL + 0x54)) 0x4A0 (BitVec.ofNat 32 n)
  else s
/-- Releases every cell whose owner field ([18:0]: MP and OWNER) satisfies p (R200). -/
def breakLocks (s : State) (p : Nat → Bool) : State :=
  (s.gal.locks.filter fun e => bit e.2 19 && p (fld e.2 0 19)).foldl (fun s e => breakCell s e.1) s

/-! The work of a context. -/
/-- Whether the cluster that runs a context is fenced: wakes go no further than the live word (R195). -/
def ctxFenced (s : State) (c : CtxId) : Bool := (clOf s (homeOf s c)).mode == .fenced
/-- A flag of the current step (R34). -/
def stepFlag (x : Thr) (i : Nat) : Bool := bit x.cur.lo i
/-- NEXT in force: JUMP and END ignore it (R49). -/
def hasNext (x : Thr) : Bool := stepFlag x 9 && !(decide (fld x.cur.lo 0 8 = 1) || decide (fld x.cur.lo 0 8 = 5))
/-- ACT of the current step. -/
def stepAct (x : Thr) : Nat := fld x.cur.lo 0 8
/-- COUNT of the current step. -/
def stepCount (x : Thr) : Nat := fld x.cur.lo 32 32
/-- Whether a step is in progress: a built-in step, or a routine (R76); none is in an IDLE context. -/
def stepActive (s : State) (c : CtxId) : Bool :=
  let x := thrOf s (.ctx c)
  match x.phase with
  | .step => true
  | .fetch => false
  | .code => decide ((regsOf s (.ctx c)).stpa ≠ 0) && stOf s c != .idle
/-- Whether an action moves data with a residual (R82). -/
def actData (act : Nat) : Bool := decide (act = 8) || decide (act = 9) || decide (act = 0xA) || decide (act = 0x11)
/-- The unit of the current step (R82): none for a step without a unit. -/
def stepUnit (x : Thr) : Option Nat :=
  let a := stepAct x
  let u := fld x.cur.lo 16 8
  if (a = 8 ∨ a = 9 ∨ a = 0x10 ∨ a = 0x11 ∨ 0x40 ≤ a) ∧ unitOk u then some u else none
/-- PORT_STS and the PORT_ATTN bit for a report on the current step (R82, R378). -/
def unitBits (s : State) (x : Thr) : Byte × Nat :=
  match stepUnit x with
  | some u => (portSts s u, if (unitOf s u).attn then sATTN else 0)
  | none => (0, 0)
/-- The running CRC of the run so far, final XOR applied (R82). -/
def runCrc (x : Thr) : Nat :=
  match x.run with
  | some r => if r.crcsel = 0 then 0 else r.crc.toNat ^^^ crcXor r.crcsel
  | none => 0
/-- A mover channel by owner key (R205). -/
def chanOf (s : State) (k : Nat) : Option Xfer := (s.mov.chans.find? fun e => e.1 = k).map (·.2)
/-- Frees the channel of an owner, which ends a STOP in progress on it (R218). -/
def freeChan (s : State) (k : Nat) : State :=
  { s with mov := { s.mov with
      chans := s.mov.chans.filter fun e => e.1 ≠ k
      cmdBusy := s.mov.cmdBusy && decide (s.mov.cmdCtx.toNat ≠ k) } }
/-- Writes or adds the channel of an owner. -/
def setChan (s : State) (k : Nat) (x : Xfer) : State :=
  { s with mov := { s.mov with chans := (s.mov.chans.filter fun e => e.1 ≠ k) ++ [(k, x)] } }
/-- No transmit record waits for a context any more. -/
def dropWaiter (s : State) (c : CtxId) : State :=
  { s with dpt := s.dpt.map fun e => (e.1, { e.2 with tx := e.2.tx.map fun r => if r.waiter = some c then { r with waiter := none } else r }) }
/-- The channel state of a context (R218). -/
def chstOf (s : State) (c : CtxId) : ChSt := sget {} s.mov.chst c.toNat
/-- Writes the channel state of a context. -/
def setChst (s : State) (c : CtxId) (x : ChSt) : State := { s with mov := { s.mov with chst := sset {} s.mov.chst c.toNat x } }

/-- The owner key of a channel (R205): a context id, 2^18 + n for a processor, 2^19 + i for SCT entry i. -/
def okey : Owner → Nat
  | .ctx c => c.toNat
  | .mp n => 0x40000 + n.toNat
  | .sct i => 0x80000 + i.toNat
/-- Whether an owner key names a context. -/
def isCtxKey (k : Nat) : Bool := decide (k < 0x40000)
/-- The rank of a channel (R207). -/
def chanRank (s : State) (k : Nat) : Nat :=
  if isCtxKey k then let c := BitVec.ofNat 18 k; 16 * b2n (timedOf s c) + prioOf s c else fld (act s (aMOV + 8)) 0 5
/-- Whether a channel moves one record for a port instruction (R218, R221). -/
def isPortInstr (x : Xfer) : Bool :=
  match x.kind with
  | .psend | .psendAt | .precv => true
  | _ => false
/-- Whether a waiting request may take an entry (R206, R219, R221, R223). -/
def mayGrant (s : State) (k : Nat) (x : Xfer) : Bool :=
  if isCtxKey k then
    let c := BitVec.ofNat 18 k
    (chstOf s c).en == .active && !(chstOf s c).paused && (timedOf s c || isPortInstr x || !s.mov.bulkPaused) &&
      decide ((s.mov.chans.filter fun e => isCtxKey e.1 && e.2.granted).length < 4032)
  else decide ((s.mov.chans.filter fun e => !isCtxKey e.1 && e.2.granted).length < 64)
/-- Whether channel a goes before channel b (R207): rank, then the longer wait, then SCT, processors and contexts, the higher number first. -/
def before (s : State) (a b : Nat × Xfer) : Bool :=
  decide (chanRank s b.1 < chanRank s a.1) ||
    (decide (chanRank s a.1 = chanRank s b.1) && (decide (a.2.age < b.2.age) || (decide (a.2.age = b.2.age) && decide (b.1 < a.1))))
/-- The waiting request that takes the next free entry. -/
def nextGrant (s : State) : Option (Nat × Xfer) :=
  (s.mov.chans.filter fun e => !e.2.granted && mayGrant s e.1 e.2).foldl
    (fun b e => match b with | none => some e | some x => if before s e x then some e else some x) none
/-- The entry for SCT requests that is free with the lowest number (R206).
DEDUCED, unsafe (log 88). -/
def sctEntry (s : State) : Option Nat := ((List.range 64).map fun i => 0x80000 + i).find? fun k => (chanOf s k).isNone
/-- A waiting request has its entry (R206): a request of the SCT block goes to the lowest that is free. -/
def grantOne (s : State) (k : Nat) (x : Xfer) : State :=
  if k < 0x80000 then
    { s with mov := { s.mov with chans := s.mov.chans.map fun e => if e.1 = k then (k, { x with granted := true }) else e } }
  else match sctEntry s with
    | some i => setChan (freeChan s k) i { x with granted := true }
    | none => s
/-- Gives free entries to waiting requests, at most n (R206). -/
def grantN : Nat → State → State
  | 0, s => s
  | n + 1, s =>
    match nextGrant s with
    | none => s
    | some (k, x) => grantN n (grantOne s k x)
/-- Whether a channel may have a mover (R195, R218, R219, R221). -/
def chanReady (s : State) (k : Nat) (x : Xfer) : Bool :=
  x.granted && !x.paused && x.stopping.isNone && !x.offered &&
    (!isCtxKey k || (!ctxFenced s (BitVec.ofNat 18 k) && (timedOf s (BitVec.ofNat 18 k) || isPortInstr x || !s.mov.bulkPaused)))
/-- Whether a channel runs on a port mover of its cluster, and not on a fabric mover (R205). -/
def onPortMover (x : Xfer) : Bool :=
  match x.kind with
  | .moveIn | .moveOut | .sense | .psend | .psendAt | .precv => true
  | _ => false
/-- Whether two channels compete for the movers of one pool (R216). -/
def samePool (x y : Xfer) : Bool := onPortMover x == onPortMover y && (!onPortMover x || x.cl == y.cl)
/-- The movers of the pool of a channel (R216). -/
def poolSize (x : Xfer) : Nat := if onPortMover x then 4 else 64
/-- Whether a channel keeps the mover that it runs on: while it may have one, and while it is being stopped (R216, R218). -/
def keepsMover (s : State) (k : Nat) (x : Xfer) : Bool := x.running && (chanReady s k x || (x.granted && !x.paused && !x.offered && x.stopping.isSome))
/-- The movers that are free go to the channels that wait for one, the highest-ranked first (R207, R216): a channel gets one when fewer than the pool
holds run or go before it. A channel that runs keeps its mover until it gives it up or is preempted.
DEDUCED, safe (log 110). -/
def bindMovers (s : State) : State :=
  let l := s.mov.chans.map fun e => (e.1, { e.2 with running := keepsMover s e.1 e.2 })
  let takes := fun (e : Nat × Xfer) => chanReady s e.1 e.2 &&
    decide ((l.filter fun f => decide (f.1 ≠ e.1) && samePool f.2 e.2 && (f.2.running || (chanReady s f.1 f.2 && before s f e))).length < poolSize e.2)
  { s with mov := { s.mov with chans := l.map fun e => (e.1, { e.2 with running := e.2.running || takes e }) } }
/-- Whether a channel has a mover (R216). -/
def hasMover (s : State) (k : Nat) (x : Xfer) : Bool := x.running && chanReady s k x
/-- Gives free entries to the waiting requests (R206), and free movers to the channels (R216). -/
def grantAll (s : State) : State := bindMovers (grantN s.mov.chans.length s)

/-- The entry that started the work of a context completes, as bad with a reason or well (R244). -/
def endOrigin (s : State) (c : CtxId) (bad : Option Nat) : State :=
  let x := thrOf s (.ctx c)
  match x.origin with
  | none => s
  | some (q, n) =>
    let s1 := setThr s (.ctx c) { x with origin := none }
    match bad with
    | none => entryDone s1 q n
    | some r => entryBad s1 q n 3 (BitVec.ofNat 8 r)
/-- HALT entries that waited for the halt of a context complete (R244). -/
def endHaltEntries (s : State) (c : CtxId) : State :=
  (thrOf s (.ctx c)).haltEnt.foldl (fun s e => entryDone s e.1 e.2) (setThr s (.ctx c) { thrOf s (.ctx c) with haltEnt := [] })

/-- What RESET does after the halt (R179): the record's registers, PEND, WAITK, the locks and PAUSED; an IDLE pinned context keeps its slot
(R187). -/
def resetTail (s : State) (c : CtxId) : State :=
  match stOf s c with
  | .idle | .halted =>
    let r := recOf s c
    let r' : Regs := { stb := r.stb, ceil := r.ceil, rlen := r.rlen, wen := r.wen, siga := r.siga, repa := r.repa, exv := r.exv, sw := r.sw }
    let s1 := setRec (healRec (dropRegs s c) c) c r'
    let s2 := setThr (setLive s1 c { liveOf s1 c with pend := 0, waitk := 0, st := .idle }) (.ctx c) { sb := (thrOf s1 (.ctx c)).sb }
    let s3 := breakLocks s2 fun o => o = c.toNat
    setChst s3 c { chstOf s3 c with paused := false }
  | _ => s
/-- The command in progress of GAL_CTX_CMD on a context ends (R179, R203). -/
def galCmdEnd (s : State) (c : CtxId) : State :=
  match s.gal.cmdBusy with
  | some (d, op) =>
    if d = c then
      let s1 := { s with gal := { s.gal with cmdBusy := none } }
      if op = 3 then resetTail s1 c else s1
    else s
  | none => s
/-- An entry into HALTED after its report, if any (R177): the save, the event, the locks, the channel, whose entry goes to a waiting request
(R206), the queue entries, and the command that asked for it (R179, R203). -/
def haltedEntry (s : State) (c : CtxId) (reason : Nat) : State :=
  let s1 := setSt (leaveSlot (saveRec s c .halted) c) c .halted
  let s2 := setChst (freeChan (dropWaiter s1 c) c.toNat) c { chstOf s1 c with paused := false }
  let s3 := breakLocks (ctxEvent s2 c 2 reason) fun o => o = c.toNat
  let s4 := endHaltEntries (endOrigin s3 c (some reason)) c
  galCmdEnd (grantAll (setThr s4 (.ctx c) { sb := (thrOf s4 (.ctx c)).sb })) c
/-- The step in progress of a context, 0 when it has none (R177). -/
def stepInProgress (s : State) (c : CtxId) : DWord := if stOf s c = .idle then 0 else (regsOf s (.ctx c)).stpa
/-- The bytes that a channel has written. -/
def written (x : Xfer) : Nat := x.count - x.left
/-- The residual of a step that a halt ends (R67, R177): the bytes of COUNT not moved, 0 for a step that moves no data. A channel tells
what it has moved, one that a fence took what it had moved then (R195); a record that waits for its launch time is moved, suppressed (R362) or not; a
HELD step is not in progress (assumption log 106).
DEDUCED, unsafe (log 106). -/
def haltResidual (s : State) (c : CtxId) : Nat :=
  let x := thrOf s (.ctx c)
  if x.phase = .step ∧ actData (stepAct x) then
    match x.cut, chanOf s c.toNat with
    | some n, _ => n
    | none, some ch => stepCount x - written ch
    | none, none =>
      let launch := decide (stepAct x = 9) && match x.wait with | some w => w.till.isSome | none => false
      if launch || s.dpt.any fun e => e.2.tx.any fun r => r.waiter = some c then 0 else stepCount x
  else 0
/-- Whether an address lies in the send and release words of a cluster's express area (R303). -/
def expressWord (a : Nat) : Bool := decide (0x1000_0000 ≤ a ∧ a < 0x1021_0000 ∧ 0xFC00 ≤ a % 0x1_0000 ∧ a % 0x1_0000 < 0xFC20)
/-- A store that changes memory and nothing else. -/
def plainStore (e : SbEntry) : Bool := decide (0x11_0000 ≤ e.addr.toNat) && !expressWord e.addr.toNat
/-- The stores of a context to memory complete, before a final report (R62). -/
def drainPlain (s : State) (c : CtxId) : State :=
  let x := thrOf s (.ctx c)
  if x.sb.isEmpty then s
  else (x.sb.filter plainStore).foldl (fun s e => storeBytes s (ctxAgent s c) e.lvl e.addr.toNat e.bytes)
    (setThr s (.ctx c) { x with sb := x.sb.filter fun e => !plainStore e })
/-- The device writes BAD into the step at STPA for the failures of R55; a window that cannot be written keeps the step.
DEDUCED, safe (log 133). -/
def markBad (s : State) (c : CtxId) (st : Nat) : State :=
  let a := (regsOf s (.ctx c)).stpa.toNat
  if st &&& (sBUS ||| sALIGN ||| sPROT ||| sCHAIN) ≠ 0 ∧ a ≠ 0 ∧ wrOk s (ctxAgent s c) (ceilOf (regsOf s (.ctx c))) a 4 then
    match rdBytes s (ctxAgent s c) a 4 with
    | some w => storeBytes s (ctxAgent s c) (ceilOf (regsOf s (.ctx c))) a (leBytes 4 (leNat w ||| 0x8000_0000))
    | none => s
  else s
/-- Whether HOLD holds a context at the step at STPA (R64, R84); SUSP holds it at an instruction. -/
def heldStep (s : State) (c : CtxId) : Bool := decide (stOf s c = .held) && decide ((thrOf s (.ctx c)).phase = .fetch)
/-- A report on the step in progress of a context, or on a context without one, with the bits and the CRC of that step (R82, R84). -/
def repNow (s : State) (c : CtxId) (status reason residual : Nat) : Rep :=
  let x := thrOf s (.ctx c)
  let act := stepActive s c
  let ub := if act then unitBits s x else (0, 0)
  let nt := if act && stepFlag x 12 then sNOTED else 0
  { next := stepInProgress s c, residual := residual, status := status ||| ub.2 ||| nt, reason := reason, psts := ub.1, crc := runCrc x }
/-- The report of a takeover on a context that HOLD holds at its step (R84, R87, R366): HELD, with the bits and COUNT of that step. -/
def repHeld (s : State) (c : CtxId) (status reason : Nat) : Rep :=
  let r := regsOf s (.ctx c)
  let y : Thr := { cur := { lo := r.stpw }, run := (thrOf s (.ctx c)).run }
  let ub := unitBits s y
  { next := r.stpa, residual := if actData (stepAct y) then stepCount y else 0
    status := status ||| sHELD ||| ub.2 ||| (if stepFlag y 12 then sNOTED else 0), reason := reason, psts := ub.1, crc := runCrc y }
/-- A context enters HALTED with a report (R148, R177); the halt event follows the report's even when the report could not be written
(assumption log 105).
DESIGN CHOICE, unsafe (log 105). -/
def haltPost (s : State) (c : CtxId) (r : Rep) : State := haltedEntry (ctxEvent (putReport s c r).1 c 1 r.reason) c r.reason
/-- An entry into HALTED with its report (R148, R177): status bits and reason by the rule of the cause. A bus error that ends a step marks it
(R55). -/
def haltEnd (s0 : State) (c : CtxId) (status reason residual : Nat) : State :=
  let s1 := drainPlain s0 c
  let s := if stepActive s1 c then markBad s1 c status else s1
  haltPost s c (repNow s c status reason residual)
/-- Whether the stores of a context that a final report waits for are complete but for those that the report itself completes (R62). -/
def storesDone (s : State) (c : CtxId) : Bool := (thrOf s (.ctx c)).sb.all plainStore
/-- A context whose final report waits for its stores (R62): it has neither a channel nor anything else to wait for.
DESIGN CHOICE, unsafe (log 125). -/
def parkLast (s : State) (c : CtxId) (l : LastRep) : State :=
  let s1 := freeChan (dropWaiter s c) c.toNat
  grantAll (setThr s1 (.ctx c) { thrOf s1 (.ctx c) with last := some l, wait := none, pwait := none, bus := none, egress := none })
/-- A halt of a context (R148, R177): its report follows its stores (R62). -/
def haltWith (s : State) (c : CtxId) (status reason residual : Nat) : State :=
  if storesDone s c then haltEnd s c status reason residual else parkLast s c (.halt status reason residual)
/-- A record load that meets an uncorrectable error (R440): the context is HALTED with ABORTED and FAULT_BUS, reason HALT. -/
def haltLoad (s : State) (c : CtxId) : State := haltWith s c (sABORT + sBUS) 0x17 (haltResidual s c)
/-- A pinned context that kept its slot loads its record again (R177, R187, R440); any other loads it when it takes a slot. -/
def readyLoad (s : State) (c : CtxId) : State := if inSlot s c && recUpset s c then haltLoad (noteRecs s c) c else becomeReady s c
/-- HALT of a context that no transfer holds back (R67): ABORTED, reason HALT. One that a halt already waits for is left to it. -/
def haltNow (s : State) (c : CtxId) : State :=
  match (thrOf s (.ctx c)).last with
  | some (.halt _ _ _) => s
  | _ => haltWith s c sABORT 0x17 (haltResidual s c)
/-- Whether a context has work that a HALT ends (R177). -/
def haltable (s : State) (c : CtxId) : Bool :=
  match stOf s c with
  | .ready | .resident | .waiting | .held => true
  | _ => false
/-- HALT (R67, R222): a context whose channel moves data stops it first and halts when the last of its bytes is written. -/
def haltCtx (s : State) (c : CtxId) : State :=
  if !haltable s c then s
  else match chanOf s c.toNat with
    | some ch => if ch.left = 0 ∨ !ch.granted ∨ ch.paused then haltNow s c else setChan s c.toNat { ch with stopping := some .halt }
    | none => haltNow s c

/-- A report on a context with its event (R86); a bus error at its write halts the context without a report (R81). -/
def postReport (s : State) (c : CtxId) (r : Rep) (ev : Bool) : State × Bool :=
  let (s1, ok) := putReport s c r
  if ok then (if ev then ctxEvent s1 c 1 r.reason else s1, true) else (haltedEntry s1 c 0x17, false)

/-! The end of a chain and of a step. -/
/-- The work of a context ends and the context becomes IDLE (R48): a pinned context keeps its slot (R187).
DESIGN CHOICE, unsafe (log 141). -/
def toIdle (s : State) (c : CtxId) (bad : Option Nat) : State :=
  let s1 := if pinOf s c then setSlotRegs s c.toNat none else leaveSlot s c
  let s2 := endOrigin (setSt s1 c .idle) c bad
  endHaltEntries (setThr s2 (.ctx c)
    { thrOf s2 (.ctx c) with
      phase := .code, cur := {}, src := {}, line := none, holdPass := false, run := none, skip := false, wait := none, inRep := false,
      limit := none, wqMove := none, loads := [], md := none, cut := none, undig := none }) c
/-- The end of a chain (R48, R79) with its final report, once its stores are complete (R62); fail tells whether a failed step ends it.
DEDUCED, unsafe (log 71). -/
def chainLast (s0 : State) (c : CtxId) (r : Rep) (fail : Bool) : State :=
  let s := drainPlain s0 c
  let x := thrOf s (.ctx c)
  match x.callPc with
  | none =>
    let (s1, ok) := postReport s c r (fail || decide (r.status &&& sNOTED ≠ 0) || (decide (x.phase = .step) && decide (stepAct x = 4)))
    if ok then toIdle s1 c (if fail then some r.reason else none) else s1
  | some pc =>
    let (s1, ok) := if fail || decide (r.status &&& sNOTED ≠ 0) then postReport s c r true else (s, true)
    if ok then
      let g := regsOf s1 (.ctx c)
      let g0 := BitVec.ofNat 64 (r.status + r.reason * 0x10000 + r.psts.toNat * 0x1000000)
      let g1 := { (g.setG 0 g0).setG 1 (BitVec.ofNat 64 r.residual) with
        stpa := 0, stpw := 0, pc := pc, sr := setFld g.sr 8 2 g.cpl.toNat, cpl := 0 }
      let s2 := setRegs s1 (.ctx c) g1
      setThr s2 (.ctx c)
        { thrOf s2 (.ctx c) with
          phase := .code, cur := {}, src := {}, line := none, holdPass := false, run := none, skip := false, callPc := none,
          wait := none }
    else s1
/-- The end of a chain (R48, R79): its final report follows its stores (R62). -/
def chainEnd (s : State) (c : CtxId) (r : Rep) (fail : Bool) : State :=
  if storesDone s c then chainLast s c r fail else parkLast s c (.chain r fail)
/-- The final report that a context owes is posted once its stores are complete (R62). -/
def lastReport (s : State) (c : CtxId) : State :=
  let x := thrOf s (.ctx c)
  if !storesDone s c then s
  else match x.last with
    | none => s
    | some (.halt st r n) => haltEnd (setThr s (.ctx c) { x with last := none }) c st r n
    | some (.chain r f) => chainLast (setThr s (.ctx c) { x with last := none }) c r f
/-- The size of the current step: 32 bytes for a MOVE-MEM with its SOURCE (R46). -/
def stepSize (x : Thr) : Nat := if stepAct x = 0xA ∧ fld x.src.lo 0 8 = 0xB then 32 else 16
/-- The chain goes on with the step at an address; keep says whether the CONT run goes on, skip whether its rest is skipped. -/
def goOn (s : State) (c : CtxId) (a : DWord) (keep skip : Bool) : State :=
  let x := thrOf s (.ctx c)
  let g := regsOf s (.ctx c)
  let s1 := setRegs s (.ctx c) { g with stpa := a }
  setThr s1 (.ctx c) { thrOf s1 (.ctx c) with phase := .fetch, run := if keep then x.run else none, skip := skip, wait := none }
/-- The end of the current step with status bits, residual and reason (R48, R52 to R56, R63); jump is the target of a JUMP. The
context is RESIDENT or READY, or becomes so before its chain goes on.
DESIGN CHOICE, unsafe (log 139). -/
def finishStep (s : State) (c : CtxId) (st residual reason : Nat) (jump : Option DWord := none) : State :=
  let x := thrOf s (.ctx c)
  let g := regsOf s (.ctx c)
  let ub := unitBits s x
  let note := stepFlag x 12
  let fail := failed st (stepFlag x 15)
  let mv := x.wqMove.isSome
  let nxt : DWord := if mv then 0 else g.stpa + BitVec.ofNat 64 (stepSize x)
  let st1 := st ||| ub.2 ||| (if note then sNOTED else 0)
  let rs := if reason = 0 ∧ note then 3 else reason
  let rep := fun (n : DWord) (r st : Nat) => ({ next := n, residual := residual, status := st, reason := r, psts := ub.1, crc := runCrc x } : Rep)
  if fail then
    let s1 := markBad s c st
    if hasNext x ∧ !mv then
      let (s2, ok) := postReport s1 c (rep g.stpa rs st1) true
      if ok then goOn s2 c nxt false (stepFlag x 8) else s2
    else chainEnd s1 c (rep (if mv then 0 else g.stpa) rs st1) true
  else if stepFlag x 8 then
    let (s2, ok) := if note then postReport s c (rep nxt 3 (st1 ||| sDONE)) true else (s, true)
    if ok then goOn s2 c nxt (st &&& sSHORT = 0) (decide (st &&& sSHORT ≠ 0)) else s2
  else match jump with
    | some a =>
      let (s2, ok) := if note then postReport s c (rep a 3 (st1 ||| sDONE)) true else (s, true)
      if ok then goOn s2 c a false false else s2
    | none =>
      if stepAct x = 5 ∧ !mv then chainEnd s c (rep nxt 1 (st1 ||| sDONE)) false
      else if !hasNext x ∨ mv then chainEnd s c (rep nxt 2 (st1 ||| sDONE)) false
      else
        let rp := decide (stepAct x = 4)
        let (s2, ok) := if note || rp then postReport s c (rep nxt (if rp then 4 else 3) (st1 ||| sDONE)) true else (s, true)
        if ok then goOn s2 c nxt false false else s2
/-- The end of a step that waited: the context becomes READY (or RESIDENT) and its step ends. -/
def finishWait (s : State) (c : CtxId) (st residual reason : Nat) : State :=
  finishStep (if stOf s c = .waiting then becomeReady s c else s) c st residual reason
/-- A routine ends: the level before it is in force again (R137). -/
def routineLvl (s : State) (c : CtxId) : State :=
  let g := regsOf s (.ctx c)
  setRegs s (.ctx c) { g with sr := setFld g.sr 8 2 (thrOf s (.ctx c)).rtPl.toNat }
/-- A routine's step ends with SDONE or the return token (R75). -/
def routineDone (s : State) (c : CtxId) (residual : Nat) : State :=
  finishStep (routineLvl s c) c (if residual = 0 then 0 else sSHORT) residual 0

/-! Who waits for Vestibule egress (R519). -/
/-- A message for a remote context has entered egress: its sender goes on; reason 0 is success, another discards it (R519). -/
def senderEnd (s : State) (o : SendOwner) (reason : Nat) : State :=
  match o with
  | .nobody => s
  | .entry q n => if reason = 0 then entryDone s q n else entryBad s q n 2 (BitVec.ofNat 8 reason)
  | .thread t =>
    let x := thrOf s t
    match x.egress with
    | none => s
    | some (gd, _) =>
      let s1 := setThr s t { x with egress := none }
      match t, gd with
      | .ctx c, none => finishWait s1 c (if reason = 0 then 0 else sPROT) 0 reason
      | t, some gd =>
        let g := regsOf s1 t
        let s2 := setRegs s1 t { g.setG gd (BitVec.ofNat 64 reason) with pc := g.pc + 4 }
        match t with
        | .ctx c => if stOf s2 c = .waiting then becomeReady s2 c else s2
        | .mp _ => s2
      | .mp _, none => s1
/-- Sends what the window allows and lets the senders go on. -/
def pumpAll (s : State) (k : Nat) : State :=
  let (s1, os) := pump s k
  os.foldl (fun s o => senderEnd s o 0) s1

end Sys2Proof.Machine
end

