-- ==== Sys2Proof/Machine/Bank.lean ====
section
/-! DEFINITION. The STAGED banks (R264 to R270), the table words (R172, R254, R335, R360, R401, R424), enable and disable (R8, R9), and
the indirect accesses (R518). -/
namespace Sys2Proof.Machine

/-- The fields of word w of a table entry; none for a word that a write cannot reach. -/
def tabFlds (t : Tab) (w : Nat) : List Fld :=
  match t, w with
  | .cct, 0 => [F 0 4, FR 4 6 0 32, F 10 1, F 11 1, F 12 10, F 22 5]
  | .wq, 0 => [F 6 42]
  | .wq, 1 => [FR 0 5 4 16, FR 8 8 1 255, FR 16 7 1 64, F 24 6, F 31 1, F 32 24]
  | .wq, 2 => [F 0 16, F 32 24]
  | .wq, 3 => [F 0 10, F 10 1]
  | .gclA, 0 | .gclB, 0 => [F 0 8, FR 8 2 0 2, FR 32 32 1 0xFFFFFFFF]
  | .saA, 0 | .saB, 0 => [F 0 1, F 1 1, F 2 2, F 32 32]
  | .saA, 7 | .saB, 7 => [F 0 32]
  | .saA, w | .saB, w => if w ≤ 8 then [F 0 64] else []
  | .streamId, 0 => [F 0 48, F 48 12, F 60 1, F 61 1, F 63 1]
  | .frer, 0 => [F 0 1, F 1 1, FR 2 6 2 32, FR 8 16 1 65535, F 24 1]
  | .filter, 0 => [F 0 1, F 1 3, F 4 1, F 5 14, F 19 1, F 20 6, F 26 1, F 27 8, F 35 1]
  | .meter, 0 => [F 0 32, F 32 32]
  | .meter, 1 => [F 0 24, F 24 24, F 48 1, F 49 1, F 50 1]
  | .gate, 0 => [F 0 1, F 1 3, F 4 1, F 5 1, FR 32 32 1 0xFFFFFFFF]
  | .pair, 0 => [F 0 18, F 18 8, F 26 18, F 44 1, F 45 1, F 46 4, F 63 1]
  | .canFilter, 0 => [F 0 29, F 29 1, F 30 1, F 31 1, F 32 29, FR 61 2 0 2]
  | .evt, 0 => [F 0 8, FR 8 3 0 4, F 11 1, F 12 20]
  | _, _ => []
/-- A table word taken field by field, as R5 has it for registers. -/
def mergeTab (old v : DWord) : List Fld → DWord × Bool × Nat
  | [] => (old, false, 0)
  | f :: fs =>
    let (o, bad, m) := mergeTab old v fs
    let x := fld v f.lo f.w
    let m' := m + (2 ^ f.w - 1) * 2 ^ f.lo
    if f.valid x then (setFld o f.lo f.w x, bad, m') else (o, true, m')

/-- The tables by number. -/
def tabList : List Tab :=
  [.cct, .wq, .gclA, .gclB, .saA, .saB, .streamId, .frer, .filter, .meter, .gate, .pair, .canFilter, .evt]
/-- The landings for which a commit is pending, or was judged. -/
def commitLnds (s : State) : List Nat :=
  (match s.lnd.pend with | some p => [p.tgt.toNat] | none => []) ++ match s.lnd.judged with | some (n, some _) => [n.toNat] | _ => []
/-- A write between the deadline of a commit and its landing sets WRDL (R269).
DEDUCED, unsafe (log 18). -/
def markWrdl (s : State) : State :=
  if (commitLnds s).any fun l => decide ((lndTime s l).toNat < s.time.now.toNat + (act s aGUARD).toNat) then { s with lnd := { s.lnd with wrdl := true } }
  else s
/-- A value in both banks of a register or of a table word. -/
def putBoth (s : State) (table : Bool) (k : Nat) (v : DWord) : State :=
  if table then setTabA (setTabS (dropTab s (k / 0x1000000) (k % 0x1000000 / 16) 1) k v) k v else setAct (setStg s k (v.setWidth 32)) k (v.setWidth 32)
/-- What a write makes of the STAGED word that it reaches, field by field, and whether it wrote anything reserved (R5). -/
def stgVal (s : State) (w : StgWrite) : DWord × Bool :=
  if w.table then
    let old := sget (tabReset w.key) s.reg.tabS w.key
    let v := (old &&& ~~~w.mask) ||| (w.val &&& w.mask)
    let (n, bad, m) := mergeTab old v (tabFlds (tabList.getD (w.key / 0x1000000) .cct) (w.key % 16))
    (n, bad || decide (v &&& ~~~(BitVec.ofNat 64 m) ≠ 0))
  else
    match regAt w.key with
    | some (r, i) => let (n, bad) := mergeReg (stg s w.key) (w.val.setWidth 32) (r.flds i); (n.setWidth 64, bad)
    | none => (0, true)
/-- A write takes effect in the STAGED bank (R5). -/
def applyStg (s : State) (w : StgWrite) : State :=
  let (n, bad) := stgVal s w
  rsvdIf bad (if w.table then setTabS (dropTab s (w.key / 0x1000000) (w.key % 0x1000000 / 16) 1) w.key n else setStg s w.key (n.setWidth 32))
/-- A write to a STAGED bank: it goes to both banks until boot is done (R478), is ignored with SYNCWR while a copy runs (R265), and is held
from the judgement through the landing (R270); a held write meets the fields of the bank that it finds there (assumption log 103).
DEDUCED, unsafe (log 103). -/
def stgWrite (s : State) (w : StgWrite) : State :=
  if s.boot.st = .boot then let (n, bad) := stgVal s w; rsvdIf bad (putBoth s w.table w.key n)
  else if s.lnd.syncBusy.isSome then rsvdIf (stgVal s w).2 { s with lnd := { s.lnd with syncwr := true } }
  else
    let s1 := markWrdl s
    if s1.lnd.judged.isSome then { s1 with lnd := { s1.lnd with held := s1.lnd.held ++ [w] } } else applyStg s1 w
/-- A write to the bits in mask of a word of a STAGED table. -/
def stgTab (s : State) (t : Tab) (i w : Nat) (v : DWord) (mask : DWord := 0xFFFF_FFFF_FFFF_FFFF) : State :=
  stgWrite s { table := true, key := tkeyOf t i w, val := v, mask := mask }
/-- The ACTIVE bank of one table copied into the STAGED bank (R175, R252). -/
def copyTab (s0 : State) (t : Tab) : State :=
  let lo := t.no * 0x1000000
  let hi := lo + 0x1000000
  let s := dropTab s0 t.no 0 0x1_0000
  { s with reg := { s.reg with
      tabS := (s.reg.tabS.filter fun e => decide (e.1 < lo)) ++ (s.reg.tabA.filter fun e => decide (lo ≤ e.1 ∧ e.1 < hi)) ++
        (s.reg.tabS.filter fun e => decide (hi ≤ e.1)) } }

/-- What an enable does to an enable state and ENABLE_PENDING (R8); an object in ERROR is left to its own rule. -/
def enableSt (st : EnState) (p : Bool) : EnState × Bool :=
  match st with
  | .disabled => (.active, false)
  | .draining => (.draining, true)
  | st => (st, p)
/-- What a disable does (R8). -/
def disableSt (st : EnState) (p : Bool) : EnState × Bool :=
  match st with
  | .active => (.draining, false)
  | .draining => (.draining, false)
  | st => (st, p)
/-- What the end of a drain does (R9): ACTIVE when an enable is pending, else DISABLED. -/
def drainSt (p : Bool) : EnState × Bool := (if p then .active else .disabled, false)

/-! Indirect accesses (R518). -/
/-- Whether an access is in progress. -/
def accBusy (s : State) (a : AccPort) : Bool := s.reg.acc.any fun e => e.1 == a
/-- Whether the last command of an access port was refused. -/
def accRefused (s : State) (a : AccPort) : Bool := s.reg.accRef.contains a
/-- Sets or clears REFUSED of an access port. -/
def setRefused (s : State) (a : AccPort) (b : Bool) : State :=
  { s with reg := { s.reg with accRef := (s.reg.accRef.filter fun x => x != a) ++ (if b then [a] else []) } }
/-- The addresses of the two data registers of an access port; EVT has one. -/
def accData : AccPort → Nat × Nat
  | .gal => (aGAL + 8, aGAL + 0xC) | .wq => (aWQ + 0x18, aWQ + 0x1C) | .pa => (aPort false + 0xA4, aPort false + 0xA8)
  | .pb => (aPort true + 0xA4, aPort true + 0xA8) | .rm => (aSCT + 0x458, aSCT + 0x45C) | .dpt => (aDPT + 0x14, aDPT + 0x18)
  | .evt => (aEVT + 0x38, 0)
/-- The operands of an access port: the index register times 2^32 plus the selection register. -/
def accSel (s : State) : AccPort → Nat
  | .gal => (imr s aGAL).toNat * 2 ^ 32 + (imr s (aGAL + 4)).toNat
  | .wq => (imr s (aWQ + 0x10)).toNat * 2 ^ 32 + (imr s (aWQ + 0x14)).toNat
  | .pa => (imr s (aPort false + 0xA0)).toNat
  | .pb => (imr s (aPort true + 0xA0)).toNat
  | .rm => (imr s (aSCT + 0x450)).toNat * 2 ^ 32 + (imr s (aSCT + 0x454)).toNat
  | .dpt => (imr s (aDPT + 0x10)).toNat
  | .evt => (imr s (aEVT + 0x30)).toNat * 2 ^ 32 + (imr s (aEVT + 0x34)).toNat
/-- The data of an access port. -/
def accVal (s : State) (a : AccPort) : DWord :=
  let (lo, hi) := accData a
  BitVec.ofNat 64 ((imr s lo).toNat + (if hi = 0 then 0 else (imr s hi).toNat * 2 ^ 32))
/-- Fills the data registers of an access port; low leaves DHI as it is. -/
def setAccVal (s : State) (a : AccPort) (v : DWord) (low : Bool := false) : State :=
  let (lo, hi) := accData a
  let s1 := setIm s lo (v.setWidth 32)
  if hi = 0 ∨ low then s1 else setIm s1 hi ((v >>> 32).setWidth 32)
/-- A table copy runs (R175, R252, R265). -/
def copying (s : State) : Bool := s.lnd.syncBusy.isSome

/-! Record words (R170, R173). -/
/-- Word w of a record. -/
def recWord (r : Regs) (w : Nat) : DWord :=
  match w with
  | 16 => r.pc | 17 => r.lr | 18 => r.rc | 19 => r.ml | 20 => r.mh | 21 => r.epc | 22 => r.eval | 23 => r.rsp | 24 => r.stpa | 25 => r.stpw
  | 26 => r.esr ++ r.sr
  | 27 => r.siga ++ (0#2 ++ r.cpl ++ BitVec.ofBool r.wen ++ BitVec.ofBool r.rlen ++ r.ceil ++ r.stb ++ r.ecause : BitVec 32)
  | 28 => r.waitw | 29 => r.repa | 30 => r.exv | 31 => r.sw
  | w => if w < 16 then sget 0 r.g w else 0
/-- The reserved bits of record word w (R80, R91, R93, R95, R144); those of EXV are ignored (R94). -/
def recRsvd (w : Nat) : DWord :=
  match w with
  | 23 => 7
  | 26 => 0xFFFF_F0C0_FFFF_F0C0
  | 27 => 0xC000_FC00
  | 29 => 0xFFFF_0000_0000_0000
  | _ => 0
/-- A record with word w written; the reserved bits read 0 (R5, R80, R91, R93 to R95). -/
def recPut (r : Regs) (w : Nat) (v : DWord) : Regs :=
  match w with
  | 16 => { r with pc := v } | 17 => { r with lr := v } | 18 => { r with rc := v } | 19 => { r with ml := v } | 20 => { r with mh := v }
  | 21 => { r with epc := v } | 22 => { r with eval := v } | 23 => { r with rsp := v &&& ~~~(recRsvd 23) } | 24 => { r with stpa := v } | 25 => { r with stpw := v }
  | 26 => { r with sr := v.setWidth 32 &&& 0xF3F#32, esr := (v >>> 32).setWidth 32 &&& 0xF3F#32 }
  | 27 => { r with ecause := v.setWidth 16 &&& 0x3FF#16, stb := (v >>> 16).setWidth 8, ceil := (v >>> 24).setWidth 2, rlen := bit v 26, wen := bit v 27,
                   cpl := (v >>> 28).setWidth 2, siga := (v >>> 32).setWidth 32 }
  | 28 => { r with waitw := v } | 29 => { r with repa := v &&& ~~~(recRsvd 29) } | 30 => { r with exv := v &&& 0x0000_FFFF_FFFF_FF00#64 } | 31 => { r with sw := v }
  | w => if w < 16 then { r with g := sset 0 r.g w v } else r
/-- The live control word of a context (R173). -/
def liveWord (l : Live) : DWord := (0#4 ++ l.waitk ++ BitVec.ofNat 8 (stCode l.st) ++ l.ridx ++ l.pend : BitVec 64)
/-- Whether a record may be written (R171). -/
def recWritable (s : State) (c : CtxId) : Bool :=
  match stOf s c with
  | .ready | .resident | .waiting => false
  | _ => true
/-- Whether a live word may be written (R171). -/
def liveWritable (s : State) (c : CtxId) : Bool :=
  match stOf s c with
  | .free | .idle | .halted => true
  | _ => false

end Sys2Proof.Machine
end

