-- ==== Sys2Proof/Machine/Gallery.lean ====
section
/-! DEFINITION. The Gallery commands: ALLOC, RELEASE, RESET, HALT (R177 to R180), copies and code invalidation (R175, R192), lock
breaks (R202), and the indirect accesses of every block (R171, R256, R334, R371, R401, R424, R518). -/
namespace Sys2Proof.Machine

/-- Whether a level reaches a register family: P2 for all, P1 too where lo is 1 (R134); level 0b11 is reserved. -/
def mayLvl (lvl : Lvl) (lo : Nat) : Bool := decide (lo ≤ lvl.toNat ∧ lvl.toNat ≤ 2)
/-- A write of a command register: its effect at a level that reaches it (R134), none below.
DEDUCED, safe (log 99). -/
def onReg (lvl : Lvl) (lo : Nat) (f : State → State) (s : State) : Res := onCore (fun s => if mayLvl lvl lo then f s else s) s

/-- GAL_CTX_STS after a command (R203), BUSY apart. -/
def ctxSts (s : State) (c : CtxId) (op : Nat) (refused : Bool) : State :=
  setIm s (aGAL + 0x24) (BitVec.ofNat 32 (c.toNat + op * 0x40000 + b2n refused * 0x400000))
/-- A context command while BUSY = 1 is ignored and sets REFUSED (R203); else it acts. -/
def ctxCmd (s : State) (c : CtxId) (op : Nat) (refuse : Bool) (f : State → State) : State :=
  if s.gal.cmdBusy.isSome then setIm s (aGAL + 0x24) (imr s (aGAL + 0x24) ||| 0x400000)
  else if refuse then ctxSts s c op true
  else f (ctxSts s c op false)
/-- ALLOC (R177). -/
def doAlloc (s : State) (c : CtxId) : State :=
  if stOf s c = .free then setLive s c { pend := 0, ridx := 0, st := .idle, waitk := 0 } else s
/-- RELEASE of an IDLE or HALTED context (R179, R200, R224). -/
def doRelease (s : State) (c : CtxId) : State :=
  match stOf s c with
  | .idle | .halted =>
    let s1 := setLive (leaveSlot s c) c { liveOf s c with pend := 0, waitk := 0, st := .free }
    let s2 := breakLocks s1 fun o => o = c.toNat
    setChst s2 c { chstOf s2 c with paused := false }
  | _ => s
/-- RESET: first as HALT (R179); a transfer in flight is stopped first, and GAL_CTX_STS shows BUSY. -/
def doReset (s : State) (c : CtxId) : State :=
  let s1 := haltCtx s c
  if haltable s1 c then { s1 with gal := { s1.gal with cmdBusy := some (c, 3) } } else resetTail s1 c
/-- HALT (R177): BUSY while a transfer in flight stops. -/
def doHalt (s : State) (c : CtxId) : State :=
  let s1 := haltCtx s c
  if haltable s1 c then { s1 with gal := { s1.gal with cmdBusy := some (c, 4) } } else s1

/-- ALLOC -/
def execAlloc (lvl : Lvl) (c : CtxId) (s : State) : Res := onReg lvl 2 (fun s => ctxCmd s c 1 false (doAlloc · c)) s
/-- RELEASE: refused in READY, RESIDENT, WAITING and HELD (R177) -/
def execRelease (lvl : Lvl) (c : CtxId) (s : State) : Res := onReg lvl 2 (fun s => ctxCmd s c 2 (haltable s c) (doRelease · c)) s
/-- RESET -/
def execReset (lvl : Lvl) (c : CtxId) (s : State) : Res := onReg lvl 2 (fun s => ctxCmd s c 3 false (doReset · c)) s
/-- HALT -/
def execHalt (lvl : Lvl) (c : CtxId) (s : State) : Res := onReg lvl 2 (fun s => ctxCmd s c 4 false (doHalt · c)) s

/-- A copy command: ignored while its copy runs; in the judgement interval it starts in cycle 1 of the landing (R175, R252, R270). -/
def copyGo (s : State) (code : Byte) (busy : Bool) (f : State → State) : State :=
  if busy then s
  else if s.lnd.judged.isSome then
    (if s.lnd.heldGo.contains code then s else { s with lnd := { s.lnd with heldGo := s.lnd.heldGo ++ [code] } })
  else f s
/-- Starts the copy of the control table. -/
def cctGo (s : State) : State := copyGo s 0 s.gal.cctBusy fun s => { s with gal := { s.gal with cctBusy := true } }
/-- GAL_CCT_SYNC.GO -/
def execGalCctSyncGo (lvl : Lvl) (s : State) : Res := onReg lvl 2 cctGo s
/-- The copy of the control table is done (R175). -/
def execCctCopyDone (s : State) : Res :=
  onCore (fun s => if s.gal.cctBusy then copyTab { s with gal := { s.gal with cctBusy := false } } .cct else s) s
/-- GAL_LOCK_CMD with BREAK = 1 (R202) -/
def execGalLockCmdBreak (lvl : Lvl) (cell : BitVec 12) (s : State) : Res := onReg lvl 2 (breakCell · cell.toNat) s
/-- ENG_CODE_INV.GO: every Orchard line and every instruction cache becomes invalid while BUSY = 1 (R192). -/
def codeInvGo (s : State) : State := if s.eng.invBusy then s else { s with eng := { s.eng with invBusy := true } }
/-- ENG_CODE_INV.GO -/
def execEngCodeInvGo (lvl : Lvl) (s : State) : Res := onReg lvl 2 codeInvGo s
/-- No Orchard line and no instruction-cache line is held. -/
def dropCode (s : State) : State :=
  { s with eng := { s.eng with
      orch := [], cls := s.eng.cls.filterMap fun e => let x := { e.2 with icache := [] }; if x = clReset e.1 then none else some (e.1, x) } }
/-- The invalidation is done (R192). -/
def execCodeInvDone (s : State) : Res :=
  onCore (fun s => if s.eng.invBusy then dropCode { s with eng := { s.eng with invBusy := false } } else s) s

/-! The tables behind the access ports. -/
/-- The selection of GAL_ACC: context, word, area (R203). -/
def galSel (sel : Nat) : CtxId × Nat × Nat := (BitVec.ofNat 18 (sel / 2 ^ 32), sel / 8 % 32, sel / 256 % 4)
/-- What a read through GAL_ACC returns, and whether it met an uncorrectable error (R203). -/
def galRead (s : State) (sel : Nat) : DWord × Bool :=
  let (c, w, area) := galSel sel
  match area with
  | 0 => if s.memc.upset.contains (recKey c w) then (0, true) else (recWord (savedRec s c) w, false)
  | 1 => (tabS s .cct c.toNat 0, false)
  | 2 => (tabA s .cct c.toNat 0, false)
  | _ => (liveWord (liveOf s c), false)
/-- Whether a write through GAL_ACC is refused (R171). -/
def galRefuse (s : State) (sel : Nat) : Bool :=
  let (c, _, area) := galSel sel
  match area with
  | 0 => !recWritable s c
  | 1 => s.gal.cctBusy
  | 2 => true
  | _ => !liveWritable s c
/-- A write of the bits in mask of a word of the Gallery (R171, R203): of the live word only RIDX. A whole word written ends an uncorrectable error
there (R440), any write the correction that waits for it (R442), and a reserved bit written sets GLB_RSVD_WR (R5). -/
def galWrite (s : State) (sel : Nat) (v : DWord) (mask : DWord := 0xFFFF_FFFF_FFFF_FFFF) : State :=
  let (c, w, area) := galSel sel
  let put := fun (old : DWord) => (old &&& ~~~mask) ||| (v &&& mask)
  match area with
  | 0 =>
    let k := recKey c w
    let s1 := dropCorr (if mask = 0xFFFF_FFFF_FFFF_FFFF then healWords s k 8 else s) k 8
    rsvdIf (decide (v &&& mask &&& recRsvd w ≠ 0)) (setRec s1 c (recPut (recOf s c) w (put (recWord (recOf s c) w))))
  | 1 => stgTab s .cct c.toNat 0 v (mask &&& 0xFFFF_FFFF)
  | 2 => s
  | _ => setLive s c { liveOf s c with ridx := (put (liveWord (liveOf s c)) >>> 32).setWidth 16 }

/-- The live half of a queue descriptor (R255). -/
def wqLiveWord (x : WqLive) (w : Nat) : DWord :=
  match w with
  | 4 => x.tail ++ x.head
  | 5 => BitVec.ofNat 64 (enCode x.st + 4 * b2n x.enPend + 0x100 * x.errcode.toNat + 0x1000 * x.badkind.toNat + 0x10000 * x.badreason.toNat
      + 2 ^ 32 * x.erridx.toNat)
  | 6 => x.pubhead ++ x.badidx
  | _ => BitVec.ofNat 64 (wqStarted x)
/-- WQ_ACC: queue, word, bank (R256). -/
def wqSel (sel : Nat) : Nat × Nat × Bool := (sel / 2 ^ 32 % 4096, sel % 8, decide (sel / 8 % 2 = 1))

/-- The tables of PA_TAC and PB_TAC (R334): table, number of entries, number of words, live words.
DEDUCED, unsafe (log 7). -/
def portTab (b : Bool) (t : Nat) : Option (Tab × Nat × Nat × List Nat) :=
  match t with
  | 0 => some (if b then .gclB else .gclA, 1024, 1, [])
  | 1 => some (if b then .saB else .saA, 64, 10, [9])
  | 2 => some (.streamId, 4096, 1, [])
  | 3 => some (.frer, 4096, 2, [1])
  | 4 => some (.filter, 4096, 2, [1])
  | 5 => some (.meter, 256, 2, [])
  | 6 => some (.gate, 1024, 1, [])
  | _ => none
/-- PA_TAC_SEL: index, table, word, bank (R336). -/
def portSel (sel : Nat) : Nat × Nat × Nat × Bool := (sel % 4096, sel / 4096 % 16, sel / 65536 % 16, decide (sel / 0x100000 % 2 = 1))
/-- The SA table of a port. -/
def saTab (b : Bool) : Tab := if b then .saB else .saA
/-- The next PN of an SA, INITPN where none has been used (R335). -/
def saNext (s : State) (b : Bool) (i : Nat) : Nat :=
  let v := sget 0 (portOf s b).pn i
  if v = 0 then (tabA s (saTab b) i 8).toNat else v
/-- The live PN word of an SA. -/
def saPn (s : State) (b : Bool) (i : Nat) : DWord := BitVec.ofNat 64 (saNext s b i)
/-- A live table word of a port (R335). -/
def portLive (s : State) (b : Bool) (t i : Nat) : DWord :=
  match t with
  | 1 => saPn s b i
  | 3 => let f : Frer := sget {} s.ring.frer i; f.lost ++ (0#16 ++ f.last : BitVec 32)
  | 4 => if sget false s.ring.blocked i then 1 else 0
  | _ => 0
/-- A table read of a port: a key word reads 0, and so does what no entry has (R334).
DEDUCED, unsafe (log 7). -/
def portRead (s : State) (b : Bool) (sel : Nat) : DWord :=
  let (i, t, w, bank) := portSel sel
  match portTab b t with
  | none => 0
  | some (tab, n, ws, live) =>
    if n ≤ i ∨ ws ≤ w then 0
    else if live.contains w then portLive s b t i
    else if t = 1 ∧ 2 ≤ w ∧ w ≤ 5 then 0
    else if bank then tabA s tab i w else tabS s tab i w
/-- A table write of a port that R334 refuses; so is one to an entry or word that the table does not have (assumption log 7).
DEDUCED, unsafe (log 7). -/
def portRefuse (s : State) (b : Bool) (sel : Nat) : Bool :=
  let (i, t, w, bank) := portSel sel
  match portTab b t with
  | none => true
  | some (_, n, ws, live) => bank || copying s || live.contains w || decide (n ≤ i ∨ ws ≤ w)
/-- A table write of a port. -/
def portWrite (s : State) (b : Bool) (sel : Nat) (v : DWord) : State :=
  let (i, t, w, _) := portSel sel
  match portTab b t with
  | none => s
  | some (tab, _) => stgTab s tab i w v

/-- A live entry of the pair table. -/
def pairL (s : State) (e : Nat) : PairL := sget {} s.rm.pairs e
/-- The live words of a pair entry (R360). -/
def pairLive (x : PairL) (w : Nat) : DWord :=
  match w with
  | 1 =>
    let st := match x.st with | .off => 0 | .paired => 1 | .solo => 2 | .yielded => 3
    BitVec.ofNat 64 (st + 4 * x.silent.toNat + 16 * b2n x.supp + 256 * x.mism.toNat)
  | 2 => x.own
  | _ => x.part
/-- RM_PT: entry, word, bank (R371). -/
def rmSel (sel : Nat) : Nat × Nat × Bool := (sel / 2 ^ 32 % 0x4000, sel % 4, decide (sel / 4 % 2 = 1))
/-- The live word 1 of an event source (R424). -/
def evLive (x : EvSrc) : DWord :=
  let st := match x.st with | .inactive => 0 | .pending => 1 | .active => 2 | .activePending => 3
  BitVec.ofNat 64 (st + 4 * b2n x.queued + 8 * x.owner.toNat + 256 * x.runprio.toNat + 0x10000 * x.rrptr.toNat)
/-- EVT_ACC: source, word, bank (R423). -/
def evtSel (sel : Nat) : Nat × Nat × Bool := (sel / 2 ^ 32 % 2048, sel % 2, decide (sel / 2 % 2 = 1))
/-- DPT_TAC_SEL: index and bank of the CAN filters (R401). -/
def dptSel (sel : Nat) : Nat × Bool := (sel % 256, decide (sel / 4096 % 2 = 1))

/-- What a read through an access port returns. -/
def accRead (s : State) (a : AccPort) (sel : Nat) : DWord × Bool :=
  match a with
  | .gal => galRead s sel
  | .wq =>
    let (q, w, bank) := wqSel sel
    (if 4 ≤ w then wqLiveWord (wqOf s (BitVec.ofNat 12 q)) w else if bank then tabA s .wq q w else tabS s .wq q w, false)
  | .pa => (portRead s false sel, false)
  | .pb => (portRead s true sel, false)
  | .rm =>
    let (e, w, bank) := rmSel sel
    (if w = 0 then (if bank then tabA s .pair e 0 else tabS s .pair e 0) else pairLive (pairL s e) w, false)
  | .dpt => let (i, bank) := dptSel sel; (if bank then tabA s .canFilter i 0 else tabS s .canFilter i 0, false)
  | .evt =>
    let (n, w, bank) := evtSel sel
    (if w = 1 then evLive (evSrc s n) else if bank then tabA s .evt n 0 else tabS s .evt n 0, false)
/-- Whether a write through an access port is refused. -/
def accRefuse (s : State) (a : AccPort) (sel : Nat) : Bool :=
  match a with
  | .gal => galRefuse s sel
  | .wq => let (_, w, bank) := wqSel sel; decide (4 ≤ w) || bank || s.wq.copyBusy
  | .pa => portRefuse s false sel
  | .pb => portRefuse s true sel
  | .rm => let (_, w, bank) := rmSel sel; decide (w ≠ 0) || bank || copying s
  | .dpt => let (_, bank) := dptSel sel; bank || copying s
  | .evt => let (n, w, bank) := evtSel sel; decide (w = 1) || bank || !evReal n || copying s
/-- A write through an access port. -/
def accWrite (s : State) (a : AccPort) (sel : Nat) (v : DWord) : State :=
  match a with
  | .gal => galWrite s sel v
  | .wq => let (q, w, _) := wqSel sel; stgTab s .wq q w v
  | .pa => portWrite s false sel v
  | .pb => portWrite s true sel v
  | .rm => let (e, _, _) := rmSel sel; stgTab s .pair e 0 v
  | .dpt => let (i, _) := dptSel sel; stgTab s .canFilter i 0 v
  | .evt => let (n, _, _) := evtSel sel; stgTab s .evt n 0 v
/-- An access command (R518): refused while BUSY = 1 and by the rule of its table, with SYNCWR for a write that only a copy of the banks stops (R265), and
GLB_RSVD_WR for one to a reserved event source (R404); else BUSY is set.
DEDUCED, unsafe (log 17). -/
def accCmd (a : AccPort) (write : Bool) (s : State) : State :=
  if accBusy s a then setRefused s a true
  else if write && accRefuse s a (accSel s a) then
    let s := match a with | .evt => (if evReal (evtSel (accSel s a)).1 then s else setRsvd s) | _ => s
    setRefused (if copying s && !accRefuse { s with lnd := { s.lnd with syncBusy := none } } a (accSel s a) then { s with lnd := { s.lnd with syncwr := true } } else s)
      a true
  else
    let s1 := setRefused s a false
    { s1 with reg := { s1.reg with acc := s1.reg.acc ++ [(a, { write := write, sel := accSel s a, data := accVal s a })] } }
/-- An access ends: BUSY falls, a read fills the data registers, a write is in the table (R518).
DEDUCED, unsafe (log 17). -/
def accDone (a : AccPort) (s : State) : State :=
  match s.reg.acc.find? fun e => e.1 == a with
  | none => s
  | some (_, op) =>
    let s1 := { s with reg := { s.reg with acc := s.reg.acc.filter fun e => e.1 != a } }
    if op.write then accWrite s1 a op.sel op.data
    else
      let (v, ecc) := accRead s1 a op.sel
      let s2 := if a = .gal then { s1 with reg := { s1.reg with accEcc := ecc } } else s1
      let s2 := if ecc then noteRec s2 (galSel op.sel).1 (galSel op.sel).2.1 else s2
      setAccVal s2 a v (a == .gal && (decide (op.sel / 256 % 4 = 1) || decide (op.sel / 256 % 4 = 2)))

/-- GAL_ACC_CMD read -/
def execGalAccRead (lvl : Lvl) (s : State) : Res := onReg lvl 2 (accCmd .gal false) s
/-- GAL_ACC_CMD write -/
def execGalAccWrite (lvl : Lvl) (s : State) : Res := onReg lvl 2 (accCmd .gal true) s
/-- BUSY falls -/
def execIndirectAccessDone (a : AccPort) (s : State) : Res := onCore (accDone a) s
/-- WQ_ACC_CMD read -/
def execWqAccRead (lvl : Lvl) (s : State) : Res := onReg lvl 1 (accCmd .wq false) s
/-- WQ_ACC_CMD write -/
def execWqAccWrite (lvl : Lvl) (s : State) : Res := onReg lvl 1 (accCmd .wq true) s
/-- The access port of a ring port. -/
def portAcc (b : Bool) : AccPort := if b then .pb else .pa
/-- PA_TAC_CMD or PB_TAC_CMD read -/
def execPaTacRead (lvl : Lvl) (portB : Bool) (s : State) : Res := onReg lvl 2 (accCmd (portAcc portB) false) s
/-- PA_TAC_CMD or PB_TAC_CMD write -/
def execPaTacWrite (lvl : Lvl) (portB : Bool) (s : State) : Res := onReg lvl 2 (accCmd (portAcc portB) true) s
/-- RM_PT_CMD read -/
def execRmPtRead (lvl : Lvl) (s : State) : Res := onReg lvl 2 (accCmd .rm false) s
/-- RM_PT_CMD write -/
def execRmPtWrite (lvl : Lvl) (s : State) : Res := onReg lvl 2 (accCmd .rm true) s
/-- DPT_TAC_CMD read -/
def execDptTacRead (lvl : Lvl) (s : State) : Res := onReg lvl 2 (accCmd .dpt false) s
/-- DPT_TAC_CMD write -/
def execDptTacWrite (lvl : Lvl) (s : State) : Res := onReg lvl 2 (accCmd .dpt true) s
/-- EVT_ACC_CMD read -/
def execEvtAccRead (lvl : Lvl) (s : State) : Res := onReg lvl 1 (accCmd .evt false) s
/-- EVT_ACC_CMD write -/
def execEvtAccWrite (lvl : Lvl) (s : State) : Res := onReg lvl 1 (accCmd .evt true) s

end Sys2Proof.Machine
end

