-- ==== Sys2Proof/Machine/Channels.lean ====
section
/-! DEFINITION. Mover channels: requests (R206), which channels may run (R216, R219, R221), enable and disable (R223), and the channel commands
(R218 to R221). -/
namespace Sys2Proof.Machine

/-- A request for a channel (R206). -/
def requestChan (s : State) (k : Nat) (x : Xfer) : State :=
  let (n, s1) := nextStamp s
  grantAll (setChan s1 k { x with granted := false, since := n, age := n })
/-- Whether the context holds a channel entry (R218). -/
def inFlight (s : State) (c : CtxId) : Bool :=
  match chanOf s c.toNat with
  | some x => x.granted
  | none => false

/-- A channel command: refused while BUSY = 1 (R232), else it acts and RESULT is what it answers. -/
def chCmd (c : CtxId) (f : State → State × BitVec 2) (s : State) : State :=
  if s.mov.cmdBusy then { s with mov := { s.mov with cmdRes := 2 } }
  else
    let (s1, r) := f { s with mov := { s.mov with cmdCtx := c } }
    { s1 with mov := { s1.mov with cmdRes := r } }
/-- ENABLE of a context's channel (R223). -/
def chEnable (c : CtxId) (s : State) : State :=
  let x := chstOf s c
  let (e, p) := enableSt x.en x.enPend
  grantAll (setChst s c { x with en := e, enPend := p })
/-- The end of a channel's drain (R9, R223). -/
def chDrained (c : CtxId) (s : State) : State :=
  let x := chstOf s c
  if x.en = .draining ∧ !inFlight s c then
    let (e, p) := drainSt x.enPend
    grantAll (setChst s c { x with en := e, enPend := p })
  else s
/-- DISABLE of a context's channel: with no transfer in flight the drain ends at once (R223). -/
def chDisable (c : CtxId) (s : State) : State :=
  let x := chstOf s c
  let (e, p) := disableSt x.en x.enPend
  let s1 := setChst s c { x with en := e, enPend := p }
  if x.en = .active then chDrained c s1 else s1
/-- STOP (R218): the channel stops as the TCLASS in force says, and STOP_DONE tells when; a port instruction's channel, and no channel, is
nothing to act on. -/
def chStop (c : CtxId) (s : State) : State × BitVec 2 :=
  match chanOf s c.toNat with
  | some x =>
    if !x.granted || x.paused || isPortInstr x || !(x.stopping.isNone || x.stopping == some .glob) then (s, 1)
    else
      let s1 := setChan s c.toNat { x with stopping := some (if timedOf s c then .timed else .bulk) }
      ({ s1 with mov := { s1.mov with cmdBusy := true } }, 0)
  | none => (s, 1)
/-- Whether a context waits on a MOVE that a pause interrupted (R219): it runs code and has neither a channel nor a time to wait for. -/
def onMove (s : State) (c : CtxId) : Bool :=
  decide (stOf s c = .waiting) && decide ((liveOf s c).waitk = 6) && decide ((thrOf s (.ctx c)).phase = .code) &&
    match (thrOf s (.ctx c)).wait with
    | some w => w.till.isNone
    | none => false
/-- UNPAUSE (R219): a step channel goes on, a context paused in MOVE becomes READY. -/
def chUnpause (c : CtxId) (s : State) : State × BitVec 2 :=
  if !(chstOf s c).paused then (s, 1)
  else
    let s1 := setChst s c { chstOf s c with paused := false }
    match chanOf s1 c.toNat with
    | some x =>
      let (n, s2) := nextStamp s1
      (grantAll (setChan s2 c.toNat { x with paused := false, age := n }), 0)
    | none =>
      (grantAll (if onMove s1 c then becomeReady s1 c else s1), 0)
/-- The global BULK pause (R221): a BULK channel that holds an entry stops as R219 says, which STOP_DONE settles: what it has read is written. A MOVE-OUT
whose record waits for its unit has nothing to settle, and waits as a paused step does. -/
def bulkPause (s0 : State) : State :=
  let held := s0.mov.chans.filter fun e => isCtxKey e.1 && !timedOf s0 (BitVec.ofNat 18 e.1) && e.2.offered && !isPortInstr e.2
  let s := held.foldl (fun s e => let c := BitVec.ofNat 18 e.1; if stOf s c = .waiting then setSt s c .waiting 6 else s) s0
  { s with mov := { s.mov with
      bulkPaused := true
      chans := s.mov.chans.map fun e =>
        if isCtxKey e.1 && !timedOf s (BitVec.ofNat 18 e.1) && e.2.granted && !isPortInstr e.2 && !e.2.offered && decide (e.2.kind ≠ .sense) &&
          !e.2.paused && e.2.stopping.isNone
        then (e.1, { e.2 with stopping := some .glob }) else e } }
/-- The contexts that the global pause left waiting on a MOVE (R219). -/
def bulkWaiters (s : State) : List CtxId :=
  (s.gal.live.filter fun e =>
    let c := BitVec.ofNat 18 e.1
    !timedOf s c && !(chstOf s c).paused && (chanOf s e.1).isNone && onMove s c).map fun e => BitVec.ofNat 18 e.1
/-- The end of the global BULK pause (R221): a channel that had still to settle goes on. -/
def bulkUnpause (s : State) : State :=
  if s.mov.bulkPaused then
    let (n, s0) := nextStamp s
    let s1 := { s0 with mov := { s0.mov with
      bulkPaused := false
      chans := s0.mov.chans.map fun e =>
        let y := if e.2.stopping = some .glob then { e.2 with stopping := none } else e.2
        (e.1, if isCtxKey e.1 && !timedOf s (BitVec.ofNat 18 e.1) && y.granted && !isPortInstr y then { y with age := n } else y) } }
    grantAll ((bulkWaiters s).reverse.foldl becomeReady s1)
  else s

/-- MOV_CH_CMD QUERY -/
def execQueryChannel (lvl : Lvl) (c : CtxId) (s : State) : Res := onReg lvl 1 (chCmd c fun s => (s, 0)) s
/-- MOV_CH_CMD ENABLE -/
def execEnableChannel (lvl : Lvl) (c : CtxId) (s : State) : Res := onReg lvl 1 (chCmd c fun s => (chEnable c s, 0)) s
/-- MOV_CH_CMD DISABLE -/
def execDisableChannel (lvl : Lvl) (c : CtxId) (s : State) : Res := onReg lvl 1 (chCmd c fun s => (chDisable c s, 0)) s
/-- The drain of a channel ends -/
def execChannelDrainEnd (c : CtxId) (s : State) : Res := onCore (chDrained c) s
/-- MOV_CH_CMD STOP -/
def execStop (lvl : Lvl) (c : CtxId) (s : State) : Res := onReg lvl 1 (chCmd c (chStop c)) s
/-- MOV_GCMD.PAUSE_BULK -/
def execPauseBulk (lvl : Lvl) (s : State) : Res := onReg lvl 1 bulkPause s

end Sys2Proof.Machine
end

