-- ==== Sys2Proof/Machine/Wake.lean ====
section
/-! DEFINITION. What reaches a context from outside: SIGNAL, RESUME, START (R44, R45, R65, R127, R136, R142, R177) and messages to a
context on another device (R45, R519). -/
namespace Sys2Proof.Machine

/-- The bits of PEND that raise the signal cause (R143). -/
def sigBits (s : State) (c : CtxId) : Word := (liveOf s c).pend &&& (regsOf s (.ctx c)).siga
/-- Whether an asynchronous cause is pending (R141). -/
def asyncPending (s : State) (c : CtxId) : Bool :=
  let x := thrOf s (.ctx c)
  x.watch.isSome || x.limit.isSome || decide (sigBits s c ≠ 0)
/-- Whether an asynchronous cause can be taken (R142, R148, R149). -/
def asyncTakeable (s : State) (c : CtxId) : Bool :=
  let r := regsOf s (.ctx c)
  !srEM r && decide (r.exv ≠ 0) && asyncPending s c
/-- A wait of WAITE or a WAIT step ends with the matched bits, which are cleared from PEND (R44, R127). -/
def endSignalWait (s : State) (c : CtxId) (m : Word) (w : Wait) : State :=
  let r := regsOf s (.ctx c)
  let v := m.setWidth 64
  let s1 := setLive s c { liveOf s c with pend := (liveOf s c).pend &&& ~~~m }
  match w.gd with
  | none => finishWait (setRegs s1 (.ctx c) { r with eval := v }) c 0 0 0
  | some gd => becomeReady (setRegs s1 (.ctx c) { r.setG gd v with eval := v, sr := setFld r.sr 1 1 (b2n (m = 0)), pc := r.pc + 4 }) c
/-- A wait ends because its time or its landing has come (R43, R127). -/
def endTimeWait (s : State) (c : CtxId) : State :=
  let x := thrOf s (.ctx c)
  let r := regsOf s (.ctx c)
  match x.wait with
  | none => s
  | some w =>
    if x.phase = .step then finishWait s c 0 0 0
    else match w.gd with
      | some gd => becomeReady (setRegs s (.ctx c) { r.setG gd 0 with eval := 0, sr := setFld r.sr 1 1 1, pc := r.pc + 4 }) c
      | none => becomeReady (setRegs s (.ctx c) { r with pc := r.pc + 4 }) c
/-- A record that a PRECV took, and stored nothing of, is the next of its unit again (R152). -/
def giveBack (s : State) (ch : Xfer) : State :=
  match ch.rxEnd with
  | some e =>
    let x := unitOf s ch.unit.toNat
    setUnit s ch.unit.toNat { x with rx := { bytes := ch.data, fin := e } :: x.rx }
  | none => s
/-- The digest is again what it was before the port instruction in progress, which is to be repeated (R152, R363).
DESIGN CHOICE, unsafe (log 127). -/
def undigest (s : State) (c : CtxId) : State :=
  let x := thrOf s (.ctx c)
  match x.undig with
  | none => s
  | some (fl, old) =>
    let s1 := setThr s (.ctx c) { x with undig := none }
    { s1 with rm := { s1.rm with pairs := s1.rm.pairs.map fun e =>
        if e.2.st != .off && decide (fld (tabA s .pair e.1 0) 0 18 = c.toNat) then
          (e.1, { e.2 with dig := match old with
            | some v => e.2.dig.map fun d => if d.1 = fl then (fl, v) else d
            | none => e.2.dig.filter fun d => d.1 ≠ fl })
        else e } }
/-- A port instruction is abandoned and will be repeated (R152): its channel is given up, and so is what it took. -/
def abandonPort (s : State) (c : CtxId) (ch : Xfer) : State := grantAll (freeChan (giveBack (undigest s c) ch) c.toNat)
/-- A waiting context after its PEND or its causes changed: its wait ends when a bit of its mask is set; a wait of Clana code is
abandoned when an asynchronous cause is takeable, with PC on the instruction (R142, R152); a MOVE that is paused goes on waiting. -/
def wakeCheck (s : State) (c : CtxId) : State :=
  let x := thrOf s (.ctx c)
  if stOf s c ≠ .waiting ∨ ctxFenced s c then s
  else match x.wait with
    | none => s
    | some w =>
      let m := (liveOf s c).pend &&& w.mask
      if m ≠ 0 then endSignalWait s c m w
      else if x.phase = .code ∧ x.egress.isNone ∧ asyncTakeable s c then
        match chanOf s c.toNat with
        | none =>
          if (liveOf s c).waitk = 6 ∧ w.till.isNone then s
          else
            let s1 := becomeReady (undigest s c) c
            if w.gd.isNone then s1 else setThr s1 (.ctx c) { thrOf s1 (.ctx c) with abandoned := w.gd }
        | some ch =>
          if isPortInstr ch ∧ (ch.kind ≠ .precv ∨ ch.left = ch.count) then becomeReady (abandonPort s c ch) c else s
      else s
/-- SIGNAL of a local context: reason 0, or 0x13 when it is FREE or HALTED (R45, R177). -/
def ctxSignal (s : State) (c : CtxId) (bits : Word) : State × Nat :=
  match stOf s c with
  | .free | .halted => (s, 0x13)
  | _ => (wakeCheck (setLive s c { liveOf s c with pend := (liveOf s c).pend ||| bits }) c, 0)
/-- RESUME of a local context at a held address, 0 for any (R65, R66, R128); a pinned context loads its record again (R187). -/
def ctxResume (s : State) (c : CtxId) (addr : DWord) : State × Nat :=
  match stOf s c with
  | .free | .halted => (s, 0x13)
  | .held =>
    let x := thrOf s (.ctx c)
    if (addr = 0 ∨ addr = x.heldAt) ∧ !ctxFenced s c then
      let s1 := setThr (setSlotRegs s c.toNat none) (.ctx c) { x with holdPass := decide (x.phase ≠ .code), line := none }
      (readyLoad s1 c, 0)
    else (s, 0)
  | _ => (s, 0)
/-- START or POST of a program or chain in an IDLE context (R136, R177, R244): none when the context is not IDLE. -/
def ctxStart (s : State) (c : CtxId) (prog : Bool) (addr : DWord) (gs : List DWord) (origin : Option (QId × Word)) : Option State :=
  match stOf s c with
  | .idle =>
    let r := recOf s c
    let g := gs.foldl (fun (p : Sparse DWord × Nat) v => (sset 0 p.1 p.2 v, p.2 + 1)) (r.g, 0)
    let r' : Regs := if prog then { r with pc := addr, stpa := 0, stpw := 0, g := g.1 } else { r with stpa := addr, stpw := 0 }
    let s1 := setThr (setRegs s (.ctx c) r') (.ctx c) { phase := if prog then .code else .fetch, origin := origin, sb := (thrOf s (.ctx c)).sb }
    if (ceilOf r).toNat < (srPL r).toNat then some (haltWith (setSt s1 c .ready) c sPROT 0x0D 0) else some (readyLoad s1 c)
  | _ => none

/-- Whether a ring address names this device (R45). -/
def isLocal (s : State) (a : Byte) : Bool := a == 0 || a == s.rm.addr
/-- Whether a device is present in the ring table (R45, R350). -/
def present (s : State) (a : Byte) : Bool := s.rm.table.any fun t => t.addr == a && t.present
/-- Whether an address is that of a present device, and not of a host (R346). -/
def presentDev (s : State) (a : Byte) : Bool := s.rm.table.any fun t => t.addr == a && t.present && !t.host
/-- The key of the peer session with a device. -/
def peerKey (a : Byte) : Nat := 0x40 + a.toNat
/-- A SIGNAL or RESUME for a context on another device (R45, R128, R519): a reason for a failure, or the state after the message
was handed to the send path and whether it has entered egress. -/
def sendRemote (s : State) (a typ : Byte) (body : List Byte) (own : SendOwner) : Nat ⊕ (State × Bool) :=
  if !presentDev s a then .inl 0x13
  else if typ = 0x19 ∧ isOpen s (peerKey a) ∧ (sessOf s (peerKey a)).ver.toNat < 0x20 then .inl 0x14
  else
    let (s1, os) := sessPush s (peerKey a) [{ typ := typ, body := body, own := own }]
    .inr (os.foldl (fun s o => if o = own then s else senderEnd s o 0) s1, os.contains own)
/-- The TARGET field of a message or entry (R237). -/
def targetWord (c : CtxId) (a : Byte) : Nat := c.toNat + a.toNat * 0x40000
/-- The payload of SCT SIGNAL (R291). -/
def signalBody (c : CtxId) (a : Byte) (bits : Word) : List Byte := beBytes 4 (targetWord c a) ++ beBytes 4 bits.toNat
/-- The payload of SCT RESUME (R291). -/
def resumeBody (c : CtxId) (a : Byte) (held : DWord) : List Byte := beBytes 4 (targetWord c a) ++ beBytes 8 held.toNat

end Sys2Proof.Machine
end

