-- ==== Sys2Proof/Machine/Queues.lean ====
section
/-! DEFINITION. Work queues: fetch and checks (R235 to R242), the dispatcher and the entries (R243 to R245), queue states (R249). -/
namespace Sys2Proof.Machine

/-- OPCODE -/ def eOp (e : List Byte) : Nat := (byteAt e 1).toNat
/-- FORMAT -/ def eFmt (e : List Byte) : Nat := (byteAt e 0).toNat % 128
/-- A little-endian field of an entry. -/
def eFld (e : List Byte) (o n : Nat) : Nat := leNat (slice e o n)
/-- FLAGS.BAR -/ def eBar (e : List Byte) : Bool := bit (byteAt e 2) 0
/-- FLAGS.FENCE -/ def eFence (e : List Byte) : Bool := bit (byteAt e 2) 2
/-- The target context. -/
def eCtx (e : List Byte) : CtxId := BitVec.ofNat 18 (eFld e 4 4)
/-- The target's ring address. -/
def eRing (e : List Byte) : Byte := BitVec.ofNat 8 (eFld e 4 4 / 0x40000)
/-- The fields of an entry by R239: whether they hold what its opcode and format ask for. -/
def fieldsOk (s : State) (e : List Byte) : Bool :=
  let z := fun o n => decide (eFld e o n = 0)
  let loc := isLocal s (eRing e)
  decide (eFld e 2 2 < 8) && decide (eFld e 4 4 < 2 ^ 26) && z 56 4 &&
  match eOp e with
  | 1 => loc && (if eFmt e = 3 then decide (eFld e 8 8 % 4 = 0) && z 48 8 else z 16 40)
  | 2 => z 16 40
  | 3 => z 8 8 && decide (eFld e 16 4 ≠ 0) && z 20 36
  | 4 =>
    loc && decide (eFld e 32 4 ≠ 0) && decide (eFld e 36 1 ≤ 4) && z 38 18 &&
      (if eFmt e = 2 then decide (1 ≤ eFld e 16 4 ∧ eFld e 16 4 ≤ 65536) && z 20 4 &&
          decide (eFld e 37 1 = 0 ∨ eFld e 37 1 = 2)
        else z 16 8 && decide (eFld e 37 1 < 4))
  | _ => loc && z 8 8 && z 16 40
/-- ERRCODE of a fetched entry, 0 when it is well formed (R240). -/
def entryErr (s : State) (e : List Byte) : BitVec 4 :=
  if crc32c (slice e 1 59) ≠ eFld e 60 4 then 3
  else if eOp e = 0 ∨ 5 < eOp e then 2
  else if !(eFmt e = 1 ∨ (eFmt e = 2 ∧ eOp e = 4) ∨ (eFmt e = 3 ∧ eOp e = 1)) then 1
  else if fieldsOk s e then 0 else 4

/-- The entries fetched and not started. -/
def unstarted (x : WqLive) : List WqEntry := x.ents.filter fun e => !e.started
/-- Whether the device may read the entry at TAIL (R233, R241).
DESIGN CHOICE, unsafe (log 143). -/
def mayFetch (s : State) (q : QId) : Bool :=
  let x := wqOf s q
  x.st == .active && !x.stopRead && x.polling.isNone && decide ((unstarted x).length < wqBurst s q) &&
    decide ((x.tail - x.head).toNat < 2 ^ x.log2.toNat)
/-- The entry at TAIL is read: fetched when OWN = 1, with OWN := 0; a poll wait when OWN = 0, or another read at once when a doorbell
was recorded during this one (R242); malformed with FETCH when the read fails (R236, R241). -/
def doFetch (q : QId) (s : State) : State :=
  let x := wqOf s q
  if !mayFetch s q ∨ stalledIn s .sct (entryAddr x x.tail) 64 then s
  else
    let a := entryAddr x x.tail
    match rdBytes s .sct a 64 with
    | none => setWq s q { x with tail := x.tail + 1, stopRead := true, rung := false, ents := x.ents ++ [{ cnt := x.tail, bytes := [], err := 5 }] }
    | some e =>
      if bit (byteAt e 0) 7 then
        let s1 := storeBytes s .sct 2 a [byteAt e 0 &&& 0x7F]
        setWq s1 q { x with tail := x.tail + 1, rung := false, ents := x.ents ++ [{ cnt := x.tail, bytes := e, err := entryErr s e }] }
      else if x.rung then setWq s q { x with rung := false }
      else setWq s q { x with polling := some (s.time.now + BitVec.ofNat 64 (fld (wqW s q 1) 32 24 * 64)) }
/-- ENTRY_FETCH -/
def execEntryFetch (q : QId) (s : State) : Res := onCore (doFetch q) s
/-- The poll wait of a queue ends (R241). -/
def execPollWaitEnd (q : QId) (s : State) : Res :=
  onCore (fun s => match (wqOf s q).polling with
    | some t => setWq (atTime s t) q { wqOf s q with polling := none }
    | none => s) s
/-- A doorbell (R242): it ends a poll wait; while a read is in flight, which is whenever the device may read and does not wait, one is
recorded.
DEDUCED, unsafe (log 123). -/
def ring (q : QId) (s : State) : State :=
  let x := wqOf s q
  if x.st ≠ .active then bump s (aWQ + 0x4C)
  else if x.polling.isSome then setWq s q { x with polling := none }
  else if mayFetch s q then setWq s q { x with rung := true } else s
/-- WQ_DOORBELL -/
def execWqDoorbell (lvl : Lvl) (q : QId) (s : State) : Res := onReg lvl 1 (ring q) s

/-! The dispatcher (R243 to R245). -/
/-- The entry at the start position of a queue. -/
def startEntry (x : WqLive) : Option WqEntry := x.ents.find? fun e => !e.started
/-- Whether the target accepts an entry (R244): START and MOVE wait while it has work. -/
def accepts (s : State) (e : List Byte) : Bool :=
  if eOp e = 1 ∨ eOp e = 4 then !haltable s (eCtx e) else true
/-- The startable entry of a queue (R243). -/
def startable (s : State) (q : QId) : Option WqEntry :=
  let x := wqOf s q
  if x.st ≠ .active then none
  else match startEntry x with
    | none => none
    | some e =>
      if e.err = 0 ∧ (!eBar e.bytes ∨ x.head = e.cnt) ∧ !(x.ents.any fun d => d.started && !d.done && eFence d.bytes) ∧ accepts s e.bytes
      then some e else none
/-- The queues that the device keeps, in ascending number. -/
def queues (s : State) : List QId := s.wq.q.map fun e => BitVec.ofNat 12 e.1
/-- The highest queue of a list with a token and a startable entry. -/
def topQueue (s : State) (l : List QId) : Option QId :=
  (l.filter fun q => decide ((wqOf s q).tokens ≠ 0) && (startable s q).isSome).getLast?
/-- The dispatcher's next queue within the round: the queue of the visit while it has started fewer than the BURST that its visit began
with (R250) and has a token and a startable entry, else the next below it, else the highest (R245). -/
def inRound (s : State) : Option QId :=
  match s.wq.visit with
  | none => topQueue s (queues s)
  | some (v, n, b) =>
    if n < b ∧ (wqOf s v).tokens ≠ 0 ∧ (startable s v).isSome then some v
    else match topQueue s ((queues s).filter fun q => decide (q.toNat < v.toNat)) with
      | some q => some q
      | none => topQueue s (queues s)
/-- A new round: each ACTIVE or ERROR queue receives WEIGHT tokens (R245). -/
def refill (s : State) : State :=
  let s1 := (queues s).foldl (fun s q =>
    let x := wqOf s q
    if x.st = .active ∨ x.st = .error then setWq s q { x with tokens := BitVec.ofNat 8 (wqWeight s q) } else s) s
  { s1 with wq := { s1.wq with visit := none } }
/-- The dispatcher's next queue with the state in which it is visited: a new round when this one has ended. A round without a visit yet
begins anew in every cc, with new tokens. -/
def nextQueue (s : State) : Option (QId × State) :=
  match s.wq.visit, inRound s with
  | some _, some q => some (q, s)
  | _, _ => (inRound (refill s)).map fun q => (q, refill s)
/-- What holds in the cc after a start or a loss of startable entries (R245): the round has ended when no queue with a token has a
startable entry, and the visit when its queue has none. -/
def roundTidy (s : State) : State :=
  match s.wq.visit with
  | none => s
  | some (v, _, b) =>
    if (inRound s).isNone then { s with wq := { s.wq with visit := none } }
    else if (startable s v).isNone ∨ (wqOf s v).tokens = 0 then { s with wq := { s.wq with visit := some (v, b, b) } } else s
/-- The dispatcher starts the entry of queue q when q is its choice and the entry's opcode is op (R245): its token is taken, the
visit is counted, and act gives the entry's effect. -/
def dispatch (op : Nat) (act : State → QId → WqEntry → State) (q : QId) (s : State) : State :=
  match nextQueue s with
  | none => s
  | some (n, s1) =>
    match startable s1 q with
    | none => s
    | some e =>
      if n ≠ q ∨ eOp e.bytes ≠ op then s
      else
        let x := wqOf s1 q
        let vis : QId × Byte × Byte :=
          match s1.wq.visit with
          | some (v, k, b) => if v = q ∧ k < b then (q, k + 1, b) else (q, 1, BitVec.ofNat 8 (wqBurst s1 q))
          | none => (q, 1, BitVec.ofNat 8 (wqBurst s1 q))
        let s2 := setWq s1 q
          { x with
            tokens := x.tokens - 1
            ents := x.ents.map fun d => if d.cnt = e.cnt then { d with started := true } else d }
        roundTidy (act { s2 with wq := { s2.wq with visit := some vis } } q e)
/-- START (R244): a program entry completes when its context is READY; a target FREE or HALTED is bad at once. -/
def actStart (s : State) (q : QId) (e : WqEntry) : State :=
  let b := e.bytes
  let a := BitVec.ofNat 64 (eFld b 8 8)
  let c := eCtx b
  if eFmt b = 3 then
    match ctxStart s c true a ((List.range 4).map fun i => BitVec.ofNat 64 (eFld b (16 + 8 * i) 8)) none with
    | some s1 => entryDone s1 q e.cnt
    | none => entryBad s q e.cnt 1 0
  else match ctxStart s c false a [] (some (q, e.cnt)) with
    | some s1 => s1
    | none => entryBad s q e.cnt 1 0
/-- MOVE (R239, R244): the pair becomes the work of its context. -/
def actMove (s : State) (q : QId) (e : WqEntry) : State :=
  let b := e.bytes
  let c := eCtx b
  let cnt := eFld b 32 4
  let list := decide (eFmt b = 2)
  let cur : StepW := { lo := BitVec.ofNat 64 (0x0A + 0x2000 + eFld b 36 1 * 0x1000000 + cnt * 2 ^ 32), hi := BitVec.ofNat 64 (eFld b 24 8) }
  let src : StepW :=
    { lo := BitVec.ofNat 64 (0x0B + b2n list * 0x4000 + eFld b 37 1 * 2 ^ 32), hi := BitVec.ofNat 64 (eFld b 8 8) }
  match ctxStart s c false 0 [] (some (q, e.cnt)) with
  | some s1 =>
    if haltable s1 c then
      setThr s1 (.ctx c)
        { thrOf s1 (.ctx c) with
          phase := .step, cur := cur, src := src, wqMove := some (if list then eFld b 16 4 else 65536) }
    else s1
  | none => entryBad s q e.cnt 1 0
/-- RESUME (R244). -/
def actResume (s : State) (q : QId) (e : WqEntry) : State :=
  let b := e.bytes
  let held := BitVec.ofNat 64 (eFld b 8 8)
  if isLocal s (eRing b) then
    let (s1, r) := ctxResume s (eCtx b) held
    if r = 0 then entryDone s1 q e.cnt else entryBad s1 q e.cnt 1 0
  else match sendRemote s (eRing b) 0x16 (resumeBody (eCtx b) (eRing b) held) (.entry q e.cnt) with
    | .inl r => entryBad s q e.cnt 2 (BitVec.ofNat 8 r)
    | .inr (s1, now) => if now then entryDone s1 q e.cnt else s1
/-- SIGNAL (R45, R244). -/
def actSignal (s : State) (q : QId) (e : WqEntry) : State :=
  let b := e.bytes
  let bits := BitVec.ofNat 32 (eFld b 16 4)
  if isLocal s (eRing b) then
    let (s1, r) := ctxSignal s (eCtx b) bits
    if r = 0 then entryDone s1 q e.cnt else entryBad s1 q e.cnt 2 (BitVec.ofNat 8 r)
  else match sendRemote s (eRing b) 0x19 (signalBody (eCtx b) (eRing b) bits) (.entry q e.cnt) with
    | .inl r => entryBad s q e.cnt 2 (BitVec.ofNat 8 r)
    | .inr (s1, now) => if now then entryDone s1 q e.cnt else s1
/-- HALT (R244): completes when the target has left the states that a HALT ends. -/
def actHalt (s : State) (q : QId) (e : WqEntry) : State :=
  let c := eCtx e.bytes
  let s1 := setThr s (.ctx c) { thrOf s (.ctx c) with haltEnt := (thrOf s (.ctx c)).haltEnt ++ [(q, e.cnt)] }
  if haltable s c then haltCtx s1 c else entryDone s q e.cnt
/-- WQ_START -/
def execWqStart (q : QId) (s : State) : Res := onCore (dispatch 1 actStart q) s
/-- WQ_RESUME -/
def execWqResume (q : QId) (s : State) : Res := onCore (dispatch 2 actResume q) s
/-- WQ_SIGNAL -/
def execWqSignal (q : QId) (s : State) : Res := onCore (dispatch 3 actSignal q) s
/-- WQ_MOVE -/
def execWqMove (q : QId) (s : State) : Res := onCore (dispatch 4 actMove q) s
/-- WQ_HALT -/
def execWqHalt (q : QId) (s : State) : Res := onCore (dispatch 5 actHalt q) s

/-! Queue states (R249, R250). -/
/-- The entries that stay when those fetched and not started are discarded. -/
def keepStarted (x : WqLive) : List WqEntry := x.ents.filter fun e => e.started
/-- A malformed entry at the start position: the queue enters ERROR (R243, R249). -/
def doQueueError (q : QId) (s : State) : State :=
  let x := wqOf s q
  match x.st, startEntry x with
  | .active, some e =>
    if e.err = 0 then s
    else
      let s1 := setWq s q { x with st := .error, erridx := e.cnt, errcode := e.err, ents := keepStarted x, polling := none }
      let s2 := setIm s1 (aWQ + 0x50) (BitVec.ofNat 32 (q.toNat + e.err.toNat * 0x10000))
      roundTidy (pubCheck (wqEvent s2 q 5 e.err.toNat) q true)
  | _, _ => s
/-- QUEUE_ERROR -/
def execQueueError (q : QId) (s : State) : Res := onCore (doQueueError q) s
/-- Whether the ring of a queue lies where it may (R234). -/
def baseOk (s : State) (q : QId) : Bool :=
  let b := fld (wqW s q 0) 6 42 * 64
  match locate s .sct b with
  | some (.sram, _) => true
  | some (.dram, _) => true
  | _ => false
/-- A queue becomes ACTIVE: BASE and LOG2SIZE are latched, ERRCODE is cleared, WEIGHT tokens (R245, R250, R255). -/
def goActive (q : QId) (s : State) : State :=
  let x := wqOf s q
  setWq s q
    { x with
      st := .active, enPend := false, errcode := 0, stopRead := false, rung := false, polling := none
      base := BitVec.ofNat 64 (fld (wqW s q 0) 6 42 * 64), log2 := BitVec.ofNat 5 (fld (wqW s q 1) 0 5)
      tokens := BitVec.ofNat 8 (wqWeight s q) }
/-- ENABLE (R8, R234, R249): BASE is judged when the enable is written, in DRAINING too, where a refused enable sets no ENABLE_PENDING.
DESIGN CHOICE, unsafe (log 108). -/
def queueEnable (q : QId) (s : State) : State :=
  let x := wqOf s q
  let s0 := { s with wq := { s.wq with cmdQ := q, cmdRefused := false } }
  let no : State := { s0 with wq := { s0.wq with cmdRefused := true } }
  match x.st with
  | .disabled => if baseOk s q then goActive q s0 else no
  | .draining => if baseOk s q then setWq s0 q { x with enPend := true } else if x.enPend then s0 else no
  | _ => s0
/-- The end of a drain (R9, R249): TAIL := HEAD, the publication, the event; then DISABLED, or ACTIVE when an enable is pending.
DESIGN CHOICE, unsafe (log 108). -/
def queueDrained (q : QId) (s : State) : State :=
  let x := wqOf s q
  if x.st = .draining ∧ wqStarted x = 0 then
    let s1 := pubCheck (setWq s q { x with tail := x.head, ents := [], polling := none }) q true
    let s2 := wqEvent s1 q 6 0
    if x.enPend then goActive q s2 else setWq s2 q { wqOf s2 q with st := .disabled, enPend := false }
  else s
/-- DISABLE (R8, R249): entries fetched and not started are discarded; the drain ends at once when no started entry is open. -/
def queueDisable (q : QId) (s : State) : State :=
  let x := wqOf s q
  let s0 := { s with wq := { s.wq with cmdQ := q } }
  match x.st with
  | .active | .error => roundTidy (queueDrained q (setWq s0 q { x with st := .draining, enPend := false, ents := keepStarted x, polling := none }))
  | .draining => setWq s0 q { x with enPend := false }
  | .disabled => s0
/-- WQ_CMD QUERY -/
def execQueryQueue (lvl : Lvl) (q : QId) (s : State) : Res := onReg lvl 1 (fun s => { s with wq := { s.wq with cmdQ := q } }) s
/-- WQ_CMD ENABLE -/
def execEnableQueue (lvl : Lvl) (q : QId) (s : State) : Res := onReg lvl 1 (queueEnable q) s
/-- WQ_CMD DISABLE -/
def execDisableQueue (lvl : Lvl) (q : QId) (s : State) : Res := onReg lvl 1 (queueDisable q) s
/-- The drain of a queue ends -/
def execQueueDrainEnd (q : QId) (s : State) : Res := onCore (queueDrained q) s
/-- Starts the copy of the queue descriptors (R252). -/
def wqCopyGo (s : State) : State := copyGo s 1 s.wq.copyBusy fun s => { s with wq := { s.wq with copyBusy := true } }
/-- WQ_DSYNC.GO -/
def execWqDsyncGo (lvl : Lvl) (s : State) : Res := onReg lvl 1 wqCopyGo s
/-- The copy of the queue descriptors is done (R252). -/
def execWqCopyDone (s : State) : Res :=
  onCore (fun s => if s.wq.copyBusy then copyTab { s with wq := { s.wq with copyBusy := false } } .wq else s) s
/-- The COAL_TIME of a queue has passed since its first advance after the last HEADPUB (R248). -/
def execCoalTimeExpiry (q : QId) (s : State) : Res :=
  onCore (fun s =>
    let x := wqOf s q
    let t := fld (wqW s q 2) 32 24
    match x.coal with
    | some a => if t = 0 ∨ !bit (wqW s q 1) 31 ∨ x.head = x.pubhead then s else publish (atTime s (a + BitVec.ofNat 64 (t * 64))) q
    | none => s) s

end Sys2Proof.Machine
end

