-- ==== Sys2Proof/Machine/Events.lean ====
section
/-! DEFINITION. The event controller: selection and records (R407 to R411), release (R412), claims, offers and EOI (R413 to R415), the
hold (R418), host targets (R420). -/
namespace Sys2Proof.Machine

/-- What a target holds after reset: a processor target is delivered by its own processor (R417, R423). -/
def tgtReset (t : Nat) : EvTgt := { deliv := if t ≤ 3 then BitVec.ofNat 2 t else 0 }
/-- An event target. -/
def tgtOf (s : State) (t : Nat) : EvTgt := sget (tgtReset t) s.evt.tgt t
/-- Writes an event target. -/
def setTgt (s : State) (t : Nat) (x : EvTgt) : State := { s with evt := { s.evt with tgt := sset (tgtReset t) s.evt.tgt t x } }
/-- A group queue. -/
def evQ (s : State) (t g : Nat) : EvQ := sget {} s.evt.q (8 * t + g)
/-- Writes a group queue. -/
def setEvQ (s : State) (t g : Nat) (x : EvQ) : State := { s with evt := { s.evt with q := sset {} s.evt.q (8 * t + g) x } }
/-- EVT_T_t_CFG -/ def tgtCfg (s : State) (t : Nat) : Word := act s (aEVT + 0x100 + 0x40 * t)
/-- EVT_T_t_MOD -/ def tgtMod (s : State) (t : Nat) : Word := act s (aEVT + 0x104 + 0x40 * t)
/-- LOG2 of a target's queues -/ def tgtLog2 (s : State) (t : Nat) : Nat := fld (tgtCfg s t) 4 4
/-- SESSION of a host target -/ def tgtSess (s : State) (t : Nat) : Nat := fld (tgtCfg s t) 8 6
/-- The group of a priority (R407). -/
def prioGroup (s : State) (p : Nat) : Nat := p / 2 ^ (8 - fld (act s aEVT) 0 2)
/-- The records from the claim index, at the oldest unclaimed one, up to the write index (R411). -/
def qFill (q : EvQ) : Nat := match q.recs.head? with | some r => q.num - r.num | none => 0
/-- Whether a target's queue for a group has room (R411). -/
def hasRoom (s : State) (t g : Nat) : Bool := decide (qFill (evQ s t g) < 2 ^ tgtLog2 s t)
/-- Whether a target is enabled. -/
def tgtEn (s : State) (t : Nat) : Bool := bit (tgtCfg s t) 0
/-- Whether a target is eligible for a group (R409). -/
def eligible (s : State) (t g : Nat) : Bool := tgtEn s t && hasRoom s t g && (decide (t < 4) || isOpen s (tgtSess s t))
/-- The targets of a source's TMASK, ascending. -/
def maskTargets (s : State) (n : Nat) : List Nat := (List.range 20).filter fun t => bit (evW0 s n) (12 + t)
/-- The target of a source's next ordinary record (R409): the next eligible one below the last, wrapping to the highest. -/
def pickTarget (s : State) (n g : Nat) : Option Nat :=
  let l := (maskTargets s n).filter fun t => eligible s t g
  match (l.filter fun t => decide (t < (evSrc s n).rrptr.toNat)).getLast? with
  | some t => some t
  | none => l.getLast?
/-- The records of a target, by group. -/
def tgtRecs (s : State) (t : Nat) : List EvRec := (List.range 8).flatMap fun g => (evQ s t g).recs
/-- The records that moderation counts: unclaimed at a processor, unsent at a host (R412). -/
def tgtLoad (s : State) (t : Nat) : Nat := if t < 4 then (tgtRecs s t).length else ((tgtRecs s t).filter fun r => !r.sent).length
/-- Whether a target waits idle (R412): its processor executes WFI, or IDLE = 1. -/
def tgtWaits (s : State) (t : Nat) : Bool := if t < 4 then (mpOf s (tgtOf s t).deliv).wfi else (tgtOf s t).idle
/-- The claim window of the record of generation g of a source starts, once (R414). -/
def openWindow (s : State) (n g : Nat) : State :=
  let x := evSrc s n
  if x.claimed < g ∧ x.opened < g then setEvSrc s n { x with window := some s.time.now, opened := g } else s
/-- The claim windows of the unclaimed ordinary records of a processor target start at its release (R414). -/
def openWindows (s : State) (t : Nat) : State :=
  if t < 4 then
    (tgtRecs s t).foldl (fun s r => if r.offered then s else openWindow s r.src.toNat r.gen) s
  else s
/-- A target is released (R412). -/
def release (s : State) (t : Nat) : State := openWindows (setTgt s t { tgtOf s t with released := true, holdoff := none }) t
/-- Moderation of a target that holds records (R412). -/
def moderate (s : State) (t : Nat) : State :=
  let x := tgtOf s t
  let n := tgtLoad s t
  if n = 0 then setTgt s t { x with released := false, holdoff := none }
  else if x.released then openWindows s t
  else if fld (tgtMod s t) 0 8 ≤ n ∨ tgtWaits s t then release s t
  else if x.holdoff.isNone then setTgt s t { x with holdoff := some s.time.now } else s

/-- The 16 bytes of a record (R410). -/
def recBytes (src : Nat) (offered more : Bool) (prio t : Nat) (info : Word) (time : DWord) : List Byte :=
  leBytes 2 (src + 0x800 * b2n offered + 0x1000 * b2n more) ++ [BitVec.ofNat 8 prio, BitVec.ofNat 8 t] ++ leBytes 4 info.toNat ++ leBytes 8 time.toNat
/-- The address of a record slot: within shared SRAM, modulo 16 MiB (R411). -/
def slotAddr (s : State) (t g i : Nat) : Nat :=
  0x1_0000_0000 + (fld (tgtCfg s t) 16 12 * 4096 + g * 16 * 2 ^ tgtLog2 s t + 16 * i) % 0x100_0000
/-- Writes a record into a group queue of a target and judges its moderation (R410 to R412). -/
def putRecord (s : State) (n t g prio : Nat) (offered : Bool) : State :=
  let x := evSrc s n
  let q := evQ s t g
  let i := q.wr % 2 ^ tgtLog2 s t
  let s1 := storeBytes s .sct 2 (slotAddr s t g i) (recBytes n offered x.more prio t x.info x.time)
  let r : EvRec := { slot := i, src := BitVec.ofNat 11 n, offered := offered, gen := x.gen, prio := BitVec.ofNat 8 prio, time := x.time, num := q.num }
  moderate (setEvQ s1 t g { wr := i + 1, num := q.num + 1, recs := q.recs ++ [r] }) t

/-- The order of selection (R408): priority, then the higher source number. -/
def selKey (s : State) (n : Nat) : Nat := fld (evW0 s n) 0 8 * 2048 + n
/-- A source number put into a list in descending order of selection. -/
def selInsert (s : State) (n : Nat) : List Nat → List Nat
  | [] => [n]
  | m :: ms => if selKey s m < selKey s n then n :: m :: ms else m :: selInsert s n ms
/-- The sources that may be selected, in the order of selection: PENDING, enabled, with no outstanding record. -/
def candidates (s : State) : List Nat :=
  (s.evt.src.filter fun e => decide (e.2.st = .pending) && !e.2.queued && bit (evW0 s e.1) 11).foldl (fun l e => selInsert s e.1 l) []
/-- The ordinary record of a selected source (R409, R410); a WAKE_IN source gives its level at the selection (R404). -/
def writeRecord (s : State) (n t g : Nat) : State :=
  let x := evSrc s n
  let info : Word := if 0x4D0 ≤ n ∧ n ≤ 0x4D3 then BitVec.ofNat 32 (b2n x.level) else x.info
  putRecord (setEvSrc s n { x with queued := true, info := info, rrptr := BitVec.ofNat 5 t, gen := x.gen + 1, window := none }) n t g (fld (evW0 s n) 0 8) false
/-- Goes through the candidates: the first with an eligible target gets its record; each that only full queues hold back counts (R408). -/
def selectFrom : List Nat → State → State
  | [], s => s
  | n :: ns, s =>
    let g := prioGroup s (fld (evW0 s n) 0 8)
    match pickTarget s n g with
    | some t => writeRecord s n t g
    | none =>
      let en := (maskTargets s n).filter fun t => tgtEn s t
      selectFrom ns (if !en.isEmpty && en.all fun t => !hasRoom s t g then bump s (aEVT + 0x58) else s)
/-- EVENT_RECORD_WRITE -/
def execEventRecordWrite (s : State) : Res := onCore (fun s => if s.evt.hold then s else selectFrom (candidates s) s) s

/-- A target claims the source of a record (R406, R413). -/
def claimSrc (s : State) (t : Nat) (r : EvRec) : State :=
  let n := r.src.toNat
  let x := evSrc s n
  setEvSrc s n
    { x with
      st := .active, queued := false, owner := BitVec.ofNat 5 t, runprio := r.prio, claimed := r.gen, window := none, more := false }
/-- The value of a claim read: SRC, OFFER, MORE, EMPTY, IDX (R423). -/
def claimWord (src : Nat) (offer more empty : Bool) (idx : Nat) : Word :=
  BitVec.ofNat 32 (src + 0x800 * b2n offer + 0x1000 * b2n more + 0x2000 * b2n empty + 0x10000 * idx)
/-- A claim read of queue g of target t (R413, R414): the value and what it does. A host target's register returns OFFERED records. -/
def doClaim (s : State) (t g : Nat) : Word × State :=
  let q := evQ s t g
  match q.recs.find? fun r => decide (t < 4) || r.offered with
  | none => (claimWord 0x7FF false false true 0, s)
  | some r =>
    let s1 := setEvQ s t g { q with recs := q.recs.erase r }
    let x := evSrc s r.src.toNat
    if r.gen ≤ x.claimed then (claimWord 0x7FF false false false r.slot, moderate (bump s1 (aEVT + 0x54)) t)
    else (claimWord r.src.toNat r.offered x.more false r.slot, moderate (claimSrc s1 t r) t)
/-- CLAIM: a read at P1 or above (R134) -/
def execClaim (lvl : Lvl) (t : BitVec 5) (g : BitVec 3) (s : State) : Res :=
  onReg lvl 1 (fun s => if t.toNat < 20 then (doClaim s t.toNat g.toNat).2 else s) s

/-- Whether a source follows a level (R404). -/
def isLevelSrc (n : Nat) : Bool :=
  decide ((0x400 ≤ n ∧ n < 0x470) ∨ n = 0x4C1 ∨ (0x4D0 ≤ n ∧ n ≤ 0x4D3) ∨ (0x500 ≤ n ∧ n < 0x680))
/-- Whether a source in level mode is asserted (R405, R406). -/
def levelHolds (s : State) (n : Nat) : Bool :=
  let sense := fld (evW0 s n) 8 3
  isLevelSrc n && ((decide (sense = 0) && (evSrc s n).level) || (decide (sense = 1) && !(evSrc s n).level))
/-- INFO of a level source that is asserted when it is taken again (R404, R410). -/
def levelInfo (s : State) (n : Nat) : Word :=
  if 0x400 ≤ n ∧ n < 0x470 then (portSts s (n - 0x400)).setWidth 32
  else if n = 0x4C1 then BitVec.ofNat 32 (b2n !s.memc.i0.stale)
  else (evSrc s n).info
/-- EOI (R406, R415): INFO and TIME are taken again for a level source that is still asserted (R410). -/
def doEoi (s : State) (n t : Nat) : State :=
  let x := evSrc s n
  let ok := setEvSrc { s with evt := { s.evt with eoiBad := false } } n
  if x.owner.toNat ≠ t then { s with evt := { s.evt with eoiBad := true } }
  else match x.st with
    | .active => if levelHolds s n then ok { x with st := .pending, queued := false, info := levelInfo s n, time := s.time.now, more := false } else ok { x with st := .inactive }
    | .activePending => ok { x with st := .pending, queued := false }
    | _ => { s with evt := { s.evt with eoiBad := true } }
/-- A write of EVT_EOI (R5, R415, R423): an EOI of a target beyond 19 is a reserved encoding, and not from the owner. -/
def eoiWrite (s : State) (n t : Nat) : State := doEoi (if t < 20 then s else setRsvd s) n t
/-- EOI -/
def execEoi (lvl : Lvl) (src : BitVec 11) (t : BitVec 5) (s : State) : Res := onReg lvl 1 (fun s => eoiWrite s src.toNat t.toNat) s

/-- The target and the record of a source's outstanding ordinary record. -/
def findRecord (s : State) (n : Nat) : Option (Nat × EvRec) :=
  (List.range 20).findSome? fun t =>
    ((tgtRecs s t).find? fun r => r.src.toNat = n ∧ !r.offered ∧ (evSrc s n).claimed < r.gen).map fun r => (t, r)
/-- The offer of a source (R414): a copy in the group queue of every other eligible target; a window of 0 never offers. -/
def offer (s : State) (n : Nat) : State :=
  let x := evSrc s n
  if x.st ≠ .pending ∨ !x.queued ∨ fld (act s (aEVT + 4)) 0 16 = 0 then s
  else match findRecord s n with
    | none => s
    | some (t0, r) =>
      let g := prioGroup s r.prio.toNat
      let s1 := setEvSrc (bump s (aEVT + 0x50)) n { x with window := none }
      ((maskTargets s n).filter fun t => t ≠ t0 && eligible s t g).foldl (fun s t => putRecord s n t g r.prio.toNat true) s1
/-- The claim window of a source ends (R414). -/
def doWindowEnd (n : Nat) (s : State) : State :=
  let w := fld (act s (aEVT + 4)) 0 16
  match (evSrc s n).window with
  | some t => if w = 0 ∨ s.evt.hold then s else offer (atTime s (t + BitVec.ofNat 64 (w * 1000))) n
  | none => s
/-- CLAIM_WINDOW_END -/
def execClaimWindowEnd (src : BitVec 11) (s : State) : Res := onCore (doWindowEnd src.toNat) s
/-- The MOD_TIME of a target has passed since its holdoff started (R412). -/
def doModTime (t : Nat) (s : State) : State :=
  let m := fld (tgtMod s t) 16 16
  match (tgtOf s t).holdoff with
  | some a => if m = 0 ∨ s.evt.hold ∨ 20 ≤ t then s else release (atTime s (a + BitVec.ofNat 64 (64 * m))) t
  | none => s
/-- MOD_TIME_EXPIRY -/
def execModTimeExpiry (t : BitVec 5) (s : State) : Res := onCore (doModTime t.toNat) s

/-- The unsent records of a host target with their groups, oldest first, lower group first at one age (R420). -/
def unsent (s : State) (t : Nat) : List (Nat × EvRec) :=
  let all := (List.range 8).flatMap fun g => ((evQ s t g).recs.filter fun r => !r.sent).map fun r => (g, r)
  all.foldl (fun l e => l.takeWhile (fun d => decide (d.2.time.toNat ≤ e.2.time.toNat)) ++ [e] ++
    l.dropWhile fun d => decide (d.2.time.toNat ≤ e.2.time.toNat)) []
/-- Records of a target are discarded with its session (R420); a source whose record is gone may be selected again. -/
def discardRecords (s : State) (t : Nat) : State :=
  let s1 := (List.range 8).foldl (fun s g => setEvQ s t g { evQ s t g with recs := [] }) s
  let s2 := (tgtRecs s t).foldl (fun s r =>
    let x := evSrc s r.src.toNat
    let held := (List.range 20).any fun t => (tgtRecs s t).any fun d => d.src = r.src ∧ d.gen = x.gen
    if x.st = .pending ∧ !held then setEvSrc s r.src.toNat { x with queued := false, window := none } else s) s1
  moderate s2 t
/-- The bytes of a record in its queue. -/
def recMem (s : State) (t g i : Nat) : List Byte := (List.range 16).map fun j => memGet s (slotAddr s t g i + j)
/-- Sends one EVENT for a released host target (R293, R420); an attempt on a session that is not open discards the records of the target. -/
def doEventSend (t : Nat) (s : State) : State :=
  let k := tgtSess s t
  let u := unsent s t
  if t < 4 ∨ 20 ≤ t ∨ s.evt.hold then s
  else if !isOpen s k then discardRecords s t
  else if !(tgtOf s t).released ∨ u.isEmpty then s
  else if !hasWindow s k then s
  else
    let l := u.take (if (sessOf s k).ver.toNat < 0x21 then 1 else 32)
    let seq := (sessOf s k).next
    let body := [BitVec.ofNat 8 (t - 4), BitVec.ofNat 8 l.length, 0, 0] ++ l.flatMap fun e => recMem s t e.1 e.2.slot
    let s1 := sessSend s k 0x18 body
    let s2 := (List.range 8).foldl (fun s g => setEvQ s t g
      { evQ s t g with recs := (evQ s t g).recs.map fun r => if l.contains (g, r) then { r with sent := true, seq := seq, sess := k } else r }) s1
    let s3 := l.foldl (fun s e => if e.2.offered then s else openWindow s e.2.src.toNat e.2.gen) s2
    moderate (setTgt s3 t { tgtOf s3 t with idle := false }) t
/-- EVENT_SEND -/
def execEventSend (t : BitVec 5) (s : State) : Res := onCore (doEventSend t.toNat) s
/-- An acknowledgement covers EVENT messages of a session (R413): the ordinary records that these carry are claimed. -/
def ackEvents (s : State) (k : Nat) (ack : Word) : State :=
  ((List.range 16).map (· + 4)).foldl (fun s t =>
      let s1 := (List.range 8).foldl (fun s g =>
        ((evQ s t g).recs.filter fun r => r.sent && decide (r.sess = k) && !r.offered && decide ((ack - r.seq).toNat < 0x8000_0000)).foldl (fun s r =>
          let s2 := setEvQ s t g { evQ s t g with recs := (evQ s t g).recs.erase r }
          if (evSrc s2 r.src.toNat).claimed < r.gen then claimSrc s2 t r else s2) s) s
      if (tgtRecs s t).length = (tgtRecs s1 t).length then s else moderate s1 t) s
/-- The records of a target that messages of session k carried are those of no message: its next EVENT attempt takes them up (R420).
DEDUCED, unsafe (log 120). -/
def unsendRecords (k : Nat) (s : State) (t : Nat) : State :=
  let l := (tgtRecs s t).filter fun r => r.sent && decide (r.sess = k)
  if l.isEmpty then s
  else moderate ((List.range 8).foldl (fun s g => setEvQ s t g { evQ s t g with recs := (evQ s t g).recs.map fun r =>
    if r.sent ∧ r.sess = k then { r with sent := false } else r }) s) t
/-- The session of host targets closes or fails: their unclaimed records are offered at once (R420). -/
def evtSessionLost (s : State) (k : Nat) : State :=
  ((List.range 16).map (· + 4)).foldl (fun s t =>
    let s1 := if tgtSess s t ≠ k then s else (tgtRecs s t).foldl (fun s r => if r.offered then s else offer s r.src.toNat) s
    unsendRecords k s1 t) s

/-- EVT_GCMD.HOLD (R418) -/
def evtHold (s : State) : State := if s.evt.hold then s else { s with evt := { s.evt with hold := true, holdAt := s.time.now } }
/-- A timer of the controller after a hold from h to the time now: it goes on where it stopped, or starts now (R418). -/
def heldTimer (h now t : DWord) : DWord := if t.toNat ≤ h.toNat then t + (now - h) else now
/-- EVT_GCMD.RELEASE (R418): the windows and holdoffs go on where they stopped. -/
def evtUnhold (s : State) : State :=
  if s.evt.hold then
    let on := heldTimer s.evt.holdAt s.time.now
    { s with evt := { s.evt with
        hold := false
        src := s.evt.src.map fun e => (e.1, { e.2 with window := e.2.window.map on })
        tgt := s.evt.tgt.map fun e => (e.1, { e.2 with holdoff := e.2.holdoff.map on }) } }
  else s
/-- HOLD -/
def execHold (lvl : Lvl) (s : State) : Res := onReg lvl 1 evtHold s
/-- RELEASE_HOLD -/
def execReleaseHold (lvl : Lvl) (s : State) : Res := onReg lvl 1 evtUnhold s
/-- EVT_SWSET: a software source fires (R404) -/
def execEvtSwset (lvl : Lvl) (idx : BitVec 7) (info : Half) (s : State) : Res :=
  onReg lvl 1 (fun s => evFire s (0x680 + idx.toNat) (info.setWidth 32)) s
/-- IDLE := 1 of a host target (R412, R420). -/
def doTIdle (t : Nat) (s : State) : State :=
  if 4 ≤ t ∧ t < 20 then (let s1 := setTgt s t { tgtOf s t with idle := true }; if tgtLoad s1 t = 0 then s1 else moderate s1 t) else s
/-- EVT_T_IDLE -/
def execEvtTIdle (lvl : Lvl) (t : BitVec 5) (s : State) : Res := onReg lvl 1 (doTIdle t.toNat) s
/-- A processor waits for an interrupt: its targets that hold records are released (R412). -/
def mpIdles (s : State) (n : BitVec 2) : State :=
  (List.range 4).foldl (fun s t => if (tgtOf s t).deliv = n ∧ tgtLoad s t ≠ 0 then moderate s t else s) s
/-- The line of group g at processor n (R412, R417, R418). -/
def mpLine (s : State) (n : BitVec 2) (g : Nat) : Bool :=
  !s.evt.hold && (List.range 4).any fun t => decide ((tgtOf s t).deliv = n) && (tgtOf s t).released && !(evQ s t g).recs.isEmpty
/-- A write of 1 to VALID clears SLOT and VALID (R4, R424). -/
def wkClear (v : Word) (s : State) : State := if bit v 5 then { s with evt := { s.evt with wkValid := false, wkSlot := 0 } } else s
/-- EVT_WK_STS -/
def execEvtWkStsClear (lvl : Lvl) (v : Word) (s : State) : Res := onReg lvl 1 (withRsvd (aEVT + 0x884) v (wkClear v)) s

end Sys2Proof.Machine
end

