-- ==== Sys2Proof/Machine/Pair.lean ====
section
/-! DEFINITION. Paired contexts as port writes see them: the entry of a context, suppression (R362) and the digest (R363). -/
namespace Sys2Proof.Machine

/-- Writes a live pair entry. -/
def setPair (s : State) (e : Nat) (x : PairL) : State := { s with rm := { s.rm with pairs := sset {} s.rm.pairs e x } }
/-- The pair entry of a context that is not OFF (R360, R361). -/
def pairOf (s : State) (c : CtxId) : Option Nat :=
  (s.rm.pairs.find? fun e => decide (e.2.st ≠ .off) && decide (fld (tabA s .pair e.1 0) 0 18 = c.toNat)).map (·.1)
/-- SUPP of a context (R362).
DEDUCED, unsafe (log 43). -/
def suppressed (s : State) (c : CtxId) : Bool :=
  match pairOf s c with
  | some e => (pairL s e).supp
  | none => false
/-- The flight that contains a time (R261). -/
def flightOf (s : State) (t : DWord) : DWord :=
  if 2 ^ 63 ≤ (t - BitVec.ofNat 64 (epoch s)).toNat ∨ period s = 0 then s.lnd.num else BitVec.ofNat 64 (lndAt s t)
/-- The digest registers by flight with bytes added to one flight. -/
def digInto (fl : DWord) (bs : List Byte) : List (DWord × DWord) → List (DWord × DWord)
  | [] => [(fl, BitVec.ofNat 64 (crc64Fold 0xFFFF_FFFF_FFFF_FFFF bs))]
  | e :: r => if e.1 = fl then (fl, BitVec.ofNat 64 (crc64Fold e.2.toNat bs)) :: r else e :: digInto fl bs r
/-- A port write of a context counts in the digest of flight fl (R363); what that digest was is kept while the instruction is in progress. -/
def digest (s : State) (c : CtxId) (fl : DWord) (bs : List Byte) : State :=
  match pairOf s c with
  | none => s
  | some e =>
    let p := pairL s e
    let s1 := setThr s (.ctx c) { thrOf s (.ctx c) with undig := some (fl, (p.dig.find? fun d => d.1 = fl).map (·.2)) }
    setPair s1 e { p with dig := digInto fl bs p.dig }
/-- The port write of a context that counted in a digest is done. -/
def digDone (s : State) (c : CtxId) : State := setThr s (.ctx c) { thrOf s (.ctx c) with undig := none }
/-- The digest of a flight (R363): the CRC-64/XZ of its port writes, 0 when there were none. -/
def digestOf (x : PairL) (fl : DWord) : DWord :=
  match x.dig.find? fun e => e.1 = fl with
  | some e => ~~~e.2
  | none => 0

end Sys2Proof.Machine
end

