-- ==== Sys2Proof/Machine/Except.lean ====
section
/-! DEFINITION. Taking a Clana exception (R138, R147 to R149, R158), once for every instruction that raises one. -/
namespace Sys2Proof.Machine

/-! Cause codes (R138). -/
/-- illegal instruction -/ abbrev xILL : Nat := 1
/-- privilege -/ abbrev xPRIV : Nat := 2
/-- alignment -/ abbrev xALIGN : Nat := 3
/-- bus error -/ abbrev xBUS : Nat := 4
/-- divide by zero -/ abbrev xDIV : Nat := 5
/-- return-stack overflow -/ abbrev xOVF : Nat := 6
/-- return-stack underflow -/ abbrev xUNF : Nat := 7
/-- SYS -/ abbrev xSYS : Nat := 8
/-- BRK -/ abbrev xBRK : Nat := 9
/-- PRIVRET -/ abbrev xRET : Nat := 10
/-- port -/ abbrev xPORT : Nat := 11

/-- The vector of a cause (R138). -/
def vecOf (cause : Nat) : Nat := if cause = 8 then 0x40 else if cause = 9 then 0x80 else if 0x10 ≤ cause then 0xC0 else 0
/-- ECAUSE of a cause (R93). -/
def ecauseOf (cause : Nat) (pfx inrep : Bool) : Half := BitVec.ofNat 16 (cause + 0x100 * b2n pfx + 0x200 * b2n inrep)
/-- The register set after an entry at level pl (R147): PC holds the address of the unit, or the next PC of an asynchronous cause. -/
def enterRegs (r : Regs) (pl : Lvl) (cause : Nat) (eval : DWord) (pfx inrep : Bool) : Regs :=
  { r with
    epc := r.pc
    esr := r.sr
    ecause := ecauseOf cause pfx inrep
    eval := eval
    sr := setFld (setFld (setFld r.sr 8 2 pl.toNat) 10 1 1) 11 1 0
    pc := r.exv + BitVec.ofNat 64 (vecOf cause) }
/-- A management processor stops (R158). -/
def mpStop (s : State) (n : BitVec 2) (double : Bool) : State :=
  let m := mpOf s n
  raise (setMp s n { m with stopped := true, double := m.double || double, istack := m.istack || !double, wfi := false })
    ((if double then 0x44 else 0x48) + n.toNat)
/-- A synchronous exception of a thread (R147): an entry, or with EM = 1 or EXV = 0 a halt of the context (R148, R149) or the stop of
the processor (R158).
DEDUCED, unsafe (log 65). -/
def raiseExc (s : State) (t : Thread) (cause : Nat) (eval : DWord) (pfx : Bool) : State :=
  let r := regsOf s t
  let x := thrOf s t
  let s0 := setThr s t { x with inRep := false }
  match t with
  | .ctx c =>
    if srEM r ∨ r.exv = 0 then haltWith (setRegs s0 t { r with ecause := ecauseOf cause pfx false, eval := eval }) c sABORT 0x17 0
    else setRegs s0 t (enterRegs r (ceilOf r) cause eval pfx false)
  | .mp n =>
    if srEM r ∨ r.exv = 0 then mpStop (setRegs s0 t { r with ecause := ecauseOf cause pfx false, eval := eval }) n true
    else setRegs s0 t (enterRegs r 2 cause eval pfx false)
/-- An asynchronous cause is taken at a boundary (R147): EPC holds the next PC. -/
def takeAsync (s : State) (c : CtxId) (cause : Nat) (eval : DWord) (pfx inrep : Bool) : State :=
  let r := regsOf s (.ctx c)
  setRegs (setThr s (.ctx c) { thrOf s (.ctx c) with inRep := false }) (.ctx c) (enterRegs r (ceilOf r) cause eval pfx inrep)
/-- The port exception (R126, R131). -/
def portExc (s : State) (c : CtxId) (u reason : Nat) : State :=
  raiseExc s (.ctx c) xPORT (BitVec.ofNat 64 (u + reason * 0x100 + (portSts s u).toNat * 0x10000)) false

end Sys2Proof.Machine
end

