-- ==== Sys2Proof/Machine/Units.lean ====
section
/-! DEFINITION. Device port units: settings (R382, R384, R402), record checks (R374), transmit (R376, R385 to R398), receive (R377), commands
(R379), sense (R380), enable and drain (R381, R382). -/
namespace Sys2Proof.Machine

/-- A class setting in force (R384): that with which the unit operates, else the ACTIVE one. -/
def unitSet (s : State) (u i : Nat) : Word := (unitOf s u).applied.getD i (unitCfg s u i)
/-- Filter entry f of a CAN controller in force (R384, R387). -/
def unitFilt (s : State) (u f : Nat) : DWord := (unitOf s u).filt.getD f (tabA s .canFilter (16 * u + f) 0)
/-- A unit of transfer that began before the last landing completes under the settings with which it began (R384). -/
def asBegun (old : Bool) (u : Nat) (f : State → State) (s : State) : State :=
  let x := unitOf s u
  match if old then x.was else none with
  | none => f s
  | some (a, t) =>
    let s1 := f (setUnit s u { x with applied := a, filt := t })
    setUnit s1 u { unitOf s1 u with applied := x.applied, filt := x.filt }
/-- The ACTIVE class settings. -/
def unitCfgs (s : State) (u : Nat) : List Word := (List.range 4).map (unitCfg s u)
/-- The bit time of a CAN timing register in CAN cycles (R402). -/
def canBit (w : Word) : Nat := (fld w 0 8 + 1) * (1 + (fld w 8 8 + 1) + (fld w 16 7 + 1))
/-- Whether class settings keep the limits of R402. -/
def cfgOk (cls : Nat) (f : Nat → Word) : Bool :=
  match cls with
  | 0 =>
    decide (160 ≤ canBit (f 0)) && (!bit (f 3) 0 || decide (20 ≤ canBit (f 1))) && (!bit (f 3) 1 || decide (8 ≤ canBit (f 2))) &&
      (!bit (f 3) 2 || decide (fld (f 3) 8 6 ≠ 0 ∧ fld (f 3) 16 6 ≠ 0 ∧ fld (f 3) 24 6 ≠ 0))
  | 1 => !bit (f 0) 0 || (decide (fld (f 0) 24 8 ≠ 0) && decide (fld (f 0) 8 8 ≠ 0 ∨ fld (f 0) 16 8 ≠ 0))
  | 2 => decide (60 ≤ fld (f 0) 2 14 ∧ fld (f 0) 2 14 ≤ 9212)
  | 3 => decide (fld (f 0) 0 2 ≠ 0)
  | 4 => decide (fld (f 0) 11 2 ≠ 3)
  | 5 => decide (300 ≤ fld (f 0) 0 14 ∧ fld (f 0) 0 14 ≤ 9000) && decide (1 ≤ fld (f 0) 14 3 ∧ fld (f 0) 14 3 ≤ 6) && decide (fld (f 0) 19 2 ≠ 3)
  | 6 => decide (10000 ≤ fld (f 0) 1 18 ∧ fld (f 0) 1 18 ≤ 200000)
  | _ => decide (fld (f 0) 0 2 ≠ 2 ∨ fld (f 0) 2 2 ≠ 0)

/-- Whether the clock of a unit's class runs (R498): CLK_GATE stops it only while no unit of the class is ACTIVE.
DEDUCED, unsafe (log 122). -/
def unitClk (s : State) (u : Nat) : Bool :=
  !bit (act s 0x020004) (unitClass u) ||
    (List.range 112).any fun v => unitOk v && unitClass v == unitClass u && (unitOf s v).st == .active
/-- A command that the class clock of unit u carries out. -/
def onClass (u : Nat) (f : State → State) (s : State) : Res := onCore (fun s => if unitClk s u then f s else s) s

/-! Records to send (R374). -/
/-- A little-endian field of a record. -/
def rFld (b : List Byte) (o n : Nat) : Nat := leNat (slice b o n)
/-- The check of a CAN record (R386); f gives the settings in force.
PRESUMED, unsafe (log 31). -/
def canOk (f : Nat → Word) (b : List Byte) : Bool :=
  let id := rFld b 8 4
  let fl := byteAt b 0xC
  let fmt := fl.toNat % 4
  let len := rFld b 0xE 2
  let rtr := bit fl 3
  let xl := decide (fmt = 2)
  decide (fmt ≠ 3) && decide (id < 2 ^ 29) && ((bit fl 2 && !xl) || decide (id < 2 ^ 11)) && (!bit fl 2 || !xl) && (!rtr || decide (fmt = 0)) &&
  (!bit fl 4 || decide (fmt = 1)) && !bit fl 5 && (!bit fl 6 || xl) && !bit fl 7 && decide (rFld b 0xD 1 = 0) &&
  (match fmt with
   | 0 => decide (len ≤ 8)
   | 1 => decide (len ≤ 8) || [12, 16, 20, 24, 32, 48, 64].contains len
   | _ => decide (1 ≤ len ∧ len ≤ 2048)) &&
  decide (rFld b 0x12 2 = 0) && decide (rFld b 0x18 8 = 0) && (xl || decide (rFld b 0x10 2 = 0 ∧ rFld b 0x14 4 = 0)) &&
  decide (32 + (if rtr then 0 else (len + 15) / 16 * 16) ≤ b.length) && (decide (fmt ≠ 1) || bit (f 3) 0) && (!xl || bit (f 3) 1)
/-- The check of a T1S or MG record (R388, R389, R391). -/
def ethOk (cls : Nat) (f : Nat → Word) (b : List Byte) : Bool :=
  let len := rFld b 8 2
  let top := if cls = 2 then fld (f 0) 2 14 else if slice b (0x10 + 12) 2 = [0x81, 0x00] then 1518 else 1514
  decide (14 ≤ len ∧ len ≤ top) && decide (rFld b 0xA 6 = 0) && decide (16 + (len + 15) / 16 * 16 ≤ b.length)
/-- The check of an SPI transaction record (R395). -/
def spiOk (f : Nat → Word) (b : List Byte) : Bool :=
  let len := rFld b 8 2
  let ctl := byteAt b 0xA
  decide (1 ≤ len ∧ len ≤ 4096) && decide (len % 2 ^ fld (f 0) 11 2 = 0) && decide (fld ctl 4 4 < 3) && decide (rFld b 0xB 1 = 0) &&
    decide ((16 + len + 3) / 4 * 4 ≤ b.length)
/-- The check of a LIN record (R397): a commander sends PUBLISH and SUBSCRIBE, a responder RESPONSE. -/
def linOk (f : Nat → Word) (b : List Byte) : Bool :=
  let kind := rFld b 0xA 1 % 4
  decide (1 ≤ rFld b 9 1 ∧ rFld b 9 1 ≤ 8) && decide (rFld b 0xA 1 < 8) && decide (rFld b 0xB 1 = 0) && decide (rFld b 0xC 4 = 0) &&
    decide (rFld b 0x18 8 = 0) && decide (32 ≤ b.length) && (if bit (f 0) 0 then decide (kind = 2) else decide (kind < 2))
/-- The check of a compare record (R398). -/
def tmrOk (f : Nat → Word) (b : List Byte) : Bool :=
  decide (fld (f 0) 0 2 = 3) && decide (rFld b 8 1 < 4) && decide (rFld b 9 7 = 0) && decide (16 ≤ b.length)
/-- The check of a record against its class (R374).
DEDUCED, safe (log 32). -/
def recFits (s : State) (u : Nat) (b : List Byte) : Bool :=
  let f := unitSet s u
  match unitClass u with
  | 0 => canOk f b
  | 1 => ethOk 1 f b
  | 2 => ethOk 2 f b
  | 4 => spiOk f b
  | 6 => linOk f b
  | 7 => tmrOk f b
  | _ => false
/-- The launch time in a record's header (R375): none for 0. -/
def recLaunch (b : List Byte) : Option DWord := if rFld b 0 8 = 0 then none else some (BitVec.ofNat 64 (rFld b 0 8))
/-- The transmit records that a unit holds, armed responses included (R376, R397). -/
def txUsed (x : DUnit) : Nat := x.tx.length + x.armed.length
/-- The TX_FLUSH counter of a class (R403). -/
def cntFlush (cls : Nat) : Nat :=
  match cls with
  | 0 => 7 | 1 => 7 | 2 => 5 | 4 => 3 | 6 => 6 | _ => 4
/-- The RX_OVR counter of a class (R403). -/
def cntOvr (cls : Nat) : Nat :=
  match cls with
  | 4 => 1 | 5 => 4 | 6 => 5 | 7 => 2 | _ => 3
/-- A record becomes eligible (R376): a LIN response is armed in place of an earlier one for its PID (R397). -/
def makeEligible (s : State) (u : Nat) (r : TxRec) : State :=
  let (n, s0) := nextStamp s
  let x := unitOf s0 u
  if unitClass u = 6 ∧ rFld r.bytes 0xA 1 % 4 = 2 then
    let pid := BitVec.ofNat 6 (rFld r.bytes 8 1)
    setUnit s0 u { x with tx := x.tx.erase r, armed := (x.armed.filter fun e => e.1 ≠ pid) ++ [(pid, r.bytes)] }
  else setUnit s0 u { x with tx := x.tx.map fun q => if q = r then { r with eligible := some n } else q }
/-- A record enters the transmit buffer of a unit (R376); the flag tells whether its launch time had passed. -/
def pushTx (s : State) (u : Nat) (b : List Byte) (launch : Option DWord) (w : Option CtxId) : State × Bool :=
  let late : Bool := match launch with | some t => decide (t.toNat < s.time.now.toNat) | none => false
  let x := unitOf s u
  let wt := if unitClass u = 7 then w else if late ∨ launch.isNone then none else w
  let r : TxRec := { bytes := b, launch := launch, waiter := wt, late := late }
  let s1 := setUnit s u { x with tx := x.tx ++ [r] }
  let s2 := if late ∨ launch.isNone then makeEligible s1 u r else s1
  if late then (unitNote (if unitClass u = 7 then unitCount s2 u 3 else s2) u 2 true, true) else (s2, false)

/-! How a port write of a context ends. -/
/-- The end of a MOVE-OUT or of a port instruction that sends: V for PSEND.AT, PC after the instruction (R126). -/
def sendEnd (s0 : State) (c : CtxId) (kind : XKind) (late : Bool) : State :=
  let s := digDone s0 c
  match kind with
  | .moveOut => finishWait s c 0 0 0
  | k =>
    let g := regsOf s (.ctx c)
    let sr := if k = .psendAt then setFld g.sr 3 1 (b2n late) else g.sr
    let s1 := setRegs s (.ctx c) { g with pc := g.pc + 4, sr := sr }
    if stOf s1 c = .waiting then becomeReady s1 c else s1
/-- The failure of a MOVE-OUT with PORT_ERR, or the port exception of a port instruction (R126, R374, R381). -/
def sendFail (s0 : State) (c : CtxId) (kind : XKind) (u residual reason : Nat) : State :=
  let s := digDone s0 c
  match kind with
  | .moveOut => finishWait s c sPORT residual reason
  | _ => portExc (if stOf s c = .waiting then becomeReady s c else s) c u reason
/-- A context waits with its record (R376); a cause that is takeable then abandons a port instruction at once (R142, R152). -/
def sendWait (s : State) (c : CtxId) (k : BitVec 4) (w : Wait) : State :=
  wakeCheck (if stOf s c = .waiting then setThr (setSt s c .waiting k) (.ctx c) { thrOf s (.ctx c) with wait := some w } else beginWait s c k w) c
/-- A suppressed record (R362), which its digest has counted, completes once read or at its launch time. -/
def sendSuppressed (s : State) (c : CtxId) (kind : XKind) (launch : Option DWord) : State :=
  match launch with
  | some t =>
    if timeGe s t then sendEnd s c kind (decide (t.toNat < s.time.now.toNat))
    else
      let g := regsOf s (.ctx c)
      sendWait (if kind = .psendAt then setRegs s (.ctx c) { g with sr := setFld g.sr 3 1 0 } else s) c 6 { till := some t }
  | none => sendEnd s c kind false
/-- The record that a channel has read is handed to its unit (R374, R376); ch.data is the record. It counts in its digest then, whatever becomes of it
(R363), and waits where the buffer is full.
DEDUCED, unsafe (log 44), DEDUCED, unsafe (log 68), DEDUCED, unsafe (log 69), DESIGN CHOICE, unsafe (log 127). -/
def handOver (s0 : State) (c : CtxId) (ch : Xfer) : State :=
  let u := ch.unit.toNat
  let b := match ch.launch with | some t => leBytes 8 t.toNat ++ ch.data.drop 8 | none => ch.data
  let launch := recLaunch b
  let fl := match launch with | some t => flightOf s0 t | none => ch.flight
  let s := if ch.offered then s0 else digest s0 c fl (BitVec.ofNat 8 u :: b)
  if suppressed s c then sendSuppressed (freeChan s c.toNat) c ch.kind launch
  else if (unitOf s u).st ≠ .active then sendFail (freeChan s c.toNat) c ch.kind u 0 0x12
  else if !recFits s u b then sendFail (unitNote (freeChan s c.toNat) u 3 false) c ch.kind u 0 0x1C
  else if txDepth (unitClass u) ≤ txUsed (unitOf s u) then sendWait (setChan s c.toNat { ch with left := 0, offered := true }) c 5 {}
  else
    let (s1, late) := pushTx (freeChan s c.toNat) u b launch (if ch.kind = .moveOut then some c else none)
    if ch.kind = .moveOut ∧ ((unitOf s1 u).tx.any fun r => r.waiter = some c) then sendWait (digDone s1 c) c 6 {}
    else sendEnd s1 c ch.kind late
/-- The channels that wait for buffer space of a unit, oldest first. -/
def txWaiters (s : State) (u : Nat) : List (Nat × Xfer) :=
  (s.mov.chans.filter fun e => decide (e.2.unit.toNat = u) && e.2.offered && chanReady s e.1 { e.2 with offered := false })
/-- Buffer space may have been freed: records that wait are handed over, oldest first, while there is room (R376). A paused MOVE-OUT keeps its
channel (R219). -/
def serveWaiters (s : State) (u : Nat) : State :=
  let l := txWaiters s u
  if l.isEmpty then s
  else grantAll (l.foldl (fun s e =>
    if txUsed (unitOf s u) < txDepth (unitClass u) ∨ (unitOf s u).st ≠ .active then handOver s (BitVec.ofNat 18 e.1) e.2 else s) s)
/-- A context whose record is held no longer by a pause waits for space again (R376). -/
def spaceWait (s : State) (c : CtxId) : State := if stOf s c = .waiting then setSt s c .waiting 5 else s
/-- UNPAUSE, after which a record that waits for its unit is handed over while there is room (R219, R376). -/
def chResume (c : CtxId) (s : State) : State × BitVec 2 :=
  let (s1, r) := chUnpause c s
  (match chanOf s1 c.toNat with
   | some x => if x.offered then serveWaiters (spaceWait s1 c) x.unit.toNat else s1
   | none => s1, r)
/-- UNPAUSE_BULK, likewise (R221). -/
def bulkResume (s : State) : State :=
  let s1 := bulkUnpause s
  let l := s.mov.chans.filter fun e => e.2.offered
  if s.mov.bulkPaused then
    (l.map fun e => e.2.unit.toNat).dedup.foldl serveWaiters
      ((l.filter fun e => isCtxKey e.1 && !e.2.paused).foldl (fun s e => spaceWait s (BitVec.ofNat 18 e.1)) s1)
  else s1
/-- MOV_CH_CMD UNPAUSE -/
def execUnpause (lvl : Lvl) (c : CtxId) (s : State) : Res := onReg lvl 1 (chCmd c (chResume c)) s
/-- MOV_GCMD.UNPAUSE_BULK -/
def execUnpauseBulk (lvl : Lvl) (s : State) : Res := onReg lvl 1 bulkResume s
/-- The MOVE-OUT that waits on a record completes or fails.
DEDUCED, safe (log 8). -/
def endWaiter (s : State) (r : TxRec) (st reason : Nat) : State :=
  match r.waiter with
  | none => s
  | some c => finishWait s c st 0 reason
/-- Discards transmit records that p selects, counted in TX_FLUSH; a MOVE-OUT that waits on one fails with PORT_ERR (R379, R381). -/
def flushTx (s : State) (u : Nat) (p : TxRec → Bool) (armed : Bool) (reason : Nat) : State :=
  let x := unitOf s u
  let gone := x.tx.filter p
  let n := gone.length + (if armed then x.armed.length else 0)
  let s1 := setUnit s u { x with tx := x.tx.filter fun r => !p r, armed := if armed then [] else x.armed }
  gone.foldl (fun s r => endWaiter s r sPORT reason) (unitCount s1 u (cntFlush (unitClass u)) n)

/-! Receiving (R377, R386 to R398). -/
/-- The contexts that wait for data of a unit. -/
def rxWaiters (s : State) (u : Nat) : List CtxId :=
  (s.gal.live.filter fun e => decide (e.2.st = .waiting) && decide (e.2.waitk = 5) &&
    decide ((thrOf s (.ctx (BitVec.ofNat 18 e.1))).pwait = some u)).map fun e => BitVec.ofNat 18 e.1
/-- A context that waits for a unit goes on with its step or instruction. -/
def wakePort (s : State) (c : CtxId) : State :=
  becomeReady (setThr s (.ctx c) { thrOf s (.ctx c) with pwait := none }) c
/-- A unit of transfer enters the receive buffer, or is lost with OVERRUN (R377); waiting contexts go on. -/
def pushRx (s : State) (u : Nat) (b : List Byte) (e : RxEnd) : State :=
  let x := unitOf s u
  let cls := unitClass u
  if cls ≠ 3 ∧ rxDepth cls ≤ x.rx.length then unitNote (unitCount s u (cntOvr cls)) u 1 true
  else
    let s1 := setUnit s u { x with rx := x.rx ++ [{ bytes := padTo (elemSize cls) b, fin := e }] }
    let s2 := if e.code = 0 then s1 else unitNote s1 u e.code.toNat (decide (e.code = 9))
    (rxWaiters s2 u).reverse.foldl wakePort s2
/-- Whether a unit receives: ACTIVE, or DRAINING with the unit of transfer in progress still to come (R381). -/
def receives (s : State) (u : Nat) : Bool :=
  let x := unitOf s u
  x.st == .active || (x.st == .draining && !x.rxStop)
/-- The unit of transfer in progress ends: in DRAINING, reception stops after it, delivered or not (R381). -/
def rxLast (s : State) (u : Nat) : State := if (unitOf s u).st = .draining then setUnit s u { unitOf s u with rxStop := true } else s
/-- The highest matching filter entry of a CAN controller (R387): its number and word. -/
def canMatch (s : State) (u : Nat) (id fmt : Nat) (ide : Bool) : Option (Nat × DWord) :=
  ((List.range 16).map fun f => (f, unitFilt s u f)).reverse.find? fun e =>
    let w := e.2
    bit w 31 && decide ((id ^^^ fld w 0 29) &&& fld w 32 29 = 0) &&
      (match fld w 61 2 with | 0 => true | 1 => decide (fmt ≠ 2) | 2 => decide (fmt = 2) | _ => false) && (decide (fmt = 2) || bit w 29 == ide)
/-- The error counters of a CAN controller after a transmission or reception (ISO 11898-1): error passive above 127, bus-off
above 255 (R385).
PRESUMED, unsafe (log 30). -/
def canErr (s : State) (u : Nat) (tec rec : Nat) : State :=
  let x := unitOf s u
  if 255 < tec then
    unitNote (unitCount (setUnit s u
      { x with
        tec := 255, rec_ := BitVec.ofNat 8 (Nat.min rec 255), canSt := 2, busOffAt := s.time.now
        recovering := bit (unitSet s u 3) 6 }) u 6) u 5 true
  else
    let passive := decide (127 < tec ∨ 127 < rec)
    let s1 := setUnit s u { x with tec := BitVec.ofNat 8 tec, rec_ := BitVec.ofNat 8 (Nat.min rec 255), canSt := if passive then 1 else 0 }
    if passive ∧ x.canSt = 0 then unitNote s1 u 6 true else s1
/-- A received CAN record with the fields that do not belong to its format at 0, and FILT (R386).
PRESUMED, unsafe (log 30). -/
def canRec (b : List Byte) (filt : Nat) : List Byte :=
  let fl := byteAt b 0xC
  let fmt := fl.toNat % 4
  let ide := bit fl 2 && decide (fmt ≠ 2)
  let flags := fmt + 4 * b2n ide + 8 * b2n (bit fl 3 && decide (fmt = 0)) + 16 * b2n (bit fl 4 && decide (fmt = 1)) +
    32 * b2n (bit fl 5 && decide (fmt = 1)) + 64 * b2n (bit fl 6 && decide (fmt = 2))
  let len := if fmt = 0 then Nat.min 8 (rFld b 0xE 2) else rFld b 0xE 2
  let pay := if bit fl 3 ∧ fmt = 0 then [] else slice b 0x20 len
  slice b 0 8 ++ leBytes 4 (rFld b 8 4 % (if ide then 2 ^ 29 else 2 ^ 11)) ++ [BitVec.ofNat 8 flags, BitVec.ofNat 8 filt] ++ leBytes 2 len ++
    (if fmt = 2 then slice b 0x10 2 ++ [0, 0] ++ slice b 0x14 4 else List.replicate 8 0) ++ List.replicate 8 0 ++ pay
/-- A CAN controller ends a received frame (R385 to R387). A good frame takes REC from above 127 to a value from 119 to 127 that ISO 11898-1 leaves open.
PRESUMED, unsafe (log 30). -/
def canReceive (s : State) (u : Nat) (b : List Byte) (bad : Bool) : State :=
  let x := unitOf s u
  if x.canSt = 2 then s
  else if bad then canErr (unitCount s u 4) u x.tec.toNat (x.rec_.toNat + 1)
  else
    let passive := decide (127 < x.rec_.toNat)
    let s1 := canErr { s with free := if passive then s.free + 1 else s.free } u x.tec.toNat
      (if passive then 119 + (Config.freeByte s.free).toNat % 9 else x.rec_.toNat - 1)
    let fl := byteAt b 0xC
    match canMatch s u (rFld b 8 4) (fl.toNat % 4) (bit fl 2) with
    | some (f, w) => if bit w 30 then unitCount s1 u 2 else pushRx (unitCount s1 u 0) u (canRec b f) { crcBad := false, portErr := false, code := 0 }
    | none =>
      if bit (unitSet s u 3) 7 then pushRx (unitCount s1 u 0) u (canRec b 0xFF) { crcBad := false, portErr := false, code := 0 }
      else unitCount s1 u 2
/-- A T1S or MG MAC ends a received frame (R388); a PAUSE frame is a MAC control frame with opcode 0x0001: the bytes are the time of R375 and the frame from DA without FCS. -/
def ethReceive (s : State) (u : Nat) (b : List Byte) (bad : Bool) : State :=
  let fr := b.drop 8
  let da := slice fr 0 6
  let own := beBytes 2 ((unitSet s u 3).toNat % 0x10000) ++ beBytes 4 (unitSet s u 2).toNat
  let w := if unitClass u = 2 then unitSet s u 0 else unitSet s u 1
  let multi := bit (byteAt da 0) 0
  let bc := decide (da = List.replicate 6 0xFF)
  let pass := decide (da = own) || bc || (multi && bit w 17) || bit w 16
  let top := if unitClass u = 2 then fld (unitSet s u 0) 2 14 else if slice fr 12 2 = [0x81, 0x00] then 1518 else 1514
  if slice fr 12 4 = [0x88, 0x08, 0x00, 0x01] ∧ !bad then s
  else if bad ∨ fr.length < 60 ∨ top < fr.length ∨ !pass then unitCount s u 2
  else
    pushRx (unitCount s u 0) u (slice b 0 8 ++ leBytes 2 fr.length ++ [if bc then 2 else if multi then 1 else 0, 0, 0, 0, 0, 0] ++ fr)
      { crcBad := false, portErr := false, code := 0 }
/-- Whether a CSI receiver accepts a packet (R392). -/
def csiTakes (s : State) (u : Nat) (p : CsiPkt) : Bool :=
  let dt := p.dt.toNat
  (bit (unitSet s u 0) 8 || decide (p.vc.toNat = fld (unitSet s u 0) 4 4)) &&
    (if dt < 32 then bit (unitSet s u 1) dt else decide (dt < 64) && bit (unitSet s u 2) (dt - 32))
/-- Whether an accepted packet is a long one: data types below 0x10 are short packets of CSI-2, Line Start and Line End among them (R393).
PRESUMED, unsafe (log 36). -/
def csiLong (p : CsiPkt) : Bool := decide (0x10 ≤ p.dt.toNat)
/-- Whether a unit of transfer holds the payload of a packet (R392 to R394). -/
def csiHolds (s : State) (u : Nat) (p : CsiPkt) : Bool := !p.unc && csiTakes s u p && csiLong p
/-- The counters that a packet moves (R392, R394, R403). -/
def csiCount (s : State) (u : Nat) (p : CsiPkt) : State :=
  if p.unc then unitCount s u 4
  else
    let s1 := if p.cor then unitCount s u 3 else s
    if !csiTakes s u p then unitCount s1 u 2
    else if !csiLong p then s1
    else (let s2 := unitCount s1 u 1; if p.bad then unitCount s2 u 5 else s2)
/-- The CODE that a packet leaves on its unit (R394): HDR_ECC, PKT_CRC, else 0. -/
def csiCode (s : State) (u : Nat) (p : CsiPkt) : Nat := if p.unc then 0xA else if csiHolds s u p && p.bad then 0xB else 0
/-- A unit of a CSI receiver ends with its bytes and its end e (R394); n long packets are in it, and same tells whether it belongs to the frame that the sense
record shows. Bytes that find the FIFO full are discarded.
DEDUCED, unsafe (log 36). -/
def csiDeliver (s : State) (u : Nat) (m : CsiUnit) (same : Bool) (n : Nat) (b : List Byte) (e : RxEnd) : State :=
  let x := unitOf s u
  let room := 0x10000 - rxBytes x
  let full := (rxWaiters s u).isEmpty && decide (room < b.length)
  let b' := if full then b.take (room / 64 * 64) else b
  let e' : RxEnd := if full then { e with portErr := true, code := if e.portErr then e.code else 9 } else e
  let s1 := if full then unitNote (unitCount s u 6) u 9 true else s
  let y := unitOf s1 u
  pushRx (setUnit s1 u
    { y with
      csiTime := m.start
      csiNum := m.frame
      csiPkts := (if same then y.csiPkts else 0) + BitVec.ofNat 32 n
      csiBytes := (if same then y.csiBytes else 0) + BitVec.ofNat 32 b'.length }) u b' e'
/-- The 64-byte header of a PACKET unit (R393). -/
def csiHead (m : CsiUnit) (p : CsiPkt) : List Byte :=
  padTo 64 (leBytes 8 p.time.toNat ++ [p.dt, p.vc.setWidth 8] ++ leBytes 2 p.pay.length ++ leBytes 2 m.frame.toNat ++ leBytes 2 (b2n p.cor + 2 * b2n p.bad))
/-- A packet in PACKET mode (R393, R394): an accepted long packet is one unit; a packet whose header is uncorrectable leaves its CODE alone.
DESIGN CHOICE, unsafe (log 36). -/
def csiPacket (u : Nat) (m : CsiUnit) (s : State) (p : CsiPkt) : State :=
  let s1 := csiCount s u p
  if p.unc then unitNote s1 u 0xA false
  else if csiHolds s u p then
    csiDeliver s1 u m (decide (m.frame = (unitOf s u).csiNum)) 1 (csiHead m p ++ padTo 64 p.pay)
      { crcBad := p.bad, portErr := false, code := if p.bad then 0xB else 0 }
  else s1
/-- A CSI receiver takes what m says (R392 to R394): in FRAME mode one unit of the payloads of its accepted long packets, in PACKET mode a unit for each.
DEDUCED, unsafe (log 36). -/
def csiReceive (s : State) (u : Nat) (m : CsiUnit) : State :=
  let seqd := fun s => if m.seq then unitCount s u 7 else s
  if bit (unitSet s u 0) 2 then
    let s1 := m.pkts.foldl (csiPacket u m) s
    let s2 := if m.last then unitCount s1 u 0 else s1
    if m.seq then unitNote (seqd s2) u 0x14 false else s2
  else
    let held := m.pkts.filter (csiHolds s u)
    let codes := (m.pkts.map (csiCode s u)).filter (· ≠ 0)
    let e : RxEnd := { crcBad := !codes.isEmpty, portErr := m.seq, code := if m.seq then 0x14 else BitVec.ofNat 5 (codes.getLast?.getD 0) }
    csiDeliver (seqd (unitCount (m.pkts.foldl (fun s p => csiCount s u p) s) u 0)) u m false held.length (held.flatMap fun p => padTo 64 p.pay) e
/-- The table of the CRC-4 of SENT, polynomial x^4 + x^3 + x^2 + 1 (SAE J2716).
PRESUMED, unsafe (log 137). -/
def sentTab : List Nat := [0, 13, 7, 10, 14, 3, 9, 4, 1, 12, 6, 11, 15, 2, 8, 5]
/-- The CRC-4 over data nibbles from the seed 5 (R396, SAE J2716): the recommended method goes on over one nibble 0, the legacy method does not.
PRESUMED, unsafe (log 137). -/
def sentCrc (legacy : Bool) (d : List (BitVec 4)) : Nat :=
  let r := d.foldl (fun r n => sentTab.getD r 0 ^^^ n.toNat) 5
  if legacy then r else sentTab.getD r 0
/-- Whether a sync pulse fails (R396): more than 25 % from 56 nominal ticks of t × 10 ns, or more than 1/64 from the previous pulse; lengths in ps. -/
def syncBad (t : Nat) (prev : Option Word) (p : Nat) : Bool :=
  let off := fun a : Nat => (p - a) + (a - p)
  decide (560000 * t < 4 * off (560000 * t)) || match prev with | some q => decide (q.toNat < 64 * off q.toNat) | none => false
/-- A record of a SENT receiver (R396); its CRC having failed, the receive ends with CRC_BAD and SENT_CRC. -/
def sentPush (s : State) (u : Nat) (time : List Byte) (ty stat n : Byte) (bad pause : Bool) (data : Nat) : State :=
  let s1 := unitCount s u (if ty = 1 then 0 else 1)
  pushRx (if bad then unitCount s1 u 2 else s1) u
    (time ++ [ty, stat, BitVec.ofNat 8 (b2n bad + 2 * b2n pause), n] ++ leBytes 4 data) { crcBad := bad, portErr := false, code := if bad then 0xD else 0 }
/-- A SENT receiver ends a message (R396): the tick is measured on its sync pulse; a serial message that it completes is a record of its own where CFG0.SER
selects its kind.
DEDUCED, unsafe (log 137). -/
def sentReceive (s : State) (u : Nat) (b : List Byte) (m : SentMsg) : State :=
  let c := unitSet s u 0
  let n := fld c 14 3
  let x := unitOf s u
  let s1 := setUnit s u { x with syncPs := some m.sync, tick := BitVec.ofNat 32 (m.sync.toNat / 56) }
  if syncBad (fld c 0 14) x.syncPs m.sync.toNat then unitNote (unitCount s1 u 3) u 0xC false
  else
    let d := (m.nibs.drop 1).take n
    let bad := decide (d.length < n) || decide ((m.nibs[n + 1]?).map (·.toNat) ≠ some (sentCrc (bit c 17) d))
    let s2 := sentPush s1 u (slice b 0 8) 1 ((m.nibs.headD 0).setWidth 8) (BitVec.ofNat 8 n) bad m.pause (d.foldl (fun a k => 16 * a + k.toNat) 0)
    match m.ser with
    | none => s2
    | some q =>
      if fld c 19 2 = 1 + b2n q.enh then
        sentPush (setUnit s2 u { unitOf s2 u with serial := q.data.setWidth 32 }) u (slice b 0 8) (if q.enh then 3 else 2) q.id
          (BitVec.ofNat 8 (b2n (q.enh && q.cfg))) q.bad m.pause q.data.toNat
      else s2
/-- The protected identifier of a LIN frame: the parity bits that the device writes above the frame ID (R397, ISO 17987).
PRESUMED, unsafe (log 34). -/
def linPidOf (id : Nat) : Byte :=
  let p := fun l : List Nat => l.foldl (fun a i => xor a (bit (BitVec.ofNat 6 id) i)) false
  BitVec.ofNat 8 (id % 64 + 64 * b2n (p [0, 1, 2, 4]) + 128 * b2n (!p [1, 3, 4, 5]))
/-- The state of a LIN bus after a frame (R380): asleep after the go-to-sleep request of ISO 17987, else idle.
PRESUMED, unsafe (log 34). -/
def linAfter (x : DUnit) (pid : Byte) (d0 : Byte) : DUnit :=
  { x with linPid := pid, linSt := if pid.toNat % 64 = 0x3C ∧ d0 = 0 then 2 else 0, linSub := false }
/-- The checksum of a LIN response (R397, ISO 17987): the inverted sum with carry of the data bytes, of the PID too where it is enhanced.
PRESUMED, unsafe (log 34). -/
def linSum (enh : Bool) (pid : Byte) (d : List Byte) : Byte :=
  let r := d.foldl (fun a x => let t := a + x.toNat; if 255 < t then t - 255 else t) (if enh then pid.toNat else 0)
  BitVec.ofNat 8 (255 - r)
/-- A LIN unit ends a received record (R397): b gives the time, the PID as received, LEN, FLAGS, the data, and the checksum received at 0x18. STS tells what
failed.
PRESUMED, unsafe (log 34). -/
def linReceive (s : State) (u : Nat) (b : List Byte) : State :=
  let pid := byteAt b 8
  let len := Nat.min 8 (rFld b 9 1)
  let fl := byteAt b 0xA &&& 7
  let d := slice b 0x10 len
  let sumBad := decide (byteAt b 0x18 ≠ linSum (bit fl 2) pid d)
  let parBad := decide (pid ≠ linPidOf (pid.toNat % 64))
  let bad := sumBad || parBad
  let s1 := unitCount (setUnit s u (linAfter (unitOf s u) pid (byteAt b 0x10))) u 1
  pushRx (if bad then unitCount s1 u 2 else s1) u
    (padTo 32 (slice b 0 8 ++ [pid, BitVec.ofNat 8 len, fl, BitVec.ofNat 8 (b2n sumBad + 4 * b2n parBad), 0, 0, 0, 0] ++ d))
    { crcBad := bad, portErr := false, code := if bad then 0xE else 0 }
/-- The receive record of an SPI transaction h (R395): its LEN, chip select and TAG, the time of chip select (R375), the LEN bytes
received and their check; and whether the check failed. -/
def spiRec (h b : List Byte) : List Byte × Bool :=
  let len := rFld h 8 2
  let sel := rFld h 0xA 1 / 16 % 4
  let d := slice b 0x10 len
  let bad := match sel with
    | 1 => decide (beNat (d.drop (len - 1)) ≠ crcOf 4 (d.take (len - 1)))
    | 2 => decide (beNat (d.drop (len - 2)) ≠ crcOf 3 (d.take (len - 2)))
    | _ => false
  (slice b 0 8 ++ slice h 8 2 ++ [byteAt h 0xA &&& 3, BitVec.ofNat 8 (b2n (sel ≠ 0) + 2 * b2n bad)] ++ slice h 0xC 4 ++ d, bad)
/-- An SPI transaction that began with RXEN delivers its receive record (R395).
DEDUCED, unsafe (log 119). -/
def spiReceive (s : State) (u : Nat) (b : List Byte) : State :=
  let x := unitOf s u
  match x.spiRx with
  | [] => s
  | h :: t =>
    let (r, bad) := spiRec h b
    let s1 := setUnit s u { x with spiRx := t }
    pushRx (if bad then unitCount s1 u 2 else s1) u r { crcBad := bad, portErr := false, code := if bad then 0x10 else 0 }
/-- A unit completes a received unit of transfer (R377). At a LIN unit it is the response to a SUBSCRIBE of its own (R397).
DEDUCED, safe (log 32). -/
def doRecordReceive (u : Nat) (r : RxUnit) (e : RxEnd) (s : State) : State :=
  if !unitOk u ∨ !receives s u then s
  else
    asBegun r.old u (fun s =>
      match unitClass u with
      | 0 => canReceive s u r.bytes (e.crcBad || e.portErr)
      | 1 => ethReceive s u r.bytes (e.crcBad || e.portErr)
      | 2 => ethReceive s u r.bytes (e.crcBad || e.portErr)
      | 3 => csiReceive s u r.csi
      | 4 => spiReceive s u r.bytes
      | 5 => sentReceive s u r.bytes r.sent
      | 6 => if (unitOf s u).linSub then linReceive s u r.bytes else s
      | _ => s) (rxLast s u)
/-- RECORD_RECEIVE -/
def execRecordReceive (u : BitVec 7) (r : RxUnit) (e : RxEnd) (s : State) : Res :=
  onClass u.toNat (doRecordReceive u.toNat r e) s
/-- Whether a LIN unit subscribes to a frame ID (R397, R402). -/
def subscribed (s : State) (u i : Nat) : Bool := if i < 32 then bit (unitSet s u 1) i else bit (unitSet s u 2) (i - 32)
/-- A LIN responder receives a header (R397): an armed response is sent, a subscribed frame is received, any other header is ignored. An end with CODE
TX_ERR tells that a bit of the response read back wrongly, as under SAFESTATE_N (R465).
DEDUCED, safe (log 32), PRESUMED, unsafe (log 34). -/
def doLinHeader (u : Nat) (pid : BitVec 6) (b : List Byte) (e : RxEnd) (s : State) : State :=
  let x := unitOf s u
  if !unitOk u ∨ unitClass u ≠ 6 ∨ !bit (unitSet s u 0) 0 ∨ x.st = .disabled then s
  else match x.armed.find? fun a => a.1 = pid with
    | some a =>
      let s1 := setUnit s u { linAfter x (linPidOf pid.toNat) (byteAt a.2 0x10) with armed := x.armed.filter fun a => a.1 ≠ pid }
      serveWaiters (if e.code = 4 ∨ s.flt.safestate then unitNote (unitCount s1 u 4) u 4 false else unitCount s1 u 0) u
    | none =>
      if receives s u ∧ subscribed s u pid.toNat then linReceive (rxLast s u) u (slice b 0 8 ++ [(byteAt b 8 &&& 0xC0) ||| pid.setWidth 8] ++ b.drop 9)
      else setUnit s u { x with linPid := linPidOf pid.toNat }
/-- LIN_HEADER -/
def execLinHeader (u : BitVec 7) (pid : BitVec 6) (r : RxUnit) (e : RxEnd) (s : State) : Res :=
  onClass u.toNat (asBegun r.old u.toNat (doLinHeader u.toNat pid r.bytes e)) s
/-- Whether a LIN unit awaits the response of frame ID i (R397): a commander that sent SUBSCRIBE, or a subscribed responder. -/
def linAwaits (s : State) (u i : Nat) : Bool := if bit (unitSet s u 0) 0 then subscribed s u i else (unitOf s u).linSub
/-- A subscribed LIN response does not end (R397): STS[1], PORT_ERR with CODE NO_RESP. -/
def doNoResp (u : Nat) (b : List Byte) (s : State) : State :=
  if !unitOk u ∨ unitClass u ≠ 6 ∨ !receives s u ∨ !linAwaits s u (rFld b 8 1 % 64) then s
  else
    let par := decide (byteAt b 8 ≠ linPidOf ((byteAt b 8).toNat % 64))
    let r := slice b 0 0xA ++ [byteAt b 0xA &&& 7, BitVec.ofNat 8 (2 + 4 * b2n par), 0, 0, 0, 0] ++ slice b 0x10 8 ++ List.replicate 8 0
    let s1 := rxLast s u
    let s2 := setUnit s1 u { unitOf s1 u with linPid := byteAt b 8, linSt := 0, linSub := false }
    pushRx (unitCount s2 u 3) u r { crcBad := false, portErr := true, code := 0xF }
/-- NO_RESP -/
def execNoResp (u : BitVec 7) (r : RxUnit) (s : State) : Res := onClass u.toNat (asBegun r.old u.toNat (doNoResp u.toNat r.bytes)) s
/-- Whether a timer unit's mode drives the pin (R398). -/
def pinOut (s : State) (u : Nat) : Bool := fld (unitSet s u 0) 0 2 % 2 == 1
/-- The levels of R399 for a unit. -/
def safePins (s : State) (u : Nat) : Pins :=
  match unitClass u with
  | 0 | 6 => .tx true
  | 1 => .mii false false
  | 2 => .serdes true
  | 3 | 5 => .inputs false
  | 4 => .spi true (bit (unitSet s u 0) 8) false
  | _ => .timer (match fld (unitSet s u 0) 12 2 with | 0 => some false | 1 => some true | _ => none)
/-- The levels at which the device holds the pins of a unit (R399, R464, R465): in DISABLED and under the F4 latch all of them, under SAFESTATE_N the outputs;
none where the unit drives them.
DEDUCED, unsafe (log 37). -/
def heldPins (s : State) (u : Nat) : Option Pins :=
  let output := unitClass u ≠ 3 ∧ unitClass u ≠ 5 ∧ (unitClass u ≠ 7 ∨ pinOut s u)
  if (unitOf s u).st = .disabled ∨ s.flt.f4 ∨ (s.flt.safestate ∧ output) then some (safePins s u) else none
/-- The level at which the device holds a timer pin; none for high impedance, and where the unit's own state rules. -/
def safeLevel (s : State) (u : Nat) : Option Bool :=
  match heldPins s u with
  | some (.timer l) => l
  | _ => none
/-- The level of a timer pin (R380). -/
def pinLevel (s : State) (u : Nat) : Bool := (safeLevel s u).getD (unitOf s u).level
/-- A pin edge at a timer unit (R398): the level, and in CAPTURE a record for a selected edge. A pin that the device drives has no edge
from outside. -/
def doCapture (u : Nat) (level : Bool) (s : State) : State :=
  let x := unitOf s u
  if !unitOk u ∨ unitClass u ≠ 7 ∨ x.level = level ∨ (safeLevel s u).isSome then s
  else
    let mode := fld (unitSet s u 0) 0 2
    if pinOut s u ∧ x.st ≠ .disabled then s
    else
      let s0 := setUnit s u { x with level := level }
      let s1 := if receives s u then rxLast s0 u else s0
      if mode = 2 ∧ receives s u ∧ (if level then bit (unitSet s u 0) 2 else bit (unitSet s u 0) 3) then
        pushRx (unitCount s1 u 0) u (leBytes 8 s.time.now.toNat ++ [BitVec.ofNat 8 (b2n level), 0, 0, 0, 0, 0, 0, 0])
          { crcBad := false, portErr := false, code := 0 }
      else s1
/-- CAPTURE_EDGE -/
def execCaptureEdge (u : BitVec 7) (p : PinEdge) (s : State) : Res := onClass u.toNat (asBegun p.old u.toNat (doCapture u.toNat p.level)) s

/-- A timer unit in a mode that has nothing to receive (R398). -/
def notCapture (s : State) (u : Nat) : Bool := decide (unitClass u = 7) && decide (fld (unitSet s u 0) 0 2 ≠ 2)

/-! Transmitting. -/
/-- The next of the records that f gives an age: the smallest age. -/
def oldest (f : TxRec → Option Nat) (l : List TxRec) : Option TxRec :=
  l.foldl (fun b r => match f r, b with
    | none, b => b
    | some _, none => some r
    | some a, some q => match f q with | some m => if a < m then some r else b | none => some r) none
/-- The next eligible record of a unit (R376).
PRESUMED, unsafe (log 31). -/
def nextTx (x : DUnit) : Option TxRec := oldest (fun r => r.eligible) x.tx
/-- The next record that is not yet eligible. -/
def nextLaunch (x : DUnit) : Option TxRec := oldest (fun r => if r.eligible.isNone then r.launch.map (·.toNat) else none) x.tx
/-- Ring time reaches the next launch time of a unit (R376): the record is eligible, and its MOVE-OUT completes (R42). -/
def doLaunch (u : Nat) (s : State) : State :=
  match nextLaunch (unitOf s u) with
  | none => s
  | some r =>
    let s1 := atTime s (r.launch.getD 0)
    if unitClass u = 7 then makeEligible s1 u r
    else
      let q := { r with waiter := none }
      let x := unitOf s1 u
      let s2 := setUnit s1 u { x with tx := x.tx.map fun d => if d = r then q else d }
      endWaiter (makeEligible s2 u q) r 0 0
/-- LAUNCH_TIME -/
def execLaunchTime (u : BitVec 7) (s : State) : Res := onClass u.toNat (doLaunch u.toNat) s
/-- Removes a record that the unit begins, and hands over what waits for space. -/
def takeTx (s : State) (u : Nat) (r : TxRec) : State :=
  let x := unitOf s u
  serveWaiters (setUnit s u { x with tx := x.tx.erase r }) u
/-- The unit begins its next eligible record (R376, R385, R389, R391, R395, R397); d tells how the transmission goes, and the collisions that a T1S frame met,
16 where it is dropped; a CAN or LIN unit cannot read back its own while SAFESTATE_N holds its pin (R465).
PRESUMED, unsafe (log 35). -/
def doTransmit (u : Nat) (d : TxDone) (s : State) : State :=
  let good := d.good
  let x := unitOf s u
  if x.st = .disabled then s
  else match nextTx x with
    | none => s
    | some r =>
      match unitClass u with
      | 0 =>
        if x.canSt = 2 ∨ bit (unitSet s u 3) 4 ∨ bit (unitSet s u 3) 5 then s
        else if good && !s.flt.safestate then takeTx (canErr (unitCount s u 1) u (x.tec.toNat - 1) x.rec_.toNat) u r
        else
          let s1 := canErr (unitCount s u 5) u (x.tec.toNat + 8) x.rec_.toNat
          if bit (unitSet s u 3) 3 then takeTx (unitNote s1 u 4 false) u r else s1
      | 1 => if good then takeTx (unitCount (unitCount s u 4 d.coll.toNat) u 1) u r else takeTx (unitNote (unitCount (unitCount s u 4 16) u 6) u 4 false) u r
      | 2 => if x.link = 0 then s else takeTx (unitCount s u 1) u r
      | 4 => takeTx (unitCount (if bit (byteAt r.bytes 0xA) 3 then setUnit s u { x with spiRx := x.spiRx ++ [r.bytes] } else s) u 0) u r
      | 6 =>
        let sub := decide (rFld r.bytes 0xA 1 % 4 = 1)
        let y := linAfter x (linPidOf (rFld r.bytes 8 1)) (if sub then 1 else byteAt r.bytes 0x10)
        let open_ := sub && good && !s.flt.safestate
        let s1 := setUnit s u { y with linSub := open_, linSt := if open_ then 1 else y.linSt }
        if good && !s.flt.safestate then takeTx (unitCount s1 u 0) u r else takeTx (unitNote (unitCount s1 u 4) u 4 false) u r
      | _ => s
/-- RECORD_TRANSMIT -/
def execRecordTransmit (u : BitVec 7) (d : TxDone) (s : State) : Res := onClass u.toNat (doTransmit u.toNat d) s
/-- A compare edge (R398): the next record drives or toggles the pin; edges lie at least 10 ns apart, and a late one records LATE. -/
def doCompare (u : Nat) (s : State) : State :=
  let x := unitOf s u
  if unitClass u ≠ 7 ∨ x.st ≠ .active ∨ fld (unitSet s u 0) 0 2 ≠ 3 then s
  else match (match nextTx x with | some r => some r | none => nextLaunch x) with
    | none => s
    | some r =>
      let s1 := match r.launch with | some t => if r.late then s else atTime s t | none => s
      let due := match x.edgeAt with | some t => t + 10 | none => s1.time.now
      let s2 := atTime s1 due
      let slow := !r.late && (match r.launch with | some t => decide (t.toNat < s2.time.now.toNat) | none => false)
      let lv := rFld r.bytes 8 1
      let y := unitOf s2 u
      let s3 := unitCount (setUnit s2 u
        { y with
          tx := y.tx.erase r
          level := if lv / 2 % 2 = 1 then !y.level else decide (lv % 2 = 1)
          edgeAt := some s2.time.now }) u 1
      serveWaiters (endWaiter (if slow then unitNote (unitCount s3 u 3) u 2 true else s3) r 0 0) u
/-- COMPARE_EDGE -/
def execCompareEdge (u : BitVec 7) (s : State) : Res := onClass u.toNat (doCompare u.toNat) s

/-! Enable, drain and landings. -/
/-- Entry of a unit into ACTIVE with the class settings given (R382): empty buffers, CODE and ATTN clear, a timer output at its INIT level. -/
def unitEnter (s : State) (u : Nat) (sets : List Word) (refused : Bool) : State :=
  let x := unitOf s u
  unitSignal (setUnit s u
    { x with
      st := .active, enPend := false, refused := refused, code := 0, attn := false, tx := [], rx := [], armed := [], rxStop := false
      applied := sets, edgeAt := none, linSub := false, spiRx := [], filt := [], was := none, syncPs := none
      level := if unitClass u = 7 ∧ bit (sets.getD 0 0) 0 then bit (sets.getD 0 0) 14 else x.level }) u
/-- An ENABLE of a DISABLED unit (R382): refused when the ACTIVE settings break a limit. -/
def unitActivate (s : State) (u : Nat) : State :=
  if cfgOk (unitClass u) (unitCfg s u) then unitEnter s u (unitCfgs s u) false
  else setUnit s u { unitOf s u with st := .disabled, enPend := false, refused := true }
/-- ENABLE (R8, R382): the settings are judged when the enable is written, in DRAINING too.
DESIGN CHOICE, unsafe (log 108). -/
def unitEnable (u : Nat) (s : State) : State :=
  let x := unitOf s u
  if !unitOk u then s
  else match x.st with
    | .disabled => unitActivate s u
    | .draining => if cfgOk (unitClass u) (unitCfg s u) then setUnit s u { x with enPend := true, refused := false } else setUnit s u { x with refused := true }
    | _ => s
/-- DISABLE (R8, R381): records not yet eligible, or all of a timer, are discarded, and what waits for buffer space fails. -/
def unitDisable (u : Nat) (s : State) : State :=
  let x := unitOf s u
  if !unitOk u then s
  else match x.st with
    | .active =>
      let s1 := setUnit s u { x with st := .draining, enPend := false, rxStop := false, drainAt := s.time.now }
      let all := decide (unitClass u = 7)
      serveWaiters (flushTx s1 u (fun r => all || r.eligible.isNone) false 0x12) u
    | .draining => setUnit s u { x with enPend := false }
    | _ => s
/-- A receive that waits for unit u ends with PORT_DISABLED: a MOVE-IN by R41, a PRECV with the port exception (R126). -/
def rxWaitFail (u : Nat) (s : State) (c : CtxId) : State :=
  let s1 := setThr s (.ctx c) { thrOf s (.ctx c) with pwait := none }
  if (thrOf s (.ctx c)).phase = .step then finishWait s1 c sPORT (stepCount (thrOf s (.ctx c))) 0x12 else portExc (becomeReady s1 c) c u 0x12
/-- The end of a unit's drain (R9, R381): the receive buffer is discarded, and waiting receives end with PORT_DISABLED. With an enable
pending the unit goes directly to ACTIVE, without the event of the drain's end; settings that a landing brought and that break a limit
leave the former ones in force, as R384 says of an ACTIVE unit.
DEDUCED, safe (log 8), DEDUCED, unsafe (log 37), DESIGN CHOICE, unsafe (log 108). -/
def unitDrained (s : State) (u : Nat) : State :=
  let x := unitOf s u
  if x.enPend then
    let ok := cfgOk (unitClass u) (unitCfg s u)
    (rxWaiters s u).reverse.foldl (rxWaitFail u) (unitEnter s u (if ok then unitCfgs s u else x.applied) (!ok))
  else
    let s1 := setUnit s u
      { x with
        st := .disabled, rx := [], applied := [], link := 0, linSub := false, spiRx := [], filt := [], was := none, syncPs := none }
    unitPulse ((rxWaiters s1 u).reverse.foldl (rxWaitFail u) s1) u
/-- UNIT_DRAIN_END: nothing remains to send (R381) -/
def doDrainEnd (u : Nat) (s : State) : State :=
  let x := unitOf s u
  if unitOk u ∧ x.st = .draining ∧ x.tx = [] ∧ x.armed = [] then unitDrained s u else s
/-- DRAIN_TMO (R381) -/
def doDrainTmo (u : Nat) (s : State) : State :=
  let x := unitOf s u
  let t := fld (act s aDPT) 0 20
  if unitOk u ∧ x.st = .draining ∧ t ≠ 0 then
    let s1 := atTime s (x.drainAt + BitVec.ofNat 64 (1000 * t))
    unitDrained (unitNote (flushTx s1 u (fun _ => true) true 0x12) u 0x11 true) u
  else s
/-- DPT_U_u_CMD ENABLE -/
def execUnitEnable (lvl : Lvl) (u : BitVec 7) (s : State) : Res := onReg lvl 2 (unitEnable u.toNat) s
/-- DPT_U_u_CMD DISABLE -/
def execUnitDisable (lvl : Lvl) (u : BitVec 7) (s : State) : Res := onReg lvl 2 (unitDisable u.toNat) s
/-- UNIT_DRAIN_END -/
def execUnitDrainEnd (u : BitVec 7) (s : State) : Res := onClass u.toNat (doDrainEnd u.toNat) s
/-- DRAIN_TMO -/
def execDrainTmo (u : BitVec 7) (s : State) : Res := onCore (doDrainTmo u.toNat) s
/-- The filter entries of a CAN controller. -/
def canFilts (s : State) (u : Nat) : List DWord := if unitClass u = 0 then (List.range 16).map fun f => tabA s .canFilter (16 * u + f) 0 else []
/-- What a landing that swaps does to a unit (R384): valid settings come into force, others are refused; what is in progress completes under the settings
before, which the unit keeps until the next landing. -/
def unitLand (old s0 : State) (u : Nat) : State :=
  let x0 := unitOf s0 u
  let kept := if x0.st = .disabled then none else some (x0.applied, canFilts old u)
  let x := { x0 with was := if kept = some (unitCfgs s0 u, canFilts s0 u) then none else kept }
  let s := setUnit s0 u x
  let s1 :=
    if x.st = .disabled ∨ x.applied = unitCfgs s u then setUnit s u { x with refused := false }
    else if cfgOk (unitClass u) (unitCfg s u) then setUnit s u { x with applied := unitCfgs s u, refused := false }
    else setUnit s u { x with refused := true }
  unitSignal s1 u

/-! The command and sense window (R379, R380). -/
/-- A command that R379 ignores: GLB_RSVD_WR and CODE FORMAT. -/
def cmdBad (s : State) (u : Nat) : State := unitNote (setRsvd s) u 3 false
/-- ACK_ATTN -/
def cmdAck (u : Nat) (s : State) : State := unitSignal (setUnit s u { unitOf s u with attn := false, code := 0 }) u
/-- FLUSH_RX: every class receives -/
def cmdFlushRx (u : Nat) (s : State) : State := setUnit s u { unitOf s u with rx := [] }
/-- FLUSH_TX: a unit that does not send ignores it -/
def cmdFlushTx (u : Nat) (s : State) : State :=
  if canSend (unitClass u) then serveWaiters (unitNote (flushTx s u (fun _ => true) true 0x1C) u 0x13 false) u else cmdBad s u
/-- RECOVER (R385) -/
def cmdRecover (u : Nat) (s : State) : State :=
  let x := unitOf s u
  if unitClass u ≠ 0 then cmdBad s u else if x.canSt = 2 then setUnit s u { x with recovering := true } else s
/-- MDIO_RD and MDIO_WR -/
def cmdMdio (wr : Bool) (u : Nat) (s : State) : State :=
  let x := unitOf s u
  if unitClass u ≠ 1 ∧ unitClass u ≠ 2 then cmdBad s u
  else setUnit s u { x with mdio := some (wr, BitVec.ofNat 16 (fld x.arg1 16 16)), mdioDone := false }
/-- WAKE -/
def cmdWake (u : Nat) (s : State) : State :=
  let x := unitOf s u
  if unitClass u ≠ 6 ∨ fld x.arg0 0 13 < 250 ∨ 5000 < fld x.arg0 0 13 then cmdBad s u else setUnit s u { x with linSt := 0 }
/-- SET_LEVEL -/
def cmdLevel (u : Nat) (s : State) : State :=
  let x := unitOf s u
  if unitClass u ≠ 7 ∨ fld (unitSet s u 0) 0 2 = 0 ∨ fld (unitSet s u 0) 0 2 = 2 then cmdBad s u
  else if x.st = .disabled then s else setUnit s u { x with level := bit x.arg0 0 }
/-- A command number written to CMD (R379). -/
def unitCmd (u n : Nat) (s : State) : State :=
  match n with
  | 0 => s
  | 1 => cmdAck u s
  | 2 => cmdFlushRx u s
  | 3 => cmdFlushTx u s
  | 4 => cmdRecover u s
  | 5 => cmdMdio false u s
  | 6 => cmdMdio true u s
  | 7 => cmdWake u s
  | 8 => cmdLevel u s
  | _ => cmdBad s u
/-- A write into the window of a unit (R379). -/
def winWrite (u off : Nat) (v : Word) (s : State) : State :=
  match off with
  | 0 => unitCmd u v.toNat s
  | 4 => setUnit s u { unitOf s u with arg0 := v }
  | 8 => setUnit s u { unitOf s u with arg1 := v }
  | _ => if 0x40 ≤ off ∧ off < 0x60 then s else setRsvd s
/-- Bytes 8 to 31 of a sense record (R380). -/
def senseTail (x : DUnit) (cls : Nat) (level : Bool) : List Byte :=
  match cls with
  | 0 => [x.tec, x.rec_, BitVec.ofNat 8 x.canSt.toNat, 0, 0, 0, 0, 0] ++ leBytes 8 x.busOffAt.toNat
  | 1 => leBytes 2 x.mdioData.toNat ++ [BitVec.ofNat 8 (b2n x.mdioDone), BitVec.ofNat 8 (b2n x.beacons), x.nodeCnt]
  | 2 => leBytes 2 x.mdioData.toNat ++ [BitVec.ofNat 8 (b2n x.mdioDone), BitVec.ofNat 8 x.link.toNat]
  | 3 => leBytes 8 x.csiTime.toNat ++ leBytes 2 x.csiNum.toNat ++ leBytes 4 x.csiPkts.toNat ++ leBytes 4 x.csiBytes.toNat
  | 5 => leBytes 4 x.tick.toNat ++ leBytes 4 x.serial.toNat
  | 6 => [BitVec.ofNat 8 x.linSt.toNat, x.linPid]
  | 7 => [BitVec.ofNat 8 (b2n level), BitVec.ofNat 8 x.tx.length]
  | _ => []
/-- The 32-byte sense record of a unit (R380). -/
def senseRec (s : State) (u : Nat) : List Byte :=
  let x := unitOf s u
  let cls := unitClass u
  slice ([portSts s u, BitVec.ofNat 8 cls, BitVec.ofNat 8 u, BitVec.ofNat 8 (txUsed x),
    BitVec.ofNat 8 (if cls = 3 then rxBytes x / 1024 else x.rx.length), 0, 0, 0] ++ senseTail x cls (pinLevel s u)) 0 32
/-- A read of a word of the window (R379). -/
def winRead (s : State) (u off : Nat) : Word :=
  let x := unitOf s u
  if off = 4 then x.arg0 else if off = 8 then x.arg1
  else if 0x40 ≤ off ∧ off < 0x60 then BitVec.ofNat 32 (leNat (slice (senseRec s u) (off - 0x40) 4)) else 0
/-- A command of the window for a unit that exists. -/
def onUnit (u : BitVec 7) (f : Nat → State → State) (s : State) : Res := onCore (fun s => if unitOk u.toNat then f u.toNat s else s) s
/-- An event at a unit that exists, carried out by its class clock. -/
def onUnitClk (u : BitVec 7) (f : Nat → State → State) (s : State) : Res := onUnit u (fun u s => if unitClk s u then f u s else s) s
/-- ACK_ATTN -/
def execAckAttn (u : BitVec 7) (s : State) : Res := onUnit u cmdAck s
/-- FLUSH_RX -/
def execFlushRx (u : BitVec 7) (s : State) : Res := onUnit u cmdFlushRx s
/-- FLUSH_TX -/
def execFlushTx (u : BitVec 7) (s : State) : Res := onUnit u cmdFlushTx s
/-- RECOVER -/
def execRecover (u : BitVec 7) (s : State) : Res := onUnit u cmdRecover s
/-- MDIO_RD -/
def execMdioRd (u : BitVec 7) (s : State) : Res := onUnit u (cmdMdio false) s
/-- MDIO_WR -/
def execMdioWr (u : BitVec 7) (s : State) : Res := onUnit u (cmdMdio true) s
/-- The end of an MDIO frame (R379): phy is the data a PHY answers with, none when no PHY answers. -/
def doMdioDone (phy : Option Half) (u : Nat) (s : State) : State :=
  let x := unitOf s u
  match x.mdio with
  | none => s
  | some (true, d) => setUnit s u { x with mdio := none, mdioData := d, mdioDone := true }
  | some (false, _) =>
    match phy with
    | some d => setUnit s u { x with mdio := none, mdioData := d, mdioDone := true }
    | none => unitNote (setUnit s u { x with mdio := none, mdioData := 0xFFFF, mdioDone := true }) u 0x12 false
/-- MDIO_DONE -/
def execMdioDone (u : BitVec 7) (phy : Option Half) (s : State) : Res := onUnitClk u (doMdioDone phy) s
/-- WAKE -/
def execWakeCmd (u : BitVec 7) (s : State) : Res := onUnit u cmdWake s
/-- SET_LEVEL -/
def execSetLevel (u : BitVec 7) (s : State) : Res := onUnit u cmdLevel s
/-- The end of bus-off recovery (R385).
PRESUMED, unsafe (log 30). -/
def doBusOffRecovery (u : Nat) (s : State) : State :=
  let x := unitOf s u
  if x.canSt = 2 ∧ x.recovering ∧ unitClass u = 0 then setUnit s u { x with canSt := 0, tec := 0, rec_ := 0, recovering := false } else s
/-- BUS_OFF_RECOVERY -/
def execBusOffRecovery (u : BitVec 7) (s : State) : Res := onUnitClk u doBusOffRecovery s
/-- Whether a T1S unit is an enabled PLCA follower (R390).
PRESUMED, unsafe (log 35). -/
def follower (s : State) (u : Nat) : Bool :=
  decide (unitClass u = 1) && decide ((unitOf s u).st ≠ .disabled) && bit (unitSet s u 0) 0 && decide (fld (unitSet s u 0) 8 8 ≠ 0)
/-- PLCA_LOST (R390): recovering marks the fall back to CSMA/CD. -/
def doPlcaLost (u : Nat) (s : State) : State :=
  let x := unitOf s u
  if follower s u ∧ !x.recovering then unitNote (unitCount (setUnit s u { x with beacons := false, recovering := true }) u 5) u 7 true else s
/-- PLCA_LOST -/
def execPlcaLost (u : BitVec 7) (s : State) : Res := onUnitClk u doPlcaLost s
/-- PLCA_BEACON_RETURN (R390) -/
def doBeacon (n : Byte) (u : Nat) (s : State) : State :=
  if follower s u then setUnit s u { unitOf s u with beacons := true, nodeCnt := n, recovering := false } else s
/-- PLCA_BEACON_RETURN -/
def execPlcaBeaconReturn (u : BitVec 7) (nodeCnt : Byte) (s : State) : Res := onUnitClk u (doBeacon nodeCnt) s
/-- A change of a USXGMII link (R391, R380): the rate is the forced one, else the one negotiated. -/
def doMgLink (up : Bool) (rate : BitVec 2) (u : Nat) (s : State) : State :=
  let x := unitOf s u
  let forced := fld (unitSet s u 0) 0 2
  let r : BitVec 2 := if forced = 0 then rate else BitVec.ofNat 2 forced
  if unitClass u ≠ 2 ∨ x.st = .disabled then s
  else if up then (if x.link = 0 then setUnit s u { x with link := r } else s)
  else if x.link = 0 then s else unitNote (unitCount (setUnit s u { x with link := 0 }) u 4) u 8 true
/-- MG_LINK_CHANGE -/
def execMgLinkChange (u : BitVec 7) (up : Bool) (rate : BitVec 2) (s : State) : Res := onUnitClk u (doMgLink up rate) s

end Sys2Proof.Machine
end

