-- ==== Sys2Proof/Machine/Ports.lean ====
section
/-! DEFINITION. The ring ports: link and retraining (R310 to R314), transmission and gates (R322 to R325), MACsec transmit (R327 to R329),
802.1AS (R258, R259, R330 to R332), management frames (R333), FRER reset (R316). -/
namespace Sys2Proof.Machine

/-- The source number of an event of a port (R404): 0 LINK, 1 RETRAIN, 2 PN, 3 MGMT_RX. -/
def portEv (b : Bool) (k : Nat) : Nat := 0x470 + 4 * b2n b + k
/-- The station next to this device on a port: the first or the last position of the ring table (R345). -/
def neighbour (s : State) (b : Bool) : Byte :=
  let l := s.rm.table.filter fun t => t.pos ≠ 0
  let best := l.foldl (fun (a : Option Station) t => match a with
    | none => some t
    | some x => if (if b then decide (x.pos < t.pos) else decide (t.pos < x.pos)) then some t else a) none
  match best with | some t => t.addr | none => 0
/-- Whether this device holds the alias 0xFE (R285). -/
def holdsAlias (s : State) : Bool := s.rm.role == .manager || s.rm.role == .segManager
/-- The position of a station; 0 for one that is not in the ring table. -/
def ringPos (s : State) (a : Byte) : Nat := ((s.rm.table.find? fun t => t.addr == a).map fun t => t.pos).getD 0
/-- The place of the link between two neighbours: the position above it, 256 for the link on port B of this device. -/
def linkAt (s : State) (e : Byte × Byte) : Nat :=
  let lo := Nat.min (ringPos s e.1) (ringPos s e.2)
  let hi := Nat.max (ringPos s e.1) (ringPos s e.2)
  if lo = 0 ∧ 128 ≤ hi then 256 else hi
/-- Whether an absent station lies between two reported links (R352).
DEDUCED, unsafe (log 86). -/
def segmented (s : State) : Bool :=
  let at_ := s.rm.links.map (linkAt s)
  s.rm.table.any fun t => !t.present && decide (t.pos ≠ 0) && (at_.any fun x => decide (x ≤ t.pos)) && at_.any fun x => decide (t.pos < x)
/-- RM_SEGMENT fires at the manager when stations have come to be absent between the reported links (R352); s0 is the state before, e the latest report. -/
def segmentEv (s0 s : State) (e : Byte × Byte) : State :=
  if s.rm.role == .manager && !segmented s0 && segmented s then evFire s 0x4B0 (BitVec.ofNat 32 (e.1.toNat + 256 * e.2.toNat)) else s
/-- A report of a lost neighbour at the manager (R352).
DEDUCED, unsafe (log 86). -/
def linkReport (s : State) (from_ lost : Byte) : State :=
  let l := s.rm.links
  if l.contains (from_, lost) ∨ l.contains (lost, from_) then s
  else segmentEv s { s with rm := { s.rm with links := l ++ [(from_, lost)] } } (from_, lost)
/-- A present device finds its neighbour on a port lost: the fault RING_LINK and its report (R352, R469), which a manager makes to itself. -/
def linkLost (s : State) (b : Bool) (lost : Byte) : State :=
  let info := BitVec.ofNat 32 (b2n b + lost.toNat * 256)
  let s1 := reportFault (raise s 0x80 info) 0x80 1 info
  if holdsAlias s1 then linkReport s1 s1.rm.addr lost else s1
/-- LINK of a port takes a value: the link event, at DOWN the count and the fault of R352; a first port UP starts the wait of R343. -/
def setLink (s : State) (b : Bool) (v : BitVec 3) : State :=
  let p := portOf s b
  if p.link = v then s
  else
    let s1 := evFire (setPort s b { p with link := v, fecCnt := if v = 3 then 0 else p.fecCnt }) (portEv b 0) (v.setWidth 32)
    if v = 0 then
      let s2 := portCount s1 b 20
      if s.rm.addr ≠ 0 then linkLost s2 b (neighbour s b) else s2
    else if v = 2 ∧ s.ring.a.link ≠ 2 ∧ s.ring.b.link ≠ 2 then { s1 with rm := { s1.rm with heardMgr := false } }
    else s1
/-- A request for a retrain (R311). -/
def retrainReq (s : State) (b : Bool) : State :=
  if (portOf s b).link = 2 then evFire (setPort s b { portOf s b with rtrReq := true }) (portEv b 1) 0 else s
/-- ENABLE (R8, R314) -/
def portEnable (b : Bool) (s : State) : State :=
  let p := portOf s b
  let (e, pn) := enableSt p.st p.enPend
  let s1 := setPort s b { p with st := e, enPend := pn }
  if p.st = .disabled then setLink s1 b 1 else s1
/-- DISABLE (R8, R314) -/
def portDisable (b : Bool) (s : State) : State :=
  let p := portOf s b
  let (e, pn) := disableSt p.st p.enPend
  setPort s b { p with st := e, enPend := pn }
/-- The drain of a port ends with empty queues (R9, R314). -/
def portDrained (b : Bool) (s : State) : State :=
  let p := portOf s b
  if p.st = .draining ∧ p.q = [] then
    let (e, pn) := drainSt p.enPend
    let s1 := setLink s b 0
    let s2 := setPort s1 b { portOf s1 b with st := e, enPend := pn, rtrReq := false, rtrWait := false, rtrSeen := false }
    if e = .active then setLink s2 b 1 else s2
  else s
/-- PA_CMD ENABLE -/
def execPortEnable (lvl : Lvl) (portB : Bool) (s : State) : Res := onReg lvl 2 (portEnable portB) s
/-- PA_CMD DISABLE -/
def execPortDisable (lvl : Lvl) (portB : Bool) (s : State) : Res := onReg lvl 2 (portDisable portB) s
/-- PORT_DRAIN_END -/
def execPortDrainEnd (portB : Bool) (s : State) : Res := onCore (portDrained portB) s
/-- PA_CMD.RETRAIN -/
def execRetrain (lvl : Lvl) (portB : Bool) (s : State) : Res := onReg lvl 2 (retrainReq · portB) s
/-- SIGNAL_DETECT (R310) -/
def doSignalDetect (b : Bool) (s : State) : State :=
  let p := portOf s b
  if p.st = .active ∧ p.link = 0 then setLink (setPort s b { p with signal := true }) b 1 else s
/-- SIGNAL_DETECT -/
def execSignalDetect (portB : Bool) (s : State) : Res := onCore (doSignalDetect portB) s
/-- LINK_UP (R310): training or a retrain completes; the verify handshake starts (R325). -/
def doLinkUp (b : Bool) (s : State) : State :=
  let p := portOf s b
  if p.st ≠ .disabled ∧ (p.link = 1 ∨ p.link = 3) then
    let c := act s (aPort b + 0x88)
    setLink (setPort s b { p with vstat := if bit c 0 && bit c 1 then 1 else 0 }) b 2
  else s
/-- LINK_UP -/
def execLinkUp (portB : Bool) (s : State) : Res := onCore (doLinkUp portB) s
/-- SIGNAL_LOSS (R310) -/
def doSignalLoss (b : Bool) (s : State) : State :=
  let s1 := setLink (setPort s b { portOf s b with signal := false }) b 0
  setPort s1 b { portOf s1 b with rtrReq := false, rtrWait := false, rtrSeen := false }
/-- SIGNAL_LOSS -/
def execSignalLoss (portB : Bool) (s : State) : Res := onCore (doSignalLoss portB) s
/-- LINK_RETRY (R310) -/
def doLinkRetry (b : Bool) (s : State) : State :=
  let p := portOf s b
  if p.st = .active ∧ p.link = 0 then setLink s b 1 else s
/-- LINK_RETRY -/
def execLinkRetry (portB : Bool) (s : State) : Res := onCore (doLinkRetry portB) s

/-! Gates and transmission (R322 to R325). -/
/-- The gate control list of a port. -/
def gclTab (b : Bool) : Tab := if b then .gclB else .gclA
/-- The entry of the gate control list in force. -/
def gateEntry (s : State) (b : Bool) : DWord := tabA s (gclTab b) (portOf s b).gateIdx 0
/-- Whether preemption is used (R325). -/
def preActive (s : State) (b : Bool) : Bool :=
  let c := act s (aPort b + 0x88)
  bit c 0 && (!bit c 1 || (portOf s b).vstat == 3)
/-- The rate of a port in service, in Gb/s, by bits [2:0] of its mode (R307). -/
def speedRate (m : Nat) : Nat := match m % 8 with | 0 => 400 | 1 => 200 | _ => 100
/-- Bits [5:0] of PA_CFG in service: the mode that a waiting port keeps, else the ACTIVE value (R307, R313). -/
def portMode (s : State) (b : Bool) : BitVec 6 := (portOf s b).mode.getD (BitVec.ofNat 6 (fld (act s (aPort b)) 0 6))
/-- The rate of a port in Gb/s (R307). -/
def portRate (s : State) (b : Bool) : Nat := speedRate (portMode s b).toNat
/-- The time that n bytes take on the wire, in ns. -/
def byteTime (s : State) (b : Bool) (n : Nat) : Nat := (8 * n + portRate s b - 1) / portRate s b
/-- The time at which a preemptable frame in transmission may be cut (R325): once (1 + ADDFRAG) × 64 bytes of it have been sent, with the ADDFRAG with
which it began (R324). -/
def cutAt (s : State) (b : Bool) (w : OnWire) : Nat := Nat.max s.time.now.toNat (w.start.toNat + byteTime s b ((1 + w.frag) * 64))
/-- SetAndHoldMAC (R325): a preemptable frame in transmission is cut where it may be, and the rest of a preempted one stops.
DEDUCED, unsafe (log 115). -/
def holdMac (s : State) (b : Bool) : State :=
  let p := portOf s b
  let now := s.time.now.toNat
  match p.wire with
  | some w =>
    if p.macHold then s
    else if w.express then
      setPort s b { p with macHold := true, rest := p.rest - (now - w.till.toNat), wire := some { w with till := if w.till.toNat < now then s.time.now else w.till } }
    else if w.pre ∧ cutAt s b w < w.till.toNat then
      setPort s b { p with macHold := true, rest := w.till.toNat - cutAt s b w, wire := some { w with till := BitVec.ofNat 64 (cutAt s b w) } }
    else setPort s b { p with macHold := true }
  | none => setPort s b { p with macHold := true }
/-- SetAndReleaseMAC, or the landing that starts the list anew (R323, R325): what was held goes on.
DEDUCED, unsafe (log 115). -/
def releaseMac (s : State) (b : Bool) : State :=
  let p := portOf s b
  let now := s.time.now
  match p.wire with
  | some w =>
    if !p.macHold then s
    else if p.rest = 0 then setPort s b { p with macHold := false }
    else if w.express ∧ now.toNat < w.till.toNat then setPort s b { p with macHold := false }
    else setPort s b { p with macHold := false, rest := 0, wire := some { w with express := false, start := now, till := now + BitVec.ofNat 64 p.rest } }
  | none => setPort s b { p with macHold := false }
/-- Applies the OP of the entry in force (R325). -/
def gateOp (s : State) (b : Bool) : State :=
  match fld (gateEntry s b) 8 2 with
  | 1 => if preActive s b then holdMac s b else setPort s b { portOf s b with macHold := true }
  | 2 => releaseMac s b
  | _ => s
/-- The gate control list starts again at its entry 0 (R323). -/
def gateStart (s : State) (b : Bool) : State :=
  let hold := bit (act s (aPort b + 0x50)) 0 && decide (fld (tabA s (gclTab b) 0 0) 8 2 = 1)
  let s0 := if hold then s else releaseMac s b
  let s1 := setPort s0 b { portOf s0 b with gateIdx := 0, gateOff := 0, gateCyc := 0 }
  if bit (act s (aPort b + 0x50)) 0 then gateOp s1 b else s1
/-- LEN of the list -/ def gateLen (s : State) (b : Bool) : Nat := fld (act s (aPort b + 0x50)) 1 11
/-- The interval of the entry in force ends (R323): times count from the landing. -/
def doGate (b : Bool) (s : State) : State :=
  let p := portOf s b
  if !bit (act s (aPort b + 0x50)) 0 then s
  else
    let cyc := fld (act s (aPort b + 0x54)) 0 27
    let fin := p.gateOff + fld (gateEntry s b) 32 32
    let last := decide (gateLen s b ≤ p.gateIdx + 1)
    let base := (lndTime s s.lnd.num.toNat).toNat
    if cyc ≠ 0 ∧ (last ∨ p.gateCyc + cyc ≤ fin) then
      let t := p.gateCyc + cyc
      gateOp (setPort (atTime s (BitVec.ofNat 64 (base + t))) b { p with gateIdx := 0, gateOff := t, gateCyc := t }) b
    else if last then s
    else gateOp (setPort (atTime s (BitVec.ofNat 64 (base + fin))) b { p with gateIdx := p.gateIdx + 1, gateOff := fin }) b
/-- QBV_GATE_ENTRY -/
def execQbvGateEntry (portB : Bool) (s : State) : Res := onCore (doGate portB) s
/-- Whether a queue's gate stays open until a time (R323): entry i holds from t in the cycle that began at c, and n bounds the entries; times
count from the landing; at the next one a cycle is cut off and the list starts again.
DEDUCED, unsafe (log 114). -/
def gateHolds (s : State) (b : Bool) (q till : Nat) : Nat → Nat → Nat → Nat → Bool
  | 0, _, _, _ => true
  | n + 1, i, t, c =>
    let e := tabA s (gclTab b) i 0
    let cyc := fld (act s (aPort b + 0x54)) 0 27
    let land := period s
    let top := if cyc = 0 then land else Nat.min land (c + cyc)
    let fin := if gateLen s b ≤ i + 1 then top else Nat.min top (t + fld e 32 32)
    if !bit e q then decide (till ≤ t)
    else if till ≤ fin then true
    else if fin = land then gateHolds s b q (till - land) n 0 0 0
    else if fin = top then gateHolds s b q till n 0 fin fin
    else gateHolds s b q till n (i + 1) fin c
/-- Whether MACsec is on. -/
def secOn (s : State) (b : Bool) : Bool := bit (act s (aPort b + 0x90)) 0
/-- The bytes of a SecTAG and ICV (R319, R327): 32 with an SCI, else 24. -/
def secBytes (explicit : Bool) : Nat := if explicit then 32 else 24
/-- The bytes of a frame that a port sends, with its SecTAG and ICV. -/
def wireLen (s : State) (b : Bool) (f : Frame) : Nat := frameLen f + if secOn s b then secBytes (bit (act s (aPort b + 0x90)) 5) else 0
/-- Whether a queue is express (R325); queue 8 is the express path of R12. -/
def isExpressQ (s : State) (b : Bool) (q : Nat) : Bool := decide (q = 8) || bit (act s (aPort b + 0x60 + 4 * q)) 14
/-- Whether a queue may start a frame that takes n bytes on the wire (R12, R323, R325). -/
def mayStart (s : State) (b : Bool) (q n : Nat) : Bool :=
  let p := portOf s b
  decide (q = 8) || !bit (act s (aPort b + 0x50)) 0 ||
    ((!p.macHold || !preActive s b || isExpressQ s b q) &&
      gateHolds s b q (s.time.now.toNat + byteTime s b (n + 20) - (lndTime s s.lnd.num.toNat).toNat) 4096 p.gateIdx p.gateOff p.gateCyc)
/-- The transmit SA in use (R327, R328): the highest VALID entry with TX = 1 and AN = TXAN. -/
def txSa (s : State) (b : Bool) : Option Nat :=
  (List.range 64).reverse.find? fun i =>
    let w := tabA s (saTab b) i 0
    bit w 0 && bit w 1 && decide (fld w 2 2 = fld (act s (aPort b + 0x90)) 8 2)
/-- One past the last PN of the cipher suite in use (R327).
DEDUCED, unsafe (log 42). -/
def pnTop (s : State) (b : Bool) : Nat := if bit (act s (aPort b + 0x90)) 1 then 2 ^ 64 else 2 ^ 32
/-- MACsec at transmission (R327, R329): what it puts on the frame; none when the frame is discarded. The PN event is raised by the frame with
which the PN comes to three quarters of its range, or by the first frame of an SA that begins above them.
DEDUCED, unsafe (log 42). -/
def secTransmit (s : State) (b : Bool) : Option (State × Option TxSec) :=
  if !secOn s b then some (s, none)
  else match txSa s b with
    | none => none
    | some i =>
      let c := act s (aPort b + 0x90)
      let pn := saNext s b i
      let most := pnTop s b / 4 * 3
      if pnTop s b ≤ pn then none
      else
        let s1 := setPort s b { portOf s b with pn := sset 0 (portOf s b).pn i (pn + 1) }
        let sec : TxSec :=
          { an := BitVec.ofNat 2 (fld c 8 2), sci := if bit c 5 then some (tabA s (saTab b) i 1) else none, pn := BitVec.ofNat 64 pn
            conf := if bit c 2 then some (match fld c 3 2 with | 0 => 0 | 1 => 30 | _ => 50) else none }
        some (if most ≤ pn + 1 ∧ (pn < most ∨ sget 0 (portOf s b).pn i = 0) then evFire s1 (portEv b 2) 0 else s1, some sec)
/-- When a port may begin an express or a preemptable frame, and what a preempted frame still needs then (R325): an express frame waits for the end
of one, and preempts a preemptable one where that may be cut; a preemptable frame waits for both to end. While the MAC is held the rest of a preempted
frame stands still.
DEDUCED, unsafe (log 115). -/
def txSlot (s : State) (b ex : Bool) : Nat × Nat :=
  let p := portOf s b
  let now := s.time.now.toNat
  match p.wire with
  | none => (now, 0)
  | some w =>
    let till := w.till.toNat
    let rest := if p.macHold then p.rest else p.rest - (now - till)
    if !ex then (Nat.max now (till + p.rest), 0)
    else if w.express ∨ p.rest ≠ 0 then (Nat.max now till, rest)
    else if w.pre ∧ cutAt s b w < till then (cutAt s b w, till - cutAt s b w) else (Nat.max now till, 0)
/-- The highest queue of those that p names that may start a frame, with the frame: the express path of R12 first. -/
def nextFrame (s : State) (b : Bool) (p : Nat → Bool) : Option (Nat × EgFrame) :=
  (List.range 9).reverse.findSome? fun q =>
    match egQ s b q with
    | f :: _ => if p q && mayStart s b q (if f.cut && decide (q ≠ 8) then maxSdu s b q else wireLen s b f.f) then some (q, f) else none
    | [] => none
/-- A frame at the head of a queue is sent (R323, R327): rest is what a frame that it preempts still needs. -/
def sendHead (s : State) (b : Bool) (q : Nat) (f : EgFrame) (rest : Nat) : State :=
  let s1 := setEgQ s b q ((egQ s b q).drop 1)
  match secTransmit s1 b with
  | some (s2, sec) =>
    let w : OnWire :=
      { f := f.f, sec := sec, express := isExpressQ s b q, start := s.time.now
        till := s.time.now + BitVec.ofNat 64 (byteTime s b (wireLen s b f.f + 20))
        pre := preActive s b, frag := fld (act s (aPort b + 0x88)) 2 2 }
    portCount (setPort s2 b { portOf s2 b with wire := some w, rest := rest }) b 3
  | none => portCount s1 b 16
/-- A port starts its next frame (R323, R325): at once, or at the end of the frame it sends, which an express frame may preempt. -/
def doTransmitFrame (b : Bool) (s : State) : State :=
  let p := portOf s b
  if p.link ≠ 2 ∨ p.st = .disabled then s
  else
    let x := txSlot s b true
    let y := txSlot s b false
    let at_ := fun (t : Nat) => atTime s (BitVec.ofNat 64 t)
    match nextFrame (at_ x.1) b fun q => decide (x.1 = y.1) || isExpressQ s b q with
    | some (q, f) => sendHead (at_ x.1) b q f x.2
    | none =>
      match nextFrame (at_ y.1) b fun _ => true with
      | some (q, f) => sendHead (at_ y.1) b q f 0
      | none => s
/-- PORT_FRAME_TRANSMIT -/
def execPortFrameTransmit (portB : Bool) (s : State) : Res := onCore (doTransmitFrame portB) s
/-- The interval of a stream gate's entry ends (R326). -/
def doStreamGate (g : Nat) (s : State) : State :=
  let (i, off) := sget (0, 0) s.ring.gates g
  let e := tabA s .gate (16 * g + i) 0
  if fld e 32 32 = 0 then s
  else
    let fin := off + fld e 32 32
    let s1 := atTime s (lndTime s s.lnd.num.toNat + BitVec.ofNat 64 fin)
    { s1 with ring := { s1.ring with gates := sset (0, 0) s1.ring.gates g (if bit e 5 ∨ i = 15 then (0, fin) else (i + 1, fin)) } }
/-- STREAM_GATE_ENTRY -/
def execStreamGateEntry (g : BitVec 6) (s : State) : Res := onCore (doStreamGate g.toNat) s
/-- The verify handshake is tried again (R325).
DEDUCED, unsafe (log 41). -/
def doVerify (b ok : Bool) (s : State) : State :=
  let p := portOf s b
  let c := act s (aPort b + 0x88)
  if p.link = 2 ∧ bit c 0 ∧ bit c 1 ∧ p.vstat ≠ 3 then
    setPort s b { p with vstat := if ok then 3 else if p.vstat = 1 then 2 else 4 }
  else s
/-- VERIFY_RETRY -/
def execVerifyRetry (portB : Bool) (succeeded : Bool) (s : State) : Res := onCore (doVerify portB succeeded) s

/-! 802.1AS (R258, R259, R330 to R332). -/
/-- The role of a port in a domain: 0 DISABLED, 1 SLAVE, 2 MASTER, 3 PASSIVE. -/
def asRole (s : State) (b dom1 : Bool) : Nat := fld (act s (aPort b + 0x30)) (if dom1 then 2 else 0) 2
/-- The domainNumber of a domain. -/
def asDom (s : State) (b dom1 : Bool) : Nat := fld (act s (aPort b + 0x30)) (if dom1 then 16 else 8) 7
/-- Whether the domain drives ring time (R258). -/
def drives (s : State) (dom1 : Bool) : Bool := bit (act s aTIMECFG) 0 == dom1
/-- An 802.1AS message with its 34-byte header. -/
def ptpFrame (s : State) (b : Bool) (typ dom corr seq : Nat) (body : List Byte) : Frame :=
  { da := 0x0180_C200_000E, sa := ownMac s, ctag := none, rtag := none, etype := 0x88F7
    body := [BitVec.ofNat 8 ((if typ = 0 ∨ typ = 8 then 0x10 else 0x20) + typ), 0x12] ++ beBytes 2 (34 + body.length) ++ [BitVec.ofNat 8 dom, 0] ++ (if typ = 0 ∨ typ = 3 then [2, 0] else [0, 0]) ++
      beBytes 8 corr ++ [0, 0, 0, 0] ++ beBytes 8 s.boot.uid.toNat ++ beBytes 2 (1 + b2n b) ++ beBytes 2 seq ++ [0, 0] ++ body }
/-- RXLAT and TXLAT of a port in ns (R330). -/
def tsLat (s : State) (b : Bool) : Nat × Nat := (fld (act s (aPort b + 0x20)) 0 16, fld (act s (aPort b + 0x20)) 16 16)
/-- A timestamp of 10 bytes: seconds and nanoseconds (R257). -/
def tsBytes (t : Nat) : List Byte := beBytes 6 (t / 1000000000) ++ beBytes 4 (t % 1000000000)
/-- Whether a port carries time (R331, R332). -/
def carries (s : State) (b : Bool) : Bool := (portOf s b).link == 2 && (portOf s b).ascap
/-- A two-step Sync with its Follow_Up, which carries an origin and a correction in 2^-16 ns, on a port that carries time (R331).
PRESUMED, unsafe (log 38). -/
def sendSync (s : State) (b dom1 : Bool) (origin : List Byte) (corr : Nat) : State :=
  if carries s b then
    let n := s.lnd.num.toNat
    let s1 := sendOn s b (ptpFrame s b 0 (asDom s b dom1) 0 n (List.replicate 10 0)) false
    sendOn s1 b (ptpFrame s b 8 (asDom s b dom1) corr n origin) false
  else s
/-- A time in 2^-16 ns scaled by the neighbour rate ratio of a port (R331). -/
def rated (s : State) (b : Bool) (t : Nat) : Nat := t * (2 ^ 41 + (portOf s b).nrr.toInt).toNat / 2 ^ 41
/-- The mean link delay of a port in 2^-16 ns, scaled by the neighbour rate ratio (R331). -/
def linkCorr (s : State) (b : Bool) : Nat := rated s b ((imr s (aPort b + 0x38)).toNat * 4096)
/-- The size of a step as TIME_LAST_STEP holds it (R280). -/
def stepSat (d : DWord) : Word :=
  let i := d.toInt
  if 0x7FFF_FFFF < i then 0x7FFF_FFFF else if i < -0x7FFF_FFFF then 0x8000_0001 else d.setWidth 32
/-- Ring time steps (R259, R271, R272). -/
def timeStep (s : State) (d : DWord) : State :=
  let s1 := { s with time := { s.time with now := s.time.now + d, slew := 0 } }
  evFire (setIm (bump s1 aSTEPCNT) aLASTSTEP (stepSat d)) 0x492 (stepSat d)
/-- TIME_STS.STATE takes a value, with its event (R258). -/
def setTimeSt (s : State) (t : TimeState) : State :=
  if s.time.st = t then s
  else evFire { s with time := { s.time with st := t } } 0x493 (match t with | .freerun => 0 | .sync => 1 | .holdover => 2)
/-- The servo takes a phase correction and a rate (R258, R259). -/
def servo (s : State) (b : Bool) (offset : DWord) (rate : Word) : State :=
  match s.time.st with
  | .sync =>
    let s1 := { s with time := { s.time with syncs := s.time.syncs + 1, rate := rate, rateOk := true, gm := false } }
    if offset.toInt.natAbs ≤ fld (act s aSTEPTHR) 0 20 then { s1 with time := { s1.time with slew := offset } } else timeStep s1 offset
  | _ =>
    if (portOf s b).pdlyValid then
      let s1 := timeStep (setTimeSt s .sync) offset
      { s1 with time := { s1.time with syncs := 1, rateOk := false, gm := false } }
    else s
/-- A Sync with its Follow_Up arrives on a SLAVE port (R259, R330, R331): offset is the correction that timestamps at the pins give, origin and corr
are what the Follow_Up carries, resid is the residence time to the other port's pins in 2^-16 ns. A MASTER port sends it on with the link delay and the
residence time added.
PRESUMED, unsafe (log 38). -/
def doSyncReceive (b dom1 : Bool) (offset : DWord) (rate : Word) (origin : BitVec 80) (corr resid : DWord) (s : State) : State :=
  let p := portOf s b
  if asRole s b dom1 ≠ 1 ∨ !carries s b then s
  else
    let s1 := setPort s b (if dom1 then { p with sync1 := true, syncAge1 := 0 } else { p with sync0 := true, syncAge0 := 0 })
    let lat := (tsLat s b).1 + (tsLat s (!b)).2
    let c := corr.toNat + linkCorr s b + rated s b (resid.toNat + lat * 0x10000)
    let s2 := if asRole s (!b) dom1 = 2 then sendSync s1 (!b) dom1 (beBytes 10 origin.toNat) (c % 2 ^ 64) else s1
    if drives s dom1 then servo s2 b (offset + BitVec.ofNat 64 (tsLat s b).1) rate else s2
/-- SYNC_RECEIVE -/
def execSyncReceive (portB : Bool) (dom1 : Bool) (offset : DWord) (msg : SyncMsg) (s : State) : Res :=
  onCore (doSyncReceive portB dom1 offset msg.rate msg.origin msg.corr msg.resid) s
/-- Whether a port's time frames fall within the flight (R332); OFS_ERR tells when they do not. -/
def asOfs (s : State) (b : Bool) : State × Bool :=
  let ok := decide (fld (act s (aPort b + 0x34)) 0 27 < period s)
  (setPort s b { portOf s b with ofsErr := !ok }, ok)
/-- The ring time at which a port sends its time frames of the flight that runs. -/
def asTime (s : State) (b : Bool) : DWord := lndTime s s.lnd.num.toNat + BitVec.ofNat 64 (fld (act s (aPort b + 0x34)) 0 27)
/-- Whether this device is the grandmaster of a domain (R331). -/
def grandmaster (s : State) (dom1 : Bool) : Bool := decide (asRole s false dom1 = 2 ∧ asRole s true dom1 = 2)
/-- A grandmaster sends Sync on one port, its own ring time at the reference plane as the origin (R330, R331). -/
def sendOwn (s : State) (b dom1 : Bool) : State := sendSync s b dom1 (tsBytes (s.time.now.toNat + (tsLat s b).2)) 0
/-- A grandmaster sends Sync on both ports (R258, R331).
PRESUMED, unsafe (log 38). -/
def doSyncSend (dom1 : Bool) (s : State) : State :=
  if grandmaster s dom1 then
    let (s1, okA) := asOfs s false
    let (s2, okB) := asOfs s1 true
    let s3 := if okA then sendOwn (atTime s2 (asTime s2 false)) false dom1 else s2
    let s4 := if okB then sendOwn (atTime s3 (asTime s3 true)) true dom1 else s3
    if ((okA && carries s false) || (okB && carries s true)) && drives s dom1 then
      let s5 := setTimeSt s4 .sync
      { s5 with time := { s5.time with gm := true } }
    else s4
  else s
/-- SYNC_SEND -/
def execSyncSend (dom1 : Bool) (s : State) : Res := onCore (doSyncSend dom1) s
/-- The selected domain is lost when no SLAVE port receives it any more (R258, R331). -/
def domainCheck (s : State) (dom1 : Bool) : State :=
  let rx := fun b => asRole s b dom1 == 1 && (if dom1 then (portOf s b).sync1 else (portOf s b).sync0)
  if drives s dom1 && !rx false && !rx true && decide (s.time.st = .sync) && !(s.time.gm && grandmaster s dom1) then setTimeSt s .holdover else s
/-- A landing that changes the selected domain or a role in it may lose it (R258). -/
def domainLand (old s : State) : State :=
  let d := bit (act s aTIMECFG) 0
  if drives old d && decide (asRole old false d = asRole s false d ∧ asRole old true d = asRole s true d) then s else domainCheck s d
/-- A SLAVE port has received no Sync for three flights (R331). -/
def doSyncLoss (b dom1 : Bool) (s : State) : State :=
  let p := portOf s b
  if asRole s b dom1 ≠ 1 then s
  else if dom1 then (if p.sync1 ∧ 3 ≤ p.syncAge1 then domainCheck (setPort s b { p with sync1 := false }) dom1 else s)
  else (if p.sync0 ∧ 3 ≤ p.syncAge0 then domainCheck (setPort s b { p with sync0 := false }) dom1 else s)
/-- SYNC_LOSS -/
def execSyncLoss (portB : Bool) (dom1 : Bool) (s : State) : Res := onCore (doSyncLoss portB dom1) s
/-- A port sends Pdelay_Req (R332).
PRESUMED, unsafe (log 38). -/
def doPdelayReq (b : Bool) (s : State) : State :=
  if bit (act s (aPort b + 0x30)) 4 ∧ (portOf s b).link = 2 then
    let (s1, ok) := asOfs s b
    if ok then
      let s2 := atTime s1 (asTime s1 b)
      let s3 := sendOn s2 b (ptpFrame s2 b 2 0 0 s2.lnd.num.toNat (List.replicate 20 0)) false
      setPort s3 b { portOf s3 b with pdlyOpen := true }
    else s1
  else s
/-- PDELAY_REQ_SEND -/
def execPdelayReqSend (portB : Bool) (s : State) : Res := onCore (doPdelayReq portB) s
/-- A Pdelay response (R330, R332): delay in 1/16 ns is what timestamps at the pins give, ratio the neighbour's rate beside 1 in units of 2^-41.
PA_AS_PDLY is the mean of the last eight results at the reference plane. -/
def doPdelay (b : Bool) (delay : BitVec 28) (ratio : Word) (s : State) : State :=
  let p := portOf s b
  if bit (act s (aPort b + 0x30)) 4 ∧ p.pdlyOpen then
    let l := ((delay.toNat - 8 * ((tsLat s b).1 + (tsLat s b).2)) :: p.pdly).take 8
    let s1 := setPort s b { p with pdlyOpen := false, pdlyRun := 0, ascap := true, pdlyValid := true, pdly := l, nrr := ratio }
    setIm s1 (aPort b + 0x38) (BitVec.ofNat 32 (l.foldl (· + ·) 0 / l.length))
  else s
/-- PDELAY_RESPONSE.
DEDUCED, unsafe (log 116). -/
def execPdelayResponse (portB : Bool) (meas : PdelayMeas) (s : State) : Res := onCore (doPdelay portB meas.delay meas.ratio) s
/-- The partner's Pdelay_Req is answered with a Pdelay_Resp and its Follow_Up (R330, R332).
PRESUMED, unsafe (log 38). -/
def pdelayAnswer (s : State) (b : Bool) (f : Frame) : State :=
  if bit (act s (aPort b + 0x30)) 4 ∧ (portOf s b).link = 2 ∧ (byteAt f.body 0).toNat % 16 = 2 ∧ 54 ≤ f.body.length then
    let who := slice f.body 20 10
    let n := beNat (slice f.body 30 2)
    let now := s.time.now.toNat
    let s1 := sendOn s b (ptpFrame s b 3 0 0 n (tsBytes (now - (tsLat s b).1) ++ who)) false
    sendOn s1 b (ptpFrame s b 0xA 0 0 n (tsBytes (now + (tsLat s b).2) ++ who)) false
  else s
/-- Three consecutive flights without a response clear ASCAP (R332). -/
def doPdelayMiss (b : Bool) (s : State) : State :=
  let p := portOf s b
  if 3 ≤ p.pdlyRun then setPort s b { p with ascap := false } else s
/-- PDELAY_MISS -/
def execPdelayMiss (portB : Bool) (s : State) : Res := onCore (doPdelayMiss portB) s
/-- The servo finishes a slew (R259): one forward has gained its correction; one back has let ring time run slow, so that it never decreases.
DESIGN CHOICE, safe (log 117). -/
def doSlewComplete (s : State) : State :=
  { s with time := { s.time with now := if s.time.slew.toInt < 0 then s.time.now else s.time.now + s.time.slew, slew := 0 } }
/-- SLEW_COMPLETE -/
def execSlewComplete (s : State) : Res := onCore doSlewComplete s

/-! Management frames (R333). -/
/-- Where management frames lie in shared SRAM: an offset modulo 16 MiB. -/
def sramAt (o : Nat) : Nat := 0x1_0000_0000 + o % 0x100_0000
/-- The bytes of a frame on the wire from DA to its last byte, without FCS. -/
def frameBytes (f : Frame) : List Byte :=
  beBytes 6 f.da.toNat ++ beBytes 6 f.sa.toNat ++ (match f.ctag with | some t => [0x81, 0x00] ++ beBytes 2 t.toNat | none => []) ++
    (match f.rtag with | some t => [0xF1, 0xC1, 0, 0] ++ beBytes 2 t.toNat | none => []) ++ beBytes 2 f.etype.toNat ++ f.body
/-- The frame of its bytes from DA. -/
def rawFrame (l : List Byte) : Frame :=
  let be := fun o n => beNat (slice l o n)
  let (ct, o) : Option Half × Nat := if be 12 2 = 0x8100 then (some (BitVec.ofNat 16 (be 14 2)), 16) else (none, 12)
  let (rt, o) : Option Half × Nat := if be o 2 = 0xF1C1 then (some (BitVec.ofNat 16 (be (o + 4) 2)), o + 6) else (none, o)
  { da := BitVec.ofNat 48 (be 0 6), sa := BitVec.ofNat 48 (be 6 6), ctag := ct, rtag := rt, etype := BitVec.ofNat 16 (be o 2), body := l.drop (o + 2) }
/-- A frame is delivered to the management receive ring of a port (R333). -/
def mgmtReceive (s : State) (b : Bool) (f : Frame) : State :=
  let p := portOf s b
  let c := act s (aPort b + 0xC0)
  let bytes := frameBytes f
  let n := 2 ^ fld c 12 4
  if (p.mrxHead - p.mrxDone).toNat = n ∨ 2032 < bytes.length then portCount s b 21
  else
    let base := fld c 0 12 * 4096 + p.mrxHead.toNat % n * 2048
    let img := leBytes 2 bytes.length ++ List.replicate 6 0 ++ leBytes 8 s.time.now.toNat ++ bytes
    let s1 := storeBytes s .sct 2 (sramAt base) img
    let h := p.mrxHead + 1
    evFire (setPort s1 b { portOf s1 b with mrxHead := h }) (portEv b 3) (h.setWidth 32)
/-- PA_MRX_DONE -/
def mrxDone (b : Bool) (v : Half) (s : State) : State := setPort s b { portOf s b with mrxDone := v }
/-- PA_MRX_DONE -/
def execPaMrxDoneWrite (lvl : Lvl) (portB : Bool) (v : Half) (s : State) : Res := onReg lvl 2 (mrxDone portB v) s
/-- PA_MTX (R333): refused while BUSY; a reserved LEN sends nothing.
DEDUCED, unsafe (log 39). -/
def mtxSend (b : Bool) (ofs : BitVec 18) (len : BitVec 14) (s : State) : State :=
  let p := portOf s b
  if len.toNat < 60 ∨ 9212 < len.toNat then setRsvd s
  else if p.mtxBusy.isSome then setPort s b { p with mtxRefused := true }
  else
    let f := rawFrame ((List.range len.toNat).map fun i => memGet s (sramAt (ofs.toNat * 64 + i)))
    let s1 := setPort s b { p with mtxBusy := some f, mtxRefused := false }
    enqueue s1 b (pcpQueue s1 b (fld (act s1 (aPort b + 0x80)) 24 3)) f
/-- PA_MTX -/
def execPaMtxSend (lvl : Lvl) (portB : Bool) (ofs : BitVec 18) (len : BitVec 14) (s : State) : Res := onReg lvl 2 (mtxSend portB ofs len) s
/-- MTX_DONE -/
def execMtxDone (portB : Bool) (s : State) : Res := onCore (fun s => setPort s portB { portOf s portB with mtxBusy := none }) s

/-! FRER reset and landings. -/
/-- A stream's recovery state. -/
def frerOf (s : State) (i : Nat) : Frer := sget {} s.ring.frer i
/-- Writes a stream's recovery state. -/
def setFrer (s : State) (i : Nat) (x : Frer) : State := { s with ring := { s.ring with frer := sset {} s.ring.frer i x } }
/-- The reset timeout of a stream in ms: its FRER entry's, or 10 for a built-in SCT stream (R316). -/
def frerTmo (s : State) (i : Nat) : Nat := if i < 4096 then fld (tabA s .frer i 0) 8 16 else 10
/-- The reset timeout of a stream passes without an accepted frame (R316). -/
def doFrerReset (i : Nat) (s : State) : State :=
  let x := frerOf s i
  if x.hist = [] ∨ frerTmo s i = 0 then s
  else
    let s1 := atTime s (x.at_ + BitVec.ofNat 64 (frerTmo s i * 1000000))
    portCount (setFrer s1 i { x with hist := [] }) false 12
/-- FRER_RESET -/
def execFrerReset (stream : BitVec 13) (s : State) : Res := onCore (doFrerReset stream.toNat) s
/-- The counters of a port take what the flight that ended counted (R336). -/
def fecCount (f : Fec) (s : State) (b : Bool) : State := bumpBy (bumpBy s (aPort b + 0x18) f.corr) (aPort b + 0x1C) f.unc
/-- The FEC margin watch at a landing (R311): f is what the flight that ended counted; a link that is not UP is not judged.
DEDUCED, unsafe (log 29). -/
def fecJudge (f : Fec) (s : State) (b : Bool) : State :=
  let p := portOf s b
  if p.link ≠ 2 then s
  else
    let c := act s (aPort b + 0x10)
    let ser := if f.syms = 0 then 0 else f.corr * 1000000000 / f.syms
    let un := decide (fld c 24 8 ≠ 0 ∧ fld c 24 8 ≤ f.unc)
    let exc := decide (fld c 0 20 ≠ 0 ∧ fld c 0 20 < ser) || un
    let n := if exc then p.fecCnt + 1 else 0
    let s1 := setIm (setPort s b { p with fecCnt := n }) (aPort b + 0x14) (BitVec.ofNat 32 (Nat.min ser 0xFFFFF + Nat.min f.unc 4095 * 0x100000))
    if !p.rtrReq ∧ (un ∨ (exc ∧ n = fld c 20 4)) then retrainReq s1 b else s1
/-- A port starts its retrain (R312). -/
def startRetrain (s : State) (b : Bool) : State :=
  let s1 := setPort s b { portOf s b with rtrReq := false, rtrWait := false, rtrSeen := false }
  portCount (setLink s1 b 3) b 19
/-- The retrains of a landing (R312): requests seen at the landing before start when the other port is UP and starts none; B first. -/
def retrains (s : State) : State :=
  let a := portOf s false
  let b := portOf s true
  let goB := b.rtrSeen && b.link == 2 && a.link == 2
  let goA := a.rtrSeen && a.link == 2 && b.link == 2 && !goB
  let s1 := if goB then startRetrain s true else if b.rtrSeen then setPort s true { b with rtrWait := true } else s
  if goA then startRetrain s1 false else if a.rtrSeen then setPort s1 false { a with rtrWait := true } else s1
/-- SPEED, MEDIA and AN of a port; AN is ignored with MEDIA 0b00 (R307). -/
def modeSet (s : State) (b : Bool) : Nat :=
  let m := fld (act s (aPort b)) 0 6
  if m / 8 % 4 = 0 then m % 8 else m
/-- A change of mode takes a port DOWN and starts training (R313). -/
def modeChange (s : State) (b : Bool) : State :=
  let s1 := setPort s b { portOf s b with mode := none }
  if (portOf s1 b).st ≠ .disabled then setLink (setLink s1 b 0) b 1 else s1
/-- The changes of mode at a landing (R313); old is the state before the banks swapped. A port A that waits keeps its mode whatever lands. -/
def modes (old s : State) : State :=
  let ca := modeSet old false ≠ modeSet s false
  let cb := modeSet old true ≠ modeSet s true
  let s1 := if cb then modeChange s true else s
  if (portOf s false).mode.isSome then (if (portOf s1 true).link = 2 then modeChange s1 false else s1)
  else if ca ∧ cb then setPort s1 false { portOf s1 false with mode := some (portMode old false) }
  else if ca then modeChange s1 false
  else s1
/-- A landing that changes EN or VERIFY of PA_PRE_CFG starts the verify handshake again, or ends it (R325).
DEDUCED, unsafe (log 41). -/
def verifyLand (old s : State) (b : Bool) : State :=
  let c := act s (aPort b + 0x88)
  if fld (act old (aPort b + 0x88)) 0 2 = fld c 0 2 then s
  else setPort s b { portOf s b with vstat := if bit c 0 ∧ bit c 1 ∧ (portOf s b).link = 2 then 1 else 0 }
/-- A flight of a port's time has ended: ages of Sync, and a request without a response (R331, R332). -/
def timeAges (s : State) (b : Bool) : State :=
  let p := portOf s b
  setPort s b
    { p with
      syncAge0 := p.syncAge0 + 1, syncAge1 := p.syncAge1 + 1, pdlyOpen := false
      pdlyMiss := if p.pdlyOpen then BitVec.ofNat 8 (Nat.min 255 (p.pdlyMiss.toNat + 1)) else p.pdlyMiss
      pdlyRun := if p.pdlyOpen then p.pdlyRun + 1 else p.pdlyRun }
/-- SA entries whose staged words the landing changed start at INITPN (R335). -/
def installSas (old s : State) (b : Bool) : State :=
  let same := fun i => (List.range 9).all fun w => tabA old (saTab b) i w == tabA s (saTab b) i w
  setPort s b { portOf s b with pn := (portOf s b).pn.filter fun e => same e.1 }
/-- Filters whose staged word the landing changed are no longer BLOCKED (R326). -/
def unblock (old s : State) : State :=
  { s with ring := { s.ring with blocked := s.ring.blocked.filter fun e => tabA old .filter e.1 0 == tabA s .filter e.1 0 } }
/-- What a landing does at the ring ports. -/
def portsLand (old : State) (fa fb : Fec) (s : State) : State :=
  let s1 := retrains (unblock old (installSas old (installSas old (fecCount fb (fecCount fa s false) true) false) true))
  let s2 := fecJudge fb (fecJudge fa (modes old s1) false) true
  let s3 := setPort s2 false { portOf s2 false with rtrSeen := (portOf s2 false).rtrReq }
  let s4 := setPort s3 true { portOf s3 true with rtrSeen := (portOf s3 true).rtrReq }
  let s5 := gateStart (gateStart (timeAges (timeAges s4 false) true) false) true
  domainLand old (verifyLand old (verifyLand old { s5 with ring := { s5.ring with gates := [] } } false) true)

end Sys2Proof.Machine
end

