-- ==== Sys2Proof/Machine/Sess.lean ====
section
/-! DEFINITION. Sessions: opening, closing and failing (R295, R299, R301, R353), retransmission and timers (R298, R299), commands (R305). -/
namespace Sys2Proof.Machine

/-- The key of the request of a session that waits for a channel (R300). -/
def sctWait (k : Nat) : Nat := 0x80100 + k
/-- Whether a message that waits to be sent answers a request (R286): READ_DATA, WRITE_ACK, NAK. -/
def isResponse (m : TxMsg) : Bool := m.typ == 0x11 || m.typ == 0x13 || m.typ == 0x3F
/-- Responses of the requests in progress on a session are discarded (R295, R301); a request that has not started goes with its frame. -/
def dropResponses (s : State) (k : Nat) : State :=
  { s with mov := { s.mov with chans := (s.mov.chans.filter fun e => e.1 ≠ sctWait k).map fun e =>
      match e.2.req with
      | some (j, _) => if j = k then (e.1, { e.2 with req := none }) else e
      | none => e } }
/-- A session ends with state st (R299, R301): its buffers are discarded. What waits in the send path of a peer session stays while
the peer is present (R353), but for responses; with the peer gone it is discarded, and its senders fail with reason 0x13 (R519). -/
def endSess (s : State) (k : Nat) (st : SessSt) (gone : Bool) : State :=
  let x := sessOf s k
  let keep := decide (0x40 ≤ k) && !gone
  let y : Sess := { st := st, waitq := if keep then x.waitq.filter fun m => !isResponse m else [] }
  let s1 := dropResponses (setSess s k y) k
  let s2 := if keep then s1 else x.waitq.foldl (fun s m => senderEnd s m.own 0x13) s1
  if k < 0x40 then evtSessionLost s2 k else s2
/-- A session closes (R301). -/
def closeSess (s : State) (k : Nat) (gone : Bool) : State :=
  if (sessOf s k).st = .closed ∧ !gone then s else endSess s k .closed gone
/-- A session fails (R299). -/
def failSess (s : State) (k : Nat) : State := evFire (endSess s k .failed false) 0x481 ((sessNo k).setWidth 32)
/-- The messages that wait for a peer session that opens at a version below 2.0: a SIGNAL fails with reason 0x14 (R519). -/
def dropSignals (s : State) (k : Nat) : State :=
  let x := sessOf s k
  if x.ver.toNat < 0x20 then
    (x.waitq.filter fun m => m.typ == 0x19).foldl (fun s m => senderEnd s m.own 0x14)
      (setSess s k { x with waitq := x.waitq.filter fun m => m.typ != 0x19 })
  else s
/-- A session opens or reopens (R295, R297): sequence numbers, express count and buffers start anew. -/
def openSess (s : State) (k : Nat) (host ver : Byte) (win : Nat) : State :=
  let x := sessOf s k
  let y : Sess :=
    { st := .opened, ver := ver, host := host, win := BitVec.ofNat 7 win, waitq := if k < 0x40 then [] else x.waitq.filter fun m => !isResponse m,
      lastRx := s.time.now, fresh := true }
  let s1 := dropResponses (setSess s k y) k
  pumpAll (dropSignals (if k < 0x40 ∧ x.st = .opened then evtSessionLost s1 k else s1) k) k

/-- Sends the given messages again with RETRY, ACKREQ on the last (R299). -/
def resendList (s : State) (k : Nat) : List TxMsg → State
  | [] => s
  | m :: ms => resendList (bump (sendSess s k m.typ (flagsOf ms.isEmpty false m.last true) m.seq m.body) (aSCT + 0x58)) k ms
/-- Every unacknowledged message from SEQ n on is sent again (R299). -/
def resendFrom (s : State) (k : Nat) (n : Word) : State :=
  let x := sessOf s k
  let from_ := fun (m : TxMsg) => decide ((m.seq - n).toNat < 0x8000_0000)
  let l := x.unacked.filter from_
  resendList (setSess s k { x with unacked := x.unacked.map fun m => if from_ m then { m with sent := s.time.now } else m }) k l
/-- The RTO of a session in ns: SCT_RTO doubled with each consecutive timeout, up to eight times (R299). -/
def rto (s : State) (k : Nat) : Nat := fld (act s (aSCT + 0x14)) 0 16 * 100 * 2 ^ Nat.min 3 (sessOf s k).timeouts
/-- The oldest unacknowledged message has waited RTO (R299).
DEDUCED, unsafe (log 50). -/
def doRto (k : Nat) (s : State) : State :=
  let x := sessOf s k
  match x.unacked with
  | [] => s
  | m :: _ =>
    if x.st ≠ .opened then s
    else
      let s1 := atTime s (m.sent + BitVec.ofNat 64 (rto s k))
      let n := x.timeouts + 1
      if fld (act s (aSCT + 0x10)) 8 4 ≤ n then failSess s1 k
      else resendFrom (setSess s1 k { x with timeouts := n }) k m.seq
/-- RTO_EXPIRY -/
def execRtoExpiry (k : SessKey) (s : State) : Res := onCore (doRto (skey k)) s
/-- The acknowledgement holdoff of a session ends (R298). -/
def doAckHoldoff (k : Nat) (s : State) : State :=
  match (sessOf s k).accAt with
  | some t => if isOpen s k then sendAck (atTime s (t + BitVec.ofNat 64 (fld (act s (aSCT + 0x18)) 16 16 * 64))) k else s
  | none => s
/-- ACK_HOLDOFF -/
def execAckHoldoff (k : SessKey) (s : State) : Res := onCore (doAckHoldoff (skey k)) s
/-- No frame has arrived on a session for SCT_IDLE (R301). -/
def doSessIdle (k : Nat) (s : State) : State :=
  let x := sessOf s k
  if x.st = .opened then closeSess (atTime s (x.lastRx + BitVec.ofNat 64 (fld (act s (aSCT + 0x1C)) 0 24 * 1000))) k false else s
/-- SESSION_IDLE -/
def execSessionIdle (k : SessKey) (s : State) : Res := onCore (doSessIdle (skey k)) s
/-- SCT_SESS_CMD QUERY (R305) -/
def sessQuery (n : BitVec 6) (s : State) : State := { s with sct := { s.sct with cmdSess := n } }
/-- SCT_SESS_CMD CLOSE (R301, R305) -/
def sessClose (n : BitVec 6) (s : State) : State := closeSess (sessQuery n s) n.toNat false
/-- SCT_SESS_CMD QUERY -/
def execSessionQuery (lvl : Lvl) (n : BitVec 6) (s : State) : Res := onReg lvl 2 (sessQuery n) s
/-- SCT_SESS_CMD CLOSE -/
def execSessionClose (lvl : Lvl) (n : BitVec 6) (s : State) : Res := onReg lvl 2 (sessClose n) s
/-- WINDOW that this device offers -/
def ownWin (s : State) : Nat := fld (act s (aSCT + 0x10)) 0 7
/-- The payload of a HELLO (R295). -/
def helloBody (s : State) (session : Nat) : List Byte :=
  [vMin s, vMax s] ++ beBytes 2 (ownWin s) ++ [0, 0] ++ beBytes 2 session ++ beBytes 8 s.boot.uid.toNat
/-- Whether this device has an address and takes part in the ring (R346, R351). -/
def attached (s : State) : Bool := s.rm.addr != 0 && s.rm.role != .detached
/-- The device with the higher address opens the peer session with a present device (R353). -/
def doPeerOpen (a : Byte) (s : State) : State :=
  let k := 0x40 + a.toNat
  if attached s && (s.rm.table.any fun t => t.addr == a && t.present && !t.host) && decide (a.toNat < s.rm.addr.toNat) && !isOpen s k then
    sendLess (setSess s k { sessOf s k with helloSent := true }) 0x01 a (helloBody s 0x8000)
  else s
/-- PEER_SESSION_OPEN -/
def execPeerSessionOpen (peer : Byte) (s : State) : Res := onCore (doPeerOpen peer) s

end Sys2Proof.Machine
end

