-- ==== Sys2Proof/Machine/Rm.lean ====
section
/-! DEFINITION. Ring management (R339 to R359, R371): rank and manager sequence, election, enumeration, presence, keepalives, loss of
the manager, tags, and the pairs that act (R366). -/
namespace Sys2Proof.Machine

/-! Stations, rank and manager sequence (R340 to R342, R345). -/
/-- CLASS of this device (R340). -/
def ownClass (s : State) : Nat := if s.rm.straps = 3 then 0 else s.rm.straps.toNat
/-- RM_CFG.PRIO -/ def ownPrio (s : State) : Nat := fld (act s (aSCT + 0x400)) 0 8
/-- Whether this device is manager-capable (R340). -/
def mgrCapable (s : State) : Bool := decide (1 ≤ ownClass s)
/-- The rank of a class, a priority and a UID (R341). -/
def rankOf (cls prio : Nat) (uid : DWord) : Nat := (cls * 256 + prio) * 2 ^ 64 + uid.toNat
/-- The rank of this device. -/
def ownRank (s : State) : Nat := rankOf (ownClass s) (ownPrio s) s.boot.uid
/-- The rank of a station. -/
def stRank (t : Station) : Nat := rankOf t.cls.toNat t.prio.toNat t.uid
/-- The MSEQ of this device as a manager (R342). -/
def ownMseq (s : State) (auth : Bool) (term : BitVec 31) : DWord :=
  BitVec.ofNat 64 (b2n auth * 2 ^ 63 + term.toNat * 2 ^ 32 + ownClass s * 2 ^ 24 + ownPrio s * 2 ^ 16 + s.boot.uid.toNat % 65536)
/-- TERM of an MSEQ. -/
def termOf (m : DWord) : BitVec 31 := BitVec.ofNat 31 (fld m 32 31)
/-- The role state of a KEEPALIVE (R349). -/
def roleCode : Role → Byte
  | .standby => 1 | .manager => 2 | .segManager => 3 | .detached => 4 | _ => 0
/-- A station of the ring table. -/
def stationOf (s : State) (a : Byte) : Option Station := s.rm.table.find? fun t => t.addr == a
/-- Writes or adds a station. -/
def setStation (s : State) (t : Station) : State :=
  if (stationOf s t.addr).isSome then { s with rm := { s.rm with table := s.rm.table.map fun x => if x.addr = t.addr then t else x } }
  else { s with rm := { s.rm with table := s.rm.table ++ [t] } }
/-- The event of a change of presence (R350, R404). -/
def presenceEv (s : State) (a : Byte) (p : Bool) : State := evFire s 0x4B1 (BitVec.ofNat 32 (a.toNat + 256 * b2n p))
/-- This device's own station, at position 0. -/
def ownStation (s : State) : Station :=
  { addr := s.rm.addr, cls := BitVec.ofNat 2 (ownClass s), prio := BitVec.ofNat 8 (ownPrio s), uid := s.boot.uid, role := roleCode s.rm.role }
/-- The role of this device takes a value; its station in its own table follows. -/
def setRole (s : State) (r : Role) : State :=
  let s1 := { s with rm := { s.rm with role := r } }
  if s1.rm.addr = 0 then s1 else setStation s1 (ownStation s1)
/-- The present manager-capable workers but this device (R354): stations heard within three flights, the manager apart. -/
def rivals (s : State) : List Station :=
  s.rm.table.filter fun t => t.present && !t.host && decide (t.age < 4) && t.addr != s.rm.addr && t.addr != s.rm.mgr && decide (t.cls ≠ 0)
/-- Whether this device outranks every other manager-capable worker (R354). -/
def topRank (s : State) : Bool := mgrCapable s && (rivals s).all fun t => decide (stRank t < ownRank s)
/-- A worker is the standby when it outranks the others (R354). -/
def reRole (s : State) : State :=
  match s.rm.role with
  | .worker => if topRank s then setRole s .standby else s
  | .standby => if topRank s then s else setRole s .worker
  | _ => s
/-- A station at its position (R345): the port of the first copy and its HOPS give the distance in that port's direction. -/
def posOf (s : State) (portB : Bool) (hops : Byte) : Nat :=
  let d := fld (act s (aSCT + 0xC)) 0 8 - hops.toNat + 1
  if portB then 256 - d else d

/-! Enumeration (R343 to R348). -/
/-- The lowest address in 0x02–0x30 that no station of the ring table holds (R344). -/
def freeAddr (s : State) : Option Byte :=
  ((List.range 47).map fun i => BitVec.ofNat 8 (i + 2)).find? fun a => (stationOf s a).isNone
/-- Sends an ENUM (R344). -/
def sendEnum (s : State) (a : Byte) (dirB : Bool) : State :=
  sendLess s 0x03 0 ([a, s.rm.addr, BitVec.ofNat 8 (b2n dirB), 0] ++ beBytes 8 s.rm.mseq.toNat ++ [0, 0, 0, 0])
/-- The identity payload of ENUM_REPLY and ANNOUNCE (R294). -/
def identBody (s : State) (a : Byte) : List Byte :=
  let b := s.boot
  [a, s.rm.straps.setWidth 8, BitVec.ofNat 8 (ownPrio s), vMax s, vMin s, 0, 0, 0] ++ beBytes 8 b.uid.toNat ++ beBytes 6 b.lot.toNat ++
    [b.wafer.setWidth 8, b.dieX, b.dieY, b.fab.setWidth 8, b.testrev, 0xA1] ++ beBytes 4 b.seq.toNat
/-- Sends ANNOUNCE (R348). -/
def sendAnnounce (s : State) : State := sendLess s 0x05 0xFE (identBody s 0)
/-- The manager answers the first ANNOUNCE that waits, once enumeration has ended (R347, R348). -/
def answerAnnounce (s : State) : State :=
  if s.rm.enumOn ∨ s.rm.directed.isSome ∨ s.rm.role ≠ .manager then s
  else match s.rm.annq with
    | [] => s
    | (uid, b) :: r =>
      let s1 := { s with rm := { s.rm with annq := r } }
      let a := match s1.rm.table.find? fun t => t.uid == uid && !t.host && t.addr != 0 with | some t => some t.addr | none => freeAddr s1
      match a with
      | none => raise s1 0x081
      | some a => sendEnum { s1 with rm := { s1.rm with directed := some (uid, a, b, false) } } a b
/-- The next ENUM of the enumeration (R344); with no free address enumeration ends (R347). -/
def nextEnum (s : State) : State :=
  match freeAddr s with
  | some a => sendEnum { s with rm := { s.rm with enumAddr := a } } a s.rm.enumPhase
  | none => answerAnnounce (raise { s with rm := { s.rm with enumOn := false } } 0x081)
/-- A device claims the manager role (R343).
DEDUCED, safe (log 45). -/
def doClaimMgr (s : State) : State :=
  if s.rm.addr = 0 ∧ s.rm.role = .unaddressed ∧ mgrCapable s ∧ !s.rm.heardMgr ∧ (s.ring.a.link = 2 ∨ s.ring.b.link = 2) then
    let term := if s.rm.termSeen = 0 then 1 else s.rm.termSeen + 1
    let s1 := { s with rm := { s.rm with
      addr := 1, auth := true, term := term, mgr := 1, mseq := ownMseq s true term, enumOn := true, enumPhase := false,
      termSeen := if s.rm.termSeen.toNat < term.toNat then term else s.rm.termSeen } }
    nextEnum (setRole s1 .manager)
  else s
/-- ELECTION_CLAIM -/
def execElectionClaim (s : State) : Res := onCore doClaimMgr s
/-- An ENUM has had no ENUM_REPLY within ENUM_TMO (R344, R348): a directed ENUM goes once in the other direction; phase B follows
phase A, and enumeration ends with phase B. -/
def doEnumTmo (s : State) : State :=
  if s.rm.role ≠ .manager then s
  else match s.rm.directed with
    | some (uid, a, b, again) =>
      if again then answerAnnounce { s with rm := { s.rm with directed := none } }
      else sendEnum { s with rm := { s.rm with directed := some (uid, a, !b, true) } } a (!b)
    | none =>
      if !s.rm.enumOn then s
      else if s.rm.enumPhase then answerAnnounce { s with rm := { s.rm with enumOn := false } }
      else nextEnum { s with rm := { s.rm with enumPhase := true } }
/-- ENUM_TMO -/
def execEnumTmo (s : State) : Res := onCore doEnumTmo s
/-- An unaddressed device repeats its ANNOUNCE (R348). -/
def doAnnounceRepeat (s : State) : State := if s.rm.role = .unaddressed ∧ s.rm.heardMgr then sendAnnounce s else s
/-- ANNOUNCE_REPEAT -/
def execAnnounceRepeat (s : State) : Res := onCore doAnnounceRepeat s

/-! Keepalives and presence (R349 to R352). -/
/-- Sends a KEEPALIVE with a role state (R294, R349). -/
def sendKeepalive (s : State) (role : Byte) : State :=
  sendLess s 0x3E 0xFF ([role, 0, 0, 0] ++ beBytes 8 s.rm.mseq.toNat ++ beBytes 4 (s.lnd.num.toNat % 2 ^ 32))
/-- The KEEPALIVE of a flight (R349).
DEDUCED, unsafe (log 49). -/
def doKeepalive (s : State) : State :=
  if !attached s then s
  else
    let ofs := fld (act s (aSCT + 0x404)) 0 27
    if period s ≤ ofs then { s with rm := { s.rm with ofsErr := true } }
    else sendKeepalive (atTime s (lndTime s s.lnd.num.toNat + BitVec.ofNat 64 ofs)) (roleCode s.rm.role)
/-- KEEPALIVE_SEND -/
def execKeepaliveSend (s : State) : Res := onCore doKeepalive s
/-- The sessions with a station close (R301, R350). -/
def closeWith (s : State) (a : Byte) : State :=
  let s1 := closeSess s (0x40 + a.toNat) true
  ((List.range 64).filter fun k => (sessOf s1 k).st = .opened ∧ (sessOf s1 k).host = a).foldl (fun s k => closeSess s k false) s1
/-- A station becomes absent at a landing (R350, R352). -/
def doAbsent (a : Byte) (s : State) : State :=
  match stationOf s a with
  | none => s
  | some t =>
    if !t.present ∨ t.age < 4 ∨ a = s.rm.addr then s
    else
      let nA := decide (neighbour s false = a)
      let nB := decide (neighbour s true = a)
      let s1 := reRole (closeWith (presenceEv (setStation s { t with present := false, detaching := false }) a false) a)
      let s2 := segmentEv s s1 (s1.rm.links.getLast?.getD (0, 0))
      let s3 := if nA && attached s2 then linkLost s2 false a else s2
      if nB && attached s3 then linkLost s3 true a else s3
/-- STATION_ABSENT -/
def execStationAbsent (addr : Byte) (s : State) : Res := onCore (doAbsent addr) s

/-! Losing the manager (R354, R356). -/
/-- No MANAGER keepalive for three flights (R354): the standby takes authority when the manager alone became absent at this landing;
else the highest-ranked manager-capable device becomes segment manager. -/
def doManagerLoss (s : State) : State :=
  if s.rm.noMgr ≠ 4 ∨ !topRank s ∨ !(s.rm.role = .worker ∨ s.rm.role = .standby) then s
  else
    let alone := !(s.rm.table.any fun t => decide (t.age = 4) && t.addr != s.rm.mgr && t.addr != s.rm.addr)
    if alone ∧ s.rm.role = .standby then
      let term := termOf s.rm.mseq + 1
      let s1 := { s with rm := { s.rm with
        term := term, auth := true, mseq := ownMseq s true term, mgr := s.rm.addr, noWorker := 0,
        termSeen := if s.rm.termSeen.toNat < term.toNat then term else s.rm.termSeen
        restore := (s.rm.table.filter fun t => t.present && !t.host && decide (t.age < 4) && t.addr != s.rm.addr).map fun t => t.addr } }
      raise (setRole s1 .manager) 0x082
    else
      let s1 := { s with rm := { s.rm with mseq := setFld s.rm.mseq 63 1 0, auth := false } }
      raise (setRole s1 .segManager) 0x082
/-- MANAGER_LOSS -/
def execManagerLoss (s : State) : Res := onCore doManagerLoss s
/-- A manager without a present worker for three flights gives up authority (R356). -/
def doAuthLoss (s : State) : State :=
  if s.rm.role = .manager ∧ 3 ≤ s.rm.noWorker ∧ s.rm.auth then
    { s with rm := { s.rm with auth := false, mseq := setFld s.rm.mseq 63 1 0 } }
  else s
/-- AUTH_LOSS -/
def execAuthLoss (s : State) : Res := onCore doAuthLoss s

/-! Commands (R351, R359, R371). -/
/-- Gives up the address and attaches again (R351, R357). -/
def reattach (s : State) : State :=
  { s with rm := { s.rm with
      addr := 0, role := .unaddressed, auth := false, enumOn := false, directed := none, annq := [],
      table := s.rm.table.filter fun t => t.addr != s.rm.addr } }
/-- RM_CMD ANNOUNCE: a detached device attaches again (R351). -/
def announce (s : State) : State :=
  if s.rm.role = .detached then (let s1 := reattach s; if s1.rm.heardMgr then sendAnnounce s1 else s1) else s
/-- RM_CMD DETACH (R351): a device with an address sends one KEEPALIVE with DETACHING; the pairs become OFF. -/
def detachDev (s : State) : State :=
  if s.rm.role = .detached then s
  else
    let s1 := if attached s then sendKeepalive s 4 else s
    setRole { s1 with rm := { s1.rm with pairs := [], enumOn := false, directed := none, annq := [] } } .detached
/-- RM_CMD ANNOUNCE -/
def execAnnounceCmd (lvl : Lvl) (s : State) : Res := onReg lvl 2 announce s
/-- RM_CMD DETACH -/
def execDetach (lvl : Lvl) (s : State) : Res := onReg lvl 2 detachDev s
/-- LND_STS.PEND is not 0: a commit is pending, or judged and about to land. -/
def pendShown (s : State) : Bool :=
  s.lnd.pend.isSome || match s.lnd.judged with
    | some (_, some (_, r)) => decide (r = 0)
    | _ => false
/-- RM_TAGSET (R359): refused while LND_STS.PEND is not 0; until boot is done the tags stay 0 (R478). -/
def tagset (tag : Half) (s : State) : State :=
  if s.boot.st = .boot then s
  else if pendShown s then { s with rm := { s.rm with tagref := true } }
  else { s with lnd := { s.lnd with tagA := tag, tagS := tag - 1 }, rm := { s.rm with tagref := false } }
/-- RM_TAGSET -/
def execRmTagsetWrite (lvl : Lvl) (tag : Half) (s : State) : Res := onReg lvl 2 (tagset tag) s

/-! Pairs that act (R366). -/
/-- AUTH as the last pair judgement saw it (R366): a manager's own, else a keepalive with AUTH = 1 in one of the two flights judged. -/
def pairAuth (s : State) : Bool :=
  if s.rm.role = .manager then s.rm.auth else ((s.rm.authKa.drop 1).take 2).any id
/-- LCTX of a pair entry -/ def pairCtx (s : State) (e : Nat) : CtxId := BitVec.ofNat 18 (fld (tabA s .pair e 0) 0 18)
/-- PADDR of a pair entry -/ def pairAddr (s : State) (e : Nat) : Byte := BitVec.ofNat 8 (fld (tabA s .pair e 0) 18 8)
/-- PCTX of a pair entry -/ def pairPctx (s : State) (e : Nat) : CtxId := BitVec.ofNat 18 (fld (tabA s .pair e 0) 26 18)
/-- MODE of a pair entry: hot-standby -/ def pairHsb (s : State) (e : Nat) : Bool := bit (tabA s .pair e 0) 44
/-- The payload of TAKEOVER (R294). -/
def takeoverBody (s : State) (e : Nat) : List Byte :=
  beBytes 4 (targetWord (pairCtx s e) s.rm.addr) ++ beBytes 4 (targetWord (pairPctx s e) (pairAddr s e)) ++ beBytes 8 s.lnd.num.toNat ++
    [BitVec.ofNat 8 (b2n (pairHsb s e)), 0, 0, 0]
/-- A pair entry enters SOLO (R366). -/
def enterSolo (s : State) (e : Nat) : State :=
  let c := pairCtx s e
  let s1 := setPair s e { pairL s e with st := .solo, supp := false, since := s.lnd.num }
  let s2 := sessSend s1 (peerKey (pairAddr s e)) 0x31 (takeoverBody s e)
  let m := aliasAddr s2
  let s3 := if m ≠ s.rm.addr ∧ m ≠ 0 then sessSend s2 (peerKey m) 0x31 (takeoverBody s e) else s2
  let r := if heldStep s3 c then repHeld s3 c sTAKEN 0x1A else repNow s3 c sTAKEN 0x1A (haltResidual s3 c)
  bump (postReport s3 c r true).1 (aSCT + 0x474)
/-- A pair entry enters YIELDED (R366). -/
def enterYielded (s : State) (e : Nat) : State :=
  bump (raise (setPair s e { pairL s e with st := .yielded, supp := true, since := s.lnd.num }) 0x084 (BitVec.ofNat 32 e)) (aSCT + 0x478)
/-- A PAIRED entry whose partner has been silent at two judgements acts (R366). -/
def doPairSilent (e : Nat) (s : State) : State :=
  let x := pairL s e
  if x.st ≠ .paired ∨ x.silent ≠ 2 then s
  else if !pairHsb s e ∨ pairAuth s then enterSolo s e
  else enterYielded s e
/-- PAIR_SILENT -/
def execPairSilent (e : BitVec 14) (s : State) : Res := onCore (doPairSilent e.toNat) s

end Sys2Proof.Machine
end

