-- ==== Sys2Proof/Machine/Arbs.lean ====
section
/-! DEFINITION. The staircase arbiters (R425 to R436). -/
namespace Sys2Proof.Machine

/-- A write to an IM register, field by field (R5). -/
def imWrite (a : Nat) (v : Word) (s : State) : State :=
  match regAt a with
  | some (r, i) => let (n, bad) := mergeReg (imr s a) v (r.flds i); rsvdIf bad (setIm s a n)
  | none => setRsvd s
/-- The number of arbiters of a set (R425). -/
def arbCount (k : Nat) : Nat := if k = 2 then 64 else if k = 6 then 16 else if k < 9 then 1 else 0
/-- Whether a set connects an input (R426). -/
def arbConn (k i : Nat) : Bool :=
  if i ≤ 32 then decide (k ≠ 4)
  else match i with
    | 33 => decide (k = 0 ∨ k = 1 ∨ k = 3 ∨ k = 4 ∨ k = 5 ∨ k = 6)
    | 34 => decide (k = 0 ∨ k = 1)
    | 35 => decide (k = 3 ∨ k = 4)
    | 36 => decide (k = 6)
    | 37 => decide (k = 0 ∨ k = 1 ∨ k = 6)
    | 38 => decide (k = 2)
    | 39 => decide (k = 6)
    | i => decide (40 ≤ i ∧ i ≤ 43) && decide (k = 0 ∨ k = 1 ∨ k = 5 ∨ k = 6 ∨ k = 8)
/-- The slot of an input (R428). -/
def arbSlot (s : State) (k i : Nat) : Nat := fld (imr s (aARB + 0x80 * k + 4 * (i / 4))) (8 * (i % 4)) 6
/-- ARB_k_QUOTA -/ def arbQuota (s : State) (k : Nat) : Word := imr s (aARB + 0x80 * k + 0x30)
/-- An arbiter. -/
def arbOf (s : State) (k bank : Nat) : Arb := sget {} s.arb.arb (64 * k + bank)
/-- Writes an arbiter. -/
def setArb (s : State) (k bank : Nat) (x : Arb) : State := { s with arb := { s.arb with arb := sset {} s.arb.arb (64 * k + bank) x } }
/-- Whether the quota governs an input: its slot is at or above THR (R433). -/
def arbAbove (s : State) (k i : Nat) : Bool := decide (fld (arbQuota s k) 0 6 ≤ arbSlot s k i)
/-- Whether an input has used its quota (R433). -/
def arbMasked (s : State) (k : Nat) (x : Arb) (i : Nat) : Bool :=
  let q := fld (arbQuota s k) 8 8
  decide (q ≠ 0) && arbAbove s k i && decide (q ≤ sget 0 x.cnt i)
/-- A grant counts against the quota (R433). -/
def arbCountGrant (s : State) (k : Nat) (x : Arb) (i : Nat) : Arb :=
  if arbAbove s k i then { x with cnt := sset 0 x.cnt i (sget 0 x.cnt i + 1) } else x
/-- The winner of a contest: the highest slot, then the higher input (R428). -/
def arbWinner (s : State) (k : Nat) (l : List Nat) : Option Nat :=
  l.foldl (fun b i => match b with | none => some i | some j => if arbSlot s k j ≤ arbSlot s k i then some i else some j) none
/-- A contest decided by input index shows in ARB_DUP and ARB_k_STS (R428, R436). -/
def arbDup (s : State) (k bank w : Nat) (l : List Nat) : State :=
  match (l.filter fun i => i ≠ w && arbSlot s k i = arbSlot s k w).getLast? with
  | some t =>
    { s with arb := { s.arb with
        dup := s.arb.dup ||| BitVec.ofNat 9 (2 ^ k), sts := sset 0 s.arb.sts k (BitVec.ofNat 32 (w + 64 * t + 4096 * bank)) } }
  | none => s
/-- The winner is granted, or withdraws (R434): a withdrawal is not counted against the quota; it ends its own parking and leaves that of
another owner.
DEDUCED, unsafe (log 47). -/
def arbGrant (s : State) (k bank w : Nat) (withdrawn : Bool) : State :=
  let x := arbOf s k bank
  if withdrawn then
    let s1 := bump s (aARB + 0x80 * k + 0x3C)
    if x.parked = some (BitVec.ofNat 6 w) then setArb s1 k bank { x with parked := none } else s1
  else setArb s k bank { arbCountGrant s k x w with parked := some (BitVec.ofNat 6 w) }
/-- One arbitration among the inputs of a request mask (R430, R431, R433): an input's bit is the one request that it presents (R427). A grant of a
DRAM interface puts a command into its queue, and a full queue is granted nothing (R439).
DEDUCED, safe (log 132). -/
def arbPhase (k bank : Nat) (req : BitVec 48) (withdrawn : Bool) (s : State) : State :=
  if arbCount k ≤ bank ∨ (k ≤ 1 ∧ 64 ≤ (memIf s (k == 1)).cmds) then s
  else
    let x := arbOf s k bank
    let all := (List.range 48).filter fun i => bit req i && arbConn k i
    let free := all.filter fun i => !arbMasked s k x i
    let s1 := if free.length < all.length then bump s (aARB + 0x80 * k + 0x40) else s
    match arbWinner s1 k free with
    | none => s1
    | some w =>
      let s2 := arbGrant (arbDup s1 k bank w free) k bank w withdrawn
      if k ≤ 1 ∧ !withdrawn then setIf s2 (k == 1) { memIf s2 (k == 1) with cmds := (memIf s2 (k == 1)).cmds + 1 } else s2
/-- ARBITRATION_PHASE -/
def execArbitrationPhase (k : BitVec 4) (bank : BitVec 6) (req : BitVec 48) (withdrawn : Bool) (s : State) : Res :=
  onCore (arbPhase k.toNat bank.toNat req withdrawn) s
/-- A write to ARB_k_SLOTj (R432, R436) -/
def arbSlotSet (k j : Nat) (v : Word) (s : State) : State := if k < 9 ∧ j < 12 then imWrite (aARB + 0x80 * k + 4 * j) v s else s
/-- A write to ARB_k_SLOTj -/
def execArbSlotWrite (lvl : Lvl) (k : BitVec 4) (j : BitVec 4) (v : Word) (s : State) : Res := onReg lvl 2 (arbSlotSet k.toNat j.toNat v) s
/-- Every count of a set is cleared (R433). -/
def arbClear (k : Nat) (s : State) : State :=
  (List.range (arbCount k)).foldl (fun s b => setArb s k b { arbOf s k b with cnt := [] }) s
/-- A write to ARB_k_QUOTA: a change of WIN restarts the window (R433). -/
def arbQuotaSet (k : Nat) (v : Word) (s : State) : State :=
  if k < 9 then
    let s1 := imWrite (aARB + 0x80 * k + 0x30) v s
    if fld (arbQuota s1 k) 16 16 ≠ fld (arbQuota s k) 16 16 then arbClear k s1 else s1
  else s
/-- A write to ARB_k_QUOTA -/
def execArbQuotaWrite (lvl : Lvl) (k : BitVec 4) (v : Word) (s : State) : Res := onReg lvl 2 (arbQuotaSet k.toNat v) s
/-- A quota window ends (R433) -/
def execQuotaWindowEnd (k : BitVec 4) (s : State) : Res := onCore (arbClear k.toNat) s
/-- A write of ones to ARB_DUP clears its bits (R4, R436). -/
def arbDupClr (v : Word) (s : State) : State := { s with arb := { s.arb with dup := s.arb.dup &&& ~~~(v.setWidth 9) } }
/-- A write to ARB_DUP -/
def execArbDupClear (lvl : Lvl) (v : Word) (s : State) : Res := onReg lvl 2 (withRsvd (aARB + 0x480) v (arbDupClr v)) s
/-- ARB_k_STS: the last duplicate decision, and MASKED (R436). -/
def arbSts (s : State) (k : Nat) : Word :=
  let masked := (List.range (arbCount k)).any fun b => (arbOf s k b).cnt.any fun e => arbMasked s k (arbOf s k b) e.1
  sget 0 s.arb.sts k + BitVec.ofNat 32 (0x40000 * b2n masked)

end Sys2Proof.Machine
end

