-- ==== Sys2Proof/Machine/Mem.lean ====
section
/-! DEFINITION. Memory and ECC (R437 to R455): errors and the log, correction and scrubbing, retirement, tracking and retraining. -/
namespace Sys2Proof.Machine

/-- A DRAM access at a device address completes (R439 to R443) and leaves the command queue of its interface: not while its interface is retrained (R453). -/
def doDramDone (a : Nat) (wr : Bool) (e : Ecc) (s : State) : State :=
  if 0x10_0000_0000 ≤ a ∧ a < 0x18_0000_0000 ∧ dramOk s (a - 0x10_0000_0000) ∧
      !(memIf s (decide (a / 4096 % 2 = 1))).retraining then
    let i := decide (a / 4096 % 2 = 1)
    let s1 := setIf s i { memIf s i with cmds := (memIf s i).cmds - 1 }
    eccNote s1 (b2n i) (a / 8 * 8) a e (if wr then .write else .read)
  else s
/-- DRAM_ACCESS_DONE -/
def execDramAccessDone (addr : BitVec 48) (wr : Bool) (e : Ecc) (s : State) : Res := onCore (doDramDone addr.toNat wr e) s
/-- A queued write-back runs (R442): the word is stored corrected. -/
def doCorrection (m : Nat) (s : State) : State := { s with memc := { s.memc with corr := sset [] s.memc.corr m ((sget [] s.memc.corr m).drop 1) } }
/-- CORRECTION_WRITEBACK -/
def execCorrectionWriteback (m : BitVec 4) (s : State) : Res := onCore (doCorrection m.toNat) s

/-! The scrubber (R444, R445). -/
/-- The contexts whose rows are redirected to spare rows (R449), in ascending order. -/
def spareRows (s : State) : List Nat := s.memc.rows.map (·.1)
/-- The number of lines of a scrubbed memory; those of 0x5 and 0x9 are the model's, and the spare rows in use follow the rows of the Gallery (assumption
log 33).
DEDUCED, unsafe (log 33). -/
def scrubLines (s : State) (m : Nat) : Nat :=
  match m with
  | 0 | 1 => dramSize s / 128
  | 2 => 0x400_0000 / 64 + 4 * (spareRows s).length
  | 3 | 4 => 0x100_0000 / 64
  | 5 => 28 * 0x10_0000 / 64
  | 6 => 33 * 0x1_0000 / 64
  | 8 => 4 * 0x4_0000 / 64
  | 9 => 14 * 0x1_0000
  | _ => 0
/-- The log address (R440) and the key of word w of line n of a memory.
DEDUCED, unsafe (log 33). -/
def scrubAddr (s : State) (m n w : Nat) : Nat × Nat :=
  let o := 64 * n + 8 * w
  match m with
  | 0 => let a := 0x10_0000_0000 + o / 4096 * 8192 + o % 4096; (a, a)
  | 1 => let a := 0x10_0000_0000 + o / 4096 * 8192 + 4096 + o % 4096; (a, a)
  | 2 =>
    let o := if o < 0x400_0000 then o else (spareRows s).getD ((o - 0x400_0000) / 256) 0 * 256 + o % 256
    (o, recKey (BitVec.ofNat 18 (o / 256)) (o / 8 % 32))
  | 3 => (0x2_0000_0000 + o, 0x2_0000_0000 + o)
  | 4 => (0x1_0000_0000 + o, 0x1_0000_0000 + o)
  | 6 => (0x1000_0000 + o, 0x1000_0000 + o)
  | 8 => (o % 0x4_0000 + o / 0x4_0000 * 2 ^ 40, tcmKey (BitVec.ofNat 2 (o / 0x4_0000)) (o % 0x4_0000))
  | 9 => (n, 0x60_0000_0000 + 8 * n)
  | _ => (o, 0x50_0000_0000 + o)
/-- Whether the scrubber skips a line: a retired page or Gallery row, or memory out of service (R444). -/
def scrubSkips (s : State) (m n : Nat) : Bool :=
  if m ≤ 1 then !dramOk s ((scrubAddr s m n 0).1 - 0x10_0000_0000)
  else decide (m = 2 ∧ n < 0x400_0000 / 64) && (spareRows s).contains (n / 4)
/-- The pointer of a scrubber moves on; a full lap is timed in µs (R445). -/
def scrubNext (s : State) (m : Nat) : State :=
  let n := sget 0 s.memc.scrub m
  let t0 := if n = 0 then s.time.now else sget 0 s.memc.lapAt m
  if scrubLines s m ≤ n + 1 then
    let us := (s.time.now - t0).toNat / 1000
    let s1 := setIm s (aMEM + 0x100 + 4 * m) (BitVec.ofNat 32 (Nat.min us 0xFFFF_FFFF))
    { s1 with memc := { s1.memc with scrub := sset 0 s1.memc.scrub m 0, lapAt := sset 0 s1.memc.lapAt m 0 } }
  else { s with memc := { s.memc with scrub := sset 0 s.memc.scrub m (n + 1), lapAt := sset 0 s.memc.lapAt m t0 } }
/-- Whether a scrubber runs (R444): its bit in MEM_SCRUB_EN, and no retrain of its interface. -/
def scrubOn (s : State) (m : Nat) : Bool :=
  bit (act s (aMEM + 8)) m && decide (m ≤ 9 ∧ m ≠ 7) && !(decide (m ≤ 1) && ((memIf s (m == 1)).retraining || !(memIf s (m == 1)).trained))
/-- A scrub read of a line (R444): what the decodes of its words found. -/
def doScrub (m : Nat) (found : WordEcc 3) (s : State) : State :=
  if scrubOn s m then
    let n := sget 0 s.memc.scrub m
    let hit := fun (f : BitVec 3 × Ecc) =>
      let (a, k) := scrubAddr s m n f.1.toNat
      ({ m := m, addr := a, key := k, e := f.2, use := .scrub } : EccHit)
    scrubNext (if scrubSkips s m n then s else eccAll s (found.map hit)) m
  else s
/-- SCRUB_READ -/
def execScrubRead (m : BitVec 4) (found : WordEcc 3) (s : State) : Res := onCore (doScrub m.toNat found) s

/-! The log and retirement (R446 to R449). -/
/-- MEM_LOG_SEL -/
def execMemLogSelWrite (lvl : Lvl) (v : Word) (s : State) : Res := onReg lvl 2 (imWrite (aMEM + 0x40) v) s
/-- MEM_LOG_RIDX -/
def execMemLogRidxWrite (lvl : Lvl) (v : Word) (s : State) : Res := onReg lvl 2 (imWrite (aMEM + 0x34) v) s
/-- MEM_RET_SEL -/
def execMemRetSelWrite (lvl : Lvl) (v : Word) (s : State) : Res := onReg lvl 2 (imWrite (aMEM + 0x68) v) s
/-- A page put into a table in ascending order (R448). -/
def retInsert (p : Nat) : List Nat → List Nat
  | [] => [p]
  | q :: qs => if p < q then p :: q :: qs else if p = q then q :: qs else q :: retInsert p qs
/-- The interface of a page (R438): a[12]. -/
def pageIf (p : Nat) : Bool := decide (p % 2 = 1)
/-- Whether a page lies in usable DRAM. -/
def pageOk (s : State) (p : Nat) : Bool := decide (p * 4096 < dramSize s)
/-- MEM_RET_CMD ADD (R448): refused while a retirement runs, for a full table and for a page beyond usable DRAM.
DEDUCED, unsafe (log 48). -/
def retAdd (p : Nat) (s : State) : State :=
  let l := (memIf s (pageIf p)).ret
  if s.memc.retBusy.isSome ∨ !pageOk s p ∨ (1024 ≤ l.length ∧ !l.contains p) then { s with memc := { s.memc with retRefused := true } }
  else if l.contains p then { s with memc := { s.memc with retRefused := false } }
  else { s with memc := { s.memc with retBusy := some p, retRefused := false } }
/-- MEM_RET_CMD ADD -/
def execMemRetCmdAdd (lvl : Lvl) (page : BitVec 23) (s : State) : Res := onReg lvl 2 (retAdd page.toNat) s
/-- A retirement completes: the page is unmapped (R448). -/
def doRetire (s : State) : State :=
  match s.memc.retBusy with
  | none => s
  | some p =>
    let s1 := { s with memc := { s.memc with retBusy := none } }
    setIf s1 (pageIf p) { memIf s1 (pageIf p) with ret := retInsert p (memIf s1 (pageIf p)).ret }
/-- RETIRE_DONE -/
def execRetireDone (s : State) : Res := onCore doRetire s
/-- n bytes from key k take values that the manual leaves undefined. -/
def undefBytes : Nat → Nat → State → State
  | 0, _, s => s
  | n + 1, k, s => let (b, s1) := freshByte s; undefBytes n (k + 1) (memSet s1 k b)
/-- MEM_RET_CMD REMOVE (R448): the page is mapped again with undefined contents.
DEDUCED, unsafe (log 48). -/
def retRemove (p : Nat) (s : State) : State :=
  let x := memIf s (pageIf p)
  let s0 := { s with memc := { s.memc with retRefused := false } }
  if x.ret.contains p then undefBytes 4096 (0x10_0000_0000 + p * 4096) (setIf s0 (pageIf p) { x with ret := x.ret.filter fun q => q ≠ p }) else s0
/-- MEM_RET_CMD REMOVE -/
def execRemove (lvl : Lvl) (page : BitVec 23) (s : State) : Res := onReg lvl 2 (retRemove page.toNat) s
/-- MEM_GROW_CMD.GO (R449).
DEDUCED, unsafe (log 48). -/
def growGo (c : CtxId) (s : State) : State :=
  let bank := c.toNat % 64
  let m := s.memc
  let used := sget 0 m.spares bank
  if m.growBusy.isSome ∨ !recWritable s c ∨ accBusy s .gal then { s with memc := { m with growRefused := true, growBank := BitVec.ofNat 6 bank } }
  else if 64 ≤ used then { s with memc := { m with growRefused := true, growOut := true, growBank := BitVec.ofNat 6 bank } }
  else { s with memc := { m with growBusy := some c, growRefused := false, growOut := false, growLoss := false, growBank := BitVec.ofNat 6 bank } }
/-- MEM_GROW_CMD.GO -/
def execMemGrowCmdGo (lvl : Lvl) (c : CtxId) (s : State) : Res := onReg lvl 2 (growGo c) s
/-- The copy of a row to its spare is done (R449): what the decodes of its words found. Correctable words are corrected, uncorrectable ones are
written as 0. -/
def doRowDone (found : WordEcc 5) (s : State) : State :=
  match s.memc.growBusy with
  | none => s
  | some c =>
    let bank := c.toNat % 64
    let (finds, s0) := recFinds s c found .write
    let bad := finds.filter fun h => eccBad h.e
    let s1 := dropCorr (healWords (eccAll s0 finds) (recKey c 0) 256) (recKey c 0) 256
    let s2 := if bad.isEmpty then s1 else setRec s1 c (bad.foldl (fun r h => recPut r (h.addr / 8 % 32) 0) (recOf s1 c))
    { s2 with memc := { s2.memc with
        growBusy := none, growLoss := !bad.isEmpty, spares := sset 0 s2.memc.spares bank (sget 0 s2.memc.spares bank + 1),
        rows := sset 0 s2.memc.rows c.toNat (sget 0 s2.memc.spares bank + 1) } }
/-- ROW_RETIRE_DONE -/
def execRowRetireDone (found : WordEcc 5) (s : State) : Res := onCore (doRowDone found) s

/-! Tracking and retraining (R451 to R453). -/
/-- A tracking step: the temperature is read, and the corrected-error period starts anew (R451, R452). -/
def doTrack (i : Bool) (temp : Byte) (s : State) : State :=
  let x := memIf s i
  if x.trained then
    let s1 := setIf s i { x with temp := temp }
    let s2 := if staleTemp s1 i || staleCe s1 i then setStale s1 i else s1
    setIf s2 i { memIf s2 i with ceCnt := 0 }
  else s
/-- TRACKING_STEP -/
def execTrackingStep (i : Bool) (temp : Byte) (s : State) : Res := onCore (doTrack i temp) s
/-- A retrain of an interface starts, or waits for the other's (R453). -/
def retrainIf (i : Bool) (s : State) : State :=
  let x := memIf s i
  if !x.trained ∨ x.retraining ∨ x.wait then s
  else if (memIf s (!i)).retraining then setIf s i { x with wait := true, due := false }
  else setIf s i { x with retraining := true, due := false }
/-- MEM_CMD.RETRAIN0 -/
def execRetrain0 (lvl : Lvl) (s : State) : Res := onReg lvl 2 (retrainIf false) s
/-- MEM_CMD.RETRAIN1 -/
def execRetrain1 (lvl : Lvl) (s : State) : Res := onReg lvl 2 (retrainIf true) s
/-- A retrain ends (R453); a retrain that waits for it starts. -/
def doRetrained (i good : Bool) (s : State) : State :=
  let x := memIf s i
  if x.retraining then
    let s1 := if good then staleSignal (setIf s i { x with retraining := false, stale := false, due := false, ttrain := x.temp, ceCnt := 0 })
      else raise (setIf s i { x with retraining := false }) 0x062
    let y := memIf s1 (!i)
    if y.wait then setIf s1 (!i) { y with wait := false, retraining := true } else s1
  else s
/-- RETRAIN_DONE -/
def execRetrainDone (i : Bool) (good : Bool) (s : State) : Res := onCore (doRetrained i good) s
/-- Retrains that a landing starts (R453): MEM_1 first. Only the first landing after STALE is set starts one. -/
def autoRetrain (s : State) : State :=
  let s2 := if bit (act s aMEMCFG) 3 then
      let s1 := if s.memc.i1.due then retrainIf true s else s
      if s1.memc.i0.due then retrainIf false s1 else s1
    else s
  { s2 with memc := { s2.memc with i0 := { s2.memc.i0 with due := false }, i1 := { s2.memc.i1 with due := false } } }
/-- A landing that changes a bit of MEM_SCRUB_EN restarts the laps of its memory (R445). -/
def scrubLand (old s : State) : State :=
  let d := act old (aMEM + 8) ^^^ act s (aMEM + 8)
  ((List.range 10).filter fun m => bit d m).foldl (fun s m =>
    { s with memc := { s.memc with scrub := sset 0 s.memc.scrub m 0, lapAt := sset 0 s.memc.lapAt m 0 } }) s

end Sys2Proof.Machine
end

