-- ==== Sys2Proof/Machine/Faults.lean ====
section
/-! DEFINITION. The fault collector (R456 to R473): latches, reactions, fences (R195, R197, R462), the NMT (R461), SAFESTATE_N (R465), the
watchdogs (R466) and reports (R469). A chip reset that a reaction asks for is left in rstPend, and Boot carries it out. -/
namespace Sys2Proof.Machine

/-- A command of the SAFE domain: its effect unless the supplies are off (R464, R493).
DEDUCED, safe (log 6). -/
def onSafe (f : State → State) (s : State) : Res := .next (if s.boot.st = .off ∨ s.boot.st = .lost then s else f s)
/-- REACT of source n -/ def react (s : State) (n : Nat) : Nat := fld (act s (aFLT + 0x1000 + 4 * n)) 0 5
/-- The class of source n (R470). -/
def fltClass (n : Nat) : Nat := match faultSrc n with | some r => r.1 | none => 0
/-- Whether the sticky bit of source n is set. -/
def sticky (s : State) (n : Nat) : Bool := bit s.flt.sticky n
/-- The first pair from p on, wrapping from MP_3 to MP_0, that is not fenced (R2, R461). -/
def nextPair (s : State) (p : BitVec 2) : Option (BitVec 2) := [p, p + 1, p + 2, p + 3].find? fun n => !(mpOf s n).fenced
/-- The pair that receives the NMT (R461). -/
def nmtPair (s : State) : Option (BitVec 2) := nextPair s (BitVec.ofNat 2 (fld (act s aFLT) 0 2))

/-! Fixed actions (R457). -/
/-- The contexts homed on a cluster that are not FREE. -/
def homedOn (s : State) (n : Nat) : List CtxId :=
  (s.gal.live.filter fun e => decide (e.2.st ≠ .free) && decide (homeOf s (BitVec.ofNat 18 e.1) = n)).map fun e => BitVec.ofNat 18 e.1
/-- What a fence does to the channel of a context (R195, R222): it is taken, its residual kept for the report of R197, and a port instruction will be
executed again. A HALT in progress ends there.
DESIGN CHOICE, unsafe (log 128). -/
def fenceChan (s : State) (c : CtxId) : State :=
  let n := haltResidual s c
  if (chanOf s c.toNat).any fun x => x.stopping == some .halt then haltWith s c sABORT 0x17 n
  else
    let s1 := undigest s c
    let x := thrOf s1 (.ctx c)
    grantAll (freeChan (dropWaiter (setThr s1 (.ctx c) { x with cut := if x.phase = .step then some n else none }) c) c.toNat)
/-- A cluster is fenced (R195): its channels abort without reports, the locks of its contexts break, and its buffers are lost. -/
def fenceCore (s : State) (n : Nat) : State :=
  let s1 := setCl s n { clOf s n with mode := .fenced, loadBufs := [], saveBufs := [], switch := none, dcache := [], icache := [], faultAt := some s.time.now }
  let l := homedOn s1 n
  let s2 := l.foldl fenceChan s1
  breakLocks s2 fun o => decide (o < 0x40000) && l.contains (BitVec.ofNat 18 o)
/-- The spare has no cluster to give to cluster n (R197). -/
def noSpare (s : State) (n : Nat) : State :=
  { s with eng := { s.eng with
      spareUnavail := true
      noSpareAt := if s.eng.noSpareAt.contains (BitVec.ofNat 6 n) then s.eng.noSpareAt else s.eng.noSpareAt ++ [BitVec.ofNat 6 n] } }
/-- A cluster fault (R195 to R197): the fence, and the spare's takeover or its want. -/
def fenceCluster (s : State) (n : Nat) : State :=
  if (clOf s n).mode = .fenced then s
  else
    let e := s.eng
    let s1 := fenceCore s n
    if n = 32 then
      if e.spareInUse then noSpare { s1 with eng := { s1.eng with spareInUse := false } } 32
      else if e.sparePending then noSpare { s1 with eng := { s1.eng with sparePending := false } } e.spareFor.toNat
      else { s1 with eng := { s1.eng with spareUnavail := true } }
    else if e.spareInUse ∨ e.sparePending ∨ e.spareUnavail then noSpare s1 n
    else { s1 with eng := { s1.eng with sparePending := true, spareFor := BitVec.ofNat 6 n } }
/-- A processor target moves to the next pair, which may wait in WFI already (R412, R417): the sources that it owns are PENDING again. -/
def moveTarget (s : State) (t : Nat) (p : BitVec 2) : State :=
  match nextPair s (p + 1) with
  | some q => let s1 := setTgt s t { tgtOf s t with deliv := q }; if tgtLoad s1 t = 0 then s1 else moderate s1 t
  | none => s
/-- The sources that a target owns become PENDING (R417). -/
def releaseOwned (s : State) (t : Nat) : State :=
  { s with evt := { s.evt with src := s.evt.src.map fun e =>
      if e.2.owner.toNat = t ∧ (e.2.st = .active ∨ e.2.st = .activePending) then (e.1, { e.2 with st := .pending, queued := false }) else e } }
/-- A lockstep pair is fenced (R462).
DEDUCED, unsafe (log 57). -/
def fencePair (s : State) (n : BitVec 2) : State :=
  let m := mpOf s n
  if m.fenced then s
  else
    let s1 := setThr (grantAll (freeChan (setMp s n { m with stopped := true, fenced := true, wfi := false }) (0x40000 + n.toNat))) (.mp n) {}
    let s2 := breakLocks s1 fun o => o = 0x40000 + n.toNat
    ((List.range 4).filter fun t => (tgtOf s2 t).deliv = n).foldl (fun s t => releaseOwned (moveTarget s t n) t) s2
/-- A pair is reset (R474): it starts at offset 0 of its memory at P2, or stays STOPPED when MAIN wrote none (R478); its locks break, its
watchdog stops (R466), and a fence stays. -/
def resetPair (s : State) (n : BitVec 2) : State :=
  let m := mpOf s n
  let run := bit s.boot.tcmWritten n.toNat && (s.boot.st == .run) && !m.fenced
  let isb := BitVec.ofNat 18 (fld (act s (aMPC + 0x100 * n.toNat + 4)) 7 11 * 128)
  let s1 := setMp s n { isp := isb, stopped := !run, fenced := m.fenced }
  let s2 := setThr (setSlotRegs s1 (0x40000 + n.toNat) (some { pc := 0x3000_0000, sr := 0x200 })) (.mp n) {}
  let s3 := breakLocks (grantAll (freeChan s2 (0x40000 + n.toNat))) fun o => o = 0x40000 + n.toNat
  { s3 with flt := { s3.flt with wd := sset {} s3.flt.wd n.toNat {} } }

/-! The latch (R456 to R461). -/
/-- An NMT reaction (R461): the request, or a chip reset when every pair is fenced; the flag asks for the reset. -/
def requestNmt (s : State) : State × Bool :=
  match nmtPair s with
  | some _ => ({ s with flt := { s.flt with nmtPend := true } }, false)
  | none => (s, true)
/-- The fixed action of a source (R457). -/
def fixedAction (s : State) (n : Nat) : State :=
  if n ≤ 0x20 then fenceCluster s n
  else if 0x40 ≤ n ∧ n ≤ 0x43 then fencePair s (BitVec.ofNat 2 n)
  else s
/-- A chip reset falls due for source n; the lowest-numbered source is recorded (R473). -/
def askReset (s : State) (n : Nat) : State :=
  let m := match s.flt.rstPend with | some p => Nat.min p.toNat n | none => n
  { s with flt := { s.flt with rstPend := some (BitVec.ofNat 9 m) } }
/-- The collector's report of a latch to the manager (R469). -/
def collectorReport (s : State) (n : Nat) (info : Word) : State :=
  let rpt := fld (act s aFLT) 4 3
  let cls := fltClass n
  if cls ≤ 2 ∧ rpt ≤ cls ∧ n ≠ 0x80 ∧ n ≠ 0x85 then reportFault s n cls (if n = 0x83 ∨ n = 0x84 then info else 0) else s
/-- Event source 0x500 + n follows the sticky bit of a source whose REACT includes IRQ (R404, R456). -/
def faultLevel (s : State) (n : Nat) : State := evLevel s (0x500 + n) (sticky s n && bit (BitVec.ofNat 5 (react s n)) 0) 0
/-- The reactions of a source but CHIPRST (R456). -/
def reactions (s : State) (n : Nat) : State :=
  let r := react s n
  let s1 := if bit (BitVec.ofNat 5 r) 0 then faultLevel s n else s
  let (s2, rst) := if bit (BitVec.ofNat 5 r) 1 then requestNmt s1 else (s1, false)
  let s3 := if bit (BitVec.ofNat 5 r) 2 ∧ 0x44 ≤ n ∧ n ≤ 0x4F then resetPair s2 (BitVec.ofNat 2 n) else s2
  if rst then askReset s3 n else s3
/-- Whether a source belongs to a block that is held in reset (R467): the clusters and the processors until boot is done (R478).
DEDUCED, unsafe (log 134). -/
def heldInReset (s : State) (n : Nat) : Bool := (s.boot.st == .boot) && decide (n ≤ 0x50)
/-- Whether a detection of a source latches (R458, R467, R470): a source that exists, of a block out of reset, whose sticky bit is 0. -/
def mayLatch (s : State) (n : Nat) : Bool := (faultSrc n).isSome && !sticky s n && !heldInReset s n
/-- The sticky bit of a source is set, and counted (R456, R460). -/
def setSticky (s : State) (n : Nat) : State :=
  bump { s with flt := { s.flt with
    sticky := s.flt.sticky ||| BitVec.ofNat 384 (2 ^ n), maxclass := BitVec.ofNat 3 (Nat.max s.flt.maxclass.toNat (fltClass n)) } } (aFLT + 0x18)
/-- Sources latch in one SAFE cycle, each with its information (R456 to R460, R464): an F4 source overrides everything else, and CHIPRST
the other reactions. While the F4 latch is set only the collector and its request act: the clocks of the rest are stopped, and a reset does not act. -/
def latchAll (s : State) (l : List (Nat × Word)) : State :=
  let new := (l.filter fun e => mayLatch s e.1).foldl (fun a e => if a.any fun d => d.1 = e.1 then a else a ++ [e]) []
  let has := fun (b : Nat) (e : Nat × Word) => bit (BitVec.ofNat 5 (react s e.1)) b
  let s1 := new.foldl (fun s e => setSticky s e.1) s
  if new.any fun e => fltClass e.1 = 4 then { s1 with flt := { s1.flt with f4 := true } }
  else if s.flt.f4 then (if new.any (has 1) then (requestNmt s1).1 else s1)
  else
    let s2 := new.foldl (fun s e => fixedAction s e.1) s1
    if new.any (has 3) then (new.filter (has 3)).foldl (fun s e => askReset s e.1) s2
    else new.foldl (fun s e => collectorReport (reactions s e.1) e.1 e.2) s2
/-- Source n latches alone. -/
def doLatch (s : State) (n : Nat) (info : Word) : State := latchAll s [(n, info)]

/-! References (R258, R468, R506). -/
/-- Whether a reference is present. -/
def refOk (s : State) (b : Bool) : Bool := if b then s.boot.refB else s.boot.refA
/-- The reference in service (R258, R280): the preferred one when present, else the other, else the last one.
DEDUCED, unsafe (log 51). -/
def pickRef (s : State) : State :=
  let p := bit (act s aTIMECFG) 1
  { s with time := { s.time with ref := if refOk s p then p else if refOk s (!p) then !p else s.time.ref } }
/-- A reference is lost (R468): ring time goes on with the other, or to HOLDOVER when there is none, with source 0x0A9. -/
def loseRef (s : State) (b : Bool) : State :=
  let s1 := pickRef (if b then { s with boot := { s.boot with refB := false } } else { s with boot := { s.boot with refA := false } })
  if refOk s1 (!b) then s1
  else
    let s2 := raise s1 0x0A9
    if s2.time.st = .sync then setTimeSt s2 .holdover else s2
/-- What a detection of a source shows elsewhere: a lost reference (R506). -/
def detected (s : State) (n : Nat) : State := if n = 0x0A7 ∧ s.boot.refA then loseRef s false else if n = 0x0A8 ∧ s.boot.refB then loseRef s true else s
/-- A reference returns (R506). -/
def doRefReturn (b : Bool) (s : State) : State :=
  pickRef (if b then { s with boot := { s.boot with refB := true } } else { s with boot := { s.boot with refA := true } })
/-- REFERENCE_CLOCK_RETURN -/
def execReferenceClockReturn (refB : Bool) (s : State) : Res := onSafe (doRefReturn refB) s

/-- The first detection of source n that a block has raised is taken; info is that of an external detection. -/
def takeDet (n : BitVec 9) : List (BitVec 9 × Word) → Word → Word × List (BitVec 9 × Word)
  | [], info => (info, [])
  | d :: ds, info => if d.1 = n then (d.2, ds) else let (i, r) := takeDet n ds info; (i, d :: r)
/-- Detections of a list of sources are taken from those that blocks have raised; the first source may bring information of its own. -/
def takeDets (s : State) : List (BitVec 9) → Word → State × List (Nat × Word)
  | [], _ => (s, [])
  | n :: ns, info =>
    let (i, r) := takeDet n s.flt.det info
    let (s1, l) := takeDets (detected { s with flt := { s.flt with det := r } } n.toNat) ns 0
    (s1, (n.toNat, i) :: l)
/-- Detections reach the collector in one SAFE cycle (R456, R458, R461). -/
def collect (n : BitVec 9) (d : FaultDet) (s : State) : State :=
  let (s1, l) := takeDets s (n :: d.also) d.info
  latchAll { s1 with flt := { s1.flt with held := d.held } } l

/-! Commands of the collector. -/
/-- FLT_FORCE with GO = 1 (R459). -/
def force (n : BitVec 9) (s : State) : State :=
  match faultSrc n.toNat with
  | none => setRsvd s
  | some (cls, _) => if cls = 4 ∧ !bit (act s aFLT) 8 then s else doLatch s n.toNat 0
/-- FLT_NMT_ACK (R461) -/
def nmtAck (v : Word) (s : State) : State := if bit v 0 then { s with flt := { s.flt with nmtPend := false } } else s
/-- FLT_LOCK (R4, R473) -/
def fltLockSet (v : Word) (s : State) : State := if bit v 0 then { s with flt := { s.flt with lock := true } } else s
/-- Whether the signal of a level source of the collector is still asserted (R458). DEDUCED, safe (log 124). -/
def stillAsserted (s : State) (n : Nat) : Bool :=
  (decide (n = 0xF0) && s.flt.safestate) || (decide (n = 0xA7) && !s.boot.refA) || (decide (n = 0xA8) && !s.boot.refB) ||
    (decide (n = 0xA9) && !s.boot.refA && !s.boot.refB) || (s.flt.held.any fun h => h.toNat = n)
/-- A sticky bit is cleared: its event level falls, and a source still asserted is detected again (R458). -/
def clearSticky (s : State) (n : Nat) : State :=
  if sticky s n then
    let s1 := { s with flt := { s.flt with sticky := s.flt.sticky &&& ~~~(BitVec.ofNat 384 (2 ^ n)) } }
    let s2 := faultLevel s1 n
    if stillAsserted s2 n then raise s2 n else s2
  else s
/-- A write of ones to FLT_STK_w (R4, R456, R460). -/
def stkClear (w : Nat) (v : Word) (s : State) : State :=
  if 12 ≤ w then s
  else
    let s1 := ((List.range 32).filter fun b => bit v b).foldl (fun s b => clearSticky s (32 * w + b)) s
    if s1.flt.sticky = 0 then { s1 with flt := { s1.flt with maxclass := 0 } } else s1
/-- A command register of the collector: it stays reachable through the debug port while the clocks are stopped (R464). -/
def onFlt (lvl : Lvl) (f : State → State) (s : State) : Res := onSafe (fun s => if mayLvl lvl 2 then f s else s) s
/-- FLT_NMT_ACK -/
def execFltNmtAck (lvl : Lvl) (v : Word) (s : State) : Res := onFlt lvl (withRsvd (aFLT + 0xC) v (nmtAck v)) s
/-- FLT_LOCK -/
def execFltLock (lvl : Lvl) (v : Word) (s : State) : Res := onFlt lvl (withRsvd (aFLT + 0x10) v (fltLockSet v)) s
/-- A write to FLT_STK_w -/
def execFltStkClear (lvl : Lvl) (w : BitVec 4) (v : Word) (s : State) : Res := onFlt lvl (stkClear w.toNat v) s

/-! Watchdogs (R466), in ring time. -/
/-- A watchdog. -/
def wdOf (s : State) (n : BitVec 2) : Wd := sget {} s.flt.wd n.toNat
/-- Writes a watchdog. -/
def setWd (s : State) (n : BitVec 2) (x : Wd) : State := { s with flt := { s.flt with wd := sset {} s.flt.wd n.toNat x } }
/-- TIMEOUT in ns -/ def wdTimeout (s : State) (n : BitVec 2) : Nat := fld (act s (aFLT + 0x20 + 8 * n.toNat)) 0 16 * 10000
/-- OPEN in ns; one that is not less than TIMEOUT acts as 0 -/
def wdOpen (s : State) (n : BitVec 2) : Nat :=
  let o := fld (act s (aFLT + 0x20 + 8 * n.toNat)) 16 16 * 10000
  if o < wdTimeout s n then o else 0
/-- FLT_WD_n_KICK; a kick exactly OPEN after the one before is neither more than OPEN nor earlier, and does nothing.
DEDUCED, unsafe (log 121). -/
def wdKick (n : BitVec 2) (s : State) : State :=
  let t := wdTimeout s n
  let x := wdOf s n
  let d := (s.time.now - x.kick).toNat
  if t = 0 then s
  else if !x.on then setWd s n { on := true, kick := s.time.now }
  else if wdOpen s n < d ∧ d ≤ t then setWd s n { x with kick := s.time.now }
  else if d = wdOpen s n then s
  else doLatch s (0x4C + n.toNat) 0
/-- No kick came within TIMEOUT.
DESIGN CHOICE, unsafe (log 13). -/
def wdExpire (n : BitVec 2) (s : State) : State :=
  let t := wdTimeout s n
  let x := wdOf s n
  if t = 0 ∨ !x.on then s else doLatch (atTime s (x.kick + BitVec.ofNat 64 t)) (0x4C + n.toNat) 0

/-! SAFESTATE_N (R465). -/
/-- SAFESTATE_N is seen asserted. -/
def safeOn (s : State) : State := if s.flt.safestate then s else doLatch { s with flt := { s.flt with safestate := true } } 0xF0 0
/-- SAFESTATE_N is seen high. -/
def safeOff (s : State) : State := { s with flt := { s.flt with safestate := false } }
/-- SAFESTATE_RELEASE -/
def execSafestateRelease (s : State) : Res := onSafe safeOff s

/-- The levels of the sources whose sticky bits are set (R404): after a reset that keeps the bits (R472), and when a landing changes REACT. -/
def faultLevels (s : State) : State := ((List.range 384).filter (sticky s)).foldl faultLevel s
/-- Whether the ring port transmitters are in electrical idle for want of clocks or by the F4 latch (R338, R464). -/
def ringIdle (s : State) : Bool := !clocksOn s
/-- Whether an interface keeps its DRAM in self-refresh (R437, R454, R464): while the clocks are stopped and, across a reset, until it is trained. -/
def selfRefresh (s : State) (i : Bool) : Bool := !clocksOn s || ((s.boot.st == .boot) && !(memIf s i).trained)
/-- FAULT_N is asserted (R463). -/
def faultN (s : State) : Bool := s.flt.f4 || (List.range 384).any fun n => sticky s n && bit (BitVec.ofNat 5 (react s n)) 4

end Sys2Proof.Machine
end

