-- ==== Sys2Proof/Machine/Rx.lean ====
section
/-! DEFINITION. Accepted messages of a session (R286, R290, R297, R300): how one is judged, and the order in which they are taken. -/
namespace Sys2Proof.Machine

/-- The big-endian field of a payload (R282). -/
def bFld (b : List Byte) (o n : Nat) : Nat := beNat (slice b o n)
/-- A sequenced TYPE of R286: whether host sessions carry it, whether peer sessions do, and from which version; none for a reserved TYPE. -/
def seqRow (typ : Nat) : Option (Bool × Bool × Nat) :=
  match typ with
  | 0x10 | 0x11 | 0x12 | 0x13 | 0x14 | 0x15 | 0x16 | 0x3F => some (true, true, 0x10)
  | 0x17 => some (true, false, 0x20)
  | 0x18 => some (true, false, 0x10)
  | 0x19 | 0x38 => some (true, true, 0x20)
  | 0x20 | 0x21 | 0x22 | 0x23 | 0x30 | 0x31 => some (false, true, 0x20)
  | _ => none
/-- Whether a message that passed the window arrives in the wrong direction (R286). -/
def wrongWay (s : State) (k : Nat) (m : RxMsg) : Bool :=
  match m.typ.toNat with
  | 0x17 | 0x18 => true
  | 0x20 | 0x21 | 0x23 => m.src != s.rm.mgr
  | 0x22 => s.rm.role != .manager
  | 0x11 => !(sessOf s k).reqs.contains (BitVec.ofNat 32 (bFld m.body 8 4), false)
  | 0x13 => !(sessOf s k).reqs.contains (BitVec.ofNat 32 (bFld m.body 0 4), true)
  | _ => false
/-- Whether the TYPE of a sequenced message is not one that its session carries (R286). -/
def typeBad (s : State) (k : Nat) (m : RxMsg) : Bool :=
  match seqRow m.typ.toNat with
  | none => true
  | some (h, p, v) => !(if k < 0x40 then h else p) || decide ((sessOf s k).ver.toNat < v) || wrongWay s k m
/-- Whether LEN does not fit the row of a sequenced TYPE, a count field disagrees with it, or LENGTH is out of range (R286, R287, R294). -/
def lenBad (ver : Byte) (m : RxMsg) : Bool :=
  let n := m.body.length
  match m.typ.toNat with
  | 0x10 =>
    let l := bFld m.body 8 4
    n != 12 || !(decide (1 ≤ l) && decide (l ≤ if ver.toNat < 0x11 then 8192 else 65536))
  | 0x11 => !decide (13 ≤ n ∧ n ≤ 8204)
  | 0x12 => !decide (9 ≤ n)
  | 0x13 | 0x19 => n != 8
  | 0x14 => n != 48
  | 0x15 => n != 4
  | 0x16 | 0x21 | 0x23 => n != 12
  | 0x20 => let c := bFld m.body 10 2; !decide (1 ≤ c ∧ c ≤ 1123 ∧ n = 12 + 8 * c)
  | 0x22 | 0x38 | 0x3F => n != 16
  | 0x30 => let c := bFld m.body 10 2; !decide (1 ≤ c ∧ c ≤ 561 ∧ n = 12 + 16 * c)
  | 0x31 => n != 20
  | _ => false
/-- Whether a TARGET names no local context (R237, R291). -/
def targetBad (s : State) (t : Nat) : Bool := decide (2 ^ 26 ≤ t) || !isLocal s (BitVec.ofNat 8 (t / 0x40000))
/-- Whether SPACE is reserved, or above the session's version (R288, R296). -/
def spaceBad (ver : Byte) (sp : Nat) : Bool := decide (4 < sp) || (decide (sp = 4) && decide (ver.toNat < 0x11))
/-- Whether a reserved field or encoding is not 0, or a field breaks its rule (R287 to R294). -/
def fieldBad (s : State) (ver : Byte) (m : RxMsg) : Bool :=
  let b := m.body
  let n := fun i => (byteAt b i).toNat
  (bit m.flags 1 && decide (ver.toNat < 0x20)) ||
  match m.typ.toNat with
  | 0x10 => n 1 != 0 || spaceBad ver (n 0) || (n 0 == 0 && !decide (bFld b 2 6 % 4 = 0 ∧ bFld b 8 4 % 4 = 0))
  | 0x11 => n 1 != 0 || decide (4 < n 0)
  | 0x12 =>
    decide ((if ver.toNat < 0x22 then 1 else 2) ≤ n 1) || spaceBad ver (n 0) || (n 0 == 0 && !decide (bFld b 2 6 % 4 = 0 ∧ b.length % 4 = 0))
  | 0x14 => targetBad s (bFld b 0 4) || bFld b 5 3 != 0 || !(n 4 == 3 || (n 4 == 1 && bFld b 16 32 == 0))
  | 0x15 => decide (0x1000_0000 ≤ bFld b 0 4) || bFld b 2 2 != 0
  | 0x16 => targetBad s (bFld b 0 4)
  | 0x19 => targetBad s (bFld b 0 4) || bFld b 4 4 == 0
  | 0x21 => n 11 != 0
  | 0x22 => !(n 10 == 1 || n 10 == 2) || decide (0xA ≤ n 11)
  | 0x31 => decide (1 < n 16) || bFld b 17 3 != 0
  | 0x38 => decide (4 < n 2) || n 3 != 0
  | 0x3F => bFld b 6 2 != 0 || n 4 == 0 || decide (0xC ≤ n 4)
  | _ => false
/-- The REASON with which a sequenced message is refused whatever the state of what it names: TYPE, LENGTH or FIELD (R286, R290).
DEDUCED, unsafe (log 82). -/
def badReason (s : State) (k : Nat) (m : RxMsg) : Option Byte :=
  let v := (sessOf s k).ver
  if typeBad s k m then some 4 else if lenBad v m then some 5 else if fieldBad s v m then some 6 else none
/-- Whether a request of a session is in progress in a mover channel (R521). -/
def sctBusy (s : State) (k : Nat) : Bool := s.mov.chans.any fun e => match e.2.req with | some (j, _) => j == k | none => false
/-- Whether a write of a session is in progress, or a request of it waits for a channel: no later request starts (R300). -/
def sctWriting (s : State) (k : Nat) : Bool :=
  s.mov.chans.any fun e => match e.2.req with | some (j, _) => j == k && (e.2.kind == .sctWrite || !e.2.granted) | none => false
/-- Refuses the messages at the head of a receive buffer that no command acts on, once the responses before theirs are sent (R286, R300). -/
def dropBadN : Nat → Nat → State → State
  | 0, _, s => s
  | n + 1, k, s =>
    match (sessOf s k).rxq with
    | [] => s
    | m :: r =>
      if sctBusy s k then s
      else match badReason s k m with
        | some c => dropBadN n k (nakSeq (setSess s k { sessOf s k with rxq := r }) k m.seq c m.typ)
        | none => s
/-- Refuses the messages at the head of a session's receive buffer that no command acts on.
DEDUCED, unsafe (log 81). -/
def dropBad (k : Nat) (s : State) : State := dropBadN (sessOf s k).rxq.length k s
/-- The message at the head of a session's receive buffer, when it has a type and may start, with the state after it is taken (R297, R300). -/
def takeRx (s : State) (k : Nat) (typ : Byte) : Option (RxMsg × State) :=
  match (sessOf s k).rxq with
  | m :: r => if m.typ = typ ∧ badReason s k m = none ∧ !sctWriting s k then some (m, setSess s k { sessOf s k with rxq := r }) else none
  | [] => none
/-- A command of the core that takes a message of a session: f, then the refusals that it brings to the head. -/
def onSess (k : Nat) (f : State → State) (s : State) : Res := onCore (fun s => dropBad k (f s)) s

end Sys2Proof.Machine
end

