-- ==== Sys2Proof/Machine/Lnd.lean ====
section
/-! DEFINITION. Commits and their judgement (R263 to R277): receipt, checks, cancel, copies, ring-wide commits and reverts; the CORE clock and
VID that follow a commit (R16, R501). The landing itself is in Landing. -/
namespace Sys2Proof.Machine

/-! Profiles, clock and VID (R12, R16, R500, R501). -/
/-- The CORE clock of a profile in 100 MHz (R12). -/
def profFreq (p : Nat) : Nat := match p with | 1 => 18 | 3 => 10 | _ => 16
/-- The pinned slots per cluster of a profile (R12). -/
def pinCount (p : Nat) : Nat := if p = 1 then 4 else 2
/-- GLB_PROFILE, STAGED -/ def stgProfile (s : State) : Nat := fld (stg s aPROFILE) 0 3
/-- Whether the STAGED bank changes the CORE frequency (R16). -/
def changesFreq (s : State) : Bool := profFreq (stgProfile s) != profFreq s.boot.profile.toNat
/-- The VID code of a profile (R500). -/
def vidCode (s : State) (p : Nat) : Nat :=
  let b := s.boot.otpBase.toNat
  Nat.min 8 (if p = 1 then b + 3 else if p = 3 then b - 4 else b)
/-- The receipt of a commit that changes the CORE frequency (R16, R501): the standby PLL starts to lock, and a higher code is driven. -/
def freqStart (s : State) : State :=
  if changesFreq s then
    { s with boot := { s.boot with
        stbyBusy := true, stbyLock := false, stbyFreq := profFreq (stgProfile s)
        vid := BitVec.ofNat 4 (Nat.max (vidCode s s.boot.profile.toNat) (vidCode s (stgProfile s))) } }
  else s
/-- A commit that does not land returns the code to that of the profile in force (R501). -/
def freqBack (s : State) : State := { s with boot := { s.boot with vid := BitVec.ofNat 4 (vidCode s s.boot.profile.toNat) } }
/-- The standby PLL is locked (R16). -/
def stbyLocked (s : State) : State := if s.boot.stbyBusy then { s with boot := { s.boot with stbyBusy := false, stbyLock := true } } else s
/-- STBY_PLL_LOCK -/
def execStbyPllLock (s : State) : Res := onCore stbyLocked s

/-! The checks of a commit (R15, R174, R263, R268, R273, R305). -/
/-- Whether the spare takes over at a landing that falls at a time (R196). -/
def spareDue (s : State) (t : DWord) : Bool :=
  s.eng.sparePending && match (clOf s s.eng.spareFor.toNat).faultAt with
    | some f => decide (f.toNat + 2000 ≤ t.toNat)
    | none => false
/-- The STAGED control words that are not 0, by context. -/
def stagedWords (s : State) : List (Nat × DWord) := (s.reg.tabS.takeWhile fun e => decide (e.1 < 0x400000)).map fun e => (e.1 / 16, e.2)
/-- The cluster of a STAGED HOME at a landing: 32 for the cluster that the spare takes over there (R196). -/
def homeAt (s : State) (t : DWord) (h : Nat) : Nat := if spareDue s t ∧ h = s.eng.spareFor.toNat then 32 else h
/-- Every STAGED control word satisfies p; one word stands for all that are 0. -/
def allWords (s : State) (p : Nat → DWord → Bool) : Bool :=
  (stagedWords s).all (fun e => p e.1 e.2) && (decide (0x40000 ≤ (stagedWords s).length) || p 0x40000 0)
/-- R15: the pinned contexts and home clusters fit the STAGED profile. -/
def profileOk (s : State) (t : DWord) : Bool :=
  let p := stgProfile s
  let homes := (stagedWords s).filterMap fun e => if bit e.2 10 then some (homeAt s t (fld e.2 4 6)) else none
  ((List.range 33).all fun c => decide ((homes.filter fun h => h = c).length ≤ pinCount p)) &&
    (decide (p ≠ 3) || allWords s fun _ w => let h := homeAt s t (fld w 4 6); !decide (16 ≤ h ∧ h ≤ 31))
/-- R174: no HOME on a spare that serves nobody, none on a fenced cluster, no PIN on a FREE context. -/
def contextsOk (s : State) (t : DWord) : Bool :=
  allWords s fun c w =>
    let h := homeAt s t (fld w 4 6)
    (if h = 32 then s.eng.spareInUse || spareDue s t else (clOf s h).mode != .fenced) &&
      (!bit w 10 || stOf s (BitVec.ofNat 18 c) != .free)
/-- R263: a landing does not move, and the STAGED guard fits the STAGED period. -/
def flightOk (s : State) (l : Nat) : Bool :=
  let p := (stg s aPERIOD).toNat
  let e := (stg s aEPOCHLO).toNat + (stg s aEPOCHHI).toNat * 2 ^ 32
  let g := (stg s aGUARD).toNat
  (decide (p = period s ∧ e = epoch s) || decide (BitVec.ofNat 64 (e + l * p) = lndTime s l)) && decide (2000 ≤ g ∧ g * 2 ≤ p)
/-- R273: the LANDSTAGE set that a ring commit names is whole. -/
def stageOk (s : State) (c : Commit) : Bool :=
  decide (c.cnt = 0) || match s.lnd.stage.find? fun x => x.lnd = c.tgt with
    | some x => decide (x.cnt = c.cnt) && !x.bad && (List.range c.cnt.toNat).all fun i => x.got.contains (BitVec.ofNat 8 i)
    | none => false
/-- A copy runs (R175, R252, R265). -/
def anyCopy (s : State) : Bool := s.gal.cctBusy || s.wq.copyBusy || s.lnd.syncBusy.isSome
/-- What a LANDREVERT finds in the tags of the device (R276): 1 swaps back, 2 retags, 0 does nothing.
DESIGN CHOICE, unsafe (log 148). -/
def revertRow (s : State) (prior : Half) (l : DWord) : Nat :=
  if s.lnd.tagA = prior + 1 ∧ s.lnd.landed = some l then 1 else if s.lnd.tagA = prior ∧ s.lnd.landed ≠ some l then 2 else 0
/-- The reason of the first check that a commit fails for landing l, 0 when it passes all (R268); judge adds the check that only the
judgement makes.
DESIGN CHOICE, unsafe (log 101). -/
def firstFail (s : State) (c : Commit) (l : Nat) (judge : Bool) : BitVec 4 :=
  let t := lndTime s l
  let due := (lndTime s c.tgt.toNat).toNat
  match c.revert with
  | some (p, r) => if revertRow s p r = 0 then 3 else if judge && anyCopy s then 6 else 0
  | none =>
    if due < c.rcv.toNat + (act s aGUARD).toNat then 1
    else if changesFreq s ∧ due < c.rcv.toNat + 50000 then 2
    else if c.seq ≠ s.lnd.tagA + 1 then 3
    else if !profileOk s t then 4
    else if !contextsOk s t then 5
    else if judge && anyCopy s then 6
    else if !flightOk s l then 7
    else if !stageOk s c then 8
    else if fld (stg s aSCT) 16 8 < fld (stg s aSCT) 24 8 then 9
    else 0
/-- A commit misses (R268). -/
def missCommit (s : State) (l : DWord) (reason : BitVec 4) : State :=
  let s1 := setIm (bump16 (freqBack s) aMISS) aLASTMISS (l.setWidth 32)
  evFire { s1 with lnd := { s1.lnd with last := 2, lreason := reason } } 0x491 (reason.setWidth 32)

/-! Receipt (R266, R267, R273, R277). -/
/-- The pending place is emptied: what was there is replaced or discarded and does not count as missed.
DEDUCED, unsafe (log 52). -/
def dropPend (s : State) : State := if s.lnd.pend.isSome then freqBack { s with lnd := { s.lnd with pend := none } } else s
/-- A COMMIT or LANDCOMMIT for the landing that LND_COMMIT_TGT names (R266, R267); answers the reason that it shows, 0 for ARMED. -/
def recvCommit (s : State) (seq : Half) (ring : Bool) (cnt : Byte) : State × BitVec 4 :=
  let s0 := dropPend { s with lnd := { s.lnd with wrdl := false, syncwr := false } }
  let d := (imr s aTGT - s.lnd.num.setWidth 32).toNat
  if d = 0 ∨ 2 ^ 31 ≤ d then (missCommit s0 ((imr s aTGT).setWidth 64) 1, 1)
  else
    let c : Commit := { tgt := s.lnd.num + BitVec.ofNat 64 d, seq := seq, ring := ring, rcv := s.time.now, cnt := cnt }
    let r := firstFail s0 c c.tgt.toNat false
    (freqStart { s0 with lnd := { s0.lnd with pend := some { c with preason := r } } }, r)
/-- LND_COMMIT OP COMMIT; ignored until boot is done (R478). -/
def commitReg (seq : Half) (s : State) : State := if running s then (recvCommit s seq false 0).1 else s
/-- LND_COMMIT OP CANCEL; ignored until boot is done (R478). -/
def cancelReg (s : State) : State := if running s then dropPend s else s
/-- COMMIT -/
def execCommit (lvl : Lvl) (seq : Half) (s : State) : Res := onReg lvl 2 (commitReg seq) s
/-- CANCEL -/
def execCancel (lvl : Lvl) (s : State) : Res := onReg lvl 2 cancelReg s
/-- The first landing from l on whose deadline is not yet past (R277).
DEDUCED, unsafe (log 52). -/
def revertAt (s : State) (l : Nat) : Nat :=
  let t := s.time.now + (act s aGUARD).setWidth 64
  if s.lnd.num.toNat < l ∧ t.toNat ≤ (lndTime s l).toNat then l
  else Nat.max (s.lnd.num.toNat + 1) ((sinceEpoch s t + period s - 1) / period s)
/-- A LANDREVERT with prior tag for landing l (R276, R277); answers the landing at which it acts and the reason that it shows.
DEDUCED, unsafe (log 52). -/
def recvRevert (s : State) (l : DWord) (prior : Half) : State × DWord × BitVec 4 :=
  let s0 := dropPend s
  let m := BitVec.ofNat 64 (revertAt s0 l.toNat)
  let c : Commit := { tgt := m, seq := prior + 2, ring := true, revert := some (prior, l - 1), rcv := s.time.now }
  let r := firstFail s0 c m.toNat false
  let s1 := { s0 with lnd := { s0.lnd with pend := some { c with preason := r } } }
  (if revertRow s0 prior (l - 1) = 1 then freqStart s1 else s1, m, r)

/-! Copies (R265). -/
/-- LND_SYNC: ALL tells the scope; ignored while a copy runs, and held in the judgement interval (R270). -/
def syncGo (all : Bool) (s : State) : State :=
  copyGo s (if all then 3 else 2) s.lnd.syncBusy.isSome fun s => { s with lnd := { s.lnd with syncBusy := some all } }
/-- LND_SYNC.REGS -/
def execLndSyncRegs (lvl : Lvl) (s : State) : Res := onReg lvl 2 (syncGo false) s
/-- LND_SYNC.ALL -/
def execLndSyncAll (lvl : Lvl) (s : State) : Res := onReg lvl 2 (syncGo true) s
/-- A copy under LND_SYNC ends: STAGED holds what ACTIVE holds. -/
def syncDone (s : State) : State :=
  match s.lnd.syncBusy with
  | none => s
  | some all =>
    let s0 := if all then dropCorr s 0x60_0000_0000 (8 * 14 * 0x1_0000) else s
    { s0 with lnd := { s0.lnd with syncBusy := none }, reg := { s0.reg with stg := s0.reg.act, tabS := if all then s0.reg.tabA else s0.reg.tabS } }
/-- LND_COPY_DONE -/
def execLndCopyDone (s : State) : Res := onCore syncDone s

/-! The judgement (R262, R268, R271). -/
/-- HOME n becomes 32 in a bank of the control table (R196). -/
def rehome (n : Nat) (bank : Sparse DWord) : Sparse DWord :=
  (List.range 0x40000).foldl (fun b i =>
    let w := sget 0 b (16 * i)
    if fld w 4 6 = n then sset 0 b (16 * i) (setFld w 4 6 32) else b) bank
/-- The landing that is judged next: the next one, or after a step forward the last one whose time has come (R271). -/
def judgeNum (s : State) : Nat :=
  let n := s.lnd.num.toNat + 1
  if timeGe s (lndTime s n) then lndAt s s.time.now else n
/-- The judgement cycle of a landing.
DESIGN CHOICE, unsafe (log 147). -/
def doJudge (s : State) : State :=
  if !running s ∨ s.lnd.judged.isSome then s
  else
    let n := judgeNum s
    let t := lndTime s n
    let s0 := if timeGe s t then s else atTime s (t - 512)
    let s1 := if spareDue s0 t then { s0 with reg := { s0.reg with tabS := rehome s0.eng.spareFor.toNat s0.reg.tabS } } else s0
    let l := BitVec.ofNat 64 n
    match s1.lnd.pend with
    | none => { s1 with lnd := { s1.lnd with judged := some (l, none) } }
    | some c =>
      if n < c.tgt.toNat then { s1 with lnd := { s1.lnd with judged := some (l, none) } }
      else
        let r := firstFail s1 c n true
        if c.revert.isSome ∧ r = 3 then { s1 with lnd := { s1.lnd with pend := none, judged := some (l, none) } }
        else if r = 0 then { s1 with lnd := { s1.lnd with pend := none, judged := some (l, some (c, 0)) } }
        else missCommit { s1 with lnd := { s1.lnd with pend := none, judged := some (l, some (c, r)) } } c.tgt r
/-- LANDING_JUDGEMENT -/
def execLandingJudgement (s : State) : Res := onCore doJudge s

/-! Ring-wide landings (R273 to R277). -/
/-- The payload of a LANDACK (R294). -/
def ackBody (s : State) (l : DWord) (seq : Half) (reason : BitVec 4) : List Byte :=
  beBytes 8 l.toNat ++ beBytes 2 seq.toNat ++ [if reason = 0 then 1 else 2, reason.setWidth 8] ++ beBytes 2 s.lnd.tagA.toNat ++
    beBytes 2 s.lnd.tagS.toNat
/-- LANDCOMMIT at a worker: it acts as the writes of R266 and is answered with LANDACK (R273, R274). -/
def doLandcommit (k : Nat) (s : State) : State :=
  match takeRx s k 0x21 with
  | none => s
  | some (m, s1) =>
    let l := BitVec.ofNat 64 (bFld m.body 0 8)
    let seq := BitVec.ofNat 16 (bFld m.body 8 2)
    let (s2, r) := recvCommit (setIm s1 aTGT (l.setWidth 32)) seq true (byteAt m.body 10)
    sessSend s2 k 0x22 (ackBody s2 l seq r)
/-- LANDCOMMIT -/
def execLandcommit (peer : Byte) (s : State) : Res := onSess (peerKey peer) (doLandcommit (peerKey peer)) s
/-- LANDREVERT at a worker, answered with LANDACK (R276, R277). -/
def doLandrevert (k : Nat) (s : State) : State :=
  match takeRx s k 0x23 with
  | none => s
  | some (m, s1) =>
    let prior := BitVec.ofNat 16 (bFld m.body 8 2)
    let (s2, at_, r) := recvRevert s1 (BitVec.ofNat 64 (bFld m.body 0 8)) prior
    sessSend s2 k 0x22 (ackBody s2 at_ (prior + 2) r)
/-- LANDREVERT -/
def execLandrevert (peer : Byte) (s : State) : Res := onSess (peerKey peer) (doLandrevert (peerKey peer)) s
/-- The present workers of the manager's ring table. -/
def workers (s : State) : List Byte := (s.rm.table.filter fun t => t.present && !t.host && t.addr != s.rm.addr).map fun t => t.addr
/-- Writes a view of a ring-wide landing: the views stand in the order of their landings. -/
def putView (v : RingView) : List RingView → List RingView
  | [] => [v]
  | w :: ws => if v.l = w.l then v :: ws else if v.l.toNat < w.l.toNat then v :: w :: ws else w :: putView v ws
/-- Sets a view of the manager. -/
def setView (s : State) (v : RingView) : State := { s with lnd := { s.lnd with ring := putView v s.lnd.ring } }
/-- The manager reverts a ring-wide landing (R275): LANDREVERT to every present worker, and its own revert.
DESIGN CHOICE, unsafe (log 97). -/
def revertRing (s : State) (v : RingView) : State :=
  let body := beBytes 8 (v.l + 1).toNat ++ beBytes 2 v.prior.toNat ++ beBytes 2 (v.prior + 2).toNat
  let s1 := (workers s).foldl (fun s a => sessSend s (peerKey a) 0x23 body) (setView s { v with due := true, rev := some (workers s) })
  (recvRevert s1 (v.l + 1) v.prior).1
/-- The ring-wide landings that the manager waits for (R275): those that a LANDACK has opened, and that of the commit of its own banks.
DESIGN CHOICE, unsafe (log 97). -/
def ringViews (s : State) : List RingView :=
  match s.lnd.pend with
  | some c => if c.revert.isNone ∧ !s.lnd.ring.any (fun v => v.l = c.tgt) then putView { l := c.tgt, prior := s.lnd.tagA } s.lnd.ring else s.lnd.ring
  | none => s.lnd.ring
/-- The deadline of a ring-wide landing at the manager (R275): the first that has not been judged.
DESIGN CHOICE, unsafe (log 13), DESIGN CHOICE, unsafe (log 97). -/
def doDeadline (s : State) : State :=
  match (ringViews s).find? fun v => !v.due && v.rev.isNone && decide (s.lnd.num.toNat < v.l.toNat) with
  | some v =>
    if s.rm.role = .manager then
      let s1 := atTime s (lndTime s v.l.toNat - (act s aGUARD).setWidth 64)
      if (workers s1).all fun a => v.acks.contains a then setView s1 { v with due := true } else revertRing s1 v
    else s
  | none => s
/-- LANDACK_DEADLINE -/
def execLandackDeadline (s : State) : Res := onCore doDeadline s
/-- A worker joins those that the manager has to restore (R359). -/
def mustRestore (s : State) (a : Byte) : State :=
  if s.rm.restore.contains a then s else { s with rm := { s.rm with restore := s.rm.restore ++ [a] } }
/-- A LANDACK at the manager (R274 to R276): that to a LANDREVERT is told by its revert tag, and one that a worker cannot follow puts the worker on the
list of those to restore (R359); the first for a landing opens it, and ARMED is noted.
DESIGN CHOICE, unsafe (log 97). -/
def doLandack (a : Byte) (s : State) : State :=
  match takeRx s (peerKey a) 0x22 with
  | none => s
  | some (m, s1) =>
    let l := BitVec.ofNat 64 (bFld m.body 0 8)
    let seq := BitVec.ofNat 16 (bFld m.body 8 2)
    let armed := decide (byteAt m.body 10 = 1)
    match s1.lnd.ring.find? fun v => decide (seq = v.prior + 2) && v.rev.any (·.contains a) with
    | some v =>
      let s2 := setView s1 { v with rev := v.rev.map (·.filter fun b => b ≠ a) }
      if armed then s2 else mustRestore s2 a
    | none =>
      match s1.lnd.ring.find? fun v => v.l = l with
      | some v => if seq = v.prior + 1 ∧ armed ∧ !v.acks.contains a then setView s1 { v with acks := v.acks ++ [a] } else s1
      | none => if s1.lnd.num.toNat < l.toNat then setView s1 { l := l, prior := seq - 1, acks := if armed then [a] else [] } else s1
/-- LANDACK -/
def execLandack (peer : Byte) (s : State) : Res := onSess (peerKey peer) (doLandack peer) s

end Sys2Proof.Machine
end

