-- ==== Sys2Proof/Machine/Image.lean ====
section
/-! DEFINITION. Flash images (R480 to R484, R488), key slots (R489) and image updates (R491, R492). -/
namespace Sys2Proof.Machine

/-- An image as its bytes by offset. -/
abbrev Img := Nat → Byte
/-- n bytes of an image from an offset. -/
def imgBytes (g : Img) (o n : Nat) : List Byte := (List.range n).map fun i => g (o + i)
/-- A little-endian field of an image. -/
def imgFld (g : Img) (o n : Nat) : Nat := leNat (imgBytes g o n)
/-- A segment entry (R482). -/
structure Seg where
  typ : Nat
  ofs : Nat
  len : Nat
  crc : Nat
deriving DecidableEq, Repr

/-- SLOT_SIZE in bytes (R480, R497). -/
def slotSize (s : State) : Nat := (s.boot.otpSlot.toNat + 1) * 0x10_0000
/-- The device address of slot n: primary A, primary B, recovery A, recovery B (R24, R480). -/
def slotBase (s : State) (n : Nat) : Nat := 0x20_0000_0000 + n / 2 * 0x2000_0000 + n % 2 * slotSize s
/-- The bytes of a slot in flash. -/
def slotImg (s : State) (n : Nat) : Img := fun o => memGet s (slotBase s n + o)
/-- NSEG -/ def imgNseg (g : Img) : Nat := imgFld g 0x14 1
/-- SEQ -/ def imgSeq (g : Img) : Word := BitVec.ofNat 32 (imgFld g 8 4)
/-- LENGTH -/ def imgLen (g : Img) : Nat := imgFld g 0xC 4
/-- The segment entries of an image, in table order. -/
def imgSegs (g : Img) : List Seg :=
  (List.range (imgNseg g)).map fun i =>
    let o := 0x20 + 16 * i
    { typ := imgFld g o 1, ofs := imgFld g (o + 4) 4, len := imgFld g (o + 8) 4, crc := imgFld g (o + 12) 4 }
/-- The segment of a type. -/
def imgSeg (g : Img) (t : Nat) : Option Seg := (imgSegs g).find? fun e => e.typ = t
/-- The bytes of a segment. -/
def segBytes (g : Img) (e : Seg) : List Byte := imgBytes g e.ofs e.len
/-- The header with HCRC read as 0 (R481). -/
def hdrForCrc (g : Img) : List Byte := imgBytes g 0 0x10 ++ [0, 0, 0, 0] ++ imgBytes g 0x14 0xEC
/-- The segment entries keep R482 and R483: alignment, place, types, sizes (R478) and no overlap. -/
def segsOk (g : Img) (l : List Seg) : Bool :=
  (l.all fun e =>
    decide (e.ofs % 256 = 0 ∧ 256 ≤ e.ofs ∧ e.len ≠ 0 ∧ e.ofs + e.len ≤ imgLen g) && decide (1 ≤ e.typ ∧ e.typ ≤ 5) &&
      (decide (e.typ ≤ 3) || decide (imgFld g 4 2 = 2)) && decide ((l.filter fun d => d.typ = e.typ).length = 1) &&
      (decide (e.typ ≠ 1) || decide (e.len ≤ 0x1_0000)) && (decide (e.typ ≠ 2) || decide (e.len ≤ 0x10_0000)) &&
      l.all fun d => decide (d = e) || decide (d.ofs + d.len ≤ e.ofs ∨ e.ofs + e.len ≤ d.ofs)) &&
    l.any fun e => e.typ = 2
/-- The header of an image is correct (R481, R483). -/
def headerOk (s : State) (g : Img) : Bool :=
  let n := imgNseg g
  decide (imgFld g 0 4 = 0x5449_5254) && decide (imgFld g 4 2 = 1 ∨ imgFld g 4 2 = 2) && decide (imgFld g 6 2 = 0) &&
    decide (crc32c (hdrForCrc g) = imgFld g 0x10 4) && decide (1 ≤ n ∧ n ≤ 8) && decide (imgFld g 0x15 11 = 0) &&
    ((List.range n).all fun i => decide (imgFld g (0x21 + 16 * i) 3 = 0)) && decide (imgFld g (0x20 + 16 * n) (0xE0 - 16 * n) = 0) &&
    decide (imgLen g ≤ slotSize s) && segsOk g (imgSegs g)
/-- The signature segment verifies (R488). -/
def signatureOk (s : State) (g : Img) : Bool :=
  match imgSeg g 5 with
  | none => false
  | some e =>
    let b := segBytes g e
    let k := (byteAt b 0).toNat
    let pub := slice b 8 0x61
    decide (imgFld g 4 2 = 2) && decide (k < 4) && bit s.boot.prog k && !bit s.boot.revoked k &&
      decide ((beNat (Config.sha384 pub)) % 2 ^ 384 = (sget 0 s.boot.keys k).toNat) &&
      Config.ecdsaVerifies pub (b.take 0x70 ++ b.drop 0xD0) (slice b 0x70 0x60) &&
      decide (slice b 0xD0 48 = Config.sha384 (imgBytes g 0 256))
/-- The CRC of the SIGNATURE segment holds (R483). -/
def signatureCrc (g : Img) : Bool := match imgSeg g 5 with | some e => decide (crc32c (segBytes g e) = e.crc) | none => true
/-- An image is valid (R483). -/
def imgValid (s : State) (g : Img) : Bool := headerOk s g && (!s.boot.secure || (signatureCrc g && signatureOk s g))
/-- A slot that the boot sequence may choose: one whose SIGNATURE segment breaks its CRC is found out when that segment is read (R485).
DEDUCED, unsafe (log 26). -/
def imgTried (s : State) (g : Img) : Bool := headerOk s g && (!s.boot.secure || !signatureCrc g || signatureOk s g)
/-- The place of a segment among those that carry a digest (R488).
DEDUCED, unsafe (log 54). -/
def digestIndex (g : Img) (e : Seg) : Nat := ((imgSegs g).filter fun d => d.typ ≠ 5).findIdx fun d => d = e
/-- The CRC and, in secure boot, the digest of a segment hold (R483, R488).
DEDUCED, unsafe (log 54). -/
def segGood (s : State) (g : Img) (e : Seg) : Bool :=
  decide (crc32c (segBytes g e) = e.crc) && (!s.boot.secure || decide (e.typ = 5) ||
    match imgSeg g 5 with
    | some d => decide (slice (segBytes g d) (0x100 + 48 * digestIndex g e) 48 = Config.sha384 (segBytes g e))
    | none => false)
/-- The slot of a pair to boot (R484): the valid one, of two the greater SEQ; ok tells which may be chosen. -/
def pickSlot (s : State) (a : Nat) (ok : Nat → Bool) : Option Nat :=
  match ok a, ok (a + 1) with
  | true, true =>
    let d := (imgSeq (slotImg s (a + 1)) - imgSeq (slotImg s a)).toNat
    some (if 0 < d ∧ d < 2 ^ 31 then a + 1 else a)
  | true, false => some a
  | false, true => some (a + 1)
  | false, false => none

/-! Updates (R491, R492). -/
/-- RESULT of an update. -/
def updResult (s : State) (r : BitVec 3) : State := { s with boot := { s.boot with updRes := r } }
/-- BOOT_UPD_CMD.GO (R491) -/
def updGo (slotB recovery : Bool) (s : State) : State :=
  let n := 2 * b2n recovery + b2n slotB
  let src := (imr s 0x010010).toNat + (imr s 0x010014).toNat * 2 ^ 32
  let len := (imr s 0x010018).toNat
  if s.boot.upd.isSome then updResult s 5
  else if !s.boot.maint ∧ s.boot.slot.toNat = n then updResult s 3
  else match rdBytes s .sct src len with
    | none => updResult s 1
    | some b =>
      let g : Img := byteAt b
      if !imgValid s g ∨ len < imgLen g then updResult s 1
      else if !s.boot.maint ∧ imgSeq g ≠ s.boot.seq + 1 then updResult s 2
      else { s with boot := { s.boot with upd := some { slot := BitVec.ofNat 2 n, img := b.take (imgLen g) } } }
/-- A slot is erased.
DEDUCED, unsafe (log 27). -/
def eraseSlot (s : State) (n : Nat) : State :=
  let b := slotBase s n
  { s with mem := s.mem.filter fun e => !(decide (b ≤ e.1 ∧ e.1 < b + slotSize s)) }
/-- Programs bytes into flash from an address. -/
def programFlash : Nat → List Byte → State → State
  | _, [], s => s
  | a, b :: bs, s => programFlash (a + 1) bs (memSet s a b)
/-- The update ends (R491): the slot is erased and programmed, the header last; a flash that fails leaves no header (R492). -/
def updDone (flashGood : Bool) (s : State) : State :=
  match s.boot.upd with
  | none => s
  | some u =>
    let n := u.slot.toNat
    let b := slotBase s n
    let s1 := programFlash (b + 256) (u.img.drop 256) (eraseSlot { s with boot := { s.boot with upd := none } } n)
    if flashGood then
      let s2 := programFlash b (u.img.take 256) s1
      updResult s2 (if headerOk s2 (slotImg s2 n) && (imgSegs (slotImg s2 n)).all fun e => decide (crc32c (segBytes (slotImg s2 n) e) = e.crc) then 0 else 4)
    else updResult s1 4
/-- BOOT_UPD_CMD -/
def execBootUpdCmdGo (lvl : Lvl) (slotB : Bool) (recovery : Bool) (s : State) : Res := onReg lvl 2 (updGo slotB recovery) s
/-- UPDATE_DONE -/
def execUpdateDone (flashGood : Bool) (s : State) : Res := onCore (updDone flashGood) s

/-! Key slots (R489). -/
/-- The key hash that BOOT_KEY_DATA holds, word 0 least significant.
DEDUCED, unsafe (log 54). -/
def keyData (s : State) : BitVec 384 :=
  BitVec.ofNat 384 ((List.range 12).foldl (fun v w => v + (imr s (0x010040 + 4 * w)).toNat * 2 ^ (32 * w)) 0)
/-- A command on the fuses: REFUSED, or its effect. -/
def keyCmd (refuse : Bool) (f : Boot → Boot) (s : State) : State :=
  if refuse then { s with boot := { s.boot with keyRefused := true } } else { s with boot := f { s.boot with keyRefused := false } }
/-- PROGRAM -/
def keyProgram (k : BitVec 2) (s : State) : State :=
  keyCmd (bit s.boot.prog k.toNat)
    (fun b => { b with prog := b.prog ||| BitVec.ofNat 4 (2 ^ k.toNat), keys := sset 0 b.keys k.toNat (keyData s) }) s
/-- REVOKE -/
def keyRevoke (k : BitVec 2) (s : State) : State :=
  let r := s.boot.revoked ||| BitVec.ofNat 4 (2 ^ k.toNat)
  keyCmd (decide (s.boot.prog &&& ~~~r = 0)) (fun b => { b with revoked := r }) s
/-- FUSE_SECURE -/
def fuseSecure (s : State) : State := keyCmd (decide (s.boot.prog &&& ~~~s.boot.revoked = 0)) (fun b => { b with secure := true }) s
/-- PROGRAM -/
def execProgram (lvl : Lvl) (k : BitVec 2) (s : State) : Res := onReg lvl 2 (keyProgram k) s
/-- REVOKE -/
def execRevoke (lvl : Lvl) (k : BitVec 2) (s : State) : Res := onReg lvl 2 (keyRevoke k) s
/-- FUSE_SECURE -/
def execFuseSecure (lvl : Lvl) (s : State) : Res := onReg lvl 2 fuseSecure s

end Sys2Proof.Machine
end

