-- ==== Sys2Proof/Machine/Hub.lean ====
section
/-! DEFINITION. Register space (R3 to R7, R24 to R30, R134): what every register reads, and what a write does at each level. -/
namespace Sys2Proof.Machine

/-! Views: what status registers read. -/
/-- A word of a flag list: bit i for the i-th flag. -/
def flagWord (l : List Bool) : Nat := l.foldr (fun b n => b2n b + 2 * n) 0
/-- GLB_STATE.STATE (R496); STANDBY and OFF are not readable and read as the entry. -/
def stateCode : PwrState → Nat
  | .boot => 0 | .run => 1 | .maint => 2 | .stbyEntry => 3 | .resume => 4 | .standby => 3 | .off => 3 | .lost => 0
/-- GLB (R19, R495, R496). -/
def viewGlb (s : State) (o : Nat) : Nat :=
  let b := s.boot
  match o with
  | 0x00 => 0x284000A1
  | 0x04 => b.lot.toNat % 2 ^ 32
  | 0x08 => b.lot.toNat / 2 ^ 32
  | 0x0C => b.wafer.toNat + 0x100 * b.fab.toNat + 0x10000 * b.testrev.toNat
  | 0x10 => b.dieX.toNat + 0x100 * b.dieY.toNat
  | 0x14 => b.uid.toNat % 2 ^ 32
  | 0x18 => b.uid.toNat / 2 ^ 32
  | 0x24 =>
    b.profile.toNat + 8 * b2n b.pll + 16 * b2n (b.stbyLock && decide (b.stbyFreq = profFreq (stgProfile s))) + 32 * b2n b.stbyBusy
  | 0x28 => b.straps.toNat
  | 0x2C => stateCode b.st + 8 * b2n b.swrst + 16 * b2n b.secure
  | 0x30 => b2n s.reg.rsvd
  | _ => 0
/-- BOOT (R497). -/
def viewBoot (s : State) (o : Nat) : Nat :=
  let b := s.boot
  match o with
  | 0x00 => b.slot.toNat + 4 * b2n b.maint + 16 * b.failmask.toNat + 256 * b2n b.signed
  | 0x04 => b.seq.toNat
  | 0x08 => b.otpSlot.toNat
  | 0x0C => b.tdone.toNat
  | 0x20 => b2n b.upd.isSome + 2 * b.updRes.toNat
  | 0x34 => b.prog.toNat + 16 * b.revoked.toNat + 256 * b2n b.keyRefused
  | _ => 0
/-- CLK_STS (R498): every lock shows while the clocks run. -/
def viewClk (s : State) (o : Nat) : Nat := if o = 8 then b2n s.boot.refA + 2 * b2n s.boot.refB + (if clocksOn s then 0xFC else 0) else 0
/-- PEND and PREASON, RING and PSEQ of the commit that is pending or judged (R268, R277). -/
def shownCommit (s : State) : Option Commit :=
  match s.lnd.pend, s.lnd.judged with
  | some c, _ => some c
  | none, some (_, some (c, 0)) => some { c with preason := 0 }
  | none, _ => none
/-- LND_STS (R280). -/
def lndSts (s : State) : Nat :=
  let l := s.lnd
  let p := match shownCommit s with
    | some c => (if c.preason = 0 then 1 else 2) + 4 * c.preason.toNat + 0x2000 * b2n c.ring + 0x10000 * c.seq.toNat
    | none => 0
  p + 0x40 * l.last.toNat + 0x100 * l.lreason.toNat + 0x1000 * b2n l.wrdl + 0x4000 * b2n l.syncwr
/-- TIME (R260, R280); the snapshot words are kept as they were filled. -/
def viewTime (s : State) (o : Nat) : Nat :=
  match o with
  | 0x04 => (match s.time.st with | .freerun => 0 | .sync => 1 | .holdover => 2) + 4 * b2n s.time.ref + 8 * b2n (s.time.slew != 0)
  | 0x10 => s.time.now.toNat % 2 ^ 32
  | 0x50 => s.lnd.num.toNat % 2 ^ 32
  | 0x6C => s.lnd.tagA.toNat + 0x10000 * s.lnd.tagS.toNat
  | 0x70 => lndSts s
  | 0x74 => match shownCommit s with | some c => c.tgt.toNat % 2 ^ 32 | none => 0
  | 0x84 => b2n s.lnd.syncBusy.isSome
  | o => (imr s (0x030000 + o)).toNat
/-- CT_ACT (R321, R336): whether the first three conditions of R321 hold for frames that a port receives, once the port has left reset.
DEDUCED, safe (log 113). -/
def ctAct (s : State) (b : Bool) : Bool :=
  (s.boot.st != .off && (s.boot.st != .boot || (portOf s b).link != 0)) && bit (act s (aPort b)) 6 && decide (s.boot.profile ≠ 2) && decide (portRate s (!b) ≤ portRate s b)
/-- BUSY and REFUSED of an access port. -/
def accSts (s : State) (a : AccPort) : Nat := b2n (accBusy s a) + 2 * b2n (accRefused s a)
/-- PA and PB (R336). -/
def viewPort (s : State) (b : Bool) (o : Nat) : Nat :=
  let p := portOf s b
  match o with
  | 0x08 => enCode p.st + 4 * b2n p.enPend + 8 * p.link.toNat + 0x40 * b2n p.rtrReq + 0x80 * b2n p.rtrWait + 0x100 * b2n (ctAct s b)
  | 0x3C => flagWord [p.ascap, p.pdlyValid, p.ofsErr, p.sync0, p.sync1] + 0x100 * p.pdlyMiss.toNat
  | 0x8C => p.vstat.toNat + 8 * b2n (preActive s b)
  | 0xB0 => accSts s (portAcc b)
  | 0xC4 => p.mrxHead.toNat
  | 0xD0 => b2n p.mtxBusy.isSome + 2 * b2n p.mtxRefused
  | o => (imr s (aPort b + o)).toNat
/-- RM_STS.ROLE (R371). -/
def roleNo : Role → Nat
  | .unaddressed => 0 | .worker => 1 | .standby => 2 | .manager => 3 | .segManager => 4 | .detached => 5
/-- The place of a station in the ring table as RM_RT shows it (R371): its position in the port A direction; those placed from port B follow the last of
these.
DEDUCED, unsafe (log 136). -/
def rtPlace (l : List Station) (t : Station) : Nat :=
  let top := ((l.filter fun x => x.pos < 128).map (·.pos)).foldl Nat.max 0
  let low := ((l.filter fun x => 128 ≤ x.pos).map (·.pos)).foldl Nat.min 256
  if t.pos < 128 then t.pos else top + 1 + (t.pos - low)
/-- Bits for the present stations of an address range. -/
def presentBits (s : State) (a n : Nat) : Nat := flagWord ((List.range n).map fun i => present s (BitVec.ofNat 8 (a + i)))
/-- SCT and ring management (R305, R371). -/
def viewSct (s : State) (o : Nat) : Nat :=
  let r := s.rm
  let opens := fun k => flagWord ((List.range 32).map fun i => isOpen s (k + i))
  match o with
  | 0x34 =>
    let x := sessOf s s.sct.cmdSess.toNat
    s.sct.cmdSess.toNat + 0x40 * (match x.st with | .closed => 0 | .opened => 1 | .failed => 2) + 0x100 * x.ver.toNat + 0x10000 * x.host.toNat +
      0x1000000 * x.win.toNat
  | 0x38 => opens 0
  | 0x3C => opens 32
  | 0x410 =>
    r.addr.toNat + 0x100 * roleNo r.role + 0x800 * b2n (pairAuth s) + 0x1000 * r.straps.toNat + 0x4000 * b2n (r.straps == 3) +
      0x8000 * b2n r.enumOn + 0x10000 * flagWord [r.ofsErr, r.tagref, r.ptDup, r.ptVer] + 0x1000000 * r.mgr.toNat
  | 0x414 => r.mseq.toNat % 2 ^ 32
  | 0x418 => r.mseq.toNat / 2 ^ 32
  | 0x420 => presentBits s 0x01 32
  | 0x424 => presentBits s 0x21 16 + 0x10000 * presentBits s 0xE0 8
  | 0x464 => accSts s .rm
  | o =>
    if 0x500 ≤ o then
      match r.table.find? fun t => decide (t.addr ≠ 0) && decide (rtPlace (r.table.filter fun t => t.addr ≠ 0) t = (o - 0x500) / 4) with
      | some t => t.addr.toNat + 0x100 * b2n t.present + 0x200 * b2n t.host + 0x400 * t.cls.toNat + 0x1000 * t.prio.toNat
      | none => 0
    else (imr s (aSCT + o)).toNat
/-- The occupied thread slots of a cluster. -/
def slotsUsed (s : State) (c : Nat) : Nat := (s.eng.occ.filter fun e => decide (e.1 / 16 = c) && e.2.isSome).length
/-- ENG (R204). -/
def viewEng (s : State) (o : Nat) : Nat :=
  let e := s.eng
  if o ≤ 0x80 then
    let c := o / 4
    let x := clOf s c
    (match x.mode with | .active => 0 | .frugal => 1 | .fenced => 2 | .standby => 3) + 4 * x.serves.toNat + 0x100 * slotsUsed s c +
      0x2000 * ((homedOn s c).filter fun i => pinOf s i).length
  else match o with
    | 0x90 => flagWord [e.sparePending, e.spareInUse, e.spareUnavail] + 0x100 * e.spareFor.toNat
    | 0x308 => b2n e.invBusy
    | o => (imr s (aENG + o)).toNat
/-- GAL (R203). -/
def viewGal (s : State) (o : Nat) : Nat :=
  match o with
  | 0x14 => accSts s .gal + 4 * b2n s.reg.accEcc
  | 0x24 => (imr s (aGAL + 0x24)).toNat + 0x200000 * b2n s.gal.cmdBusy.isSome
  | 0x34 => b2n s.gal.cctBusy
  | 0x40 => 0x40000 - (s.gal.live.filter fun e => e.2.st ≠ .free).length
  | 0x44 => (s.gal.live.filter fun e => e.2.st = .halted).length
  | o => if 0x4000 ≤ o then (lockOf s ((o - 0x4000) / 4)).toNat else (imr s (aGAL + o)).toNat
/-- MOV (R232). -/
def viewMov (s : State) (o : Nat) : Nat :=
  let m := s.mov
  match o with
  | 0x04 =>
    (m.chans.filter fun e => e.2.granted).length + 0x10000 * Nat.min 64 (m.chans.filter fun e => !onPortMover e.2 && keepsMover s e.1 e.2).length +
      2 ^ 31 * b2n m.bulkPaused
  | 0x14 =>
    let c := m.cmdCtx
    let x := chstOf s c
    c.toNat + 0x40000 * enCode x.en + 0x100000 * b2n x.enPend + 0x200000 * b2n x.paused + 0x400000 * b2n (inFlight s c) +
      0x800000 * b2n (timedOf s c) + 0x1000000 * b2n m.cmdBusy + 0x2000000 * m.cmdRes.toNat
  | o => if 0x10C ≤ o then sget 0x4000 m.cred ((o - 0x104) / 8) else (imr s (aMOV + o)).toNat
/-- WQ (R256).
DEDUCED, unsafe (log 144). -/
def viewWq (s : State) (o : Nat) : Nat :=
  let w := s.wq
  match o with
  | 0x08 => let x := wqOf s w.cmdQ; w.cmdQ.toNat + 0x1000 * enCode x.st + 0x4000 * b2n x.enPend + 0x8000 * b2n w.cmdRefused
  | 0x24 => accSts s .wq
  | 0x34 => b2n w.copyBusy
  | 0x40 => (w.q.filter fun e => e.2.st = .active).length
  | 0x44 => (w.q.filter fun e => e.2.st = .error).length
  | o => (imr s (aWQ + o)).toNat
/-- The lines of a target, or for a host target the groups with unsent records (R423). -/
def tgtLines (s : State) (t : Nat) : Nat :=
  flagWord ((List.range 8).map fun g =>
    if t < 4 then !s.evt.hold && (tgtOf s t).released && !(evQ s t g).recs.isEmpty else (evQ s t g).recs.any fun r => !r.sent)
/-- The highest running priority that a target owns (R416). -/
def tgtRun (s : State) (t : Nat) : Nat :=
  s.evt.src.foldl (fun m e =>
    if e.2.owner.toNat = t ∧ (e.2.st = .active ∨ e.2.st = .activePending) then Nat.max m e.2.runprio.toNat else m) 0
/-- EVT (R423, R424). -/
def viewEvt (s : State) (o : Nat) : Nat :=
  let e := s.evt
  match o with
  | 0x14 => b2n e.hold + 2 * b2n e.eoiBad + 4 * Nat.min 2047 (e.src.filter fun x => x.2.st = .pending).length
  | 0x40 => accSts s .evt
  | 0x884 => e.wkSlot.toNat + 32 * b2n e.wkValid
  | o =>
    if 0x100 ≤ o ∧ o < 0x600 ∧ o % 0x40 = 8 then
      let t := (o - 0x100) / 0x40
      let x := tgtOf s t
      tgtLines s t + 0x100 * x.deliv.toNat + 0x400 * b2n x.idle + 0x10000 * tgtRun s t
    else (imr s (aEVT + o)).toNat
/-- ARB (R436). -/
def viewArb (s : State) (o : Nat) : Nat :=
  if o = 0x480 then s.arb.dup.toNat else if o % 0x80 = 0x38 then (arbSts s (o / 0x80)).toNat else (imr s (aARB + o)).toNat
/-- The status byte of an interface (R455). -/
def ifSts (x : MemIf) : Nat := flagWord [x.trained, x.stale, x.retraining, x.wait, x.failed]
/-- MEM (R446, R455). -/
def viewMem (s : State) (o : Nat) : Nat :=
  let m := s.memc
  let e : LogEnt := sget {} m.log ((imr s (aMEM + 0x40)).toNat % 256)
  match o with
  | 0x14 => ifSts m.i0 + 0x100 * ifSts m.i1 + 0x10000 * b2n m.capMis + 0x20000 * m.capUsed.toNat
  | 0x18 => m.i0.temp.toNat + 0x100 * m.i0.ttrain.toNat + 0x10000 * m.i1.temp.toNat + 0x1000000 * m.i1.ttrain.toNat
  | 0x30 => m.widx.toNat
  | 0x44 => e.addr.toNat % 2 ^ 32
  | 0x48 => e.addr.toNat / 2 ^ 32 + 0x10000 * e.memid.toNat + 0x100000 * e.typ.toNat + 0x1000000 * e.syn.toNat
  | 0x4C => e.time.toNat % 2 ^ 32
  | 0x50 => e.time.toNat / 2 ^ 32
  | 0x64 => b2n m.retBusy.isSome + 2 * b2n m.retRefused + 4 * m.i0.ret.length + 0x2000 * m.i1.ret.length
  | 0x6C =>
    let v := (imr s (aMEM + 0x68)).toNat
    match (memIf s (decide (v / 1024 % 2 = 1))).ret[v % 1024]? with
    | some p => p + 2 ^ 31
    | none => 0
  | 0x74 => flagWord [m.growBusy.isSome, m.growRefused, m.growOut, m.growLoss] + 16 * sget 0 m.spares m.growBank.toNat
  | o =>
    if 0x200 ≤ o then
      let k := o - 0x200
      sget 0 m.spares k + 0x100 * sget 0 m.spares (k + 1) + 0x10000 * sget 0 m.spares (k + 2) + 0x1000000 * sget 0 m.spares (k + 3)
    else (imr s (aMEM + o)).toNat
/-- FLT (R473). -/
def viewFlt (s : State) (o : Nat) : Nat :=
  let f := s.flt
  match o with
  | 0x04 =>
    f.maxclass.toNat + 8 * flagWord [f.f4, faultN s, f.safestate, f.nmtPend] + 0x100 * (match nmtPair s with | some n => n.toNat | none => 0) +
      0x400 * b2n f.lockwr
  | 0x10 => b2n f.lock
  | 0x14 => f.cause.toNat + 0x10000 * f.causeSrc.toNat
  | o => if 0x100 ≤ o ∧ o < 0x130 then (f.sticky.toNat >>> (8 * (o - 0x100))) % 2 ^ 32 else (imr s (aFLT + o)).toNat
/-- DPT (R401). -/
def viewDpt (s : State) (o : Nat) : Nat :=
  if o = 0x20 then accSts s .dpt
  else if 0x1000 ≤ o ∧ o % 0x40 = 8 then
    let x := unitOf s ((o - 0x1000) / 0x40)
    enCode x.st + 4 * b2n x.enPend + 8 * b2n x.attn + 16 * x.code.toNat + 0x200 * b2n x.refused + 0x10000 * txUsed x +
      0x200000 * Nat.min 63 x.rx.length
  else (imr s (aDPT + o)).toNat
/-- MPC (R168). -/
def viewMpc (s : State) (o : Nat) : Nat :=
  let n := BitVec.ofNat 2 (o / 0x100)
  let m := mpOf s n
  match o % 0x100 with
  | 0x0C => m.isp.toNat
  | 0x14 => flagWord ((List.range 8).map (mpLine s n)) + 0x100 * b2n (s.flt.nmtPend && nmtPair s == some n)
  | 0x18 => m.lvl.toNat + 16 * m.depth.toNat
  | 0x1C => flagWord [m.stopped, m.double, m.istack, m.fenced]
  | _ => 0
/-- What a status or acknowledgement register reads, by block (R30). -/
def view (s : State) (a : Nat) : Nat :=
  let o := a % 0x10000
  match a / 0x10000 with
  | 0x0 => viewGlb s o | 0x1 => viewBoot s o | 0x2 => viewClk s o | 0x3 => viewTime s o | 0x4 => viewPort s false o | 0x5 => viewPort s true o
  | 0x6 => viewSct s o | 0x7 => viewEng s o | 0x8 => viewGal s o | 0x9 => viewMov s o | 0xA => viewWq s o | 0xB => viewEvt s o
  | 0xC => viewArb s o | 0xD => viewMem s o | 0xE => viewFlt s o | 0xF => viewDpt s o | 0x10 => viewMpc s o | _ => 0

/-! Reads (R3, R4, R6, R27, R28, R134). -/
/-- The value of a register without the effect of its read; 0 where no register lies (R28) and for a command register (R3). -/
def regValue (s : State) (a : Nat) : Word :=
  match regAt a with
  | none => 0
  | some (r, _) =>
    if r.ls then stg s a
    else match r.acc with
      | .wo => 0
      | .rw => imr s a
      | _ => BitVec.ofNat 32 (view s a)
/-- The snapshot of a read of TIME_NOW_NS_LO (R260). -/
def snapNow (s : State) : State :=
  let t := s.time.now.toNat
  let sec := t / 1000000000
  setIm (setIm (setIm (setIm s 0x030014 (BitVec.ofNat 32 (t / 2 ^ 32))) 0x030018 (BitVec.ofNat 32 (t % 1000000000))) 0x03001C (BitVec.ofNat 32 sec))
    0x030020 (BitVec.ofNat 32 (sec / 2 ^ 32 % 0x10000))
/-- The time of the next landing that a commit may still be meant for (R261, R268). -/
def lndNext (s : State) : Nat := (lndTime s (revertAt s (s.lnd.num.toNat + 1))).toNat
/-- The snapshot of a read of TIME_LND_NUM_LO (R260). -/
def snapLnd (s : State) : State :=
  setIm (setIm (setIm s 0x030054 (BitVec.ofNat 32 (s.lnd.num.toNat / 2 ^ 32))) 0x030058 (BitVec.ofNat 32 (lndNext s)))
    0x03005C (BitVec.ofNat 32 (lndNext s / 2 ^ 32))
/-- A read of a register with its effect: an RC register is cleared (R3), a claim register claims (R413), a snapshot is taken (R260). -/
def readEffect (a : Nat) (s : State) : Word × State :=
  match regAt a with
  | none => (0, s)
  | some (r, i) =>
    if r.acc = .rc then
      (if a / 0x10000 = 0xB ∧ 0x120 ≤ a % 0x10000 ∧ a % 0x10000 < 0x620 then doClaim s (i / 8) (i % 8) else (regValue s a, setIm s a 0))
    else if a = 0x030010 then (regValue s a, snapNow s)
    else if a = 0x030050 then (regValue s a, snapLnd s)
    else (regValue s a, s)
/-- A 32-bit read at a level: none for a bus error (R27, R134). -/
def regRead (lvl : Lvl) (a : Nat) (s : State) : Option (Word × State) :=
  if mayLvl lvl 1 && decide (a % 4 = 0) && decide (a < 0x11_0000) then some (readEffect a s) else none
/-- RC_READ; the registers of the collector can be read while the clocks are stopped (R464). -/
def execRcRead (lvl : Lvl) (addr : BitVec 24) (s : State) : Res :=
  let read := fun s => match regRead lvl addr.toNat s with | some r => r.2 | none => s
  if aFLT ≤ addr.toNat ∧ addr.toNat < aFLT + 0x2000 then onSafe read s else onCore read s
/-- TIME_NOW_NS_LO_READ -/
def execTimeNowNsLoRead (lvl : Lvl) (s : State) : Res := onReg lvl 1 (fun s => (readEffect 0x030010 s).2) s
/-- TIME_LND_NUM_LO_READ -/
def execTimeLndNumLoRead (lvl : Lvl) (s : State) : Res := onReg lvl 1 (fun s => (readEffect 0x030050 s).2) s
/-- GLB_RSVD_WR (R4, R496) -/
def rsvdClear (v : Word) (s : State) : State := if bit v 0 then { s with reg := { s.reg with rsvd := false } } else s
/-! Writes (R3 to R7, R28, R134). -/
/-- The access port that an operand register belongs to (R518). -/
def accOf (a : Nat) : Option AccPort :=
  if a = aGAL ∨ a = aGAL + 4 ∨ a = aGAL + 8 ∨ a = aGAL + 0xC then some .gal
  else if a = aWQ + 0x10 ∨ a = aWQ + 0x14 ∨ a = aWQ + 0x18 ∨ a = aWQ + 0x1C then some .wq
  else if a = aPort false + 0xA0 ∨ a = aPort false + 0xA4 ∨ a = aPort false + 0xA8 then some .pa
  else if a = aPort true + 0xA0 ∨ a = aPort true + 0xA4 ∨ a = aPort true + 0xA8 then some .pb
  else if a = aSCT + 0x450 ∨ a = aSCT + 0x454 ∨ a = aSCT + 0x458 ∨ a = aSCT + 0x45C then some .rm
  else if a = aDPT + 0x10 ∨ a = aDPT + 0x14 ∨ a = aDPT + 0x18 then some .dpt
  else if a = aEVT + 0x30 ∨ a = aEVT + 0x34 ∨ a = aEVT + 0x38 then some .evt
  else none
/-- A write to an operand register: refused while its access runs (R203, R256, R423); one to ARB_k_QUOTA may restart the window (R433).
DEDUCED, unsafe (log 55). -/
def operandWrite (a : Nat) (v : Word) (s : State) : State :=
  match accOf a with
  | some p => if accBusy s p then setRefused s p true else imWrite a v s
  | none =>
    let k := (a - aARB) / 0x80
    if a = aARB + 0x80 * k + 0x30 ∧ k < 9 then arbQuotaSet k v s else imWrite a v s
/-- OP of an access command: 1 read, 2 write; any write while BUSY = 1 sets REFUSED (R203). -/
def accOp (p : AccPort) (op : Nat) (s : State) : State :=
  match op with | 1 => accCmd p false s | 2 => accCmd p true s | _ => if accBusy s p then setRefused s p true else s
/-- f when the flag is set. -/
def whenB (b : Bool) (f : State → State) (s : State) : State := if b then f s else s
/-- GLB_PWR_CMD: what it asks for is carried out after the command (R492, R493); refused while an update runs. -/
def pwrAsk (op : BitVec 2) (s : State) : State := if op = 0 ∨ op = 3 ∨ s.boot.upd.isSome then s else { s with boot := { s.boot with pwrCmd := op } }
/-- GLB_RST_CMD: the reset follows the command (R496). -/
def rstAsk (key : Word) (s : State) : State := if key = 0x5259_5354 then { s with boot := { s.boot with rstCmd := true } } else s
/-- MOV_GCMD (R221, R232) -/
def movGcmd (v : Word) (s : State) : State :=
  if bit v 0 && bit v 1 then setRsvd s else if bit v 0 then bulkPause s else if bit v 1 then bulkResume s else s
/-- EVT_GCMD (R418, R423) -/
def evtGcmd (v : Word) (s : State) : State :=
  if bit v 0 && bit v 1 then setRsvd s else if bit v 0 then evtHold s else if bit v 1 then evtUnhold s else s
/-- GAL_CTX_CMD (R177 to R179, R203) -/
def galCtxCmd (c : CtxId) (op : Nat) (s : State) : State :=
  match op with
  | 1 => ctxCmd s c 1 false (doAlloc · c)
  | 2 => ctxCmd s c 2 (haltable s c) (doRelease · c)
  | 3 => ctxCmd s c 3 false (doReset · c)
  | 4 => ctxCmd s c 4 false (doHalt · c)
  | _ => s
/-- MOV_CH_CMD (R218 to R223, R232) -/
def movChCmd (c : CtxId) (op : Nat) (s : State) : State :=
  match op with
  | 0 => chCmd c (fun s => (s, 0)) s
  | 1 => chCmd c (fun s => (chEnable c s, 0)) s
  | 2 => chCmd c (fun s => (chDisable c s, 0)) s
  | 3 => chCmd c (chStop c) s
  | 4 => chCmd c (chResume c) s
  | _ => s
/-- The operation codes 1 ENABLE and 2 DISABLE. -/
def enOp (op : Nat) (en dis : State → State) (s : State) : State := match op with | 1 => en s | 2 => dis s | _ => s
/-- A command register of a ring port (R336). -/
def portCmd (b : Bool) (o : Nat) (v : Word) (s : State) : State :=
  match o with
  | 0x04 => whenB (bit v 2) (retrainReq · b) (enOp (fld v 0 2) (portEnable b) (portDisable b) s)
  | 0xAC => accOp (portAcc b) (fld v 0 2) s
  | 0xC8 => mrxDone b (v.setWidth 16) s
  | 0xCC => mtxSend b (BitVec.ofNat 18 (fld v 0 18)) (BitVec.ofNat 14 (fld v 18 14)) s
  | _ => s
/-- A command register of the SCT block (R305, R371). -/
def sctCmd (o : Nat) (v : Word) (s : State) : State :=
  match o with
  | 0x30 => match fld v 8 2 with | 0 => sessQuery (v.setWidth 6) s | 1 => sessClose (v.setWidth 6) s | _ => s
  | 0x430 => match fld v 0 2 with | 1 => announce s | 2 => detachDev s | _ => s
  | 0x434 => tagset (v.setWidth 16) s
  | 0x460 => accOp .rm (fld v 0 2) s
  | _ => s
/-- A command register of the WQ block (R256). -/
def wqCmd (o : Nat) (v : Word) (s : State) : State :=
  let q := v.setWidth 12
  match o with
  | 0x00 => ring q s
  | 0x04 => match fld v 12 2 with | 0 => { s with wq := { s.wq with cmdQ := q } } | 1 => queueEnable q s | 2 => queueDisable q s | _ => s
  | 0x20 => accOp .wq (fld v 0 2) s
  | 0x30 => whenB (bit v 0) wqCopyGo s
  | _ => s
/-- A command register of the event controller (R423). -/
def evtCmd (o : Nat) (v : Word) (s : State) : State :=
  match o with
  | 0x10 => evtGcmd v s
  | 0x18 => evFire s (0x680 + fld v 0 7) (BitVec.ofNat 32 (fld v 16 16))
  | 0x20 => eoiWrite s (fld v 0 11) (fld v 16 5) 
  | 0x3C => accOp .evt (fld v 0 2) s
  | o => if 0x100 ≤ o ∧ o < 0x600 ∧ o % 0x40 = 0xC then whenB (bit v 0) (doTIdle ((o - 0x100) / 0x40)) s else s
/-- A command register of the memory controller (R455); MEM_1 is served before MEM_0 (R2). -/
def memCmd (o : Nat) (v : Word) (s : State) : State :=
  match o with
  | 0x10 => whenB (bit v 0) (retrainIf false) (whenB (bit v 1) (retrainIf true) s)
  | 0x60 => match fld v 24 2 with | 1 => retAdd (fld v 0 23) s | 2 => retRemove (fld v 0 23) s | _ => s
  | 0x70 => whenB (bit v 31) (growGo (v.setWidth 18)) s
  | _ => s
/-- A command register of the fault collector (R473). -/
def fltCmd (o : Nat) (v : Word) (s : State) : State :=
  match o with
  | 0x08 => whenB (bit v 31) (force (v.setWidth 9)) s
  | 0x0C => nmtAck v s
  | o => if 0x24 ≤ o ∧ o ≤ 0x3C ∧ o % 8 = 4 then whenB (bit v 0) (wdKick (BitVec.ofNat 2 ((o - 0x24) / 8))) s else s
/-- A command register acts on the value that R5 leaves of the word written.
DEDUCED, safe (log 99). -/
def command (a : Nat) (v : Word) (s : State) : State :=
  let o := a % 0x10000
  match a / 0x10000 with
  | 0x0 => if o = 0x34 then pwrAsk (v.setWidth 2) s else rstAsk v s
  | 0x1 =>
    if o = 0x1C then whenB (bit v 31) (updGo (bit v 0) (bit v 1)) s
    else match fld v 2 2 with
      | 1 => keyProgram (v.setWidth 2) s
      | 2 => keyRevoke (v.setWidth 2) s
      | 3 => fuseSecure s
      | _ => s
  | 0x3 =>
    if o = 0x68 then match fld v 16 2 with | 1 => commitReg (v.setWidth 16) s | 2 => cancelReg s | _ => s
    else if bit v 1 then syncGo true s else whenB (bit v 0) (syncGo false) s
  | 0x4 => portCmd false o v s
  | 0x5 => portCmd true o v s
  | 0x6 => sctCmd o v s
  | 0x7 => whenB (bit v 0) codeInvGo s
  | 0x8 =>
    match o with
    | 0x10 => accOp .gal (fld v 0 2) s
    | 0x20 => galCtxCmd (v.setWidth 18) (fld v 24 3) s
    | 0x30 => whenB (bit v 0) cctGo s
    | _ => whenB (bit v 31) (breakCell · (fld v 0 12)) s
  | 0x9 => if o = 0 then movGcmd v s else movChCmd (v.setWidth 18) (fld v 20 3) s
  | 0xA => wqCmd o v s
  | 0xB => evtCmd o v s
  | 0xD => memCmd o v s
  | 0xE => fltCmd o v s
  | 0xF => if o = 0x1C then accOp .dpt (fld v 0 2) s else enOp (fld v 0 2) (unitEnable ((o - 0x1000) / 0x40)) (unitDisable ((o - 0x1000) / 0x40)) s
  | _ => s
/-- A write of ones to a W1C or W1S register (R3, R4). -/
def ackWrite (a : Nat) (v : Word) (s : State) : State :=
  if a = 0x000030 then rsvdClear v s
  else if a = aEVT + 0x884 then wkClear v s
  else if a = aARB + 0x480 then arbDupClr v s
  else if a = aFLT + 0x10 then fltLockSet v s
  else stkClear ((a - (aFLT + 0x100)) / 4) v s
/-- Whether FLT_LOCK protects a setting (R473). -/
def fltLocked (a : Nat) : Bool := decide (a = aFLT ∨ (aFLT + 0x20 ≤ a ∧ a < aFLT + 0x40) ∨ (aFLT + 0x1000 ≤ a ∧ a < aFLT + 0x1600))
/-- A write to an LS register (R5, R6, R269, R270); FLT_LOCK holds off the collector's (R473). -/
def lsWrite (a : Nat) (v : Word) (s : State) : State :=
  if s.flt.lock && fltLocked a then { s with flt := { s.flt with lockwr := true } }
  else stgWrite s { table := false, key := a, val := v.setWidth 64 }
/-- A write to a register, at a level that may write it (R3 to R6, R28). -/
def writeEffect (a : Nat) (v : Word) (s : State) : State :=
  match regAt a with
  | none => setRsvd s
  | some (r, i) =>
    let fs := r.flds i
    match r.acc with
    | .ro => rsvdIf (mergeReg 0 v fs).2 s
    | .rc => rsvdIf (mergeReg 0 v fs).2 s
    | .w1c => let (n, bad) := mergeReg 0 v fs; rsvdIf bad (ackWrite a n s)
    | .w1s => let (n, bad) := mergeReg 0 v fs; rsvdIf bad (ackWrite a n s)
    | .wo => let (n, bad) := mergeReg 0 v fs; rsvdIf bad (command a n s)
    | .rw => if r.ls then lsWrite a v s else operandWrite a v s
/-- GLB_RSVD_WR_CLEAR -/
def execGlbRsvdWrClear (lvl : Lvl) (v : Word) (s : State) : Res := onReg lvl 2 (withRsvd 0x000030 v (rsvdClear v)) s
/-- Whether a level may write a register (R134): P2 every one, P1 the IM registers of WQ, MOV and EVT.
DEDUCED, unsafe (log 56). -/
def mayWriteReg (lvl : Lvl) (a : Nat) : Bool :=
  if lvl = 2 then true
  else if lvl = 1 then
    (decide (a / 0x10000 = 9) || decide (a / 0x10000 = 0xA) || decide (a / 0x10000 = 0xB)) &&
      match regAt a with | some (r, _) => !r.ls | none => false
  else false
/-- A 32-bit write at a level: none for a bus error (R27, R134). -/
def regWrite (lvl : Lvl) (a : Nat) (v : Word) (s : State) : Option State :=
  if mayWriteReg lvl a && decide (a % 4 = 0) && decide (a < 0x11_0000) then some (writeEffect a v s) else none

end Sys2Proof.Machine
end

