-- ==== Sys2Proof/Machine/MoverEng.lean ====
section
/-! DEFINITION. How a mover moves bytes (R208 to R212, R217, R225 to R230): beats, fragment lists, the holding register, CRC, errors. -/
namespace Sys2Proof.Machine

/-! Beats. -/
/-- A stretch of one side of a transfer: address, bytes, and the access width of a fixed side, 0 when the address advances. -/
structure Piece where
  addr : Nat
  len : Nat
  w : Nat
deriving DecidableEq, Repr
/-- The width of a fixed side (R210). -/
def fixedWidth (a : Nat) : Nat := if a % 8 = 0 then 8 else if a % 4 = 0 then 4 else if a % 2 = 0 then 2 else 1
/-- The beats of an advancing side: up to 64 bytes, none across a 64-byte boundary (R209). -/
def beatsInc : Nat → Nat → Nat → List (Nat × Nat)
  | 0, _, _ => []
  | f + 1, a, n =>
    if n = 0 then [] else
      let k := Nat.min n (64 - a % 64)
      (a, k) :: beatsInc f (a + k) (n - k)
/-- The accesses of a fixed side (R210). -/
def beatsFixed : Nat → Nat → Nat → Nat → List (Nat × Nat)
  | 0, _, _, _ => []
  | f + 1, w, a, n => if n = 0 then [] else (a, Nat.min n w) :: beatsFixed f w a (n - Nat.min n w)
/-- The beats of a piece. -/
def pieceBeats (p : Piece) : List (Nat × Nat) :=
  if p.w = 0 then beatsInc (p.len / 64 + 2) p.addr p.len else beatsFixed (p.len / p.w + 1) p.w p.addr p.len
/-- The pieces after the first o bytes. -/
def dropPieces : Nat → List Piece → List Piece
  | _, [] => []
  | o, p :: ps =>
    if o < p.len then { p with addr := if p.w = 0 then p.addr + o else p.addr, len := p.len - o } :: ps else dropPieces (o - p.len) ps
/-- The first n bytes of pieces. -/
def takePieces : Nat → List Piece → List Piece
  | _, [] => []
  | n, p :: ps => if n = 0 then [] else if n < p.len then [{ p with len := n }] else p :: takePieces (n - p.len) ps
/-- The beats of the bytes from offset o to offset e. -/
def planBeats (ps : List Piece) (o e : Nat) : List (Nat × Nat) := (takePieces (e - o) (dropPieces o ps)).flatMap pieceBeats
/-- The bytes that pieces hold. -/
def planLen (ps : List Piece) : Nat := (ps.map fun p => p.len).foldl (· + ·) 0

/-! One beat. -/
/-- n aligned 32-bit reads of register space (R27); none for a bus error. -/
def readRegs (lvl : Lvl) : Nat → Nat → State → Option (List Byte × State)
  | 0, _, s => some ([], s)
  | n + 1, a, s =>
    match regRead lvl a s with
    | none => none
    | some (v, s1) => (readRegs lvl n (a + 4) s1).map fun r => (leBytes 4 v.toNat ++ r.1, r.2)
/-- Aligned 32-bit writes of register space (R27); none for a bus error. -/
def writeRegs (lvl : Lvl) : Nat → List Byte → State → Option State
  | a, b0 :: b1 :: b2 :: b3 :: bs, s =>
    match regWrite lvl a (BitVec.ofNat 32 (leNat [b0, b1, b2, b3])) s with
    | none => none
    | some s1 => writeRegs lvl (a + 4) bs s1
  | _, [], s => some s
  | _, _, _ => none
/-- A read of k bytes at a (R26, R27, R229); none for a bus error. -/
def readBeat (ag : Agent) (lvl : Lvl) (a k : Nat) (s : State) : Option (List Byte × State) :=
  if a < 0x11_0000 then (if a % 4 = 0 ∧ k % 4 = 0 then readRegs lvl (k / 4) a s else none)
  else (rdBytes s ag a k).map fun b => (b, s)
/-- A write of bytes at a (R26, R27, R441); none for a bus error. -/
def writeBeat (ag : Agent) (lvl : Lvl) (a : Nat) (bs : List Byte) (s : State) : Option State :=
  if a < 0x11_0000 then (if a % 4 = 0 ∧ bs.length % 4 = 0 then writeRegs lvl a bs s else none)
  else if wrOk s ag lvl a bs.length && !partialUpset s ag lvl a bs.length then some (storeBytes s ag lvl a bs) else none
/-- Up to n bytes of the beats after a write error hold undefined values (R229). -/
def spoil (ag : Agent) (lvl : Lvl) : Nat → List (Nat × Nat) → State → State
  | _, [], s => s
  | n, (a, k) :: bs, s =>
    if n = 0 then s
    else if a < 0x11_0000 ∨ !wrOk s ag lvl a (Nat.min n k) then spoil ag lvl (n - Nat.min n k) bs s
    else
      let m := Nat.min n k
      spoil ag lvl (n - m) bs { storeBytes s ag lvl a ((List.range m).map fun i => Config.freeByte (s.free + i)) with free := s.free + m }
/-- A read beat of a transfer: where the destination overlaps the source from above, it finds what the source held before the transfer, old (R212). -/
def readFlow (ag : Agent) (lvl : Lvl) (old : Option State) (a k : Nat) (s : State) : Option (List Byte × State) :=
  match old with
  | none => readBeat ag lvl a k s
  | some s0 => (readBeat ag lvl a k s0).map fun r => (r.1, s)
/-- Reads beats into what is held until n bytes are: the bytes held, the beats left, the failing address, the state. -/
def fillTo (ag : Agent) (lvl : Lvl) (old : Option State) (n : Nat) :
    List (Nat × Nat) → List Byte → State → List Byte × List (Nat × Nat) × Option Nat × State
  | [], buf, s => (buf, [], none, s)
  | (a, k) :: bs, buf, s =>
    if n ≤ buf.length then (buf, (a, k) :: bs, none, s)
    else match readFlow ag lvl old a k s with
      | none => (buf, (a, k) :: bs, some a, s)
      | some (d, s1) => fillTo ag lvl old n bs (buf ++ d) s1
/-- Reads beats in order up to the first that fails: the bytes, the failing address, the state. -/
def readBeats (ag : Agent) (lvl : Lvl) (old : Option State) : List (Nat × Nat) → State → List Byte × Option Nat × State
  | [], s => ([], none, s)
  | (a, k) :: bs, s =>
    match readFlow ag lvl old a k s with
    | none => ([], some a, s)
    | some (d, s1) =>
      let (r, f, s2) := readBeats ag lvl old bs s1
      (d ++ r, f, s2)
/-- Bytes of the destination from offset o on, with those at offset δ and above undefined (R212). -/
def blur (δ : Option Nat) (o : Nat) (bs : List Byte) (s : State) : List Byte × State :=
  match δ with
  | none => (bs, s)
  | some d =>
    let keep := d - o
    (bs.take keep ++ (List.range (bs.length - keep)).map fun i => Config.freeByte (s.free + i), { s with free := s.free + (bs.length - keep) })
/-- What has become of a stretch of a transfer: the bytes written, those still held, the read beats left, the failing address, the state. -/
structure Flow where
  out : List Byte := []
  held : List Byte := []
  beats : List (Nat × Nat) := []
  fail : Option Nat := none
  st : State
/-- Writes the beats in order, each once the beats before it are written and its bytes are held: reads go no further than the next write beat
needs, so that never more than 128 bytes are read and not written (R211). After a read error what is held is written; a write error stops both
(R229).
DESIGN CHOICE, unsafe (log 111). -/
def flow (ag : Agent) (lvl : Lvl) (δ : Option Nat) (old : Option State) : List (Nat × Nat) → Nat → List (Nat × Nat) → List Byte → State → Flow
  | [], _, rs, buf, s => { held := buf, beats := rs, st := s }
  | (a, k) :: ws, o, rs, buf, s =>
    let (b1, r1, f, s1) := fillTo ag lvl old k rs buf s
    let raw := b1.take k
    if raw.isEmpty then { beats := r1, fail := f, st := s1 }
    else
      let (d, s2) := blur δ o raw s1
      match writeBeat ag lvl a d s2 with
      | none => { held := b1, beats := r1, fail := some a, st := spoil ag lvl 128 ws s2 }
      | some s3 =>
        if f.isSome then { out := raw, held := b1.drop k, beats := r1, fail := f, st := s3 }
        else
          let y := flow ag lvl δ old ws (o + raw.length) r1 (b1.drop k) s3
          { y with out := raw ++ y.out }

/-! The two sides of a channel. -/
/-- The fragments of a list that cover n bytes (R60): f is the number of entries that may be read, short whether running out of them is
LIST_SHORT (R239), elem the element size; and the status and reason with which the list ends too early.
DEDUCED, unsafe (log 21). -/
def fragments (s : State) (ag : Agent) (elem : Nat) (short : Bool) : Nat → Nat → Nat → List Piece × Option (Nat × Nat)
  | 0, _, n => if n = 0 then ([], none) else ([], some (sCHAIN, if short then 0xE else 0xF))
  | f + 1, a, n =>
    if n = 0 then ([], none)
    else match rdBytes s ag a 16 with
      | none => ([], some (sBUS, 0))
      | some e =>
        let fa := leNat (e.take 8)
        let fl := leNat (slice e 8 4)
        let last := bit (byteAt e 12) 0
        if fl ≠ 0 ∧ (fa % elem ≠ 0 ∨ fl % elem ≠ 0) then ([], some (sALIGN, 0))
        else if n ≤ fl then ([{ addr := fa, len := n, w := 0 }], none)
        else
          let p : List Piece := if fl = 0 then [] else [{ addr := fa, len := fl, w := 0 }]
          if last then (p, some (sCHAIN, 0xE))
          else
            let (ps, err) := fragments s ag elem short f (a + 16) (n - fl)
            (p ++ ps, err)
/-- Who accesses memory for a channel (R208). -/
def chanAgent (k : Nat) (x : Xfer) : Agent :=
  if isCtxKey k then .cl x.cl.toNat else if k < 0x80000 then .mp (BitVec.ofNat 2 k) else .sct
/-- The kinds whose source is not memory but the bytes that the channel holds. -/
def fromData (x : Xfer) : Bool :=
  match x.kind with
  | .moveIn | .precv | .sctWrite | .sctPost | .sense => true
  | _ => false
/-- The kinds whose destination is not memory but a unit or the Vestibule. -/
def toData (x : Xfer) : Bool :=
  match x.kind with
  | .moveOut | .psend | .psendAt | .sctRead => true
  | _ => false
/-- The pieces of one side: a list, a fixed address or an advancing one. -/
def sidePlan (s : State) (k : Nat) (x : Xfer) (a : DWord) (list fixed : Bool) (elem : Nat) : List Piece × Option (Nat × Nat) :=
  if list then fragments s (chanAgent k x) elem (decide (x.kind = .wqMove)) x.maxFrag a.toNat x.count
  else ([{ addr := a.toNat, len := x.count, w := if fixed then fixedWidth a.toNat else 0 }], none)
/-- The element size for the fragments of a channel (R60). -/
def chanElem (x : Xfer) : Nat :=
  match x.kind with
  | .moveIn | .moveOut => elemSize (unitClass x.unit.toNat)
  | _ => 1
/-- The source in memory. -/
def srcPlan (s : State) (k : Nat) (x : Xfer) : List Piece × Option (Nat × Nat) :=
  if fromData x then ([], none) else sidePlan s k x x.src x.srcList x.fs (chanElem x)
/-- The destination in memory; none with DROP (R50, R59). -/
def dstPlan (s : State) (k : Nat) (x : Xfer) : List Piece × Option (Nat × Nat) :=
  if toData x ∨ x.drop then ([], none) else sidePlan s k x x.dst x.dstList x.fd (chanElem x)
/-- How far a channel can go: its count, or what its lists cover, with the failure that the shorter list ends with (R60).
DEDUCED, unsafe (log 19). -/
def reach (s : State) (k : Nat) (x : Xfer) : Nat × Option (Nat × Nat) :=
  let (sp, se) := srcPlan s k x
  let (dp, de) := dstPlan s k x
  let a := if se.isSome then planLen sp else x.count
  let b := if de.isSome then planLen dp else x.count
  if a ≤ b then (if se.isSome then (a, se) else (b, de)) else (b, de)
/-- The distance by which the destination lies above an overlapping source (R212); none when there is no such overlap. -/
def overlapAt (s : State) (k : Nat) (x : Xfer) : Option Nat :=
  if fromData x ∨ toData x ∨ x.drop ∨ x.srcList ∨ x.dstList then none
  else match locate s (chanAgent k x) x.src.toNat, locate s (chanAgent k x) x.dst.toNat with
    | some (ks, a), some (kd, b) =>
      let ext := if x.fs then fixedWidth x.src.toNat else x.count
      if ks = kd ∧ ks ≠ .reg ∧ a < b ∧ b < a + ext ∧ b - a < x.count then some (b - a) else none
    | _, _ => none

/-! Moving. -/
/-- A channel writes up to offset wr, reading as it goes, and then reads up to offset rd (R209 to R212, R217, R229): the state, the bytes
read, the bytes written, and the failing address. After a read error every byte read is written. An overlap that R212 leaves undefined changes
no byte read. -/
def advance (s : State) (k : Nat) (x : Xfer) (rd wr : Nat) : State × List Byte × List Byte × Option Nat :=
  let ag := chanAgent k x
  let (sp, _) := srcPlan s k x
  let (dp, _) := dstPlan s k x
  let o := written x
  let beats := if fromData x ∨ rd ≤ x.read then [] else planBeats sp x.read rd
  let given := if fromData x then (x.data.drop x.read).take (rd - x.read) else []
  let none_ := toData x || x.drop
  let lap := overlapAt s k x
  let old := lap.map fun _ => s
  let (pre, pf, s0) := if none_ then readBeats ag x.lvl none beats s else ([], none, s)
  let buf := x.kept ++ given ++ pre
  if none_ then
    let todo := if pf.isSome then buf else buf.take (wr - o)
    (s0, given ++ pre, todo, pf)
  else
    let target := Nat.min wr (o + x.kept.length + (rd - x.read))
    let y := flow ag x.lvl lap old (planBeats dp o target) o beats buf s
    let (more, rf, s1) := if y.fail.isSome then ([], none, y.st) else readBeats ag x.lvl old y.beats y.st
    let held := y.held ++ more
    let z := if rf.isSome then flow ag x.lvl lap old (planBeats dp (o + y.out.length) (o + y.out.length + held.length)) (o + y.out.length) [] held s1
      else { held := held, st := s1 }
    let out := y.out ++ z.out
    (z.st, (out ++ z.held).drop x.kept.length, out, y.fail.or (z.fail.or rf))
/-- The thread of an owner key. -/
def ownerThread (k : Nat) : Option Thread :=
  if isCtxKey k then some (.ctx (BitVec.ofNat 18 k)) else if k < 0x80000 then some (.mp (BitVec.ofNat 2 k)) else none
/-- MOVE shows the bytes moved in gd, gs, gn and ML (R120, R121, R123). -/
def moveRegs (s : State) (t : Thread) (x : Xfer) (bs : List Byte) : State :=
  let g := regsOf s t
  let n := BitVec.ofNat 64 bs.length
  let g1 := if x.fs then g else g.setG x.ga (g.gr x.ga + n)
  let g2 := if x.fd then g1 else g1.setG x.gd (g1.gr x.gd + n)
  let g3 := g2.setG x.gb (g2.gr x.gb - n)
  setRegs s t (if x.crcsel = 0 then g3 else { g3 with ml := BitVec.ofNat 64 (crcContinue x.crcsel g3.ml.toNat bs) })
/-! Rate limiters (R225 to R227). A limiter with a SHARE refills between commands; one with SHARE 0 only loses credit. -/
/-- The limiters that govern a channel (R226). -/
def limiters (s : State) (k : Nat) (x : Xfer) : List Nat :=
  if !isCtxKey k then []
  else
    let r := rlimOf s (BitVec.ofNat 18 k)
    let p := if onPortMover x then fld (act s (aMOV + 0x200 + 4 * (x.unit.toNat / 4))) (8 * (x.unit.toNat % 4)) 5 else 0
    ([r, p].filter fun l => l ≠ 0).dedup
/-- SHARE of a limiter. -/
def limShare (s : State) (l : Nat) : Nat := fld (act s (aMOV + 0x100 + 8 * l)) 0 9
/-- The credit of a limiter. -/
def limCred (s : State) (l : Nat) : Nat := sget 0x4000 s.mov.cred l
/-- The cap of a limiter's credit (R225). -/
def limCap (s : State) (l : Nat) : Nat := 256 * (fld (act s (aMOV + 0x100 + 8 * l)) 16 6 + 1)
/-- The credit of a limiter after its settings may have changed (R225): one with a SHARE has refilled, and none holds more than its cap.
DESIGN CHOICE, unsafe (log 22). -/
def limLand (old s : State) : State :=
  (List.range 31).foldl (fun s i =>
    let l := i + 1
    let c := if limShare old l ≠ 0 then limCap old l else limCred old l
    let n := if limShare s l ≠ 0 then limCap s l else Nat.min c (limCap s l)
    { s with mov := { s.mov with cred := sset 0x4000 s.mov.cred l n } }) s
/-- The read beats of a channel from where it stands to offset e; what comes out of a unit counts in beats of 64 bytes (R226). -/
def readPlan (s : State) (k : Nat) (x : Xfer) (e : Nat) : List (Nat × Nat) :=
  if fromData x then planBeats [{ addr := 0, len := x.count, w := 0 }] x.read e else planBeats (srcPlan s k x).1 x.read e
/-- How far up to offset e the limiters let a channel read: each beat of n bytes needs a credit of 4n with every limiter (R225).
DESIGN CHOICE, unsafe (log 22). -/
def limReach (s : State) (k : Nat) (x : Xfer) (e : Nat) : Nat :=
  match ((limiters s k x).filter fun l => limShare s l = 0).map (limCred s) with
  | [] => e
  | c :: cs =>
    let top := cs.foldl Nat.min c
    ((readPlan s k x e).foldl (fun (p : Nat × Nat × Bool) b =>
      if p.2.2 && decide (4 * b.2 ≤ p.2.1) then (p.1 + b.2, p.2.1 - 4 * b.2, true) else (p.1, p.2.1, false)) (x.read, top, true)).1
/-- n bytes read are charged.
DESIGN CHOICE, unsafe (log 22). -/
def limCharge (s : State) (k : Nat) (x : Xfer) (n : Nat) : State :=
  (limiters s k x).foldl (fun s l =>
    if limShare s l = 0 then { s with mov := { s.mov with cred := sset 0x4000 s.mov.cred l (limCred s l - 4 * n) } } else s) s
/-- The bytes of the read beats that were issued when a channel read n bytes more and, with f, failed: the beat that failed was issued too. -/
def issued (s : State) (k : Nat) (x : Xfer) (e n : Nat) (f : Option Nat) : Nat :=
  match f, (planBeats (dropPieces n (takePieces (e - x.read) (dropPieces x.read (srcPlan s k x).1))) 0 e).head? with
  | some a, some b => if !fromData x && decide (b.1 = a) then n + b.2 else n
  | _, _ => n

/-! Progress. -/
/-- What an advance leaves: the channel with its new offsets, the CRC of the run (R228), the registers of MOVE, the limiters' charge for the
beats read (R225), and the log entry of an uncorrectable error (R229).
DEDUCED, unsafe (log 19), DEDUCED, unsafe (log 20). -/
def progress (s : State) (k : Nat) (x : Xfer) (rd wr : Nat) : State × Xfer × Option Nat :=
  let (s0, new, wrote, f) := advance s k x rd wr
  let sc := limCharge s0 k x (issued s k x rd new.length f)
  let s1 := match f with | some a => noteUe sc (chanAgent k x) a | none => sc
  let x' : Xfer :=
    { x with
      read := x.read + new.length
      left := x.left - wrote.length
      kept := (x.kept ++ new).drop wrote.length
      data := if toData x then x.data ++ wrote else x.data }
  let s2 := setChan s1 k x'
  match ownerThread k with
  | none => (s2, x', f)
  | some t =>
    if x.kind = .move then (moveRegs s2 t x wrote, x', f)
    else if isPortInstr x then (s2, x', f)
    else match (thrOf s2 t).run with
      | some r => (setThr s2 t { thrOf s2 t with run := some { r with crc := BitVec.ofNat 32 (crcFold r.crcsel r.crc.toNat new) } }, x', f)
      | none => (s2, x', f)

/-! The watch on MOVE (R146). -/
/-- Whether an access of a context to n bytes at a falls in the watched range; kind is 19 for reads, 20 for writes, 21 for fetches. -/
def watchHit (s : State) (c : CtxId) (kind a n : Nat) : Bool :=
  let ctl := act s (aENG + 0x210)
  let at_ := (act s (aENG + 0x214)).toNat / 8 + (act s (aENG + 0x218)).toNat * 0x2000_0000
  let m := (act s (aENG + 0x21C)).toNat / 8
  bit ctl 31 && bit ctl kind && (bit ctl 18 || decide (fld ctl 0 18 = c.toNat)) && (regsOf s (.ctx c)).wen &&
    (List.range ((a % 8 + n + 7) / 8)).any fun i => decide ((a / 8 + i) ||| m = at_ ||| m)
/-- The first beat of a plan that the watch selects, from offset o: its address and the offset at which it ends. -/
def firstWatched (s : State) (c : CtxId) (kind : Nat) : Nat → List (Nat × Nat) → Option (Nat × Nat)
  | _, [] => none
  | o, (a, n) :: bs => if watchHit s c kind a n then some (a, o + n) else firstWatched s c kind (o + n) bs
/-- Where the watch interrupts a MOVE that goes on to offset e: the address of the access and the offset. -/
def moveWatch (s : State) (k : Nat) (x : Xfer) (e : Nat) : Option (Nat × Nat) :=
  if !(isCtxKey k && decide (x.kind = .move)) then none
  else
    let c := BitVec.ofNat 18 k
    let r := firstWatched s c 19 x.read (planBeats (srcPlan s k x).1 x.read e)
    let w := firstWatched s c 20 (written x) (planBeats (dstPlan s k x).1 (written x) e)
    match r, w with
    | some a, some b => if a.2 ≤ b.2 then some a else some b
    | some a, none => some a
    | none, b => b

/-- A MOVE that goes on to offset e raises the watch at its first beat in the range (R146), and the offset at which it is then interrupted. -/
def noteWatch (s : State) (k : Nat) (x : Xfer) (e : Nat) : State × Option Nat :=
  match moveWatch s k x e with
  | none => (s, none)
  | some (a, o) =>
    let t : Thread := .ctx (BitVec.ofNat 18 k)
    let r := regsOf s t
    (if (thrOf s t).watch.isNone then setThr s t { thrOf s t with watch := some (BitVec.ofNat 64 a) } else s,
      if !srEM r ∧ r.exv ≠ 0 then some o else none)

/-- The addresses of the entries of a fragment list that are read to cover n bytes (R60). -/
def listReads (s : State) (ag : Agent) : Nat → Nat → Nat → List Nat
  | 0, _, _ => []
  | f + 1, a, n =>
    if n = 0 then []
    else match rdBytes s ag a 16 with
      | none => [a]
      | some e =>
        let fl := leNat (slice e 8 4)
        if n ≤ fl ∨ bit (byteAt e 12) 0 then [a] else a :: listReads s ag f (a + 16) (n - fl)
/-- Whether a channel that goes on to offset e waits for such an interface (R215): for a beat, or for an entry of a list. -/
def chanStalled (s : State) (k : Nat) (x : Xfer) (e : Nat) : Bool :=
  let ag := chanAgent k x
  let at_ := fun (ps : List Piece) (o : Nat) => (planBeats ps o e).any fun b => stalled s ag b.1
  let list := fun (on : Bool) (a : DWord) => on && (listReads s ag x.maxFrag a.toNat x.count).any (stalled s ag)
  ((memIf s false).retraining || (memIf s true).retraining) &&
    (at_ (srcPlan s k x).1 x.read || at_ (dstPlan s k x).1 (written x) || list (x.srcList && !fromData x) x.src ||
      list (x.dstList && !(toData x || x.drop)) x.dst)

/-! The end of a channel. -/
/-- A bus error is counted (R229). -/
def noteBus (s : State) (f : Option Nat) : State := if f.isSome then bump s (aMOV + 0x28) else s
/-- The end of a MOVE-IN that moved its bytes or failed with st and reason (R41, R56 to R58): n bytes moved of the step. -/
def moveInEnd (s : State) (c : CtxId) (n st reason : Nat) : State :=
  let x := thrOf s (.ctx c)
  match x.run with
  | none => finishWait s c st (stepCount x - n) reason
  | some r =>
    let cont := stepFlag x 8
    let rest := r.inData.drop n
    let short := decide (n < stepCount x)
    let long := !cont && !rest.isEmpty
    let e := r.inEnd.getD { crcBad := false, portErr := false, code := 0 }
    let fin := short || !cont
    let s1 := setThr s (.ctx c) { x with run := some { r with inData := rest } }
    if st ≠ 0 then finishWait s1 c st (stepCount x - n) reason
    else
      let b := (if short then sSHORT else 0) + (if long then sLONG else 0) + (if fin && e.crcBad then sCRC else 0) +
        (if fin && e.portErr then sPORT else 0)
      finishWait s1 c b (stepCount x - n) (if fin && e.portErr then 0x1C else 0)
/-- The end of a step channel with status and reason; n bytes of the step were moved. -/
def stepChanEnd (s : State) (c : CtxId) (x : Xfer) (n st reason : Nat) : State :=
  let s1 := grantAll (freeChan s c.toNat)
  if x.kind = .moveIn then moveInEnd s1 c n st reason else finishWait s1 c st (stepCount (thrOf s (.ctx c)) - n) reason
/-- The bytes that a MOVE-OUT step has read join its run; the last step hands the record over (R42, R374). -/
def moveOutEnd (s : State) (c : CtxId) (x : Xfer) : State :=
  let t := thrOf s (.ctx c)
  let out := (match t.run with | some r => r.out | none => []) ++ x.data
  if stepFlag t 8 then
    let s1 := setThr s (.ctx c) { t with run := t.run.map fun r => { r with out := out } }
    finishWait (grantAll (freeChan s1 c.toNat)) c 0 0 0
  else grantAll (handOver s c { x with data := out, left := 0 })
/-- A context that waited for its channel or its record has work again (R177). -/
def resumeThr (s : State) : Thread → State
  | .ctx c => if stOf s c = .waiting then becomeReady s c else s
  | .mp _ => s
/-- The end of a PRECV (R125, R126): gd, C, V and N. -/
def precvEnd (s : State) (c : CtxId) (x : Xfer) : State :=
  let s0 := grantAll (freeChan s c.toNat)
  let e := x.rxEnd.getD { crcBad := false, portErr := false, code := 0 }
  let g := regsOf s0 (.ctx c)
  let sr := setFld (setFld (setFld g.sr 2 1 (b2n (decide (x.count < x.data.length)))) 3 1 (b2n e.crcBad)) 0 1 (b2n e.portErr)
  resumeThr (setRegs s0 (.ctx c) { g.setG x.gd (BitVec.ofNat 64 x.count) with sr := sr, pc := g.pc + 4 }) (.ctx c)
/-- MOVE completes with V (R122). -/
def moveEnd (s : State) (t : Thread) (v : Bool) : State :=
  let g := regsOf s t
  resumeThr (setRegs s t { g with sr := setFld g.sr 3 1 (b2n v), pc := g.pc + 4 }) t
/-- A bus error ends a channel of a thread (R121, R229): the step fails with FAULT_BUS, an instruction raises the bus error. A port instruction has had
no effect: the unit of transfer that a PRECV took is the next of its unit again (R132).
DESIGN CHOICE, unsafe (log 129). -/
def busEnd (s : State) (k : Nat) (x : Xfer) (f : Nat) : State :=
  match ownerThread k with
  | none => s
  | some t =>
    match t, x.kind with
    | .ctx c, .move => raiseExc (resumeThr (grantAll (freeChan s k)) t) (.ctx c) xBUS (BitVec.ofNat 64 f) false
    | .mp n, _ => raiseExc (grantAll (freeChan s k)) (.mp n) xBUS (BitVec.ofNat 64 f) false
    | .ctx c, _ =>
      if isPortInstr x then raiseExc (resumeThr (grantAll (freeChan (giveBack s x) k)) t) (.ctx c) xBUS (BitVec.ofNat 64 f) false
      else stepChanEnd s c x (written x) sBUS 0
/-- A channel x of a thread that went on in state s, and became y, met a bus error at an address (R132, R229): a port instruction leaves what it found. -/
def busFail (s : State) (k : Nat) (x : Xfer) (s1 : State) (y : Xfer) (f : Nat) : State :=
  if isPortInstr x then busEnd (noteBus (noteUe s (chanAgent k x) f) (some f)) k x f else busEnd (noteBus s1 (some f)) k y f
/-- A channel of a thread has moved all it can (R214): err is how a list that is too short ends it. -/
def chanDone (s : State) (k : Nat) (x : Xfer) (err : Option (Nat × Nat)) : State :=
  match ownerThread k with
  | none => s
  | some t =>
    match t with
    | .mp _ => moveEnd (grantAll (freeChan s k)) t false
    | .ctx c =>
      match err with
      | some (st, reason) => stepChanEnd (if st = sBUS then noteBus s (some 0) else s) c x (written x) st reason
      | none =>
        match x.kind with
        | .move => moveEnd (grantAll (freeChan s k)) t false
        | .precv => precvEnd s c x
        | .psend => grantAll (handOver s c { x with left := 0 })
        | .psendAt => grantAll (handOver s c { x with left := 0 })
        | .moveOut => moveOutEnd s c x
        | _ => stepChanEnd s c x (written x) 0 0
/-- A MOVE of a context is interrupted (R121, R217): the bytes read, kept bytes included, are written, the registers show the residue, the
channel is given up and PC stays on MOVE; rd is how far reads had gone, or the beat that the watch selects before (R146). The flag tells whether a bus
error ended it instead. -/
def interruptMove (s : State) (t : Thread) (rd : Nat) : State × Bool :=
  let k := tkey t
  match chanOf s k with
  | none => (s, false)
  | some x =>
    if x.kind ≠ .move ∨ !x.granted then (freeChan s k, false)
    else
      let e := limReach s k x (Nat.max x.read (Nat.min rd x.count))
      let (s0, hit) := noteWatch s k x e
      let o := Nat.max x.read (hit.getD e)
      let (s1, x1, f) := progress s0 k x o o
      match f with
      | some a => (busEnd (noteBus s1 f) k x1 a, true)
      | none => (grantAll (freeChan s1 k), false)
/-- Whether a channel moves bytes on a mover (R205, R216); SENSE ends on the device-port bus. -/
def chanRuns (s : State) (k : Nat) (x : Xfer) : Bool := hasMover s k x && decide (x.kind ≠ .sense)
/-- The last write-beat boundary up to offset e. -/
def writeFloor (s : State) (k : Nat) (x : Xfer) (e : Nat) : Nat :=
  if toData x ∨ x.drop then e
  else ((planBeats (dstPlan s k x).1 (written x) x.count).foldl (fun (p : Nat × Bool) b => if p.2 && decide (p.1 + b.2 ≤ e) then (p.1 + b.2, true) else (p.1, false))
    (written x, true)).1
/-- A channel of a context or processor runs to its end (R214, R229), to the beat that the watch selects (R146), or as far as its limiters'
credit goes (R225), where it waits. -/
def runChan (s : State) (k : Nat) (x : Xfer) : State :=
  let (e, err) := reach s k x
  let top := limReach s k x e
  match noteWatch s k x top with
  | (s1, some o) => if o < e then (interruptMove s1 (.ctx (BitVec.ofNat 18 k)) o).1 else runTo s1 k x e top err
  | (s1, none) => runTo s1 k x e top err
where
  runTo (s : State) (k : Nat) (x : Xfer) (e top : Nat) (err : Option (Nat × Nat)) : State :=
    let (s2, x2, f) := progress s k x top (if top < e then writeFloor s k x top else e)
    match f with
    | some b => busFail s k x s2 x2 b
    | none => if top < e then s2 else chanDone s2 k x2 err

/-! STOP, HALT and preemption of a channel (R217 to R222, R230). -/
/-- The smallest end of a read beat that is at least n (R218): reads already issued complete. -/
def beatEnd (s : State) (k : Nat) (x : Xfer) (n : Nat) : Nat :=
  if fromData x then n
  else if n ≤ x.read then x.read
  else (planBeats (srcPlan s k x).1 x.read x.count).foldl (fun o b => if o < n then o + b.2 else o) x.read
/-- The writes of a HALT are issued: the context halts (R222, R230). -/
def stopHalt (s : State) (c : CtxId) (x : Xfer) (f : Option Nat) : State :=
  let s0 := noteBus s f
  let res := if x.kind = .move ∨ isPortInstr x then 0 else stepCount (thrOf s0 (.ctx c)) - written x
  grantAll (haltWith s0 c (sABORT + if f.isSome then sBUS else 0) 0x17 res)
/-- The writes of a STOP are issued: a TIMED channel is aborted (R220, R230). -/
def stopAbort (s : State) (c : CtxId) (x : Xfer) (f : Option Nat) : State :=
  let s0 := bump (noteBus s f) (aMOV + 0x24)
  if x.kind = .move then
    let s1 := ctxEvent (grantAll (freeChan s0 c.toNat)) c 3 0x18
    match f with
    | some a => raiseExc (resumeThr s1 (.ctx c)) (.ctx c) xBUS (BitVec.ofNat 64 a) false
    | none => moveEnd s1 (.ctx c) true
  else stepChanEnd s0 c x (written x) (sABORT + if f.isSome then sBUS else 0) 0x18
/-- The writes of a STOP or of the global pause are issued: a BULK channel is paused (R219, R221). -/
def stopPause (s : State) (c : CtxId) (x : Xfer) (f : Option Nat) (cmd : Bool) : State :=
  match f with
  | some a => busEnd (noteBus s f) c.toNat x a
  | none =>
    let s1 := if cmd then setChst s c { chstOf s c with paused := true } else s
    if x.kind = .move then beginWait (grantAll (freeChan s1 c.toNat)) c 6 {}
    else grantAll (setChan (if stOf s1 c = .waiting then setSt s1 c .waiting 6 else s1) c.toNat { x with paused := cmd, stopping := none })
/-- The end of the stop in progress on a channel of a context (R218 to R222, R230): rd is how far reads had gone. A MOVE whose watch is hit on the way goes
no further (R146). -/
def stopEnd (s : State) (c : CtxId) (x : Xfer) (why : Stop) (rd : Nat) : State :=
  let k := c.toNat
  let e := limReach s k x (beatEnd s k x (Nat.max x.read (Nat.min rd (reach s k x).1)))
  let (s0, hit) := noteWatch s k x e
  let o := Nat.max x.read (hit.getD e)
  let (s1, x1, f) := progress s0 k x o o
  let s2 : State := { s1 with mov := { s1.mov with cmdBusy := false, cmdRes := 0 } }
  match why with
  | .halt => stopHalt s1 c x1 f
  | .timed => stopAbort (if s1.mov.cmdCtx = c then s2 else s1) c x1 f
  | .bulk => stopPause s2 c x1 f true
  | .glob => stopPause s1 c x1 f false

end Sys2Proof.Machine
end

