-- ==== Sys2Proof/Machine/Boot.lean ====
section
/-! DEFINITION. Resets (R474 to R476, R180, R224, R253, R279, R306, R338, R372, R400, R422, R435, R454, R472) and the boot sequence (R477 to
R490). -/
namespace Sys2Proof.Machine

/-! Resets. -/
/-- The registers of the wake watcher that AON keeps (R422). -/
def isWake (a : Nat) : Bool := decide (aEVT + 0x800 ≤ a ∧ a ≤ aEVT + 0x880)
/-- The IM registers that they keep: FLT_CNT_LATCH (R472) and MEM_LOG_RIDX (R454). -/
def keptIm (a : Nat) : Bool := decide (a = aFLT + 0x18 ∨ a = aMEM + 0x34)
/-- A byte of memory that survives: flash always; DRAM unless the reset leaves it undefined (R454). -/
def keptMem (por : Bool) (k : Nat) : Bool :=
  decide (0x20_0000_0000 ≤ k ∧ k < 0x21_0000_0000) || (!por && decide (0x10_0000_0000 ≤ k ∧ k < 0x18_0000_0000))
/-- An interface after a reset: its fittings, and its retired pages unless PORST_N cleared them (R454). -/
def ifReset (por : Bool) (x : MemIf) : MemIf := { dens := x.dens, bad := x.bad, ret := if por then [] else x.ret }
/-- Memory and ECC after a reset (R454). -/
def memReset (por : Bool) (m : Memc) : Memc :=
  if por then { i0 := ifReset true m.i0, i1 := ifReset true m.i1, por := m.por + 1 }
  else
    { i0 := ifReset false m.i0, i1 := ifReset false m.i1, log := m.log, widx := m.widx, spares := m.spares, rows := m.rows, por := m.por
      upset := m.upset.filter fun k => keptMem false k }
/-- The collector after a reset (R472). -/
def fltReset (por : Bool) (f : Flt) : Flt :=
  if por then { safestate := f.safestate, f4 := f.f4, held := f.held }
  else { sticky := f.sticky, maxclass := f.maxclass, lock := f.lock, f4 := f.f4, safestate := f.safestate, held := f.held }
/-- What survives of start-up, power and identity: fuses, OTP, straps, board and supply. -/
def bootReset (b : Boot) : Boot :=
  { straps := b.straps, failmask := b.failmask, secure := b.secure, prog := b.prog, revoked := b.revoked, keys := b.keys
    otpSlot := b.otpSlot, otpBase := b.otpBase, otp := b.otp, otpTab := b.otpTab, cold := false, lot := b.lot, wafer := b.wafer, dieX := b.dieX, dieY := b.dieY, fab := b.fab
    testrev := b.testrev, uid := b.uid, refA := b.refA, refB := b.refB, wakeIn := b.wakeIn, swrst := b.swrst }
/-- The level sources after a reset follow the signals that it leaves (R405): the WAKE_IN pins and the sticky bits that are kept. -/
def levelsReset (s : State) : State :=
  faultLevels ((List.range 4).foldl (fun s i => evLevel s (0x4D0 + i) (bit s.boot.wakeIn i) (BitVec.ofNat 32 (b2n (bit s.boot.wakeIn i)))) s)
/-- The device after a reset and before its boot sequence; por for PORST_N, aon for the registers of AON that stay (R422, R474). An
update in progress leaves its slot erased (R492).
DEDUCED, unsafe (log 27). -/
def resetState (por aon : Bool) (s0 : State) : State :=
  let s := match s0.boot.upd with | some u => eraseSlot s0 u.slot.toNat | none => s0
  let keep := fun a => (!por && fltLocked a) || (aon && isWake a)
  levelsReset
  { pending := s.pending, stamp := s.stamp, free := s.free
    mem := s.mem.filter fun e => keptMem por e.1
    reg := { act := s.reg.act.filter fun e => keep e.1, stg := s.reg.stg.filter fun e => keep e.1
             im := if por then [] else s.reg.im.filter fun e => keptIm e.1 }
    eng := { victims := s.eng.victims }
    gal := { epoch := s.gal.epoch + 1 }
    flt := fltReset por s.flt
    memc := memReset por s.memc
    evt := if aon then { wkValid := s.evt.wkValid, wkSlot := s.evt.wkSlot } else {}
    rm := { straps := BitVec.ofNat 2 (s.boot.straps.toNat % 4) }
    boot := { bootReset s.boot with fltKept := !por } }

/-! The boot sequence. -/
/-- Whether a write of the OTP layer or of the image leaves a setting of the collector as it is: a reset other than PORST_N keeps them (R472).
DEDUCED, unsafe (log 134). -/
def fltStands (s : State) (a : Nat) : Bool := s.boot.fltKept && fltLocked a
/-- A write of the OTP layer to an img setting, in both banks; the slots and quotas of the arbiters are IM (R436, R479). -/
def otpWrite (s : State) (e : Nat × Word) : State :=
  if fltStands s e.1 then s else match regAt e.1 with
  | some (r, i) =>
    let n := (mergeReg (stg s e.1) e.2 (r.flds i)).1
    if r.ls then putBoth s false e.1 (n.setWidth 64)
    else if aARB ≤ e.1 ∧ e.1 < aARB + 0x480 ∧ r.acc = .rw then setIm s e.1 (mergeReg (imr s e.1) e.2 (r.flds i)).1
    else s
  | none => s
/-- A write of the OTP layer to a word of a table that is marked img: queue descriptors, CAN filters, event sources (R254, R401, R424, R479). -/
def otpTable (s : State) (e : Nat × DWord) : State :=
  if [Tab.wq.no, Tab.canFilter.no, Tab.evt.no].contains (e.1 / 0x1000000) then
    putBoth s true e.1 (stgVal s { table := true, key := e.1, val := e.2 }).1
  else s
/-- Phase 1 (R477, R258, R500): the OTP layer, the reference, the VID code of BALANCED. -/
def bootStart (s : State) : State :=
  let s1 := limLand s (pickRef (s.boot.otpTab.foldl otpTable (s.boot.otp.foldl otpWrite s)))
  { s1 with boot := { s1.boot with vid := BitVec.ofNat 4 (vidCode s1 0) } }
/-- An interface after its training at boot (R450): in service, or FAILED; the temperature recorded is a free value.
DESIGN CHOICE, unsafe (log 25). -/
def trainIf (x : MemIf) (temp : Byte) : MemIf := { x with trained := !x.bad, failed := x.bad, ttrain := temp }
/-- Boot training (R437, R450): the capacity in use; each interface is in service or raises MEM_TRAIN_FAIL.
DESIGN CHOICE, unsafe (log 25). -/
def trainDram (s : State) : State :=
  let cap := fld (act s aMEMCFG) 0 2
  let a := s.memc.i0.dens.toNat
  let b := s.memc.i1.dens.toNat
  let s1 : State := { s with free := s.free + 2, memc := { s.memc with
      capUsed := BitVec.ofNat 2 (Nat.min cap (Nat.min a b)), capMis := decide (a ≠ b ∨ a < cap ∨ b < cap)
      i0 := trainIf s.memc.i0 (Config.freeByte s.free), i1 := trainIf s.memc.i1 (Config.freeByte (s.free + 1)) } }
  if s.memc.i0.bad ∨ s.memc.i1.bad then raise s1 0x062 else s1
/-- The accesses that a record of the image started end before the next record acts (R518). -/
def finishAcc (s : State) : State := s.reg.acc.foldl (fun s e => accDone e.1 s) s
/-- The registers that EARLY may write (R486). -/
def earlyMay (a : Nat) : Bool :=
  decide (a / 0x10000 = 2 ∨ a / 0x10000 = 3) || decide (aDPT + 0x10 ≤ a ∧ a ≤ aDPT + 0x1C) ||
    (decide (aDPT + 0x1000 ≤ a ∧ a < aDPT + 0x10000) &&
      let u := (a - aDPT - 0x1000) / 0x40
      unitOk u && [0, 6, 7].contains (unitClass u))
/-- A register record (R486): none when it is malformed.
DEDUCED, unsafe (log 28). -/
def recRegister (early : Bool) (a : Nat) (v : Word) (s : State) : Option State :=
  let bad : Bool := match regAt a with | some (r, i) => (mergeReg (if r.ls then stg s a else imr s a) v (r.flds i)).2 | none => false
  if (early ∧ !earlyMay a) ∨ bad then none
  else if fltStands s a ∧ !s.flt.lock then some s
  else (regWrite 2 a v s).map fun s1 =>
    let s2 := finishAcc s1
    { s2 with boot := { s2.boot with rstCmd := false, pwrCmd := 0 } }
/-- A data block (R486): none when its destination is not allowed. -/
def recData (dst : Nat) (bs : List Byte) (s : State) : Option State :=
  let ok := (List.range bs.length).all fun i =>
    match locate s .sct (dst + i) with
    | some (.sram, _) => true
    | some (.orch, _) => true
    | some (.dram, _) => true
    | _ => false
  if ok then some (storeBytes s .sct 2 dst bs) else none
/-- A TCM block (R486). -/
def recTcm (n : BitVec 2) (o : Nat) (bs : List Byte) (s : State) : Option State :=
  if o + bs.length ≤ 0x4_0000 then
    let s1 := storeBytes s (.mp n) 2 (0x3000_0000 + o) bs
    some { s1 with boot := { s1.boot with tcmWritten := s1.boot.tcmWritten ||| BitVec.ofNat 4 (2 ^ n.toNat) } }
  else none
/-- An early record (R486): handed to its unit as a MOVE-OUT would hand it (R374, R376).
DEDUCED, unsafe (log 28). -/
def recEarly (u : Nat) (b : List Byte) (s : State) : Option State :=
  if !unitOk u ∨ !canSend (unitClass u) then none
  else if (unitOf s u).st ≠ .active then some s
  else if !recFits s u b then some (unitNote s u 3 false)
  else if txDepth (unitClass u) ≤ txUsed (unitOf s u) then some s
  else some (pushTx s u b (recLaunch b) none).1
/-- The records of EARLY, MAIN or ORCHARD (R486); f bounds their number. The flag tells whether all were well formed. -/
def applyRecs (typ : Nat) : Nat → List Byte → State → State × Bool
  | 0, bs, s => (s, bs.isEmpty)
  | f + 1, bs, s =>
    if bs.isEmpty then (s, true)
    else if bs.length < 8 then (s, false)
    else
      let a := leNat (bs.take 3)
      let v := leNat (slice bs 4 4)
      let body := bs.drop 8
      let pad := (v + 7) / 8 * 8
      let next := fun (o : Option State) (rest : List Byte) =>
        match o with | some s1 => applyRecs typ f rest s1 | none => (s, false)
      match (byteAt bs 3).toNat with
      | 0 => if typ = 3 then (s, false) else next (recRegister (decide (typ = 1)) a (BitVec.ofNat 32 v) s) body
      | 1 =>
        if typ = 1 ∨ body.length < 8 + pad then (s, false)
        else next (recData (leNat (body.take 8)) ((body.drop 8).take v) s) (body.drop (8 + pad))
      | 2 =>
        if typ = 3 ∨ v = 0 ∨ 100000 < v then (s, false)
        else next (some { s with time := { s.time with now := s.time.now + BitVec.ofNat 64 (1000 * v) } }) body
      | 3 =>
        if typ ≠ 2 ∨ body.length < 8 + pad then (s, false)
        else next (recTcm (BitVec.ofNat 2 a) (leNat (body.take 8)) ((body.drop 8).take v) s) (body.drop (8 + pad))
      | 4 =>
        if typ ≠ 1 ∨ body.length < pad ∨ 256 ≤ a then (s, false)
        else next (recEarly a (body.take v) s) (body.drop pad)
      | _ => (s, false)
/-- The record of a GALLERY entry (R170, R487). -/
def recFrom (b : List Byte) : Regs := (List.range 32).foldl (fun r w => recPut r w (BitVec.ofNat 64 (leNat (slice b (8 * w) 8)))) {}
/-- The entries of GALLERY (R487). -/
def applyGallery : Nat → List Byte → State → State × Bool
  | 0, bs, s => (s, bs.isEmpty)
  | f + 1, bs, s =>
    if bs.isEmpty then (s, true)
    else
      let id := leNat (bs.take 4)
      let mode := (byteAt bs 8).toNat
      if bs.length < 272 ∨ 0x40000 ≤ id ∨ 2 < mode then (s, false)
      else
        let c := BitVec.ofNat 18 id
        let (w, bad, m) := mergeTab 0 (BitVec.ofNat 64 (leNat (slice bs 4 4))) (tabFlds .cct 0)
        if bad ∨ leNat (slice bs 4 4) &&& m ≠ leNat (slice bs 4 4) then (s, false)
        else
          let s1 := stgTab (setLive s c { pend := 0, ridx := 0, st := .idle, waitk := 0 }) .cct id 0 w
          let s2 := setRec s1 c (recFrom (slice bs 16 256))
          let rest := s2.boot.modes.filter fun e => e.1 ≠ c
          applyGallery f (bs.drop 272)
            { s2 with boot := { s2.boot with modes := if mode = 0 then rest else rest ++ [(c, decide (mode = 2))] } }
/-- The end of the MAIN register records (R478): a ring port that MAIN did not disable starts training. -/
def startPorts (s : State) : State :=
  [false, true].foldl (fun s b => if (portOf s b).st = .active then setLink s b 1 else s) s
/-- A segment is read, checked and applied (R477, R485). -/
def applySeg (g : Img) (typ : Nat) (s : State) : State × Bool :=
  match imgSeg g typ with
  | none => (s, true)
  | some e =>
    if !segGood s g e then (s, false)
    else
      let b := segBytes g e
      match typ with
      | 4 =>
        let (s1, ok) := applyGallery (b.length / 272 + 1) b s
        (s1, ok && profileOk s1 0 && contextsOk s1 0)
      | t =>
        let (s1, ok) := applyRecs t (b.length / 8 + 1) b s
        let s2 := limLand s s1
        (if t = 2 then startPorts s2 else s2, ok)
/-- The segments of an image in TYPE order, with training between EARLY and MAIN (R477, R482); in secure boot SIGNATURE is read and checked first. -/
def loadImage (g : Img) (s : State) : State × Bool :=
  let (s1, ok1) := if s.boot.secure ∧ !signatureCrc g then (s, false) else applySeg g 1 s
  if !ok1 then (s1, false)
  else
    let (s2, ok2) := applySeg g 2 (trainDram s1)
    if !ok2 then (s2, false)
    else
      let (s3, ok3) := applySeg g 3 s2
      if !ok3 then (s3, false) else applySeg g 4 s3
/-- MAINTENANCE (R490): reset values and the OTP layer; the ring ports train, and a first landing is taken (R261). -/
def enterMaint (s : State) : State :=
  let s1 := startPorts (trainDram s)
  let s2 := { s1 with boot := { s1.boot with st := .maint, maint := true, fltKept := false } }
  { s2 with lnd := { s2.lnd with num := flightOf s2 s2.time.now }, eng := { s2.eng with mps := (List.range 4).map fun n => (n, { stopped := true }) } }
/-- The slot to boot (R484, R485): primary, then recovery; slots that have failed are excluded.
DEDUCED, unsafe (log 26). -/
def chooseSlot (s : State) : Option Nat :=
  let ok := fun n => !bit s.boot.failmask n && imgTried s (slotImg s n)
  match pickSlot s 0 ok with
  | some n => some n
  | none => pickSlot s 2 ok
/-- Tries slots until one loads (R485): then phase 8 begins, and a change of the CORE frequency as at the receipt of a commit (R478); each restart begins from the reset values, with what the failed slot wrote to memory in place.
DEDUCED, unsafe (log 26). -/
def trySlots : Nat → Bool → State → State
  | 0, _, s => enterMaint s
  | f + 1, first, s =>
    match chooseSlot s with
    | none => enterMaint s
    | some n =>
      let g := slotImg s n
      let (s1, ok) := loadImage g s
      if ok then
        freqStart { s1 with boot := { s1.boot with
            slot := BitVec.ofNat 2 n, seq := imgSeq g, signed := s1.boot.secure, loaded := true, first := first } }
      else trySlots f false
        { s with mem := s1.mem, free := s1.free, boot := { s.boot with failmask := s.boot.failmask ||| BitVec.ofNat 4 (2 ^ n) } }
/-- The boot sequence after a reset (R477).
DESIGN CHOICE, safe (log 11). -/
def bootSequence (s : State) : State :=
  let s1 := bootStart s
  if bit s1.boot.straps 3 then trySlots 5 true s1 else enterMaint s1
/-- FLT_RST_CAUSE (R473). -/
def setCause (c : BitVec 3) (src : BitVec 9) (s : State) : State := { s with flt := { s.flt with cause := c, causeSrc := src } }
/-- PORST_N is released (R474, R476): it does not act while the F4 latch is set (R472).
DEDUCED, unsafe (log 58). -/
def doPorst (straps : BitVec 4) (s : State) : State :=
  if s.flt.f4 then s
  else
    let c : BitVec 3 := if s.boot.st = .lost ∨ s.boot.cold then 0 else 1
    let s1 := resetState true false { s with boot := { s.boot with straps := straps, failmask := 0, swrst := false } }
    bootSequence (setCause c 0 s1)
/-- SYSRST_N, or GLB_RST_CMD with sw set (R474).
DEDUCED, unsafe (log 58). -/
def doSysrst (sw : Bool) (s : State) : State :=
  if s.flt.f4 ∨ s.boot.st = .off ∨ s.boot.st = .lost then s
  else bootSequence (setCause 2 0 (resetState false true { s with boot := { s.boot with swrst := sw } }))
/-- A chip reset (R474): src is the source recorded. -/
def chipReset (src : BitVec 9) (s : State) : State :=
  if s.flt.f4 then { s with flt := { s.flt with rstPend := none } }
  else bootSequence (setCause 3 src (resetState false true { s with boot := { s.boot with swrst := false } }))
/-- PORST_N.
DESIGN CHOICE, safe (log 11). -/
def execPorstN (straps : BitVec 4) (s : State) : Res := .next (doPorst straps s)
/-- SYSRST_N -/
def execSysrstN (s : State) : Res := .next (doSysrst false s)

/-! Boot done (R478). -/
/-- A context of GALLERY starts (R487, R136). -/
def startMode (s : State) (e : CtxId × Bool) : State :=
  let r := recOf s e.1
  (ctxStart s e.1 e.2 (if e.2 then r.pc else r.stpa) [] none).getD s
/-- The profile of GLB_PROFILE takes effect (R12, R17, R501). -/
def takeProfile (s : State) : State :=
  let p := fld (act s aPROFILE) 0 3
  let s1 := { s with boot := { s.boot with
      pll := if profFreq p = profFreq s.boot.profile.toNat then s.boot.pll else !s.boot.pll
      stbyLock := s.boot.stbyLock && decide (profFreq p = profFreq s.boot.profile.toNat)
      stbyBusy := s.boot.stbyBusy && decide (profFreq p = profFreq s.boot.profile.toNat)
      profile := BitVec.ofNat 3 p } }
  let s2 := { s1 with boot := { s1.boot with vid := BitVec.ofNat 4 (vidCode s1 p) } }
  if p = 3 then (List.range 16).foldl (fun s i => setCl s (16 + i) { clOf s (16 + i) with mode := .frugal }) s2 else s2
end Sys2Proof.Machine
end

