-- ==== Sys2Proof/Machine/Flags.lean ====
section
/-! DEFINITION. Results and flags of the Clana integer operations (R104 to R110), each for 64 bits and for a W form. -/
namespace Sys2Proof.Machine

/-- A result with the carry and overflow that it sets; none leaves the flag as it is. -/
structure AluRes where
  res : DWord
  c : Option Bool := none
  v : Option Bool := none
deriving DecidableEq, Repr

/-- The width of a form: 32 for W forms. -/
def wid (w : Bool) : Nat := if w then 32 else 64
/-- The operand of a form, unsigned: the low 32 bits for W forms (R105). -/
def opU (w : Bool) (a : DWord) : Nat := a.toNat % 2 ^ wid w
/-- The operand of a form, signed. -/
def opS (w : Bool) (a : DWord) : Int := if w then (a.setWidth 32).toInt else a.toInt
/-- A result of a form: a 32-bit result is sign-extended (R105). -/
def resOf (w : Bool) (n : Nat) : DWord := if w then (BitVec.ofNat 32 n).signExtend 64 else BitVec.ofNat 64 n
/-- SR with N and Z of a result (R91, R105): a W result is sign-extended, so bit 63 is its bit 31. -/
def flagsNZ (sr : Word) (r : DWord) : Word := setFld (setFld sr 0 1 (b2n (bit r 63))) 1 1 (b2n (r = 0))
/-- SR with C and V where the result sets them. -/
def flagsCV (sr : Word) (x : AluRes) : Word :=
  let s1 := match x.c with | some b => setFld sr 2 1 (b2n b) | none => sr
  match x.v with | some b => setFld s1 3 1 (b2n b) | none => s1
/-- Addition (R104, R105, R109). -/
def aluAdd (w : Bool) (a b : DWord) : AluRes :=
  let r := resOf w (opU w a + opU w b)
  { res := r, c := some (decide (2 ^ wid w ≤ opU w a + opU w b)), v := some (decide (opS w a + opS w b ≠ opS w r)) }
/-- Subtraction (R104, R105, R109). -/
def aluSub (w : Bool) (a b : DWord) : AluRes :=
  let r := resOf w (2 ^ wid w + opU w a - opU w b)
  { res := r, c := some (decide (opU w a < opU w b)), v := some (decide (opS w a - opS w b ≠ opS w r)) }
/-- An operation on bits. -/
def aluBits (w : Bool) (n : Nat) : AluRes := { res := resOf w n }
/-- Shift left (R107). -/
def aluShl (w : Bool) (a : DWord) (c : Nat) : AluRes :=
  let x := opU w a
  if c = 0 then { res := resOf w x }
  else if c < wid w then { res := resOf w (x * 2 ^ c), c := some (x.testBit (wid w - c)) }
  else { res := 0, c := some (decide (c = wid w) && x.testBit 0) }
/-- Shift right logical (R107). -/
def aluShr (w : Bool) (a : DWord) (c : Nat) : AluRes :=
  let x := opU w a
  if c = 0 then { res := resOf w x }
  else if c < wid w then { res := resOf w (x / 2 ^ c), c := some (x.testBit (c - 1)) }
  else { res := 0, c := some (decide (c = wid w) && x.testBit (wid w - 1)) }
/-- Shift right arithmetic (R107). -/
def aluSar (w : Bool) (a : DWord) (c : Nat) : AluRes :=
  let x := opU w a
  let neg := x.testBit (wid w - 1)
  if c = 0 then { res := resOf w x }
  else if c < wid w then { res := resOf w (x / 2 ^ c + (if neg then 2 ^ wid w - 2 ^ (wid w - c) else 0)), c := some (x.testBit (c - 1)) }
  else { res := resOf w (if neg then 2 ^ wid w - 1 else 0), c := some neg }
/-- Rotate left (R107). -/
def aluRol (w : Bool) (a : DWord) (c : Nat) : AluRes :=
  let x := opU w a
  let k := c % wid w
  { res := resOf w (x * 2 ^ k + x / 2 ^ (wid w - k)) }
/-- Rotate right (R107). -/
def aluRor (w : Bool) (a : DWord) (c : Nat) : AluRes := aluRol w a (wid w - c % wid w)
/-- The number of leading zero bits among the low n bits of x. -/
def clzN : Nat → Nat → Nat
  | 0, _ => 0
  | n + 1, x => if x.testBit n then 0 else clzN n x + 1
/-- The number of trailing zero bits among n bits of x. -/
def ctzN : Nat → Nat → Nat
  | 0, _ => 0
  | n + 1, x => if x % 2 = 1 then 0 else ctzN n (x / 2) + 1
/-- The number of 1 bits among n bits of x. -/
def popN : Nat → Nat → Nat
  | 0, _ => 0
  | n + 1, x => x % 2 + popN n (x / 2)

/-- Signed division rounded toward zero: quotient, remainder (R110). -/
def divS (a b : DWord) : DWord × DWord :=
  if b = 0 then (BitVec.allOnes 64, a) else (BitVec.ofInt 64 (a.toInt.tdiv b.toInt), BitVec.ofInt 64 (a.toInt.tmod b.toInt))
/-- Unsigned division (R110). -/
def divU (a b : DWord) : DWord × DWord :=
  if b = 0 then (BitVec.allOnes 64, a) else (BitVec.ofNat 64 (a.toNat / b.toNat), BitVec.ofNat 64 (a.toNat % b.toNat))
/-- The product low and high, signed (R117). -/
def mulS (a b : DWord) : DWord × DWord :=
  let p : BitVec 128 := BitVec.ofInt 128 (a.toInt * b.toInt)
  (p.setWidth 64, (p >>> 64).setWidth 64)
/-- The product low and high, unsigned (R117). -/
def mulU (a b : DWord) : DWord × DWord :=
  (BitVec.ofNat 64 (a.toNat * b.toNat), BitVec.ofNat 64 (a.toNat * b.toNat / 2 ^ 64))
/-- DIV of the most negative value by −1 sets V (R110). -/
def divV (a b : DWord) : Bool := decide (a = 0x8000_0000_0000_0000 ∧ b = BitVec.allOnes 64)

/-- Whether a condition of BC holds (R108); 0xF is reserved. -/
def condHolds (cond : BitVec 4) (sr : Word) : Bool :=
  let n := bit sr 0
  let z := bit sr 1
  let c := bit sr 2
  let v := bit sr 3
  match cond.toNat with
  | 0 => z | 1 => !z | 2 => c | 3 => !c | 4 => n | 5 => !n | 6 => v | 7 => !v
  | 8 => !c && !z | 9 => c || z | 10 => n != v | 11 => n == v | 12 => !z && n == v | 13 => z || n != v | 14 => true | _ => false

end Sys2Proof.Machine
end

