-- ==== Sys2Proof/Machine/Operands.lean ====
section
/-! DEFINITION. Operand forms of Clana: the words of R97 to R101, immediates (R100, R106, R111, R113) and special registers (R89 to R95). -/
namespace Sys2Proof.Machine

/-! Words (R97, R99). -/
/-- Format A -/
def fmtA (op : Nat) (rd ra rb : Reg) (w : Bool) (fn : Nat) : Word :=
  BitVec.ofNat 32 (op * 2 ^ 26 + rd.toNat * 2 ^ 22 + ra.toNat * 2 ^ 18 + rb.toNat * 2 ^ 14 + b2n w * 2 ^ 13 + fn)
/-- Format B -/
def fmtB (op : Nat) (rd ra : Reg) (sub : Nat) (imm : Half) : Word :=
  BitVec.ofNat 32 (op * 2 ^ 26 + rd.toNat * 2 ^ 22 + ra.toNat * 2 ^ 18 + sub * 2 ^ 16 + imm.toNat)
/-- Format C -/
def fmtC (op : Nat) (cond : BitVec 4) (off : BitVec 22) : Word := BitVec.ofNat 32 (op * 2 ^ 26 + cond.toNat * 2 ^ 22 + off.toNat)
/-- Format D -/
def fmtD (op : Nat) (off : BitVec 26) : Word := BitVec.ofNat 32 (op * 2 ^ 26 + off.toNat)
/-- Format E -/
def fmtE (op : Nat) (rd ra rb : Reg) (x : Byte) (fn : Nat) : Word :=
  BitVec.ofNat 32 (op * 2 ^ 26 + rd.toNat * 2 ^ 22 + ra.toNat * 2 ^ 18 + rb.toNat * 2 ^ 14 + x.toNat * 2 ^ 6 + fn)
/-- The first word of a unit (R100, R101, R131). -/
def firstWord (p : Pfx) (w : Word) : Word :=
  if p.rep then 0xFC00_0000#32 else match p.ext with | some h => 0xF800_0000#32 ||| h.setWidth 32 | none => w
/-- The number of prefix words. -/
def pfxLen (p : Pfx) : Nat := b2n p.rep + b2n p.ext.isSome
/-- The bytes of a unit. -/
def pfxSize (p : Pfx) : Nat := 4 * pfxLen p + 4

/-! Immediates. -/
/-- A sign-extended immediate, widened by EXT (R100, R106). -/
def immS (p : Pfx) (imm : Half) : DWord :=
  match p.ext with | some h => (h ++ imm : BitVec 32).signExtend 64 | none => imm.signExtend 64
/-- A zero-extended immediate, widened by EXT (R100, R106). -/
def immU (p : Pfx) (imm : Half) : DWord :=
  match p.ext with | some h => (h ++ imm : BitVec 32).setWidth 64 | none => imm.setWidth 64
/-- A branch target: the branch word's address and an offset in words (R113). -/
def target (pc : DWord) (p : Pfx) (off : DWord) : DWord := pc + BitVec.ofNat 64 (4 * pfxLen p) + 4 * off
/-- The bytes of a load or store of SUB size (R111). -/
def szBytes (sz : BitVec 2) : Nat := 2 ^ sz.toNat
/-- Loaded data, zero-extended or sign-extended (R111). -/
def loadExt (sgn : Bool) (bs : List Byte) : DWord :=
  let n := leNat bs
  if sgn ∧ 2 ^ (8 * bs.length - 1) ≤ n then BitVec.ofInt 64 ((n : Int) - 2 ^ (8 * bs.length)) else BitVec.ofNat 64 n

/-! Special registers (R89). -/
/-- The levels of the Read and Write columns; none for a register without the access, and none at all for a reserved number; mp for a
processor, where REPA does not exist (R133). -/
def spReg (mp : Bool) (x : Nat) : Option (Nat × Option Nat) :=
  match x with
  | 0x00 => some (0, none) | 0x01 => some (0, some 0) | 0x02 => some (0, some 0) | 0x03 => some (0, some 0) | 0x04 => some (0, some 0)
  | 0x05 => some (0, some 0) | 0x08 => some (1, some 1) | 0x09 => some (1, some 1) | 0x0A => some (1, some 1) | 0x0B => some (0, some 1)
  | 0x0C => some (0, some 1) | 0x10 => some (0, none) | 0x11 => some (0, none) | 0x12 => some (0, none) | 0x13 => some (0, none)
  | 0x14 => some (1, some 1) | 0x15 => if mp then none else some (1, some 1) | 0x18 => some (0, none) | 0x1C => some (0, none)
  | 0x1D => some (0, none) | 0x1E => some (0, none) | 0x1F => some (0, none) | _ => none
/-- SR after MTS (R92): N, Z, C, V, DZ, DZT, EM and RSM; PL keeps, reserved bits read 0. -/
def srWrite (old : Word) (v : Word) : Word := (old &&& 0x300#32) ||| (v &&& 0xC3F#32)

end Sys2Proof.Machine
end

