-- ==== Sys2Proof/Machine/Clana.lean ====
section
/-! DEFINITION. How a thread issues one Clana instruction (R97 to R103, R131, R132, R140 to R146), its loads and stores (R111, R112, R303,
R523), and how a context gives up its slot. -/
namespace Sys2Proof.Machine

/-! Threads. -/
/-- Who a thread is to memory. -/
def thrAgent (s : State) : Thread → Agent
  | .ctx c => ctxAgent s c
  | .mp n => .mp n
/-- The level of a thread -/
def thrLvl (s : State) (t : Thread) : Lvl := srPL (regsOf s t)
/-- A thread without groups CHN, PORT and WAIT but with MPI (R133). -/
def isMp : Thread → Bool
  | .ctx _ => false
  | .mp _ => true
/-- The address of scratch by physical cluster for an address in an agent's alias (R29). -/
def physAddr (ag : Agent) (a : Nat) : Nat :=
  match ag with
  | .cl c => if 0x2000_0000 ≤ a ∧ a < 0x2001_0000 then 0x1000_0000 + c * 0x1_0000 + (a - 0x2000_0000) else a
  | _ => a
/-- The requests at a processor (R157): the levels of the asserted group lines and of NMT. -/
def mpRequests (s : State) (n : BitVec 2) : List Nat :=
  ((List.range 8).filter (mpLine s n)).map (· + 1) ++ (if s.flt.nmtPend && nmtPair s == some n then [9] else [])
/-- A WFI ends once an interrupt is pending (R133). -/
def mpWake (s : State) (n : BitVec 2) : State :=
  let m := mpOf s n
  if m.wfi && !(mpRequests s n).isEmpty then
    let r := regsOf s (.mp n)
    setRegs (setMp s n { m with wfi := false }) (.mp n) { r with pc := r.pc + 4 }
  else s
/-- What a thread does before it can issue. -/
def thrWake (s : State) : Thread → State
  | .ctx _ => s
  | .mp n => mpWake s n
/-- Whether the Orchard holds a line (R191, R192). -/
def orchHas (s : State) (n : Nat) : Bool := !s.eng.invBusy && s.eng.orch.any fun e => e.1 = n
/-- Whether a fetch of code at an address waits for an interface that is retrained (R453): not one of a line that a cache holds. -/
def codeStalled (s : State) (t : Thread) (a : Nat) : Bool :=
  stalled s (thrAgent s t) a && !orchHas s (a / 64) &&
    match thrAgent s t with
    | .cl c => !(clOf s c).icache.contains (a / 64)
    | _ => true
/-- Whether the words of a unit can be fetched at PC (R114, R140, R453): aligned, not a bus error, and without a wait. -/
def fetchOk (s : State) (t : Thread) (size : Nat) : Bool :=
  let pc := (regsOf s t).pc.toNat
  decide (pc % 4 = 0) && !codeStalled s t pc && !codeStalled s t (pc + size - 4) && (rdBytes s (thrAgent s t) pc size).isSome
/-- Whether code runs: the device is in RUN and its clocks run (R464, R490, R493). -/
def inRun (s : State) : Bool := clocksOn s && s.boot.st == .run
/-- Whether the scheduler has decided to switch a context out (R184, R188): it stopped at its boundary. -/
def leaving (s : State) (c : CtxId) : Bool :=
  match (clOf s (homeOf s c)).switch with
  | some (o, _) => o == c
  | none => false
/-- Whether a thread can issue an instruction (R141, R157, R182, R195). -/
def canIssue (s : State) (t : Thread) : Bool :=
  let x := thrOf s t
  inRun s && x.bus.isNone && x.egress.isNone && x.last.isNone && (chanOf s (tkey t)).isNone &&
    match t with
    | .ctx c => decide (stOf s c = .resident) && decide (x.phase = .code) && !ctxFenced s c && !asyncTakeable s c && !leaving s c
    | .mp n => !(mpOf s n).stopped && !(mpOf s n).fenced && !(mpOf s n).wfi

/-! One instruction. -/
/-- What executing an instruction does: it completes, it completes with a jump, it stays at its address, or it raises an exception. -/
inductive Eff where
  | done (s : State)
  | jump (s : State) (pc : DWord)
  | stay (s : State)
  | exc (s : State) (cause : Nat) (eval : DWord)
/-- How an instruction decodes (R98 to R102): its word, the prefixes that it accepts, whether its operands and its group are legal, and the
registers that it reads or writes. -/
structure Dec where
  word : Word
  ext : Bool
  rep : Bool
  legal : Bool
  regs : List Reg
/-- Whether the unit is an illegal instruction (R98, R100, R102). -/
def illegal (p : Pfx) (d : Dec) : Bool := !d.legal || (p.rep && !d.rep) || (p.ext.isSome && !d.ext)
/-- An access falls in the watched range: the watch cause becomes pending (R146). -/
def watchOn (s : State) (t : Thread) (kind a n : Nat) : State :=
  match t with
  | .ctx c =>
    let x := thrOf s t
    if x.watch.isNone && watchHit s c kind a n then setThr s t { x with watch := some (BitVec.ofNat 64 a) } else s
  | .mp _ => s
/-- Whether an asynchronous cause of a thread is takeable (R141). -/
def asyncNow (s : State) : Thread → Bool
  | .ctx c => asyncTakeable s c
  | .mp _ => false
/-- The end of an instruction that completed: PC moves past the unit, or a REP counts its iteration (R101). -/
def unitDone (s : State) (t : Thread) (p : Pfx) : State :=
  let r := regsOf s t
  let next := r.pc + BitVec.ofNat 64 (pfxSize p)
  if p.rep then
    let last := decide (r.rc = 1)
    setThr (setRegs s t { r with rc := r.rc - 1, pc := if last then next else r.pc }) t
      { thrOf (setRegs s t { r with rc := r.rc - 1, pc := if last then next else r.pc }) t with inRep := !last }
  else setRegs s t { r with pc := next }
/-- An instruction decodes and executes on a thread that fetched it (R98, R101, R112, R131, R140). -/
def executeIns (t : Thread) (p : Pfx) (d : Dec) (body : State → Eff) (s : State) : State :=
  let pre := p.rep || p.ext.isSome
  if illegal p d then raiseExc s t xILL ((firstWord p d.word).setWidth 64) pre
  else if p.rep ∧ (regsOf s t).rc = 0 then
    let r := regsOf s t
    setRegs (setThr s t { thrOf s t with inRep := false }) t { r with pc := r.pc + BitVec.ofNat 64 (pfxSize p) }
  else if d.regs.any fun g => (thrOf s t).loads.any fun l => l.1 = g then s
  else match body s with
    | .done s1 => unitDone s1 t p
    | .jump s1 pc => setRegs s1 t { regsOf s1 t with pc := pc }
    | .stay s1 => s1
    | .exc s1 cause v => raiseExc s1 t cause v pre
/-- A thread issues an instruction at its PC. A fetch in the watched range interrupts before the instruction issues (R146, R167).
DESIGN CHOICE, unsafe (log 59), DEDUCED, unsafe (log 61). -/
def issue (t : Thread) (p : Pfx) (d : Dec) (body : State → Eff) (s0 : State) : State :=
  let s := thrWake s0 t
  if !canIssue s t || !fetchOk s t (pfxSize p) then s0
  else
    let s1 := watchOn s t 21 (regsOf s t).pc.toNat (pfxSize p)
    if asyncNow s1 t then s1 else executeIns t p d body s1

/-! Loads (R111, R112). -/
/-- The byte that a thread's own stores give an address; the youngest store counts. -/
def sbByte (l : List SbEntry) (a : Nat) : Option Byte :=
  l.foldl (fun b e => if e.addr.toNat ≤ a ∧ a < e.addr.toNat + e.bytes.length then some (byteAt e.bytes (a - e.addr.toNat)) else b) none
/-- Bytes with the thread's own stores in place. -/
def sbOver (l : List SbEntry) (a : Nat) (bs : List Byte) : List Byte :=
  if l.isEmpty then bs else (List.range bs.length).map fun i => (sbByte l (a + i)).getD (byteAt bs i)
/-- Whether a store to register space waits in the buffer. -/
def sbRegs (l : List SbEntry) : Bool := l.any fun e => decide (e.addr.toNat < 0x11_0000)
/-- n bytes as a thread's load sees them; none for a bus error. -/
def loadBytes (s : State) (t : Thread) (a n : Nat) : Option (List Byte × State) :=
  let ag := thrAgent s t
  if a < 0x11_0000 then (if n % 4 = 0 then readRegs (thrLvl s t) (n / 4) a s else none)
  else (rdBytes s ag a n).map fun b => (sbOver (thrOf s t).sb (physAddr ag a) b, s)
/-- LD, LDS and their .P forms (R111, R112): the value is read at issue and arrives with LOAD_DATA_ARRIVAL. A load
through an interface that is retrained waits (R453), and an uncorrectable error that it meets is logged (R440). -/
def loadIns (t : Thread) (p : Pfx) (sgn post : Bool) (sz : BitVec 2) (gd ga : Reg) (imm : Half) (s : State) : Eff :=
  let r := regsOf s t
  let base := r.gr ga
  let a := if post then base else base + immS p imm
  let n := szBytes sz
  if a.toNat % n ≠ 0 then .exc s xALIGN a
  else if (a.toNat < 0x11_0000 ∧ sbRegs (thrOf s t).sb) ∨ stalledIn s (thrAgent s t) a.toNat n then .stay s
  else match loadBytes s t a.toNat n with
    | none => .exc (noteUeIn s (thrAgent s t) a.toNat n) xBUS a
    | some (bs, s1) =>
      let s2 := setThr s1 t { thrOf s1 t with loads := (thrOf s1 t).loads ++ [(gd, loadExt sgn bs)] }
      let s3 := if post then setRegs s2 t ((regsOf s2 t).setG ga (base + immS p imm)) else s2
      .done (watchOn s3 t 19 a.toNat n)
/-- LOAD_DATA_ARRIVAL: a load's data reach its register (R112). -/
def loadArrives (t : Thread) (gd : Reg) (s : State) : State :=
  let x := thrOf s t
  match x.loads.find? fun l => l.1 = gd with
  | some l =>
    let s1 := setThr s t { x with loads := x.loads.filter fun e => e.1 ≠ gd }
    putRegs s1 t ((regsOf s1 t).setG gd l.2)
  | none => s

/-! Stores (R111, R112, R303, R523). -/
/-- Whether a store of n bytes may be done at a level (R24, R26, R27, R134, R441). -/
def storeMay (s : State) (ag : Agent) (lvl : Lvl) (a n : Nat) : Bool :=
  if a < 0x11_0000 then decide (n % 4 = 0) && mayWriteReg lvl a && (decide (n = 4) || mayWriteReg lvl (a + 4))
  else wrOk s ag lvl a n && !partialUpset s ag lvl a n
/-- ST and ST.P: the store enters the store buffer (R112). -/
def storeIns (t : Thread) (p : Pfx) (post : Bool) (sz : BitVec 2) (gd ga : Reg) (imm : Half) (s : State) : Eff :=
  let r := regsOf s t
  let base := r.gr ga
  let a := if post then base else base + immS p imm
  let n := szBytes sz
  let ag := thrAgent s t
  let lvl := thrLvl s t
  if a.toNat % n ≠ 0 then .exc s xALIGN a
  else if !storeMay s ag lvl a.toNat n then .exc s xBUS a
  else if 8 ≤ (thrOf s t).sb.length then .stay s
  else
    let e : SbEntry := { addr := BitVec.ofNat 64 (physAddr ag a.toNat), bytes := leBytes n (r.gr gd).toNat, lvl := lvl }
    let s1 := setThr s t { thrOf s t with sb := (thrOf s t).sb ++ [e] }
    let s2 := if post then setRegs s1 t ((regsOf s1 t).setG ga (base + immS p imm)) else s1
    .done (watchOn s2 t 20 a.toNat n)
/-- Whether the express path is on (R303). -/
def expressOn (s : State) : Bool := bit (act s (aSCT + 0x28)) 0
/-- A mailbox of the express area: key 4 × cluster + slot. -/
def mboxOf (s : State) (k : Nat) : Mbox := sget {} s.sct.mbox k
/-- Writes a mailbox. -/
def setMbox (s : State) (k : Nat) (x : Mbox) : State := { s with sct := { s.sct with mbox := sset {} s.sct.mbox k x } }
/-- A store to a release word releases the mailbox; before the frame is complete the release waits for the status word (R303). -/
def releaseMbox (s : State) (k : Nat) : State :=
  let m := mboxOf s k
  if !m.full then s
  else if m.complete then setMbox s k {} else setMbox s k { m with relPend := true }
/-- The key of the session that an express header names (R284, R303). -/
def hdrKey (session : Nat) (dst : Byte) : Option Nat :=
  if session < 0x40 then some session else if session = 0x8000 then some (0x40 + dst.toNat) else none
/-- A store of LEN to a send word sends the transmit buffer as an express frame (R303): SRC, HOPS, SEQ and HCHK are the device's. -/
def expressSend (s : State) (cl slot len : Nat) : State :=
  if len < 16 ∨ 128 < len then setRsvd s
  else
    let b := (List.range len).map fun i => memGet s (0x1000_0000 + cl * 0x1_0000 + 0xFA00 + 128 * slot + i)
    let session := beNat (slice b 6 2)
    let dst := byteAt b 3
    let (seq, s1) : Word × State :=
      match hdrKey session dst with
      | some k => ((sessOf s k).express, setSess s k { sessOf s k with express := (sessOf s k).express + 1 })
      | none => (0, s)
    let h := [byteAt b 0, byteAt b 1, byteAt b 2 ||| 2, dst, s1.rm.addr, BitVec.ofNat 8 (fld (act s1 (aSCT + 0xC)) 0 8)] ++
      beBytes 2 session ++ beBytes 4 seq.toNat ++ slice b 12 2
    let f := sctFrame s1 h (b.drop 16)
    sendOn (sendOn (nextRtag s1) false f true) true f true
/-- What a Clana store does in the express area beside its write (R303, R523). -/
def expressAct (s : State) (t : Thread) (e : SbEntry) : State :=
  let a := e.addr.toNat
  let cl := (a - 0x1000_0000) / 0x1_0000
  let o := a % 0x1_0000
  match t with
  | .mp _ => s
  | .ctx c =>
    if !expressOn s ∨ !expressWord a then s
    else if homeOf s c ≠ cl then (if o < 0xFC10 then setRsvd s else s)
    else if o < 0xFC10 then
      (if e.bytes.length = 4 then
        (if leNat (e.bytes.drop 1) = 0 then expressSend s cl ((o - 0xFC00) / 4) (byteAt e.bytes 0).toNat else setRsvd s)
      else setRsvd s)
    else (List.range 4).foldl (fun s k => if o < 0xFC14 + 4 * k ∧ 0xFC10 + 4 * k < o + e.bytes.length then releaseMbox s (4 * cl + k) else s) s
/-- Whether a store is one of a context to a send word with a LEN outside 16 to 128, which is ignored (R303); with a bit of [31:8] set it is one too.
DEDUCED, unsafe (log 66). -/
def sendIgnored (s : State) (t : Thread) (e : SbEntry) : Bool :=
  match t with
  | .mp _ => false
  | .ctx c =>
    let o := e.addr.toNat % 0x1_0000
    let len := leNat e.bytes
    expressOn s && expressWord e.addr.toNat && decide (homeOf s c = (e.addr.toNat - 0x1000_0000) / 0x1_0000) && decide (o < 0xFC10) &&
      decide (e.bytes.length = 4) && decide (len < 16 ∨ 128 < len)
/-- A store completes at its destination (R112); in the express area it acts as R523 says. -/
def storeLands (s : State) (t : Thread) (e : SbEntry) : State :=
  if sendIgnored s t e then setRsvd s else
  match writeBeat (thrAgent s t) e.lvl e.addr.toNat e.bytes s with
  | some s1 =>
    if expressWord e.addr.toNat ∧ !isMp t then expressAct { s1 with reg := { s1.reg with rsvd := s.reg.rsvd } } t e else s1
  | none => s
/-- Whether two stores touch a common byte. -/
def sbClash (a b : SbEntry) : Bool := decide (a.addr.toNat < b.addr.toNat + b.bytes.length ∧ b.addr.toNat < a.addr.toNat + a.bytes.length)
/-- Whether a store lies in scratch. -/
def sbScratch (e : SbEntry) : Bool := decide (0x1000_0000 ≤ e.addr.toNat ∧ e.addr.toNat < 0x1021_0000)
/-- Whether entry i may complete before the entries that are older (R112, R303): not before one to the same bytes, and scratch in order. -/
def mayDrain (l : List SbEntry) (i : Nat) : Bool :=
  match l[i]? with
  | none => false
  | some e => (l.take i).all fun d => !sbClash d e && !(sbScratch d && sbScratch e)
/-- What waits for the stores of a thread goes on once they are complete: a final report (R62). -/
def storesGone (s : State) : Thread → State
  | .ctx c => lastReport s c
  | .mp _ => s
/-- Entry i of a thread's store buffer completes (R112); it waits for a DRAM interface that is retrained (R453). -/
def drainEntry (t : Thread) (i : Nat) (s : State) : State :=
  let x := thrOf s t
  match x.sb[i]? with
  | some e =>
    if mayDrain x.sb i ∧ !stalled s (thrAgent s t) e.addr.toNat then storesGone (storeLands (setThr s t { x with sb := x.sb.eraseIdx i }) t e) t else s
  | none => s
/-- The first entry of a buffer that satisfies p completes. -/
def drainFirst (t : Thread) (p : SbEntry → Bool) (s : State) : State :=
  match (thrOf s t).sb.findIdx? p with
  | some i => drainEntry t i s
  | none => s
/-- Whether an entry is a 32-bit store of a context to the send word of a slot (R523). -/
def isSend (s : State) (c : CtxId) (slot : Nat) (e : SbEntry) : Bool :=
  decide (e.addr.toNat = 0x1000_0000 + homeOf s c * 0x1_0000 + 0xFC00 + 4 * slot) && decide (e.bytes.length = 4)
/-- Whether an entry is a store of a context to the release word of a slot (R523). -/
def isRelease (s : State) (c : CtxId) (slot : Nat) (e : SbEntry) : Bool :=
  let w := 0x1000_0000 + homeOf s c * 0x1_0000 + 0xFC10 + 4 * slot
  decide (e.addr.toNat < w + 4) && decide (w < e.addr.toNat + e.bytes.length)

/-! Giving up a slot. -/
/-- A RESIDENT context is saved and becomes READY (R170, R177); its READY age counts from now. -/
def toReady (s : State) (c : CtxId) : State :=
  let (n, s1) := nextStamp (leaveSlot (saveRec s c .ready) c)
  setThr (setSt s1 c .ready) (.ctx c) { thrOf s1 (.ctx c) with readyAt := n }
/-- A RESIDENT context gives up its slot (R177, R184): a MOVE stops with its residue first (R121), or ends the stop that is in progress on it (R218 to R222).
One that waits for a DRAM interface that is retrained moves no byte: it reads again what it had read and not written.
DESIGN CHOICE, unsafe (log 130). -/
def pushOut (s : State) (c : CtxId) : State :=
  let s1 := match chanOf s c.toNat with
    | some x =>
      if x.kind ≠ .move then s
      else if chanStalled s c.toNat x x.read then
        match x.stopping with
        | some .halt => haltWith s c sABORT 0x17 0
        | some .timed => stopAbort { s with mov := { s.mov with cmdBusy := s.mov.cmdBusy && s.mov.cmdCtx != c, cmdRes := 0 } } c x none
        | some .bulk => beginWait (grantAll (freeChan (setChst s c { chstOf s c with paused := true }) c.toNat)) c 6 {}
        | some .glob => beginWait (grantAll (freeChan s c.toNat)) c 6 {}
        | none => grantAll (freeChan s c.toNat)
      else match x.stopping with
        | some why => stopEnd s c x why x.read
        | none => (interruptMove s (.ctx c) x.read).1
    | none => s
  if stOf s1 c = .resident then toReady s1 c else s1

end Sys2Proof.Machine
end

