-- ==== Sys2Proof/Machine/Alu.lean ====
section
/-! DEFINITION. The Clana integer operations: ALU register group (R104, R105, R107) and immediate group (R106). -/
namespace Sys2Proof.Machine

/-- A result written to gd with N, Z and the flags that it sets (R104, R105). -/
def putAlu (t : Thread) (gd : Reg) (x : AluRes) (s : State) : Eff :=
  let r := regsOf s t
  .done (setRegs s t { r.setG gd x.res with sr := flagsCV (flagsNZ r.sr x.res) x })
/-- The flags of a result that no register takes: CMP, TST, CMPI (R104, R106). -/
def putFlags (t : Thread) (x : AluRes) (s : State) : Eff :=
  let r := regsOf s t
  .done (setRegs s t { r with sr := flagsCV (flagsNZ r.sr x.res) x })
/-- A result written to gd, no flag changed. -/
def putReg (t : Thread) (gd : Reg) (v : DWord) (s : State) : Eff := .done (setRegs s t ((regsOf s t).setG gd v))
/-- An instruction of the ALU register group (R104): REP yes, EXT no. -/
def aluDec (gd ga gb : Reg) (w : Bool) (fn : Nat) (regs : List Reg) : Dec :=
  { word := fmtA 1 gd ga gb w fn, ext := false, rep := true, legal := true, regs := regs }
/-- A three-register instruction with a result and flags. -/
def alu3 (t : Thread) (p : Pfx) (w : Bool) (gd ga gb : Reg) (fn : Nat) (f : Bool → DWord → DWord → AluRes) (s : State) : State :=
  issue t p (aluDec gd ga gb w fn [gd, ga, gb]) (fun s => putAlu t gd (f w ((regsOf s t).gr ga) ((regsOf s t).gr gb)) s) s
/-- A three-register instruction without flags. -/
def sel3 (t : Thread) (p : Pfx) (w : Bool) (gd ga gb : Reg) (fn : Nat) (f : Bool → DWord → DWord → Nat) (s : State) : State :=
  issue t p (aluDec gd ga gb w fn [gd, ga, gb]) (fun s => putReg t gd (resOf w (f w ((regsOf s t).gr ga) ((regsOf s t).gr gb))) s) s
/-- A two-register instruction with a result and flags. -/
def alu2 (t : Thread) (p : Pfx) (w : Bool) (gd ga : Reg) (fn : Nat) (f : Bool → DWord → AluRes) (s : State) : State :=
  issue t p (aluDec gd ga 0 w fn [gd, ga]) (fun s => putAlu t gd (f w ((regsOf s t).gr ga)) s) s
/-- A two-register instruction without flags. -/
def sel2 (t : Thread) (p : Pfx) (w : Bool) (gd ga : Reg) (fn : Nat) (f : Bool → DWord → Nat) (s : State) : State :=
  issue t p (aluDec gd ga 0 w fn [gd, ga]) (fun s => putReg t gd (resOf w (f w ((regsOf s t).gr ga))) s) s
/-- A comparison of two registers. -/
def cmp2 (t : Thread) (p : Pfx) (w : Bool) (ga gb : Reg) (fn : Nat) (f : Bool → DWord → DWord → AluRes) (s : State) : State :=
  issue t p (aluDec 0 ga gb w fn [ga, gb]) (fun s => putFlags t (f w ((regsOf s t).gr ga) ((regsOf s t).gr gb)) s) s
/-- The shift count of a register: its low 8 bits (R107). -/
def cnt8 (b : DWord) : Nat := b.toNat % 256
/-- AND, OR, XOR and ANDN on the bits of a form. -/
def aluLogic (f : DWord → DWord → DWord) (w : Bool) (a b : DWord) : AluRes := aluBits w (f a b).toNat
/-- The bytes of a form reversed. -/
def bswapN (w : Bool) (a : DWord) : Nat := leNat (leBytes (wid w / 8) a.toNat).reverse

/-! ALU register group (R104). -/
/-- ADD -/
def execAdd (t : Thread) (p : Pfx) (w : Bool) (gd ga gb : Reg) (s : State) : Res := onCore (alu3 t p w gd ga gb 0x0 aluAdd) s
/-- SUB -/
def execSub (t : Thread) (p : Pfx) (w : Bool) (gd ga gb : Reg) (s : State) : Res := onCore (alu3 t p w gd ga gb 0x1 aluSub) s
/-- AND -/
def execAnd (t : Thread) (p : Pfx) (w : Bool) (gd ga gb : Reg) (s : State) : Res := onCore (alu3 t p w gd ga gb 0x2 (aluLogic (· &&& ·))) s
/-- OR -/
def execOr (t : Thread) (p : Pfx) (w : Bool) (gd ga gb : Reg) (s : State) : Res := onCore (alu3 t p w gd ga gb 0x3 (aluLogic (· ||| ·))) s
/-- XOR -/
def execXor (t : Thread) (p : Pfx) (w : Bool) (gd ga gb : Reg) (s : State) : Res := onCore (alu3 t p w gd ga gb 0x4 (aluLogic (· ^^^ ·))) s
/-- ANDN -/
def execAndn (t : Thread) (p : Pfx) (w : Bool) (gd ga gb : Reg) (s : State) : Res := onCore (alu3 t p w gd ga gb 0x5 (aluLogic fun a b => a &&& ~~~b)) s
/-- SHL -/
def execShl (t : Thread) (p : Pfx) (w : Bool) (gd ga gb : Reg) (s : State) : Res := onCore (alu3 t p w gd ga gb 0xc (fun w a b => aluShl w a (cnt8 b))) s
/-- SHR -/
def execShr (t : Thread) (p : Pfx) (w : Bool) (gd ga gb : Reg) (s : State) : Res := onCore (alu3 t p w gd ga gb 0xd (fun w a b => aluShr w a (cnt8 b))) s
/-- SAR -/
def execSar (t : Thread) (p : Pfx) (w : Bool) (gd ga gb : Reg) (s : State) : Res := onCore (alu3 t p w gd ga gb 0xe (fun w a b => aluSar w a (cnt8 b))) s
/-- ROL -/
def execRol (t : Thread) (p : Pfx) (w : Bool) (gd ga gb : Reg) (s : State) : Res := onCore (alu3 t p w gd ga gb 0xf (fun w a b => aluRol w a (cnt8 b))) s
/-- ROR -/
def execRor (t : Thread) (p : Pfx) (w : Bool) (gd ga gb : Reg) (s : State) : Res := onCore (alu3 t p w gd ga gb 0x10 (fun w a b => aluRor w a (cnt8 b))) s
/-- MIN -/
def execMin (t : Thread) (p : Pfx) (w : Bool) (gd ga gb : Reg) (s : State) : Res := onCore (sel3 t p w gd ga gb 0x11 (fun w a b => if opS w a ≤ opS w b then opU w a else opU w b)) s
/-- MAX -/
def execMax (t : Thread) (p : Pfx) (w : Bool) (gd ga gb : Reg) (s : State) : Res := onCore (sel3 t p w gd ga gb 0x12 (fun w a b => if opS w a ≤ opS w b then opU w b else opU w a)) s
/-- MINU -/
def execMinu (t : Thread) (p : Pfx) (w : Bool) (gd ga gb : Reg) (s : State) : Res := onCore (sel3 t p w gd ga gb 0x13 (fun w a b => Nat.min (opU w a) (opU w b))) s
/-- MAXU -/
def execMaxu (t : Thread) (p : Pfx) (w : Bool) (gd ga gb : Reg) (s : State) : Res := onCore (sel3 t p w gd ga gb 0x14 (fun w a b => Nat.max (opU w a) (opU w b))) s
/-- MOV -/
def execMov (t : Thread) (p : Pfx) (w : Bool) (gd ga : Reg) (s : State) : Res := onCore (sel2 t p w gd ga 0x6 opU) s
/-- NOT -/
def execNot (t : Thread) (p : Pfx) (w : Bool) (gd ga : Reg) (s : State) : Res := onCore (alu2 t p w gd ga 0x7 (fun w a => aluBits w (~~~a).toNat)) s
/-- NEG -/
def execNeg (t : Thread) (p : Pfx) (w : Bool) (gd ga : Reg) (s : State) : Res := onCore (alu2 t p w gd ga 0x8 (fun w a => aluSub w 0 a)) s
/-- CLZ -/
def execClz (t : Thread) (p : Pfx) (w : Bool) (gd ga : Reg) (s : State) : Res := onCore (sel2 t p w gd ga 0x18 (fun w a => clzN (wid w) (opU w a))) s
/-- CTZ -/
def execCtz (t : Thread) (p : Pfx) (w : Bool) (gd ga : Reg) (s : State) : Res := onCore (sel2 t p w gd ga 0x19 (fun w a => ctzN (wid w) (opU w a))) s
/-- POPC -/
def execPopc (t : Thread) (p : Pfx) (w : Bool) (gd ga : Reg) (s : State) : Res := onCore (sel2 t p w gd ga 0x1a (fun w a => popN (wid w) (opU w a))) s
/-- BSWAP -/
def execBswap (t : Thread) (p : Pfx) (w : Bool) (gd ga : Reg) (s : State) : Res := onCore (sel2 t p w gd ga 0x1b bswapN) s
/-- CMP -/
def execCmp (t : Thread) (p : Pfx) (w : Bool) (ga gb : Reg) (s : State) : Res := onCore (cmp2 t p w ga gb 0x9 aluSub) s
/-- TST -/
def execTst (t : Thread) (p : Pfx) (w : Bool) (ga gb : Reg) (s : State) : Res := onCore (cmp2 t p w ga gb 0xa (aluLogic (· &&& ·))) s

/-! Immediate group (R106). -/
/-- An instruction of the immediate group. -/
def immDec (op : Nat) (gd ga : Reg) (sub : Nat) (imm : Half) (ext : Bool) (regs : List Reg) : Dec :=
  { word := fmtB op gd ga sub imm, ext := ext, rep := true, legal := true, regs := regs }
/-- ADDI, ANDI, ORI and XORI (R106). -/
def immIns (t : Thread) (p : Pfx) (op : Nat) (w : Bool) (gd ga : Reg) (imm : Half) (v : DWord) (f : Bool → DWord → DWord → AluRes) (s : State) : State :=
  issue t p (immDec op gd ga (b2n w) imm true [gd, ga]) (fun s => putAlu t gd (f w ((regsOf s t).gr ga) v) s) s
/-- ADDI -/
def execAddi (t : Thread) (p : Pfx) (w : Bool) (gd ga : Reg) (imm : Half) (s : State) : Res :=
  onCore (immIns t p 2 w gd ga imm (immS p imm) aluAdd) s
/-- ANDI -/
def execAndi (t : Thread) (p : Pfx) (w : Bool) (gd ga : Reg) (imm : Half) (s : State) : Res :=
  onCore (immIns t p 4 w gd ga imm (immU p imm) (aluLogic (· &&& ·))) s
/-- ORI -/
def execOri (t : Thread) (p : Pfx) (w : Bool) (gd ga : Reg) (imm : Half) (s : State) : Res :=
  onCore (immIns t p 5 w gd ga imm (immU p imm) (aluLogic (· ||| ·))) s
/-- XORI -/
def execXori (t : Thread) (p : Pfx) (w : Bool) (gd ga : Reg) (imm : Half) (s : State) : Res :=
  onCore (immIns t p 6 w gd ga imm (immU p imm) (aluLogic (· ^^^ ·))) s
/-- CMPI -/
def execCmpi (t : Thread) (p : Pfx) (w : Bool) (ga : Reg) (imm : Half) (s : State) : Res :=
  onCore (issue t p (immDec 3 0 ga (b2n w) imm true [ga]) fun s => putFlags t (aluSub w ((regsOf s t).gr ga) (immS p imm)) s) s
/-- MOVI -/
def execMovi (t : Thread) (p : Pfx) (gd : Reg) (imm : Half) (s : State) : Res :=
  onCore (issue t p (immDec 7 gd 0 0 imm true [gd]) fun s => putReg t gd (immS p imm) s) s
/-- INS: halfword h of gd is replaced -/
def execIns (t : Thread) (p : Pfx) (gd : Reg) (h : BitVec 2) (imm : Half) (s : State) : Res :=
  onCore (issue t p (immDec 8 gd 0 h.toNat imm false [gd]) fun s => putReg t gd (setFld ((regsOf s t).gr gd) (16 * h.toNat) 16 imm.toNat) s) s
/-- A shift by a count of the word (R106, R107): kind 0 SHL, 1 SHR, 2 SAR, 3 ROR. -/
def shiftKind (kind : BitVec 2) (w : Bool) (a : DWord) (n : Nat) : AluRes :=
  match kind.toNat with
  | 0 => aluShl w a n
  | 1 => aluShr w a n
  | 2 => aluSar w a n
  | _ => aluRor w a n
/-- SHI -/
def execShi (t : Thread) (p : Pfx) (kind : BitVec 2) (w : Bool) (gd ga : Reg) (n : Byte) (s : State) : Res :=
  onCore (issue t p (immDec 9 gd ga kind.toNat (BitVec.ofNat 16 (n.toNat + 256 * b2n w)) false [gd, ga])
    fun s => putAlu t gd (shiftKind kind w ((regsOf s t).gr ga) n.toNat) s) s

end Sys2Proof.Machine
end

