-- ==== Sys2Proof/Machine/Power.lean ====
section
/-! DEFINITION. Power states and wake (R421, R493, R494, R503, R180, R253, R279, R306, R338, R372, R400, R422, R435, R454), loss of VDD_CORE (R464,
R472), and the resets and power commands that another command asks for (R474, R493). -/
namespace Sys2Proof.Machine

/-- f applied n times. -/
def timesDo (n : Nat) (f : State → State) (s : State) : State := (List.range n).foldl (fun s _ => f s) s

/-! STANDBY entry (R494). -/
/-- The writes that waited for a landing act, and the copies that waited start (R270). -/
def applyHeld (s : State) : State :=
  let s1 := s.lnd.held.foldl applyStg { s with lnd := { s.lnd with held := [] } }
  s.lnd.heldGo.foldl (fun s g =>
    match g.toNat with
    | 0 => { s with gal := { s.gal with cctBusy := true } }
    | 1 => { s with wq := { s.wq with copyBusy := true } }
    | g => if s.lnd.syncBusy.isSome then s else { s with lnd := { s.lnd with syncBusy := some (decide (g = 3)) } })
    { s1 with lnd := { s1.lnd with heldGo := [] } }
/-- A unit drains and is DISABLED; an ACTIVE one is enabled again on resume (R381, R400). -/
def standbyUnit (s : State) (u : Nat) : State :=
  let x := unitOf s u
  if x.st = .disabled then s
  else
    let s1 := unitDisable u (setUnit s u { x with resume := decide (x.st = .active) || x.enPend })
    let s2 := timesDo (unitOf s1 u).tx.length (doTransmit u ⟨true, 0⟩) s1
    let s3 := if (unitOf s2 u).tx = [] ∧ (unitOf s2 u).armed = [] then s2 else unitNote (flushTx s2 u (fun _ => true) true 0x12) u 0x11 true
    unitDrained s3 u
/-- The pending commit is discarded, not counted as missed (R279). -/
def standbyCommit (s : State) : State :=
  applyHeld (if s.lnd.judged.isSome then freqBack { dropPend s with lnd := { (dropPend s).lnd with judged := none } } else dropPend s)
/-- A context that occupies a slot is saved (R180): a RESIDENT one becomes READY. -/
def standbyCtx (s : State) (c : CtxId) : State :=
  match stOf s c with
  | .resident => pushOut s c
  | st => leaveSlot (saveRec s c st) c
/-- The sources become INACTIVE and the queues empty (R422); the wake watcher is armed. -/
def standbyEvents (s : State) : State :=
  { s with evt := { s.evt with
      src := s.evt.src.filterMap fun e =>
        let x : EvSrc := { e.2 with st := .inactive, queued := false, more := false, window := none }
        if x = {} then none else some (e.1, x)
      q := s.evt.q.filterMap fun e => let x : EvQ := { e.2 with recs := [] }; if x = {} then none else some (e.1, x)
      tgt := s.evt.tgt.filterMap fun e =>
        let x : EvTgt := { e.2 with released := false, holdoff := none }
        if x = tgtReset e.1 then none else some (e.1, x)
      wkArmed := true, wkRose := 0, wkFell := 0 } }
/-- The lap times read 0, and the laps restart on resume (R445, R454). -/
def standbyScrub (s : State) : State :=
  let s1 := (List.range 10).foldl (fun s m => setIm s (aMEM + 0x100 + 4 * m) 0) s
  { s1 with memc := { s1.memc with scrub := [], lapAt := [] } }
/-- A ring port sends what it may and turns off (R338). -/
def standbyPort (s : State) (b : Bool) : State :=
  let n := ((portOf s b).q.map fun e => e.2.length).foldl (· + ·) 0
  let s1 := timesDo n (doTransmitFrame b) s
  setPort s1 b { portOf s1 b with link := 0, signal := false, q := [], rtrReq := false, rtrWait := false, rtrSeen := false, mtxBusy := none, ascap := false, pdlyValid := false }
/-- STANDBY entry, or with off the entry into OFF (R493, R494), in the order of R494. -/
def enterStandby (off : Bool) (s0 : State) : State :=
  let s1 := detachDev s0
  let s2 := (List.range 0x70).foldl (fun s u => if unitOk u then standbyUnit s u else s) s1
  let s3 := s2.sct.sess.foldl (fun s e => closeSess s e.1 false) s2
  let s4 := standbyCommit s3
  let s5 := (s4.eng.occ.filterMap fun e => e.2).foldl standbyCtx s4
  let s6 := standbyScrub (standbyEvents (standbyPort (standbyPort s5 false) true))
  { s6 with boot := { s6.boot with st := if off then .off else .standby, inh := !off, pwrCmd := 0 } }

/-! What other commands ask for. -/
/-- The resets (R474) and the power commands (R493) that a command has asked for take place, a reset first. -/
def settle (s : State) : State :=
  match s.flt.rstPend with
  | some n => chipReset n s
  | none =>
    if s.boot.rstCmd then doSysrst true { s with boot := { s.boot with rstCmd := false } }
    else if s.boot.pwrCmd = 0 ∨ s.flt.f4 then s
    else if s.boot.st = .run then enterStandby (decide (s.boot.pwrCmd = 2)) s
    else { s with boot := { s.boot with pwrCmd := 0 } }
/-- REGISTER_WRITE: a 32-bit write of a register at a level (R3 to R6, R27, R28, R134). -/
def execRegisterWrite (lvl : Lvl) (addr : BitVec 24) (v : Word) (s : State) : Res :=
  onCore (fun s => match regWrite lvl addr.toNat v s with | some s1 => settle s1 | none => s) s
/-- FAULT_LATCH -/
def execFaultLatch (src : BitVec 9) (det : FaultDet) (s : State) : Res := onSafe (fun s => settle (collect src det s)) s
/-- FLT_FORCE with GO = 1 -/
def execFltForce (lvl : Lvl) (src : BitVec 9) (s : State) : Res := onFlt lvl (fun s => settle (force src s)) s
/-- FLT_WD_n_KICK -/
def execFltWdKick (lvl : Lvl) (n : BitVec 2) (s : State) : Res := onFlt lvl (fun s => settle (wdKick n s)) s
/-- WATCHDOG_TIMEOUT -/
def execWatchdogTimeout (n : BitVec 2) (s : State) : Res := onSafe (fun s => settle (wdExpire n s)) s
/-- SAFESTATE_N is asserted -/
def execSafestateAssert (s : State) : Res := onSafe (fun s => settle (safeOn s)) s
/-- GLB_RST_CMD -/
def execGlbRstCmd (lvl : Lvl) (key : Word) (s : State) : Res := onReg lvl 2 (fun s => settle (rstAsk key s)) s
/-- GLB_PWR_CMD OP STANDBY -/
def execStandby (lvl : Lvl) (s : State) : Res := onReg lvl 2 (fun s => settle (pwrAsk 1 s)) s
/-- GLB_PWR_CMD OP OFF -/
def execOff (lvl : Lvl) (s : State) : Res := onReg lvl 2 (fun s => settle (pwrAsk 2 s)) s

/-! Wake and resume. -/
/-- KIND of wake slot k (R424), 0 for a slot that is not in use. -/
def wakeKind (s : State) (k : Nat) : Nat :=
  let w := act s (aEVT + 0x800 + 4 * k)
  if bit w 11 then fld w 0 4 else 0
/-- Whether a WAKE_IN pin meets a SENSE (R405, R421): its level, or an edge since the watcher was armed. -/
def wakeSense (s : State) (i sense : Nat) : Bool :=
  match sense with
  | 0 => bit s.boot.wakeIn i
  | 1 => !bit s.boot.wakeIn i
  | 2 => bit s.evt.wkRose i
  | 3 => bit s.evt.wkFell i
  | 4 => bit s.evt.wkRose i || bit s.evt.wkFell i
  | _ => false
/-- Whether wake slot k can match (R421): a slot in use, and at KIND 2 with its pin at its SENSE. -/
def wakeMet (s : State) (k : Nat) : Bool :=
  let w := act s (aEVT + 0x800 + 4 * k)
  let kd := wakeKind s k
  decide (1 ≤ kd ∧ kd ≤ 4) && (decide (kd ≠ 2) || wakeSense s (fld w 4 4) (fld w 8 3))
/-- Whether slot j matches with slot k in one AON cycle (R421): a pin that meets its SENSE too, or the same condition.
DEDUCED, unsafe (log 138). -/
def wakeWith (s : State) (k j : Nat) : Bool :=
  let a := act s (aEVT + 0x800 + 4 * k)
  let b := act s (aEVT + 0x800 + 4 * j)
  wakeMet s j && (decide (wakeKind s j = 2) ||
    (decide (wakeKind s j = wakeKind s k) && (if wakeKind s k = 4 then decide (fld a 12 20 = fld b 12 20) else decide (fld a 4 4 = fld b 4 4))))
/-- The slot that the watcher latches when slot k matches: the highest that matches with it (R421). -/
def wakeSlot (s : State) (k : Nat) : Nat := (((List.range 32).filter fun j => decide (k < j) && wakeWith s k j).getLast?).getD k
/-- An enabled wake slot matches in STANDBY or OFF (R421, R493). -/
def doWake (k : BitVec 5) (s : State) : State :=
  if s.evt.wkArmed ∧ (s.boot.st = .standby ∨ s.boot.st = .off) ∧ wakeMet s k.toNat then
    let s1 := { s with evt := { s.evt with wkValid := true, wkSlot := BitVec.ofNat 5 (wakeSlot s k.toNat), wkArmed := false } }
    if s.boot.st = .standby then { s1 with boot := { s1.boot with st := .resume } } else { s1 with boot := { s1.boot with inh := true } }
  else s
/-- WAKE_MATCH -/
def execWakeMatch (k : BitVec 5) (s : State) : Res := .next (doWake k s)
/-- A port trains again after STANDBY (R310, R338). -/
def resumePort (s : State) (b : Bool) : State := if (portOf s b).st = .active then setLink s b 1 else s
/-- The level sources look at their signals again (R405): those that the pins WAKE_IN_n have taken meanwhile, and those in force. -/
def levelsAgain (s : State) : State :=
  let s1 := (List.range 4).foldl (fun s i =>
    let b := bit s.boot.wakeIn i
    evLevel s (0x4D0 + i) b (BitVec.ofNat 32 (b2n b))) s
  (s1.evt.src.map fun e => e.1).foldl (fun s n => if isLevelSrc n ∧ !(0x4D0 ≤ n ∧ n ≤ 0x4D3) then evLevel s n (evSrc s n).level (evSrc s n).info else s) s1
/-- Resume from STANDBY (R494): ring time is not kept (R279), the units are restored (R400), the ports train (R338), the device
attaches again (R348, R372), and source 0x4D4 fires (R421).
DESIGN CHOICE, unsafe (log 3), DESIGN CHOICE, unsafe (log 145). -/
def doResume (s : State) : State :=
  if s.boot.st ≠ .resume ∨ s.flt.f4 then s
  else
    let s1 := { s with
      time := { now := Config.freeDWord s.free, ref := s.time.ref }, free := s.free + 1,
      boot := { s.boot with st := .run } }
    let s2 := (List.range 0x70).foldl (fun s u =>
      if unitOk u && (unitOf s u).resume then unitActivate (setUnit s u { unitOf s u with resume := false }) u else s) s1
    let s3 := resumePort (resumePort s2 false) true
    let s4 := if s3.rm.role = .detached then reattach { s3 with rm := { s3.rm with heardMgr := false } } else s3
    evFire (levelsAgain s4) 0x4D4 (BitVec.ofNat 32 s4.evt.wkSlot.toNat)
/-- RESUME_FROM_STANDBY -/
def execResumeFromStandby (s : State) : Res := .next (doResume s)
/-- Every supply is valid after a wake from OFF: the boot sequence runs as after PORST_N, with AON kept (R422, R493, R503). -/
def execSupplyValid (s : State) : Res :=
  .next (if s.boot.st = .off ∧ s.boot.inh ∧ !s.flt.f4 then bootSequence (setCause 1 0 (resetState true true { s with boot := { s.boot with failmask := 0, swrst := false } }))
    else s)
/-- A supply is not valid 100 ms after INH_OUT was released (R503). -/
def execSupplyTimeout (s : State) : Res :=
  .next (if s.boot.st = .off ∧ s.boot.inh then { s with boot := { s.boot with inh := false }, evt := { s.evt with wkArmed := true, wkRose := 0, wkFell := 0 } } else s)
/-- VDD_CORE falls below its power-on threshold (R464, R472, R507): the F4 latch, the sticky bits and FLT_LOCK clear, and the collector's
settings return to their reset values; the device waits for PORST_N. -/
def doCoreLoss (s : State) : State :=
  let keep := fun (e : Nat × Word) => !fltLocked e.1
  { s with
    reg := { s.reg with act := s.reg.act.filter keep, stg := s.reg.stg.filter keep, im := sset (resetOf (aFLT + 0x18)) s.reg.im (aFLT + 0x18) 0 }
    flt := { safestate := s.flt.safestate }
    boot := { s.boot with st := .lost } }
/-- VDD_CORE_POWER_LOSS -/
def execVddCorePowerLoss (s : State) : Res := .next (doCoreLoss s)
/-- WAKE_IN_n takes a level (R404, R405). -/
def doWakeIn (i : BitVec 2) (level : Bool) (s : State) : State :=
  let was := bit s.boot.wakeIn i.toNat
  let s1 := { s with
    boot := { s.boot with wakeIn := setFld s.boot.wakeIn i.toNat 1 (b2n level) }
    evt := if !s.evt.wkArmed ∨ was = level then s.evt
      else if level then { s.evt with wkRose := setFld s.evt.wkRose i.toNat 1 1 } else { s.evt with wkFell := setFld s.evt.wkFell i.toNat 1 1 } }
  if clocksOn s1 then evLevel s1 (0x4D0 + i.toNat) level (BitVec.ofNat 32 (b2n level)) else s1
/-- WAKE_IN_LEVEL_CHANGE -/
def execWakeInLevelChange (i : BitVec 2) (level : Bool) (s : State) : Res := .next (doWakeIn i level s)

end Sys2Proof.Machine
end

