-- ==== Sys2Proof/Machine/LoadStore.lean ====
section
/-! DEFINITION. The Clana loads and stores (R111, R112), what completes them, and the stores to the express area (R303, R523). -/
namespace Sys2Proof.Machine

/-- A load or store (R111). -/
def memDec (op : Nat) (sz : BitVec 2) (gd ga : Reg) (imm : Half) (legal : Bool) : Dec :=
  { word := fmtB op gd ga sz.toNat imm, ext := true, rep := true, legal := legal, regs := [gd, ga] }
/-- LD -/
def execLd (t : Thread) (p : Pfx) (sz : BitVec 2) (gd ga : Reg) (imm : Half) (s : State) : Res :=
  onCore (issue t p (memDec 0x10 sz gd ga imm true) (loadIns t p false false sz gd ga imm)) s
/-- LDS: SUB 0b11 is reserved -/
def execLds (t : Thread) (p : Pfx) (sz : BitVec 2) (gd ga : Reg) (imm : Half) (s : State) : Res :=
  onCore (issue t p (memDec 0x11 sz gd ga imm (decide (sz ≠ 3))) (loadIns t p true false sz gd ga imm)) s
/-- ST -/
def execSt (t : Thread) (p : Pfx) (sz : BitVec 2) (gd ga : Reg) (imm : Half) (s : State) : Res :=
  onCore (issue t p (memDec 0x12 sz gd ga imm true) (storeIns t p false sz gd ga imm)) s
/-- LD.P: RD and RA differ -/
def execLdP (t : Thread) (p : Pfx) (sz : BitVec 2) (gd ga : Reg) (imm : Half) (s : State) : Res :=
  onCore (issue t p (memDec 0x14 sz gd ga imm (decide (gd ≠ ga))) (loadIns t p false true sz gd ga imm)) s
/-- LDS.P: RD and RA differ, SUB 0b11 is reserved -/
def execLdsP (t : Thread) (p : Pfx) (sz : BitVec 2) (gd ga : Reg) (imm : Half) (s : State) : Res :=
  onCore (issue t p (memDec 0x15 sz gd ga imm (decide (gd ≠ ga ∧ sz ≠ 3))) (loadIns t p true true sz gd ga imm)) s
/-- ST.P -/
def execStP (t : Thread) (p : Pfx) (sz : BitVec 2) (gd ga : Reg) (imm : Half) (s : State) : Res :=
  onCore (issue t p (memDec 0x16 sz gd ga imm true) (storeIns t p true sz gd ga imm)) s
/-- LOAD_DATA_ARRIVAL.
DEDUCED, unsafe (log 61). -/
def execLoadDataArrival (t : Thread) (gd : Reg) (s : State) : Res := onCore (loadArrives t gd) s
/-- STORE_BUFFER_DRAIN: entry i completes.
DEDUCED, unsafe (log 60). -/
def execStoreBufferDrain (t : Thread) (i : BitVec 3) (s : State) : Res := onCore (fun s => settle (drainEntry t i.toNat s)) s
/-- SEND_WORD_STORE: a context's 32-bit store to the send word of a slot completes.
DEDUCED, unsafe (log 66). -/
def execSendWordStore (c : CtxId) (slot : BitVec 2) (s : State) : Res :=
  onCore (fun s => drainFirst (.ctx c) (isSend s c slot.toNat) s) s
/-- RELEASE_WORD_STORE: a context's store to the release word of a slot completes -/
def execReleaseWordStore (c : CtxId) (slot : BitVec 2) (s : State) : Res :=
  onCore (fun s => drainFirst (.ctx c) (isRelease s c slot.toNat) s) s

end Sys2Proof.Machine
end

