-- ==== Sys2Proof/Machine/Flow.lean ====
section
/-! DEFINITION. The Clana branches and returns (R113 to R116, R164, R165), multiply and divide (R117 to R119), and the chain group (R75, R77, R79,
R124). -/
namespace Sys2Proof.Machine

/-! The return stack (R95, R116). -/
/-- PTR -/ def rsPtr (v : DWord) : Nat := v.toNat % 2 ^ 40 / 8 * 8
/-- RSL -/ def rsLim (v : DWord) : Nat := fld v 40 12
/-- RSD -/ def rsDepth (v : DWord) : Nat := fld v 52 12
/-- RSP of a pointer, a limit and a depth. -/
def rsMake (ptr lim depth : Nat) : DWord := BitVec.ofNat 64 (ptr % 2 ^ 40 + lim * 2 ^ 40 + depth % 4096 * 2 ^ 52)
/-- BL and BLR link (R116): LR, or a push at the current level, which overflows with RSL = 0 (R95); f is what follows. -/
def linkThen (s : State) (t : Thread) (ret : DWord) (f : State → Eff) : Eff :=
  let r := regsOf s t
  if !bit r.sr 11 then f (setRegs s t { r with lr := ret })
  else
    let a := rsPtr r.rsp
    let ag := thrAgent s t
    if rsDepth r.rsp = rsLim r.rsp ∨ rsLim r.rsp = 0 then .exc s xOVF r.rsp
    else if !storeMay s ag (srPL r) a 8 then .exc s xBUS (BitVec.ofNat 64 a)
    else if 8 ≤ (thrOf s t).sb.length then .stay s
    else
      let e : SbEntry := { addr := BitVec.ofNat 64 (physAddr ag a), bytes := leBytes 8 ret.toNat, lvl := srPL r }
      let s1 := setThr s t { thrOf s t with sb := (thrOf s t).sb ++ [e] }
      f (setRegs s1 t { r with rsp := rsMake (a + 8) (rsLim r.rsp) (rsDepth r.rsp + 1) })

/-! The return tokens (R75, R114, R164, R165). -/
/-- The handler address of a level (R162): entries 0 to 7 for the groups, 8 for NMT. -/
def vectorOf (s : State) (n : BitVec 2) (lvl : Nat) : DWord :=
  let o := fld (act s (aMPC + 0x100 * n.toNat)) 7 11 * 128 + 8 * (lvl - 1)
  BitVec.ofNat 64 (leNat ((List.range 8).map fun i => memGet s (tcmKey n ((o + i) % 0x40000))))
/-- The highest request that qualifies against a level (R157): the group enabled and EM clear; NMT ignores both. -/
def qualifies (s : State) (n : BitVec 2) (lvl : Nat) (em : Bool) : Option Nat :=
  let ien := act s (aMPC + 0x100 * n.toNat + 0x10)
  ((mpRequests s n).filter fun l => decide (lvl < l) && (decide (l = 9) || (!em && bit ien (l - 1)))).foldl
    (fun b l => match b with | none => some l | some m => some (Nat.max m l)) none
/-- The handler of a level starts (R160, R162). -/
def startHandler (s : State) (n : BitVec 2) (lvl : Nat) : State :=
  let r := regsOf s (.mp n)
  let s1 := setMp s n { mpOf s n with lvl := BitVec.ofNat 4 lvl, wfi := false }
  setRegs s1 (.mp n) { r with
    sr := setFld (setFld (setFld r.sr 8 2 2) 10 1 0) 11 1 0, lr := 0xFFFF_FFFF_FFFF_FFF8, pc := vectorOf s n lvl }
/-- The exit of an interrupt handler (R164): the frame is restored; a request that qualifies against the frame's level is chained on the same
frame before any register is restored (R165); a result still outstanding for the frame goes to ML and MH.
DESIGN CHOICE, unsafe (log 140). -/
def interruptExit (s : State) (n : BitVec 2) : State :=
  let m := mpOf s n
  let base := m.isp.toNat - 128
  let b := (List.range 128).map fun i => memGet s (tcmKey n ((base + i) % 0x40000))
  let q := fun o => BitVec.ofNat 64 (leNat (slice b o 8))
  let sr : Word := BitVec.ofNat 32 (leNat (slice b 8 4)) &&& 0xF3F#32
  let prev := (byteAt b 12).toNat % 16
  let r := regsOf s (.mp n)
  let g := [(0, 0x38), (1, 0x40), (2, 0x48), (3, 0x50), (12, 0x58), (13, 0x60), (14, 0x68)].foldl (fun (g : Sparse DWord) e => sset 0 g e.1 (q e.2)) r.g
  let r1 : Regs := { r with pc := q 0, sr := sr, lr := q 0x10, rc := q 0x18, ml := q 0x20, mh := q 0x28, g := g }
  match qualifies s n prev (bit sr 10) with
  | some l => startHandler s n l
  | none =>
    let s1 := setMp (setRegs s (.mp n) r1) n { m with lvl := BitVec.ofNat 4 prev, depth := m.depth - 1, isp := BitVec.ofNat 18 base }
    let x := thrOf s1 (.mp n)
    let own := (x.mdFrame.find? fun e => e.2.2 = base + 0x20).map fun e => (e.1, e.2.1)
    setThr s1 (.mp n) { x with mdFrame := x.mdFrame.filter fun e => e.2.2 ≠ base + 0x20, md := own.or x.md }
/-- Whether the end of the step in progress must wait for the context's stores: FENCE, or a report that may be final (R61, R62). -/
def fenceWait (s : State) (c : CtxId) : Bool :=
  let x := thrOf s (.ctx c)
  !x.sb.isEmpty && (stepFlag x 13 || !hasNext x)
/-- Whether a branch to a value ends the step in progress (R75, R114). -/
def endsStep (s : State) (t : Thread) (v : DWord) : Bool :=
  !isMp t && decide (v = 0xFFFF_FFFF_FFFF_FFFC) && decide ((regsOf s t).stpa ≠ 0)
/-- Whether a branch that ends its step must wait: for stores, or for a load of g1, which it reads (R62, R75, R112). -/
def tokenWaits (s : State) : Thread → Bool
  | .ctx c => fenceWait s c || (thrOf s (.ctx c)).loads.any fun l => l.1 = 1
  | .mp _ => false
/-- A branch to a register value (R114): misaligned, a return token, or an address. -/
def branchTo (t : Thread) (v : DWord) (s : State) : Eff :=
  if v.toNat % 4 ≠ 0 then .exc s xALIGN v
  else match t with
    | .ctx c =>
      if endsStep s t v then (if tokenWaits s t then .stay s else .stay (routineDone s c (((regsOf s t).gr 1).toNat % 2 ^ 32)))
      else .jump s v
    | .mp n => if v = 0xFFFF_FFFF_FFFF_FFF8 ∧ (mpOf s n).depth ≠ 0 then .stay (interruptExit s n) else .jump s v

/-! Branches (R113). -/
/-- A branch instruction: REP no. -/
def flowDec (word : Word) (ext legal : Bool) (regs : List Reg) : Dec := { word := word, ext := ext, rep := false, legal := legal, regs := regs }
/-- BC: condition 0xF is reserved -/
def execBc (t : Thread) (p : Pfx) (cond : BitVec 4) (off : BitVec 22) (s : State) : Res :=
  onCore (issue t p (flowDec (fmtC 0x18 cond off) false (decide (cond ≠ 15)) [])
    fun s => if condHolds cond (regsOf s t).sr then .jump s (target (regsOf s t).pc p (off.signExtend 64)) else .done s) s
/-- BL -/
def execBl (t : Thread) (p : Pfx) (off : BitVec 26) (s : State) : Res :=
  onCore (issue t p (flowDec (fmtD 0x19 off) false true [])
    fun s => linkThen s t ((regsOf s t).pc + 4) fun s1 => .jump s1 (target (regsOf s t).pc p (off.signExtend 64))) s
/-- B -/
def execB (t : Thread) (p : Pfx) (off : BitVec 26) (s : State) : Res :=
  onCore (issue t p (flowDec (fmtD 0x1A off) false true []) fun s => .jump s (target (regsOf s t).pc p (off.signExtend 64))) s
/-- CBZ and CBNZ (R113). -/
def cbIns (t : Thread) (p : Pfx) (nz : Bool) (ga : Reg) (imm : Half) (s : State) : State :=
  issue t p (flowDec (fmtB 0x1B 0 ga (b2n nz) imm) true true [ga])
    (fun s => if decide ((regsOf s t).gr ga = 0) != nz then .jump s (target (regsOf s t).pc p (immS p imm)) else .done s) s
/-- CBZ -/
def execCbz (t : Thread) (p : Pfx) (ga : Reg) (imm : Half) (s : State) : Res := onCore (cbIns t p false ga imm) s
/-- CBNZ -/
def execCbnz (t : Thread) (p : Pfx) (ga : Reg) (imm : Half) (s : State) : Res := onCore (cbIns t p true ga imm) s
/-- BR -/
def execBr (t : Thread) (p : Pfx) (ga : Reg) (s : State) : Res :=
  onCore (issue t p (flowDec (fmtE 0x1C 0 ga 0 0 0) false true [ga]) fun s => branchTo t ((regsOf s t).gr ga) s) s
/-- BLR: a misaligned target raises its exception before the link. One that ends its step waits before the link, so that it links once;
where the end waits for stores, its own push completes first, or it waits with nothing pushed. -/
def blrIns (t : Thread) (ga : Reg) (s : State) : Eff :=
  let v := (regsOf s t).gr ga
  if v.toNat % 4 ≠ 0 then .exc s xALIGN v
  else if endsStep s t v && tokenWaits s t then .stay s
  else linkThen s t ((regsOf s t).pc + 4) fun s1 =>
    let s2 := if endsStep s1 t v && tokenWaits s1 t then drainEntry t 0 s1 else s1
    if endsStep s2 t v && tokenWaits s2 t then .stay s else branchTo t v s2
/-- BLR -/
def execBlr (t : Thread) (p : Pfx) (ga : Reg) (s : State) : Res :=
  onCore (issue t p (flowDec (fmtE 0x1C 0 ga 0 0 1) false true [ga]) (blrIns t ga)) s
/-- RET: through LR, or by a pop in return-stack mode (R116). -/
def retIns (t : Thread) (s : State) : Eff :=
  let r := regsOf s t
  if !bit r.sr 11 then branchTo t r.lr s
  else if rsDepth r.rsp = 0 then .exc s xUNF r.rsp
  else
    let a := rsPtr (r.rsp - 8)
    if (a < 0x11_0000 ∧ sbRegs (thrOf s t).sb) ∨ stalledIn s (thrAgent s t) a 8 then .stay s
    else match loadBytes s t a 8 with
      | none => .exc (noteUeIn s (thrAgent s t) a 8) xBUS (BitVec.ofNat 64 a)
      | some (b, s1) =>
        let v := BitVec.ofNat 64 (leNat b)
        if v.toNat % 4 ≠ 0 then .exc s1 xALIGN v
        else if endsStep s t v && tokenWaits s t then .stay s
        else branchTo t v (setRegs s1 t { regsOf s1 t with rsp := rsMake a (rsLim r.rsp) (rsDepth r.rsp - 1) })
/-- RET -/
def execRet (t : Thread) (p : Pfx) (s : State) : Res := onCore (issue t p (flowDec (fmtE 0x1C 0 0 0 0 2) false true []) (retIns t)) s

/-! Multiply and divide (R110, R117, R118). -/
/-- An instruction of the multiplier group. -/
def mdDec (ga gb : Reg) (fn : Nat) : Dec := { word := fmtA 0x20 0 ga gb false fn, ext := false, rep := true, legal := true, regs := [ga, gb] }
/-- A result is outstanding; an earlier one is cancelled (R118). -/
def putMd (s : State) (t : Thread) (x : DWord × DWord) : State := setThr s t { thrOf s t with md := some x }
/-- MUL and MULU. -/
def mulIns (t : Thread) (p : Pfx) (ga gb : Reg) (fn : Nat) (f : DWord → DWord → DWord × DWord) (s : State) : State :=
  issue t p (mdDec ga gb fn) (fun s => .done (putMd s t (f ((regsOf s t).gr ga) ((regsOf s t).gr gb)))) s
/-- DIV and DIVU write V and set DZ when they issue (R110). -/
def divIns (t : Thread) (p : Pfx) (ga gb : Reg) (fn : Nat) (f : DWord → DWord → DWord × DWord) (v : DWord → DWord → Bool) (s : State) : State :=
  issue t p (mdDec ga gb fn) (fun s =>
    let r := regsOf s t
    let a := r.gr ga
    let b := r.gr gb
    if b = 0 then
      let s1 := setRegs s t { r with sr := setFld (setFld r.sr 4 1 1) 3 1 0 }
      if bit r.sr 5 then .exc s1 xDIV a else .done (putMd s1 t (f a b))
    else .done (putMd (setRegs s t { r with sr := setFld r.sr 3 1 (b2n (v a b)) }) t (f a b))) s
/-- MUL -/
def execMul (t : Thread) (p : Pfx) (ga gb : Reg) (s : State) : Res := onCore (mulIns t p ga gb 0 mulS) s
/-- MULU -/
def execMulu (t : Thread) (p : Pfx) (ga gb : Reg) (s : State) : Res := onCore (mulIns t p ga gb 1 mulU) s
/-- DIV -/
def execDiv (t : Thread) (p : Pfx) (ga gb : Reg) (s : State) : Res := onCore (divIns t p ga gb 2 divS divV) s
/-- DIVU -/
def execDivu (t : Thread) (p : Pfx) (ga gb : Reg) (s : State) : Res := onCore (divIns t p ga gb 3 divU fun _ _ => false) s
/-- The outstanding result is written (R118, R119); one that was outstanding at an interrupt entry goes to its
frame, the oldest first (R160). -/
def mdResult (t : Thread) (s : State) : State :=
  let x := thrOf s t
  match t, x.mdFrame with
  | .mp n, (lo, hi, a) :: rest =>
    storeBytes (setThr s t { x with mdFrame := rest }) (.mp n) 2 (0x3000_0000 + a) (leBytes 8 lo.toNat ++ leBytes 8 hi.toNat)
  | _, _ =>
    match x.md with
    | some (lo, hi) =>
      let s1 := setThr s t { x with md := none }
      putRegs s1 t { regsOf s1 t with ml := lo, mh := hi }
    | none => s
/-- MULDIV_RESULT -/
def execMuldivResult (t : Thread) (s : State) : Res := onCore (mdResult t) s

/-! The chain group (R75, R77, R79, R124). -/
/-- The context of a thread, none for a processor. -/
def ctxOf : Thread → Option CtxId
  | .ctx c => some c
  | .mp _ => none
/-- An instruction of the chain group: absent on a processor. -/
def chnDec (t : Thread) (ga : Reg) (fn : Nat) (ok : Bool) : Dec := flowDec (fmtE 0x28 0 ga 0 0 fn) false (!isMp t && ok) [ga]
/-- CHAIN: the chain at ga runs as a subroutine; CPL takes the level in force (R79, R137). -/
def chainIns (t : Thread) (ga : Reg) (s : State) : Eff :=
  let r := regsOf s t
  let s1 := setRegs s t { r with stpa := r.gr ga, stpw := 0, cpl := srPL r }
  .stay (setThr s1 t { thrOf s1 t with phase := .fetch, callPc := some (r.pc + 4), line := none, holdPass := false, run := none, skip := false })
/-- CHAIN: illegal while a step is in progress -/
def execChain (t : Thread) (p : Pfx) (ga : Reg) (s : State) : Res :=
  onCore (issue t p (chnDec t ga 0 (decide ((regsOf s t).stpa = 0))) (chainIns t ga)) s
/-- SDONE (R75). -/
def sdoneIns (t : Thread) (ga : Reg) (s : State) : Eff :=
  match ctxOf t with
  | some c => if fenceWait s c then .stay s else .stay (routineDone s c (((regsOf s t).gr ga).toNat % 2 ^ 32))
  | none => .stay s
/-- SDONE: illegal with STPA = 0 -/
def execSdone (t : Thread) (p : Pfx) (ga : Reg) (s : State) : Res :=
  onCore (issue t p (chnDec t ga 1 (decide ((regsOf s t).stpa ≠ 0))) (sdoneIns t ga)) s
/-- SFAIL (R75): a request without a failure bit, or with a bit that it may not set, becomes CHAIN_BAD with reason ROUTINE_STATUS.
DESIGN CHOICE, unsafe (log 139). -/
def sfailIns (t : Thread) (ga : Reg) (s : State) : Eff :=
  match ctxOf t with
  | some c =>
    let v := (regsOf s t).gr ga
    let st := fld v 0 16 % 0x4000
    let bad := decide (st &&& (sDONE ||| sHELD ||| sNOTED ||| sTAKEN) ≠ 0) || !failed st (stepFlag (thrOf s t) 15)
    if fenceWait s c then .stay s
    else .stay (if bad then finishStep (routineLvl s c) c sCHAIN (fld v 32 32) 0x1B else finishStep (routineLvl s c) c st (fld v 32 32) (fld v 16 8))
  | none => .stay s
/-- SFAIL: illegal with STPA = 0 -/
def execSfail (t : Thread) (p : Pfx) (ga : Reg) (s : State) : Res :=
  onCore (issue t p (chnDec t ga 2 (decide ((regsOf s t).stpa ≠ 0))) (sfailIns t ga)) s

end Sys2Proof.Machine
end

