-- ==== Sys2Proof/Machine/Sysi.lean ====
section
/-! DEFINITION. The Clana system, lock and wait groups (R127 to R130, R133), special registers (R89 to R96), returns (R154), illegal words (R97 to
R102), and what reaches a thread at a boundary: fetch faults (R114, R140), asynchronous causes (R141 to R146), interrupts (R157 to R162). -/
namespace Sys2Proof.Machine

/-- A system instruction (R129). -/
def sysDec (gd ga : Reg) (x : Byte) (fn : Nat) (rep legal : Bool) (regs : List Reg) : Dec :=
  { word := fmtE 0x2C gd ga 0 x fn, ext := false, rep := rep, legal := legal, regs := regs }
/-- SYS -/
def execSys (t : Thread) (p : Pfx) (code : Byte) (s : State) : Res :=
  onCore (issue t p (sysDec 0 0 code 0 false true []) fun s => .exc s xSYS (code.setWidth 64)) s
/-- BRK -/
def execBrk (t : Thread) (p : Pfx) (code : Byte) (s : State) : Res :=
  onCore (issue t p (sysDec 0 0 code 2 false true []) fun s => .exc s xBRK (code.setWidth 64)) s
/-- The ceiling of a thread (R94, R133, R135). -/
def ceilThr (s : State) : Thread → Lvl
  | .ctx c => ceilOf (regsOf s (.ctx c))
  | .mp _ => 2
/-- RETX (R154). -/
def retxIns (t : Thread) (s : State) : Eff :=
  let r := regsOf s t
  let pl := srPL { r with sr := r.esr }
  if pl = 3 ∨ (srPL r).toNat < pl.toNat ∨ (ceilThr s t).toNat < pl.toNat then .exc s xRET (r.esr.setWidth 64)
  else .jump (setRegs s t { r with sr := r.esr }) r.epc
/-- RETX -/
def execRetx (t : Thread) (p : Pfx) (s : State) : Res := onCore (issue t p (sysDec 0 0 0 1 false true []) (retxIns t)) s
/-- The value of a special register (R89, R94, R96, R133); pfx is the number of prefix words. -/
def spRead (s : State) (t : Thread) (pfx x : Nat) : DWord :=
  let r := regsOf s t
  match x with
  | 0x00 => r.pc + BitVec.ofNat 64 (4 * pfx)
  | 0x01 => r.sr.setWidth 64
  | 0x02 => r.lr
  | 0x03 => r.rc
  | 0x04 => r.ml
  | 0x05 => r.mh
  | 0x08 => r.epc
  | 0x09 => r.esr.setWidth 64
  | 0x0A => r.ecause.setWidth 64
  | 0x0B => r.eval
  | 0x0C => r.rsp
  | 0x10 => if isMp t then 0 else r.stpa
  | 0x11 => if isMp t then 0 else r.stpw
  | 0x12 => match t with | .ctx c => (ctxWord s c).setWidth 64 | .mp n => BitVec.ofNat 64 (0x8000_0000 + n.toNat)
  | 0x13 => if isMp t then 2 else r.ceil.setWidth 64
  | 0x14 => r.exv
  | 0x15 => r.repa
  | 0x18 => s.time.now
  | 0x1C => if isMp t then 0x0014_0410 else 0x0614_0410
  | 0x1D => if isMp t then 0xC7 else 0xBF
  | 0x1E => match t with
    | .ctx c => BitVec.ofNat 64 (0x1000 + homeOf s c * 0x10000 + ((slotOf s c).getD 0) % 16 * 0x1000000)
    | .mp n => BitVec.ofNat 64 (0x1000 + (0x80 + n.toNat) * 0x10000)
  | _ => 0
/-- A special register written (R89, R91 to R95): reserved bits read 0. -/
def spWrite (r : Regs) (x : Nat) (v : DWord) : Regs :=
  match x with
  | 0x01 => { r with sr := srWrite r.sr (v.setWidth 32) }
  | 0x02 => { r with lr := v }
  | 0x03 => { r with rc := v }
  | 0x04 => { r with ml := v }
  | 0x05 => { r with mh := v }
  | 0x08 => { r with epc := v }
  | 0x09 => { r with esr := v.setWidth 32 &&& 0xF3F#32 }
  | 0x0A => { r with ecause := v.setWidth 16 &&& 0x3FF#16 }
  | 0x0B => { r with eval := v }
  | 0x0C => { r with rsp := v &&& 0xFFFF_FFFF_FFFF_FFF8#64 }
  | 0x14 => { r with exv := v &&& 0x0000_FFFF_FFFF_FF00#64 }
  | 0x15 => { r with repa := v &&& 0x0000_FFFF_FFFF_FFFF#64 }
  | _ => r
/-- MFS -/
def execMfs (t : Thread) (p : Pfx) (gd : Reg) (x : Byte) (s : State) : Res :=
  onCore (issue t p (sysDec gd 0 x 3 true (spReg (isMp t) x.toNat).isSome [gd]) fun s =>
    match spReg (isMp t) x.toNat with
    | some (rd, _) =>
      if (thrLvl s t).toNat < rd then .exc s xPRIV (x.setWidth 64)
      else .done (setRegs s t ((regsOf s t).setG gd (spRead s t (pfxLen p) x.toNat)))
    | none => .stay s) s
/-- Whether a thread may write a special register (R89, R92). -/
def spMay (s : State) (t : Thread) (x : Nat) (v : DWord) (wr : Nat) : Bool :=
  decide (wr ≤ (thrLvl s t).toNat) && !(decide (x = 1) && decide ((thrLvl s t).toNat = 0) && bit v 10 != srEM (regsOf s t))
/-- MTS of REPA and of EXV reaches the record too, which no save writes there (R170). -/
def mtsRec (s : State) (t : Thread) (x : Nat) : State :=
  match t with
  | .ctx c =>
    let g := regsOf s t
    let put := fun (r : Regs) => if x = 0x14 then { r with exv := g.exv } else { r with repa := g.repa }
    if x = 0x14 ∨ x = 0x15 then
      let k := recKey c (if x = 0x14 then 30 else 29)
      let y := thrOf s t
      setThr (setRec (dropCorr (healWords s k 8) k 8) c (put (recOf s c))) t { y with saved := { y.saved with regs := y.saved.regs.map put } }
    else s
  | .mp _ => s
/-- The reserved bits of a special register that MTS may not set (R5, R91, R93, R95, R80); SR and EXV ignore theirs (R92, R94). -/
def spRsvd (x : Nat) : DWord :=
  match x with
  | 0x09 => 0xFFFF_F0C0
  | 0x0A => 0xFC00
  | 0x0C => 7
  | 0x15 => 0xFFFF_0000_0000_0000
  | _ => 0
/-- MTS.
DEDUCED, unsafe (log 64). -/
def execMts (t : Thread) (p : Pfx) (x : Byte) (ga : Reg) (s : State) : Res :=
  onCore (issue t p (sysDec 0 ga x 4 (decide (x ≠ 3)) ((spReg (isMp t) x.toNat).bind fun r => r.2).isSome [ga]) fun s =>
    match (spReg (isMp t) x.toNat).bind fun r => r.2 with
    | some wr =>
      let v := (regsOf s t).gr ga
      if spMay s t x.toNat v wr then
        .done (rsvdIf (decide (v &&& spRsvd x.toNat ≠ 0)) (mtsRec (setRegs s t (spWrite (regsOf s t) x.toNat v)) t x.toNat))
      else .exc s xPRIV (x.setWidth 64)
    | none => .stay s) s
/-- BAR: waits until every earlier store is complete (R129). -/
def execBar (t : Thread) (p : Pfx) (s : State) : Res :=
  onCore (issue t p (sysDec 0 0 0 5 true true []) fun s => if (thrOf s t).sb.isEmpty then .done s else .stay s) s
/-- The instruction-cache line that holds an address is dropped (R129, R192). -/
def dropLine (s : State) (t : Thread) (a : Nat) : State :=
  match t with
  | .ctx c => let h := homeOf s c; setCl s h { clOf s h with icache := (clOf s h).icache.filter fun l => l ≠ a / 64 }
  | .mp _ => s
/-- IBAR -/
def execIbar (t : Thread) (p : Pfx) (ga : Reg) (s : State) : Res :=
  onCore (issue t p (sysDec 0 ga 0 6 false true [ga]) fun s =>
    if (thrOf s t).sb.isEmpty then .done (dropLine s t ((regsOf s t).gr ga).toNat) else .stay s) s
/-- NOP -/
def execNop (t : Thread) (p : Pfx) (s : State) : Res := onCore (issue t p (sysDec 0 0 0 7 true true []) fun s => .done s) s

/-! Locks (R130, R198, R199). -/
/-- A result of the lock group: gd and Z. -/
def putRes (t : Thread) (gd : Reg) (v : Nat) (s : State) : Eff :=
  let r := regsOf s t
  .done (setRegs s t { r.setG gd (BitVec.ofNat 64 v) with sr := setFld r.sr 1 1 (b2n (v = 0)) })
/-- The cell of a value, none where it names none. -/
def cellOf (v : DWord) : Option Nat := if v.toNat < 4096 then some v.toNat else none
/-- LCK: acquired, busy, acquired after a break, or no such cell. -/
def lckIns (t : Thread) (gd ga : Reg) (s : State) : Eff :=
  match cellOf ((regsOf s t).gr ga) with
  | none => putRes t gd 3 s
  | some n =>
    let w := lockOf s n
    if bit w 19 then putRes t gd 1 s
    else putRes t gd (if bit w 20 then 2 else 0) (setLock s n (BitVec.ofNat 32 (tkey t + 0x80000 + (fld w 21 11 + 1) % 2048 * 2 ^ 21)))
/-- ULK: released, not the owner, or no such cell. -/
def ulkIns (t : Thread) (gd ga : Reg) (s : State) : Eff :=
  match cellOf ((regsOf s t).gr ga) with
  | none => putRes t gd 3 s
  | some n =>
    let w := lockOf s n
    if bit w 19 && decide (fld w 0 19 = tkey t) then putRes t gd 0 (setLock s n (setFld w 19 1 0)) else putRes t gd 1 s
/-- LCK -/
def execLck (t : Thread) (p : Pfx) (gd ga : Reg) (s : State) : Res :=
  onCore (issue t p (flowDec (fmtE 0x2D gd ga 0 0 0) false true [gd, ga]) (lckIns t gd ga)) s
/-- ULK -/
def execUlk (t : Thread) (p : Pfx) (gd ga : Reg) (s : State) : Res :=
  onCore (issue t p (flowDec (fmtE 0x2D gd ga 0 0 1) false true [gd, ga]) (ulkIns t gd ga)) s

/-! Waiting and signalling (R127, R128, R133). -/
/-- An instruction of OP 0x2B. -/
def waitDec (gd ga gb : Reg) (fn : Nat) (legal : Bool) (regs : List Reg) : Dec := flowDec (fmtE 0x2B gd ga gb 0 fn) false legal regs
/-- WAITE (R44, R127). -/
def waiteIns (t : Thread) (gd ga gb : Reg) (s : State) : Eff :=
  match t with
  | .mp _ => .stay s
  | .ctx c =>
    let s := setThr s t { thrOf s t with abandoned := none }
    let r := regsOf s t
    let mask := ((r.gr ga).setWidth 32 : Word)
    let m := (liveOf s c).pend &&& mask
    let ends := fun (v : Word) (s : State) =>
      Eff.done (setRegs s t { r.setG gd (v.setWidth 64) with eval := v.setWidth 64, sr := setFld r.sr 1 1 (b2n (v = 0)) })
    if m ≠ 0 then ends m (setLive s c { liveOf s c with pend := (liveOf s c).pend &&& ~~~m })
    else if (r.gr ga = 0 ∧ r.gr gb = 0) ∨ (r.gr gb ≠ 0 ∧ timeGe s (r.gr gb)) then ends 0 s
    else .stay (beginWait s c (if r.gr gb = 0 then 1 else if r.gr ga = 0 then 2 else 3)
      { mask := mask, till := if r.gr gb = 0 then none else some (r.gr gb), gd := some gd })
/-- WAITE -/
def execWaite (t : Thread) (p : Pfx) (gd ga gb : Reg) (s : State) : Res :=
  onCore (issue t p (waitDec gd ga gb 0 (!isMp t) [gd, ga, gb]) (waiteIns t gd ga gb)) s
/-- WAITT (R44, R127). -/
def waittIns (t : Thread) (ga : Reg) (s : State) : Eff :=
  match t with
  | .mp _ => .stay s
  | .ctx c =>
    let v := (regsOf s t).gr ga
    if timeGe s v then .done s else .stay (beginWait s c 2 { till := some v })
/-- WAITT -/
def execWaitt (t : Thread) (p : Pfx) (ga : Reg) (s : State) : Res :=
  onCore (issue t p (waitDec 0 ga 0 1 (!isMp t) [ga]) (waittIns t ga)) s
/-- A reason code of SIGNAL or RESUME in gd (R127, R128). -/
def putReason (t : Thread) (gd : Reg) (v : Nat) (s : State) : Eff := .done (setRegs s t ((regsOf s t).setG gd (BitVec.ofNat 64 v)))
/-- Whether a thread's remote signals are suppressed (R362). -/
def thrSuppressed (s : State) : Thread → Bool
  | .ctx c => suppressed s c
  | .mp _ => false
/-- SIGNAL and RESUME to a context on another device (R128, R362, R519). -/
def remoteIns (t : Thread) (gd : Reg) (a typ : Byte) (body : List Byte) (s : State) : Eff :=
  if thrSuppressed s t then putReason t gd 0 s
  else match sendRemote s a typ body (.thread t) with
    | .inl r => putReason t gd r s
    | .inr (s1, true) => putReason t gd 0 s1
    | .inr (s1, false) =>
      let s2 := setThr s1 t { thrOf s1 t with egress := some (some gd, true) }
      match t with
      | .ctx c => .stay (beginWait s2 c 7 {})
      | .mp _ => .stay s2
/-- SIGNAL (R45, R128). -/
def signalIns (t : Thread) (gd ga gb : Reg) (s : State) : Eff :=
  let r := regsOf s t
  let v := r.gr ga
  let c := BitVec.ofNat 18 v.toNat
  let a := BitVec.ofNat 8 (fld v 18 8)
  let bits : Word := (r.gr gb).setWidth 32
  if fld v 26 38 ≠ 0 then putReason t gd 9 s
  else if r.gr gb = 0 then putReason t gd 0 s
  else if isLocal s a then (let (s1, n) := ctxSignal s c bits; putReason t gd n s1)
  else remoteIns t gd a 0x19 (signalBody c a bits) s
/-- SIGNAL -/
def execSignal (t : Thread) (p : Pfx) (gd ga gb : Reg) (s : State) : Res :=
  onCore (issue t p (waitDec gd ga gb 2 true [gd, ga, gb]) (signalIns t gd ga gb)) s
/-- RESUME (R65, R128). -/
def resumeIns (t : Thread) (gd ga gb : Reg) (s : State) : Eff :=
  let r := regsOf s t
  let v := r.gr ga
  let c := BitVec.ofNat 18 v.toNat
  let a := BitVec.ofNat 8 (fld v 18 8)
  if fld v 26 38 ≠ 0 then putReason t gd 9 s
  else if isLocal s a then (let (s1, n) := ctxResume s c (r.gr gb); putReason t gd n s1)
  else remoteIns t gd a 0x16 (resumeBody c a (r.gr gb)) s
/-- RESUME -/
def execResume (t : Thread) (p : Pfx) (gd ga gb : Reg) (s : State) : Res :=
  onCore (issue t p (waitDec gd ga gb 3 true [gd, ga, gb]) (resumeIns t gd ga gb)) s
/-- YIELD: an unpinned context gives up its slot and stays READY (R127, R128, R177). -/
def yieldIns (t : Thread) (s : State) : Eff :=
  match t with
  | .mp _ => .stay s
  | .ctx c =>
    let r := regsOf s t
    let s1 := setRegs s t { r with pc := r.pc + 4 }
    .stay (if pinOf s c then s1 else toReady s1 c)
/-- YIELD -/
def execYield (t : Thread) (p : Pfx) (s : State) : Res := onCore (issue t p (waitDec 0 0 0 4 (!isMp t) []) (yieldIns t)) s
/-- SUSP: the context is HELD at the next instruction, saved (R128, R187). -/
def suspIns (t : Thread) (s : State) : Eff :=
  match t with
  | .mp _ => .stay s
  | .ctx c =>
    let r := regsOf s t
    .stay (enterHeld (setThr (setRegs s t { r with pc := r.pc + 4 }) t { thrOf s t with heldAt := r.pc + 4 }) c)
/-- SUSP -/
def execSusp (t : Thread) (p : Pfx) (s : State) : Res := onCore (issue t p (waitDec 0 0 0 5 (!isMp t) []) (suspIns t)) s
/-- WFI: waits until an interrupt is pending for the processor (R133); its event targets then release their records (R412). -/
def wfiIns (t : Thread) (s : State) : Eff :=
  match t with
  | .ctx _ => .stay s
  | .mp n => if !(mpRequests s n).isEmpty then .done s else .stay (mpIdles (setMp s n { mpOf s n with wfi := true }) n)
/-- WFI.
DEDUCED, safe (log 62). -/
def execWfi (t : Thread) (p : Pfx) (s : State) : Res := onCore (issue t p (waitDec 0 0 0 6 (isMp t) []) (wfiIns t)) s

/-! Words (R97 to R102). -/
/-- Whether a word is an instruction of a thread, and whether it accepts EXT and REP (R97 to R130); step tells whether a step is in progress. -/
def wordOk (mp step : Bool) (w : Word) : Option (Bool × Bool) :=
  let op := fld w 26 6
  let rd := fld w 22 4
  let ra := fld w 18 4
  let rb := fld w 14 4
  let sub := fld w 16 2
  let wb := bit w 13
  let fnA := fld w 0 8
  let zA := decide (fld w 8 5 = 0)
  let x := fld w 6 8
  let fnE := fld w 0 6
  let ok := fun (b ext rep : Bool) => if b then some (ext, rep) else none
  match op with
  | 0x01 =>
    ok (zA && (fnA ≤ 5 || ((fnA == 6 || fnA == 7 || fnA == 8) && rb == 0) || ((fnA == 9 || fnA == 10) && rd == 0) || (12 ≤ fnA && fnA ≤ 20) ||
      (24 ≤ fnA && fnA ≤ 27 && rb == 0))) false true
  | 0x02 | 0x04 | 0x05 | 0x06 => ok (sub < 2) true true
  | 0x03 => ok (sub < 2 && rd == 0) true true
  | 0x07 => ok (sub == 0 && ra == 0) true true
  | 0x08 => ok (ra == 0) false true
  | 0x09 => ok (decide (fld w 9 7 = 0)) false true
  | 0x10 | 0x12 | 0x16 => some (true, true)
  | 0x11 => ok (sub != 3) true true
  | 0x14 => ok (rd != ra) true true
  | 0x15 => ok (rd != ra && sub != 3) true true
  | 0x18 => ok (rd != 15) false false
  | 0x19 | 0x1A => some (false, false)
  | 0x1B => ok (rd == 0 && sub < 2) true false
  | 0x1C => ok (x == 0 && rb == 0 && rd == 0 && (fnE < 2 || (fnE == 2 && ra == 0))) false false
  | 0x20 => ok (rd == 0 && !wb && zA && fnA < 4) false true
  | 0x28 => ok (!mp && x == 0 && rd == 0 && rb == 0 && ((fnE == 0 && !step) || ((fnE == 1 || fnE == 2) && step))) false false
  | 0x29 => ok (!wb && zA && fnA < 64 && fnA / 8 ≤ 4 && rd != ra && rd != rb && ra != rb) false false
  | 0x2A => ok (!mp && ((fnE == 0 && rd == 0) || (fnE == 1 && rb == 0) || (fnE == 2 && rd == 0) || fnE == 3 || fnE == 4)) false false
  | 0x2B =>
    ok (x == 0 && ((fnE == 0 && !mp) || (fnE == 1 && !mp && rd == 0 && rb == 0) || fnE == 2 || fnE == 3 ||
      ((fnE == 4 || fnE == 5) && !mp && rd == 0 && ra == 0 && rb == 0) || (fnE == 6 && mp && rd == 0 && ra == 0 && rb == 0))) false false
  | 0x2C =>
    let z := rd == 0 && ra == 0 && rb == 0
    match fnE with
    | 0 | 2 => ok z false false
    | 1 => ok (z && x == 0) false false
    | 3 => ok (ra == 0 && rb == 0 && (spReg mp x).isSome) false true
    | 4 => ok (rd == 0 && rb == 0 && ((spReg mp x).bind fun r => r.2).isSome) false (x != 3)
    | 5 | 7 => ok (z && x == 0) false true
    | 6 => ok (rd == 0 && rb == 0 && x == 0) false false
    | _ => none
  | 0x2D => ok (rb == 0 && x == 0 && fnE < 2) false false
  | _ => none
/-- ILLEGAL_INSTRUCTION: a unit whose word is no instruction, or whose prefixes it does not accept (R98). A malformed prefix word (OP 0x3E or 0x3F with
reserved bits set) is such a word and no prefix: ECAUSE.PREFIX is then that of the prefixes before it.
DEDUCED, unsafe (log 118). -/
def execIllegalInstruction (t : Thread) (p : Pfx) (w : Word) (s : State) : Res :=
  onCore (fun s =>
    let d := wordOk (isMp t) (decide ((regsOf s t).stpa ≠ 0)) w
    let e := d.getD (false, false)
    issue t p { word := w, ext := e.1, rep := e.2, legal := d.isSome, regs := [] } (fun s => .stay s) s) s
/-- The fetch of a word of a unit fails (R114, R140): a misaligned PC, or a bus error on that word. Code is fetched from any memory that the
agent may read; register space holds none, so that a fetch there is a bus error.
DESIGN CHOICE, unsafe (log 102). -/
def fetchFault (t : Thread) (word : Nat) (s0 : State) : State :=
  let s := thrWake s0 t
  let pc := (regsOf s t).pc
  let a := pc + BitVec.ofNat 64 (4 * word)
  if !canIssue s t then s0
  else if pc.toNat % 4 ≠ 0 then raiseExc s t xALIGN pc false
  else if codeStalled s t a.toNat then s0
  else if (rdBytes s (thrAgent s t) a.toNat 4).isNone then raiseExc (noteUeIn s (thrAgent s t) a.toNat 4) t xBUS a (decide (word ≠ 0))
  else s0
/-- INSTRUCTION_FETCH_FAULT -/
def execInstructionFetchFault (t : Thread) (word : BitVec 2) (s : State) : Res := onCore (fetchFault t word.toNat) s

/-! Asynchronous causes (R141 to R146). -/
/-- The cause that wins at a boundary (R141, R143): its code, its EVAL, and the state with the cause taken from what is pending. -/
def asyncCause (s : State) (c : CtxId) : Nat × DWord × State :=
  let x := thrOf s (.ctx c)
  match x.watch, x.limit with
  | some a, _ => (0x12, a, setThr s (.ctx c) { x with watch := none })
  | none, some l => (0x11, l, setThr s (.ctx c) { x with limit := none })
  | none, none =>
    let b := sigBits s c
    (0x10, b.setWidth 64, setLive s c { liveOf s c with pend := (liveOf s c).pend &&& ~~~b })
/-- Whether the unit at PC begins with a prefix, as far as the words in memory tell (R93, R132).
DEDUCED, unsafe (log 65). -/
def prefixAt (s : State) (c : CtxId) : Bool :=
  match rdBytes s (ctxAgent s c) (regsOf s (.ctx c)).pc.toNat 4 with
  | some b => decide (62 ≤ leNat b / 2 ^ 26)
  | none => false
/-- The destination of an abandoned WAITE takes the asynchronous value (R152). -/
def abandonedGets (s : State) (c : CtxId) (v : DWord) : State :=
  let x := thrOf s (.ctx c)
  match x.abandoned with
  | some gd => setRegs (setThr s (.ctx c) { x with abandoned := none }) (.ctx c) ((regsOf s (.ctx c)).setG gd v)
  | none => s
/-- A takeable cause is taken at a boundary of a RESIDENT context that runs code (R141, R142, R147); a MOVE is interrupted at a beat boundary
with k bytes read (R121), unless it is being stopped (R218, R222) or waits for a DRAM interface that is retrained (R215). -/
def asyncTake (c : CtxId) (k : Nat) (s : State) : State :=
  let x := thrOf s (.ctx c)
  let ready := inRun s && decide (stOf s c = .resident) && decide (x.phase = .code) && !ctxFenced s c && asyncTakeable s c && x.bus.isNone &&
    x.last.isNone
  let enter := fun (s : State) =>
    let (cause, v, s1) := asyncCause s c
    takeAsync (abandonedGets s1 c v) c cause v (prefixAt s c || (thrOf s (.ctx c)).inRep) (thrOf s (.ctx c)).inRep
  if !ready then s
  else match chanOf s c.toNat with
    | none => if x.egress.isSome then s else enter s
    | some ch =>
      match ch.kind with
      | .psend | .psendAt => enter (abandonPort s c ch)
      | .precv => if ch.left = ch.count then enter (abandonPort s c ch) else s
      | _ =>
        let e := beatEnd s c.toNat ch k
        if ch.stopping.isSome || chanStalled s c.toNat ch e then s
        else
          let (s1, bus) := interruptMove s (.ctx c) e
          if bus then s1 else enter s1
/-- ASYNC_ENTRY -/
def execAsyncEntry (t : Thread) (k : Nat) (s : State) : Res :=
  onCore (fun s => match t with | .ctx c => asyncTake c k s | .mp _ => s) s
/-- RUN_LIMIT: the count of a context with RLEN = 1 reaches ENG_RUNLIM (R139, R145). -/
def runLimit (c : CtxId) (s : State) : State :=
  let x := thrOf s (.ctx c)
  if inRun s && decide (stOf s c = .resident) && decide (x.phase = .code) && (regsOf s (.ctx c)).rlen && decide (act s (aENG + 0x200) ≠ 0) && x.limit.isNone
  then setThr s (.ctx c) { x with limit := some s.time.now } else s
/-- RUN_LIMIT -/
def execRunLimit (c : CtxId) (s : State) : Res := onCore (runLimit c) s

/-! Interrupts (R157 to R163). -/
/-- The 128 bytes of an interrupt frame (R159). -/
def frameOf (r : Regs) (lvl : BitVec 4) : List Byte :=
  let q := fun (v : DWord) => leBytes 8 v.toNat
  q r.pc ++ leBytes 4 r.sr.toNat ++ leBytes 4 lvl.toNat ++ q r.lr ++ q r.rc ++ q r.ml ++ q r.mh ++ q 0 ++ q (r.gr 0) ++ q (r.gr 1) ++ q (r.gr 2) ++
    q (r.gr 3) ++ q (r.gr 12) ++ q (r.gr 13) ++ q (r.gr 14) ++ q 0 ++ q 0
/-- The highest qualifying request is taken: a frame is pushed and its handler starts (R157 to R162); past the limit of the frame stack the
processor stops instead (R158). -/
def interruptTake (n : BitVec 2) (s0 : State) : State :=
  let s1 := mpWake s0 n
  let m := mpOf s1 n
  match qualifies s1 n m.lvl.toNat (srEM (regsOf s1 (.mp n))) with
  | none => s0
  | some l =>
    let held : Bool := (chanOf s1 (tkey (.mp n))).any fun x => chanStalled s1 (tkey (.mp n)) x x.read
    if !inRun s1 ∨ m.stopped ∨ m.fenced ∨ (thrOf s1 (.mp n)).egress.isSome ∨ held then s0
    else
      let (s2, bus) := interruptMove s1 (.mp n) 0
      if bus then s2
      else if fld (act s2 (aMPC + 0x100 * n.toNat + 8)) 7 11 * 128 < m.isp.toNat + 128 then mpStop s2 n false
      else
        let x := thrOf s2 (.mp n)
        let s3 := storeBytes s2 (.mp n) 2 (0x3000_0000 + m.isp.toNat) (frameOf (settleRegs { x with md := none } (regsOf s2 (.mp n))) m.lvl)
        let s4 := setThr s3 (.mp n) { x with
          loads := [], inRep := false, md := none
          mdFrame := x.mdFrame ++ (match x.md with | some (lo, hi) => [(lo, hi, m.isp.toNat + 0x20)] | none => []) }
        let s5 := setMp s4 n { mpOf s4 n with isp := m.isp + 128, depth := m.depth + 1 }
        startHandler (setRegs s5 (.mp n) (settleRegs { x with md := none } (regsOf s5 (.mp n)))) n l
/-- INTERRUPT_ENTRY.
DEDUCED, safe (log 62), DEDUCED, unsafe (log 63). -/
def execInterruptEntry (n : BitVec 2) (s : State) : Res := onCore (interruptTake n) s

end Sys2Proof.Machine
end

