-- ==== Sys2Proof/Machine/PortIns.lean ====
section
/-! DEFINITION. MOVE (R120 to R123) and the port instructions (R125, R126): how they issue. Their channels end with MOVER_COMPLETE, their bus accesses
with DEVICE_PORT_BUS_DONE. -/
namespace Sys2Proof.Machine

/-- A thread requests a channel (R206): a context that finds no entry waits with WAITK 0x6, a processor stalls. -/
def takeChan (s : State) (t : Thread) (x : Xfer) : State :=
  let s1 := requestChan s (tkey t) x
  match t, chanOf s1 (tkey t) with
  | .ctx c, some y => if y.granted then s1 else beginWait s1 c 6 {}
  | _, _ => s1
/-- The cluster whose scratch an address of a thread's channel means (R208). -/
def thrCl (s : State) : Thread → BitVec 6
  | .ctx c => BitVec.ofNat 6 (homeOf s c)
  | .mp _ => 0
/-- MOVE (R120): with gn = 0 it completes at once with V clear; with .C it waits for an outstanding result (R118). -/
def moveIns (t : Thread) (fs fd bar : Bool) (crc : BitVec 3) (gd gs gn : Reg) (s : State) : Eff :=
  let r := regsOf s t
  let n := (r.gr gn).toNat
  if crc ≠ 0 ∧ (thrOf s t).md.isSome then .stay s
  else if n = 0 then .done (setRegs s t { r with sr := setFld r.sr 3 1 0 })
  else .stay (takeChan s t
    { kind := .move, cl := thrCl s t, src := r.gr gs, dst := r.gr gd, count := n, left := n, fs := fs, fd := fd, barrier := bar, crcsel := crc,
      lvl := thrLvl s t, gd := gd, ga := gs, gb := gn })
/-- MOVE: its registers differ from one another; CRCSEL 0b101 to 0b111 are reserved -/
def execMove (t : Thread) (p : Pfx) (fs fd bar : Bool) (crc : BitVec 3) (gd gs gn : Reg) (s : State) : Res :=
  onCore (issue t p (flowDec (fmtA 0x29 gd gs gn false (b2n fs + 2 * b2n fd + 4 * b2n bar + 8 * crc.toNat)) false
    (decide (gd ≠ gs ∧ gd ≠ gn ∧ gs ≠ gn ∧ crc.toNat ≤ 4)) [gd, gs, gn]) (moveIns t fs fd bar crc gd gs gn)) s

/-! Port instructions. -/
/-- The port exception as an effect (R126, R131); the status of a unit number outside R39 reads 0. -/
def portEff (s : State) (u : Byte) (reason : Nat) : Eff :=
  .exc s xPORT (BitVec.ofNat 64 (u.toNat + reason * 0x100 + (portSts s u.toNat).toNat * 0x10000))
/-- The checks of R126 before a port instruction acts, in the order of R140: vs are the values that must be multiples of their size (an offset of 4,
an address or count of the element), send whether it sends, ok whether the state of the unit allows it. -/
def portCheck (s : State) (t : Thread) (u : Byte) (off : Bool) (vs : List DWord) (send : Bool) (ok : EnState → Bool) (k : CtxId → Eff) : Eff :=
  let n := u.toNat
  let m := if off then 4 else elemSize (unitClass n)
  match vs.find? fun v => v.toNat % m ≠ 0 && (off || unitOk n) with
  | some v => .exc s xALIGN v
  | none =>
    if !unitOk n then portEff s u 0x10
    else if send && !canSend (unitClass n) then portEff s u 0x11
    else if (thrLvl s t).toNat < unitAcc s n then portEff s u 0x0D
    else if !ok (unitOf s n).st then portEff s u 0x12
    else match t with
      | .ctx c => k c
      | .mp _ => .stay s
/-- Not DISABLED. -/
def notDisabled (e : EnState) : Bool := e != .disabled
/-- ACTIVE. -/
def isActive (e : EnState) : Bool := e == .active
/-- An instruction of the port group: absent on a processor. -/
def portDec (t : Thread) (gd ga gb : Reg) (u : Byte) (fn : Nat) (regs : List Reg) : Dec := flowDec (fmtE 0x2A gd ga gb u fn) false (!isMp t) regs
/-- The digest of a write into the window of a unit (R363). -/
def digCtl (s : State) (c : CtxId) (u : Byte) (off : Half) (v : Word) : State :=
  digest s c s.lnd.num (u :: leBytes 2 off.toNat ++ leBytes 4 v.toNat)
/-- PWR: a suppressed write completes without the bus (R362). -/
def pwrIns (t : Thread) (u : Byte) (ga gb : Reg) (s : State) : Eff :=
  let r := regsOf s t
  let off : Half := (r.gr ga).setWidth 16
  let v : Word := (r.gr gb).setWidth 32
  portCheck s t u true [off.setWidth 64] false notDisabled fun c =>
    let s1 := digCtl s c u off v
    if suppressed s c then .done (digDone s1 c) else .stay (setThr s1 t { thrOf s1 t with bus := some { unit := u.setWidth 7, off := off, val := some v } })
/-- PWR.
DEDUCED, unsafe (log 67). -/
def execPwr (t : Thread) (p : Pfx) (unit : Byte) (ga gb : Reg) (s : State) : Res :=
  onCore (issue t p (portDec t 0 ga gb unit 0 [ga, gb]) (pwrIns t unit ga gb)) s
/-- PRD. -/
def prdIns (t : Thread) (u : Byte) (gd ga : Reg) (s : State) : Eff :=
  let off : Half := ((regsOf s t).gr ga).setWidth 16
  portCheck s t u true [off.setWidth 64] false notDisabled fun _ =>
    .stay (setThr s t { thrOf s t with bus := some { unit := u.setWidth 7, off := off, val := none, gd := gd } })
/-- PRD.
DEDUCED, unsafe (log 67). -/
def execPrd (t : Thread) (p : Pfx) (unit : Byte) (gd ga : Reg) (s : State) : Res :=
  onCore (issue t p (portDec t gd ga 0 unit 1 [gd, ga]) (prdIns t unit gd ga)) s
/-- PSEND and PSEND.AT: a port mover reads the record. -/
def psendIns (t : Thread) (u : Byte) (launch : Option DWord) (ga gb : Reg) (s : State) : Eff :=
  let r := regsOf s t
  let n := (r.gr gb).toNat
  portCheck s t u false [r.gr ga, r.gr gb] true isActive fun _ =>
    .stay (takeChan s t
      { kind := if launch.isSome then .psendAt else .psend, cl := thrCl s t, src := r.gr ga, count := n, left := n, unit := u.setWidth 7,
        lvl := thrLvl s t, launch := launch, flight := s.lnd.num })
/-- PSEND -/
def execPsend (t : Thread) (p : Pfx) (unit : Byte) (ga gb : Reg) (s : State) : Res :=
  onCore (issue t p (portDec t 0 ga gb unit 2 [ga, gb]) (psendIns t unit none ga gb)) s
/-- PSEND.AT -/
def execPsendAt (t : Thread) (p : Pfx) (unit : Byte) (gd ga gb : Reg) (s : State) : Res :=
  onCore (issue t p (portDec t gd ga gb unit 3 [gd, ga, gb]) fun s => psendIns t unit (some ((regsOf s t).gr gd)) ga gb s) s
/-- PRECV takes the oldest unit of transfer, or waits for one (R125, R377); a timer unit outside CAPTURE has none (R126, R398). -/
def precvIns (t : Thread) (u : Byte) (gd ga gb : Reg) (s : State) : Eff :=
  let r := regsOf s t
  portCheck s t u false [r.gr ga, r.gr gb] false notDisabled fun c =>
    let x := unitOf s u.toNat
    if notCapture s u.toNat then
      .done (setRegs (unitNote s u.toNat 3 false) t { r.setG gd 0 with sr := setFld (setFld r.sr 2 2 0) 0 1 1 })
    else match x.rx with
    | [] => .stay (beginWait (setThr s t { thrOf s t with pwait := some u.toNat }) c 5 {})
    | d :: rest =>
      let n := Nat.min (r.gr gb).toNat d.bytes.length
      .stay (takeChan (setUnit s u.toNat { x with rx := rest }) t
        { kind := .precv, cl := thrCl s t, dst := r.gr ga, count := n, left := n, unit := u.setWidth 7, data := d.bytes, rxEnd := some d.fin,
          lvl := thrLvl s t, gd := gd })
/-- PRECV.
DEDUCED, unsafe (log 72). -/
def execPrecv (t : Thread) (p : Pfx) (unit : Byte) (gd ga gb : Reg) (s : State) : Res :=
  onCore (issue t p (portDec t gd ga gb unit 4 [gd, ga, gb]) (precvIns t unit gd ga gb)) s

end Sys2Proof.Machine
end

