-- ==== Sys2Proof/Machine/Steps.lean ====
section
/-! DEFINITION. The step engine: fetch (R32, R33), hold (R64), checks (R68), the built-in actions (R38 to R47) and the dispatch of routines (R70 to
R74). -/
namespace Sys2Proof.Machine

/-! Fetch. -/
/-- The bytes of a step in a line. -/
def stepIn (l : Nat × List Byte) (a : Nat) : StepW :=
  { lo := BitVec.ofNat 64 (leNat (slice l.2 (a - l.1) 8)), hi := BitVec.ofNat 64 (leNat (slice l.2 (a - l.1 + 8) 8)) }
/-- Whether the buffered line holds a step (R33): unless HOLD is set in the prefetched copy of the step or of one before it. -/
def lineHeld (buf : Option (Nat × List Byte)) (a : Nat) : Bool :=
  match buf with
  | some l => decide (l.1 = a / 64 * 64) && !((List.range (a % 64 / 16 + 1)).any fun i => bit (byteAt l.2 (16 * i + 1)) 3)
  | none => false
/-- The line that holds a step (R33): the buffered one, or a line read. -/
def lineAt (s : State) (c : CtxId) (buf : Option (Nat × List Byte)) (a : Nat) : Option (Nat × List Byte) :=
  let b := a / 64 * 64
  if lineHeld buf a then buf else (rdBytes s (ctxAgent s c) b 64).map fun bs => (b, bs)
/-- Whether the line of a step must be read through an interface that is retrained (R453). -/
def lineWaits (s : State) (c : CtxId) (buf : Option (Nat × List Byte)) (a : Nat) : Bool := !lineHeld buf a && stalled s (ctxAgent s c) a
/-- A step fetch fails (R32): the chain ends, and no BAD is written; an uncorrectable error that it met is logged (R440). -/
def fetchEnd (s0 : State) (c : CtxId) (a : DWord) (st reason : Nat) : State :=
  let s := if st = sBUS then noteUeIn s0 (ctxAgent s0 c) (a.toNat / 64 * 64) 64 else s0
  let x := thrOf s (.ctx c)
  if !x.sb.isEmpty then s0
  else chainEnd (setThr s (.ctx c) { x with line := none, run := none }) c { next := a, status := st, reason := reason, crc := runCrc x } true

/-! Checks (R68). -/
/-- The flags that are bad for an action (R49): bit i stands for flag 8 + i. -/
def badFlags (act : Nat) : Nat :=
  match act with
  | 0x08 => 0 | 0x09 => 0x84 | 0x0A => 0x80 | 0x0B => 0xBF | 0x11 => 0x45
  | _ => if 0x40 ≤ act then 0x04 else 0xC5
/-- Whether an action code is assigned (R38). -/
def actOk (act : Nat) : Bool := decide (act ≤ 5) || decide (8 ≤ act ∧ act ≤ 0xB) || decide (act = 0x10) || decide (act = 0x11) || decide (0x40 ≤ act)
/-- Whether an action names a unit (R38). -/
def actUnit (act : Nat) : Bool := decide (act = 8) || decide (act = 9) || decide (act = 0x10) || decide (act = 0x11) || decide (0x40 ≤ act)
/-- ACT -/ def wAct (w : StepW) : Nat := fld w.lo 0 8
/-- PORT -/ def wPort (w : StepW) : Nat := fld w.lo 16 8
/-- CRCSEL -/ def wCrc (w : StepW) : Nat := fld w.lo 24 3
/-- COUNT -/ def wCount (w : StepW) : Nat := fld w.lo 32 32
/-- ADDR -/ def wAddr (w : StepW) : Nat := w.hi.toNat
/-- LIST -/ def wList (w : StepW) : Bool := bit w.lo 14
/-- Check 8 of R68: whether the fields meet the requirements of R38, R43 and R60; src is the SOURCE of a MOVE-MEM. -/
def stepFieldsOk (w src : StepW) : Bool :=
  let p := wPort w
  let n := wCount w
  let a := wAddr w
  let z := decide (wCrc w = 0)
  let list := fun (w : StepW) => !wList w || decide (wAddr w % 16 = 0)
  match wAct w with
  | 0x01 => decide (p = 0 ∧ n = 0 ∧ a % 16 = 0) && z
  | 0x02 =>
    z && (match p with
      | 0 => decide (n ≠ 0 ∧ a = 0)
      | 1 => decide (n = 0)
      | 2 => decide (n ≠ 0 ∧ a = 0)
      | 3 => decide (n = 0 ∧ a = 0)
      | _ => false)
  | 0x03 => decide (p = 0 ∧ n ≠ 0 ∧ a < 2 ^ 26) && z
  | 0x04 => decide (p = 0 ∧ a = 0) && z
  | 0x05 => decide (p = 0 ∧ n = 0 ∧ a = 0) && z
  | 0x08 => decide (n ≠ 0) && list w
  | 0x09 => decide (n ≠ 0) && list w
  | 0x0A => decide (p = 0 ∧ n ≠ 0) && list w && decide (wPort src = 0 ∧ wCount src < 4 ∧ wCrc src = 0) && list src
  | 0x10 => decide (a < 2 ^ 16 ∧ a % 4 = 0) && z
  | 0x11 => decide (n ≠ 0) && z
  | _ => true
/-- Checks 3 to 9 of R68: the reason of the first that fails; pair tells whether a SOURCE follows, run is the CONT run in progress. A reserved
CRCSEL fails a ROUTINE step too (assumption log 104).
DEDUCED, unsafe (log 104). -/
def checkStep (w src : StepW) (pair : Bool) (run : Option Run) : Option Nat :=
  let act := wAct w
  let mem := decide (act = 0xA)
  let crc := fun (w : StepW) => decide (4 < wCrc w)
  let rsv := fun (w : StepW) => decide (fld w.lo 27 4 ≠ 0)
  let both := mem && pair
  if !actOk act then some 6
  else if rsv w || (both && rsv src) then some 9
  else if (decide (act ≠ 0) && crc w) || (both && crc src) then some 0xA
  else if decide (fld w.lo 8 8 &&& badFlags act ≠ 0) || (bit w.lo 10 && wList w && decide (act < 0x40)) ||
      (both && (decide (fld src.lo 8 8 &&& badFlags 0xB ≠ 0) || (bit src.lo 32 && wList src) || (bit src.lo 33 && wList w))) then some 7
  else if act = 0xB ∨ (mem ∧ !pair) then some 0xB
  else if actUnit act && !unitOk (wPort w) then some 0x10
  else if act = 9 ∧ !canSend (unitClass (wPort w)) then some 0x11
  else if !stepFieldsOk w src then some 9
  else match run with
    | some r => if r.act.toNat = act ∧ r.port.toNat = wPort w ∧ r.crcsel.toNat = wCrc w ∧ !bit w.lo 11 then none else some 8
    | none => none
/-- The ways of an Orchard set that the pinned-routine window leaves (R191).
DESIGN CHOICE, safe (log 14). -/
def orchWays (s : State) : Nat := 16 - (orchSize s / 0x10000 + 15) / 16
/-- Whether a fetch from an address goes through the Orchard (R191): code and tables in DRAM and flash. -/
def orchCaches (s : State) (c a : Nat) : Bool :=
  match locate s (.cl c) a with
  | some (.dram, _) | some (.flash, _) => true
  | _ => false
/-- The lines of a set that stay when a line joins it: all while it has room, else w − 1, without the free choice Config.victim (log 14).
DESIGN CHOICE, safe (log 14). -/
def setStays {α : Type} (w k : Nat) (set : List α) : List α := if set.length < w then set else (set.rotateLeft (Config.victim k)).take (w - 1)
/-- The line of an address as the Orchard gives it to a cluster (R191, R192): a line that it holds is not read again; a line read joins its
set, one of a full set gives way to it, and ENG_ORCH_MISS counts it (R204). While an invalidation runs every fetch misses and no line joins (R192).
DESIGN CHOICE, safe (log 14). -/
def orchLine (s : State) (c a : Nat) : Option (List Byte × State) :=
  let n := a / 64
  let put := fun (b : List Byte) =>
    let rest := s.eng.orch.filter fun e => e.1 ≠ n
    let stay := setStays (orchWays s) s.eng.victims (rest.filter fun e => e.1 % 16384 = n % 16384)
    if orchWays s = 0 ∨ s.eng.invBusy then s
    else { s with eng := { s.eng with orch := (n, b) :: stay ++ rest.filter fun e => e.1 % 16384 ≠ n % 16384
                                      victims := s.eng.victims + 1 } }
  if orchCaches s c a then
    match s.eng.orch.find? fun e => !s.eng.invBusy && decide (e.1 = n) with
    | some e => some (e.2, s)
    | none => (rdBytes s (.cl c) (64 * n) 64).map fun b => (b, bump (put b) (aENG + 0x310))
  else (rdBytes s (.cl c) (64 * n) 64).map fun b => (b, s)
/-- The entry of a step in the dispatch cache: the class of its unit and its action code (R78). -/
def routineKey (w : StepW) : Nat := unitClass (wPort w) * 192 + (wAct w - 0x40)
/-- The address of the routine table entry of a step (R70). -/
def routineAt (s : State) (w : StepW) : Nat :=
  let cls := unitClass (wPort w)
  fld (act s (aENG + 0x100 + 8 * cls)) 11 21 * 2048 + fld (act s (aENG + 0x104 + 8 * cls)) 0 16 * 2 ^ 32 + 8 * (wAct w - 0x40)
/-- The routine table entry of a step through the dispatch cache of its cluster, the most recently used entry first (R70, R78); none for a bus
error.
DESIGN CHOICE, safe (log 107). -/
def routineLook (s : State) (c : CtxId) (w : StepW) : Option DWord × State :=
  let key := routineKey w
  let h := homeOf s c
  let a := routineAt s w
  let keep := fun (s : State) (e : DWord) =>
    (some e, setCl s h { clOf s h with dcache := ((key, e) :: (clOf s h).dcache.filter fun d => d.1 ≠ key).take 64 })
  match (clOf s h).dcache.find? fun e => e.1 = key with
  | some e => keep s e.2
  | none =>
    match orchLine s h a with
    | some (bs, s1) => keep s1 (BitVec.ofNat 64 (leNat (slice bs (a % 64) 8)))
    | none => (none, noteUeIn s (.cl h) (a / 64 * 64) 64)
/-- Whether the routine table entry of a step must be read through an interface that is retrained (R453). -/
def routineWaits (s : State) (c : CtxId) (w : StepW) : Bool :=
  decide (0x40 ≤ wAct w) && bit (act s (aENG + 0x100 + 8 * unitClass (wPort w))) 0 && unitOk (wPort w) &&
    !((clOf s (homeOf s c)).dcache.any fun e => e.1 = routineKey w) && !orchHas s (routineAt s w / 64) && stalled s (.cl (homeOf s c)) (routineAt s w)
/-- The routine table entry of a step (R70 to R73, R78): status and reason of a failure, or the entry; either with the state that the look-up leaves. -/
def routineEntry (s : State) (c : CtxId) (w : StepW) : ((Nat × Nat) × State) ⊕ (DWord × State) :=
  if !bit (act s (aENG + 0x100 + 8 * unitClass (wPort w))) 0 then .inl ((sCHAIN, 0xC), s)
  else match routineLook s c w with
    | (none, s1) => .inl ((sBUS, 0x1D), s1)
    | (some e, s1) => if !bit e 0 ∨ fld e 48 16 ≠ 0 then .inl ((sCHAIN, 0xC), s1) else .inr (e, s1)
/-- Whether the step access level of a step's unit is above CEIL (R383). -/
def unitAbove (s : State) (c : CtxId) (w : StepW) : Bool :=
  actUnit (wAct w) && decide ((ceilOf (regsOf s (.ctx c))).toNat < unitAcc s (wPort w))
/-- Check 10 of R68 for a ROUTINE: the routine table entry, then the levels (R72, R383). -/
def routineCheck (s : State) (c : CtxId) (w : StepW) : ((Nat × Nat) × State) ⊕ (DWord × State) :=
  match routineEntry s c w with
  | .inl e => .inl e
  | .inr (e, s1) => if unitAbove s c w ∨ (bit e 1 ∧ ceilOf (regsOf s (.ctx c)) = 0) then .inl ((sPROT, 0xD), s1) else .inr (e, s1)
/-- Check 10 of R68. -/
def checkLevel (s : State) (c : CtxId) (w : StepW) : ((Nat × Nat) × State) ⊕ State :=
  if 0x40 ≤ wAct w then
    match routineCheck s c w with
    | .inl e => .inl e
    | .inr (_, s1) => .inr s1
  else if unitAbove s c w then .inl ((sPROT, 0xD), s) else .inr s
/-- The run that a first step begins (R37). -/
def newRun (w : StepW) : Run :=
  { act := BitVec.ofNat 8 (wAct w), port := BitVec.ofNat 8 (wPort w), crcsel := BitVec.ofNat 3 (wCrc w),
    crc := BitVec.ofNat 32 (crcInit (BitVec.ofNat 3 (wCrc w))) }
/-- What a WAIT step waits for, fixed when it is decoded (R43, R44). -/
def waitAt (s : State) (w : StepW) : Option Wait :=
  if wAct w ≠ 2 then none
  else match wPort w with
    | 0 => some { mask := BitVec.ofNat 32 (wCount w) }
    | 1 => some { till := some w.hi }
    | 2 => some { till := some (s.time.now + BitVec.ofNat 64 (wCount w)) }
    | _ => some { landing := true }
/-- The fetched step is checked, and is in progress or fails (R68).
DEDUCED, unsafe (log 106). -/
def decodeStep (s : State) (c : CtxId) (w src : StepW) (pair : Bool) : State :=
  let x := thrOf s (.ctx c)
  let data := decide (wAct w = 8) || decide (wAct w = 9) || decide (wAct w = 0xA) || decide (0x40 ≤ wAct w)
  let y : Thr :=
    { x with
      phase := .step, cur := w, src := src, holdPass := false, wait := waitAt s w, start := x.run, taken := none
      run := match x.run with | some r => some r | none => if data then some (newRun w) else none }
  let bad := fun (s : State) (st reason : Nat) =>
    if !x.sb.isEmpty ∧ !hasNext y then none else some (finishStep (setThr s (.ctx c) y) c st (if actData (wAct w) then wCount w else 0) reason)
  match checkStep w src pair x.run with
  | some r => (bad s sCHAIN r).getD s
  | none =>
    match checkLevel s c w with
    | .inl ((st, r), s1) => (bad s1 st r).getD s
    | .inr s1 => setThr s1 (.ctx c) y
/-- A context is saved and HELD at a step (R64, R187). -/
def holdAt (s : State) (c : CtxId) (a : DWord) : State :=
  enterHeld (setThr s (.ctx c) { thrOf s (.ctx c) with heldAt := a }) c
/-- A held step: with NOTE a report is posted (R64). -/
def holdStep (s : State) (c : CtxId) (w : StepW) : State :=
  let a := (regsOf s (.ctx c)).stpa
  let x := thrOf s (.ctx c)
  let ub := unitBits s { x with cur := w }
  if bit w.lo 12 then
    let (s1, ok) := postReport s c
      { next := a, residual := if actData (wAct w) then wCount w else 0, status := sHELD ||| sNOTED ||| ub.2, reason := 5, psts := ub.1, crc := runCrc x }
      true
    if ok then holdAt s1 c a else s1
  else holdAt s c a
/-- Whether the step engine of a context can act (R177, R182, R195). -/
def engineOn (s : State) (c : CtxId) : Bool :=
  let x := thrOf s (.ctx c)
  inRun s && decide (stOf s c = .resident) && !ctxFenced s c && !leaving s c && x.bus.isNone && x.egress.isNone && x.last.isNone &&
    (chanOf s c.toNat).isNone
/-- STEP_FETCH (R32, R33, R54, R64, R68): it waits for a line, or for a routine table entry, that lies behind a retrain (R453). -/
def stepFetch (c : CtxId) (s : State) : State :=
  let x := thrOf s (.ctx c)
  let g := regsOf s (.ctx c)
  let a := g.stpa.toNat
  if !engineOn s c ∨ x.phase ≠ .fetch then s
  else if a % 16 ≠ 0 then fetchEnd s c g.stpa sALIGN 0x16
  else if lineWaits s c (if x.holdPass then none else x.line) a then s
  else match lineAt s c (if x.holdPass then none else x.line) a with
    | none => fetchEnd s c g.stpa sBUS 0x15
    | some l =>
      let w := stepIn l a
      let next := if wAct w = 0xA then lineAt s c (some l) (a + 16) else some l
      if wAct w = 0xA ∧ lineWaits s c (some l) (a + 16) then s
      else match next with
      | none => fetchEnd s c (g.stpa + 16) sBUS 0x15
      | some m =>
        let src := if wAct w = 0xA then stepIn m (a + 16) else {}
        let pair := decide (wAct w = 0xA) && decide (wAct src = 0xB)
        let s1 := setRegs (setThr s (.ctx c) { x with line := some m }) (.ctx c) { g with stpw := w.lo }
        if x.skip then goOn s1 c (g.stpa + (if pair then 32 else 16)) false (bit w.lo 8)
        else if bit w.lo 11 ∧ !x.holdPass then holdStep s1 c w
        else if routineWaits s c w then s
        else decodeStep s1 c w src pair
/-- STEP_FETCH -/
def execStepFetch (c : CtxId) (s : State) : Res := onCore (stepFetch c) s

/-! Actions. -/
/-- Runs an action of the step in progress when it is the action of that code. A step that completes here waits for the stores before it when
it carries FENCE or may end the chain (R61, R62). -/
def onStep (c : CtxId) (ok : Nat → Bool) (ends : Bool) (f : State → State) (s : State) : State :=
  let x := thrOf s (.ctx c)
  if engineOn s c && decide (x.phase = .step) && ok (stepAct x) && !(ends && fenceWait s c) then f s else s
/-- NOP -/
def execNopStep (c : CtxId) (s : State) : Res := onCore (onStep c (· == 0) true fun s => finishStep s c 0 0 0) s
/-- JUMP -/
def execJump (c : CtxId) (s : State) : Res :=
  onCore (onStep c (· == 1) false fun s =>
    if !(thrOf s (.ctx c)).sb.isEmpty && stepFlag (thrOf s (.ctx c)) 13 then s
    else finishStep s c 0 0 0 (some (thrOf s (.ctx c)).cur.hi)) s
/-- WAIT (R43, R44): one whose condition already holds completes at once. -/
def waitGo (c : CtxId) (s : State) : State :=
  let t : Thread := .ctx c
  match (thrOf s t).wait with
  | none => finishStep s c 0 0 0
  | some w =>
    let m := (liveOf s c).pend &&& w.mask
    if w.mask ≠ 0 then
      (if m ≠ 0 then
        let s1 := setLive s c { liveOf s c with pend := (liveOf s c).pend &&& ~~~m }
        finishStep (setRegs s1 t { regsOf s1 t with eval := m.setWidth 64 }) c 0 0 0
      else beginWait s c 1 w)
    else match w.till with
      | some d => if timeGe s d then finishStep s c 0 0 0 else beginWait s c 2 w
      | none => if w.landed then finishStep s c 0 0 0 else beginWait s c 4 w
/-- WAIT.
DEDUCED, unsafe (log 70). -/
def execWaitStep (c : CtxId) (s : State) : Res := onCore (onStep c (· == 2) true (waitGo c)) s
/-- SIGNAL (R45, R362, R519). -/
def signalGo (c : CtxId) (s : State) : State :=
  let w := (thrOf s (.ctx c)).cur
  let d := BitVec.ofNat 18 (wAddr w)
  let a := BitVec.ofNat 8 (fld w.hi 18 8)
  let bits := BitVec.ofNat 32 (wCount w)
  let fin := fun (s : State) (r : Nat) => finishStep s c (if r = 0 then 0 else sPROT) 0 r
  if isLocal s a then (let (s1, r) := ctxSignal s d bits; fin s1 r)
  else if suppressed s c then fin s 0
  else match sendRemote s a 0x19 (signalBody d a bits) (.thread (.ctx c)) with
    | .inl r => fin s r
    | .inr (s1, true) => fin s1 0
    | .inr (s1, false) => beginWait (setThr s1 (.ctx c) { thrOf s1 (.ctx c) with egress := some (none, true) }) c 7 {}
/-- SIGNAL -/
def execSignalStep (c : CtxId) (s : State) : Res := onCore (onStep c (· == 3) true (signalGo c)) s
/-- REPORT: COUNT is the tag -/
def execReportStep (c : CtxId) (s : State) : Res :=
  onCore (onStep c (· == 4) true fun s => finishStep s c 0 (stepCount (thrOf s (.ctx c))) 0) s
/-- END -/
def execEndStep (c : CtxId) (s : State) : Res := onCore (onStep c (· == 5) true fun s => finishStep s c 0 0 0) s

/-! Data steps (R41, R42, R46, R205). -/
/-- A data step requests its channel; the context waits for its mover (R177, R206). -/
def dataChan (s : State) (c : CtxId) (x : Xfer) : State := beginWait (requestChan s c.toNat x) c 6 {}
/-- What the channels of a step have in common (R31, R208). -/
def stepXfer (s : State) (c : CtxId) (kind : XKind) (n : Nat) : Xfer :=
  let x := thrOf s (.ctx c)
  { kind := kind, cl := BitVec.ofNat 6 (homeOf s c), count := n, left := n, barrier := stepFlag x 13, crcsel := BitVec.ofNat 3 (wCrc x.cur),
    unit := BitVec.ofNat 7 (wPort x.cur), lvl := ceilOf (regsOf s (.ctx c)), flight := s.lnd.num }
/-- Whether a step breaks R40: ADDR is not checked with LIST, nor with DROP (R50). -/
def misaligned (w : StepW) : Bool :=
  let m := elemSize (unitClass (wPort w))
  decide (wCount w % m ≠ 0) || (!wList w && !bit w.lo 10 && decide (wAddr w % m ≠ 0))
/-- A MOVE-IN whose run has its unit of transfer moves its part of it. -/
def moveInChan (s : State) (c : CtxId) (r : Run) : State :=
  let w := (thrOf s (.ctx c)).cur
  dataChan s c { stepXfer s c .moveIn (Nat.min (wCount w) r.inData.length) with
    dst := w.hi, dstList := wList w, drop := bit w.lo 10, data := r.inData }
/-- MOVE-IN (R41): the first step of a run takes the oldest unit of transfer, or waits for one. -/
def moveInGo (c : CtxId) (s : State) : State :=
  let x := thrOf s (.ctx c)
  let w := x.cur
  let u := wPort w
  let n := wCount w
  let fail := fun (s : State) (st r : Nat) => if fenceWait s c then s else finishStep s c st n r
  match x.run with
  | none => s
  | some r =>
    if misaligned w then fail s sALIGN 0
    else if r.inEnd.isSome then moveInChan s c r
    else if notCapture s u ∧ (unitOf s u).st ≠ .disabled then (if fenceWait s c then s else fail (unitNote s u 3 false) sPORT 0x1C)
    else match (unitOf s u).rx with
      | [] =>
        if (unitOf s u).st = .disabled then fail s sPORT 0x12
        else beginWait (setThr s (.ctx c) { x with pwait := some u }) c 5 {}
      | d :: rest =>
        let s1 := setUnit s u { unitOf s u with rx := rest }
        let r1 := { r with inData := d.bytes, inEnd := some d.fin }
        moveInChan (setThr s1 (.ctx c) { x with run := some r1, taken := some (d.bytes, d.fin) }) c r1
/-- MOVE-IN -/
def execMoveIn (c : CtxId) (s : State) : Res := onCore (onStep c (· == 8) false (moveInGo c)) s
/-- MOVE-OUT (R42): a port mover reads the record. -/
def moveOutGo (c : CtxId) (s : State) : State :=
  let w := (thrOf s (.ctx c)).cur
  if misaligned w then (if fenceWait s c then s else finishStep s c sALIGN (wCount w) 0)
  else dataChan s c { stepXfer s c .moveOut (wCount w) with src := w.hi, srcList := wList w }
/-- MOVE-OUT -/
def execMoveOut (c : CtxId) (s : State) : Res := onCore (onStep c (· == 9) false (moveOutGo c)) s
/-- MOVE-MEM with its SOURCE (R46), or the pair of a MOVE entry, which no fetch has checked: its list must be a multiple of 16 too (R60, R68, R239). -/
def moveMemGo (c : CtxId) (s : State) : State :=
  let x := thrOf s (.ctx c)
  if (wList x.cur && decide (x.cur.hi.toNat % 16 ≠ 0)) || (wList x.src && decide (x.src.hi.toNat % 16 ≠ 0)) then
    (if fenceWait s c then s else finishStep s c sCHAIN (stepCount x) 9)
  else
  let s1 := setThr s (.ctx c) { x with run := match x.run with | some r => some r | none => some (newRun x.cur) }
  dataChan s1 c { stepXfer s c (if x.wqMove.isSome then .wqMove else .moveMem) (stepCount x) with
    dst := x.cur.hi, dstList := wList x.cur, drop := bit x.cur.lo 10, src := x.src.hi, srcList := wList x.src, fs := bit x.src.lo 32,
    fd := bit x.src.lo 33, maxFrag := x.wqMove.getD 65536, unit := 0 }
/-- MOVE-MEM -/
def execMoveMem (c : CtxId) (s : State) : Res := onCore (onStep c (· == 0xA) false (moveMemGo c)) s
/-- CONTROL (R47, R520): a suppressed write completes without the bus (R362). -/
def controlGo (c : CtxId) (s : State) : State :=
  let w := (thrOf s (.ctx c)).cur
  let u := BitVec.ofNat 8 (wPort w)
  let off := BitVec.ofNat 16 (wAddr w)
  let v := BitVec.ofNat 32 (wCount w)
  if suppressed s c then (if fenceWait s c then s else finishStep (digDone (digCtl s c u off v) c) c 0 0 0)
  else
    let s1 := digDone (digCtl s c u off v) c
    setThr s1 (.ctx c) { thrOf s1 (.ctx c) with bus := some { unit := u.setWidth 7, off := off, val := some v } }
/-- CONTROL.
DEDUCED, unsafe (log 67). -/
def execControlStep (c : CtxId) (s : State) : Res := onCore (onStep c (· == 0x10) false (controlGo c)) s
/-- SENSE (R47, R520): DEVICE_PORT_BUS_DONE reads the record and writes it to memory. -/
def senseGo (c : CtxId) (s : State) : State :=
  let w := (thrOf s (.ctx c)).cur
  dataChan s c { stepXfer s c .sense (Nat.min (wCount w) 32) with dst := w.hi }
/-- SENSE -/
def execSenseStep (c : CtxId) (s : State) : Res := onCore (onStep c (· == 0x11) false (senseGo c)) s
/-- The dispatch of a routine (R74, R78, R137). -/
def routineGo (c : CtxId) (s : State) : State :=
  let t : Thread := .ctx c
  let w := (thrOf s t).cur
  match routineCheck s c w with
  | .inl ((st, r), s1) => if fenceWait s c then s else finishStep s1 c st 0 r
  | .inr (e, s1) =>
    let g := regsOf s1 t
    let g1 := ((g.setG 0 w.hi).setG 1 (BitVec.ofNat 64 (wCount w))).setG 2 (BitVec.ofNat 64 (wPort w))
    let s2 := setRegs s1 t { g1 with
      stpw := w.lo, lr := 0xFFFF_FFFF_FFFF_FFFC, pc := BitVec.ofNat 64 (fld e 2 46 * 4), sr := setFld g.sr 8 2 (b2n (bit e 1)) }
    setThr s2 t { thrOf s2 t with phase := .code, rtPl := BitVec.ofNat 2 (fld g.sr 8 2) }
/-- ROUTINE -/
def execRoutineStep (c : CtxId) (s : State) : Res := onCore (onStep c (fun a => decide (0x40 ≤ a)) false (routineGo c)) s
/-- The time of a wait comes (R43, R44, R127): a WAIT, a WAITE, a WAITT, or a suppressed record with a launch time (R362). -/
def timeWaitEnd (c : CtxId) (s : State) : State :=
  match (thrOf s (.ctx c)).wait.bind fun w => w.till with
  | some d => if inRun s && decide (stOf s c = .waiting) && !ctxFenced s c then endTimeWait (atTime s d) c else s
  | none => s
/-- TIME_WAIT_END -/
def execTimeWaitEnd (c : CtxId) (s : State) : Res := onCore (timeWaitEnd c) s

end Sys2Proof.Machine
end

