-- ==== Sys2Proof/Machine/Sched.lean ====
section
/-! DEFINITION. The scheduler of a cluster (R181 to R189): ranks, slots, preemption, switches, the load and save buffers; and the instruction caches
(R190, R191). -/
namespace Sys2Proof.Machine

/-! Ranks and slots. -/
/-- The pinned slots of a cluster in the profile in force (R12, R181). -/
def pinSlots (s : State) : Nat := pinCount s.boot.profile.toNat
/-- The contexts in a state. -/
def inState (s : State) (st : CtxState) : List CtxId := (s.gal.live.filter fun e => e.2.st = st).map fun e => BitVec.ofNat 18 e.1
/-- The READY contexts that wait for an unpinned slot of a cluster. -/
def readyOn (s : State) (cl : Nat) : List CtxId := (inState s .ready).filter fun c => decide (homeOf s c = cl) && !pinOf s c && !inSlot s c
/-- Whether a READY context goes before another (R183): PRIO, then READY age, then the higher id. -/
def goesFirst (s : State) (a b : CtxId) : Bool :=
  let x := (thrOf s (.ctx a)).readyAt
  let y := (thrOf s (.ctx b)).readyAt
  decide (prioOf s b < prioOf s a) || (decide (prioOf s a = prioOf s b) && (decide (x < y) || (decide (x = y) && decide (b.toNat < a.toNat))))
/-- The highest-ranked READY context of a cluster (R183). -/
def bestReady (s : State) (cl : Nat) : Option CtxId :=
  (readyOn s cl).foldl (fun b c => match b with | none => some c | some d => if goesFirst s c d then some c else some d) none
/-- The contexts in the unpinned slots of a cluster that are RESIDENT. -/
def residentOn (s : State) (cl : Nat) : List CtxId :=
  (inState s .resident).filter fun c => !pinOf s c && match slotOf s c with | some k => decide (k / 16 = cl) | none => false
/-- The unpinned slots of a cluster that are free. -/
def freeSlots (s : State) (cl : Nat) : List Nat :=
  ((List.range 16).drop (pinSlots s)).filter fun i => (sget none s.eng.occ (16 * cl + i)).isNone
/-- The pinned slot of a context: its place among the contexts pinned on its cluster, in ascending order of id (R181). -/
def pinRank (s : State) (c : CtxId) : Nat :=
  ((s.reg.tabA.takeWhile fun e => decide (e.1 < 16 * c.toNat)).filter fun e => bit e.2 10 && decide (fld e.2 4 6 = homeOf s c)).length
/-- A context takes a slot and is RESIDENT. -/
def enterSlot (s : State) (c : CtxId) (k : Nat) : State :=
  let (n, s0) := nextStamp s
  let s2 : State := { s0 with eng := { s0.eng with occ := sset none s0.eng.occ k (some c) } }
  let s1 := if (slotRegs s2 c.toNat).isNone then loadRec s2 c else s2
  setThr (setSt s1 c .resident) (.ctx c) { thrOf s1 (.ctx c) with resAt := n }
/-- The free pinned slot that a context pinned on a cluster may enter. -/
def pinEntry (s : State) (c : CtxId) : Option Nat :=
  let i := pinRank s c
  let k := 16 * homeOf s c + i
  if i < pinSlots s ∧ (sget none s.eng.occ k).isNone then some k else none
/-- Whether a cluster schedules (R18, R195, R204). -/
def clOn (s : State) (cl : Nat) : Bool := inRun s && decide (cl ≤ 32) && (clOf s cl).mode == .active
/-- Whether a record is in a load buffer of a cluster. -/
def isLoaded (s : State) (cl : Nat) (c : CtxId) : Bool := (clOf s cl).loadBufs.any fun e => e.1 == c
/-- A record leaves its load buffer. -/
def unload (s : State) (cl : Nat) (c : CtxId) : State :=
  setCl s cl { clOf s cl with loadBufs := (clOf s cl).loadBufs.filter fun e => e.1 ≠ c }
/-- SLOT_FILL (R183): a pinned context enters its slot, else the highest-ranked READY context a free slot, once its record is in a load buffer. -/
def slotFill (cl : Nat) (s : State) : State :=
  if !clOn s cl then s
  else match (inState s .ready).find? fun c => pinOf s c && decide (homeOf s c = cl) && !inSlot s c && (pinEntry s c).isSome with
    | some c => if (slotRegs s c.toNat).isNone && recUpset s c then haltLoad (noteRecs s c) c else enterSlot s c ((pinEntry s c).getD 0)
    | none =>
      match freeSlots s cl, bestReady s cl with
      | i :: _, some c => if isLoaded s cl c then enterSlot (unload s cl c) c (16 * cl + i) else s
      | _, _ => s
/-- SLOT_FILL -/
def execSlotFill (cl : BitVec 6) (s : State) : Res := onCore (slotFill cl.toNat) s

/-! Preemption and switches. -/
/-- A context stops at its next boundary (R152, R184): none while it has none, inside a built-in step or a bus access; a MOVE stops with its residue,
unless it is being stopped (R218, R222) or waits for a DRAM interface that is retrained (R215). -/
def stopAt (s : State) (c : CtxId) : Option State :=
  let x := thrOf s (.ctx c)
  if x.phase = .step ∨ x.bus.isSome ∨ x.egress.isSome then none
  else match chanOf s c.toNat with
    | none => some s
    | some ch =>
      match ch.kind with
      | .move => if ch.stopping.isSome || chanStalled s c.toNat ch ch.read then none else some (interruptMove s (.ctx c) ch.read).1
      | .psend | .psendAt => some (abandonPort s c ch)
      | .precv => if ch.left = ch.count then some (abandonPort s c ch) else none
      | _ => none
/-- A switch is decided: out stops, and inn is to take its slot (R188). -/
def decideSwitch (s : State) (cl : Nat) (out inn : CtxId) : State :=
  match stopAt s out with
  | some s1 => if stOf s1 out = .resident then setCl s1 cl { clOf s1 cl with switch := some (out, inn) } else s1
  | none => s
/-- Whether a context is the one to preempt before another (R184): lower PRIO, then RESIDENT longer. -/
def yieldsFirst (s : State) (a b : CtxId) : Bool :=
  decide (prioOf s a < prioOf s b) || (decide (prioOf s a = prioOf s b) && decide ((thrOf s (.ctx a)).resAt < (thrOf s (.ctx b)).resAt))
/-- PREEMPTION (R184). -/
def preempt (cl : Nat) (s : State) : State :=
  if !clOn s cl ∨ (clOf s cl).switch.isSome ∨ !(freeSlots s cl).isEmpty then s
  else
    let low := (residentOn s cl).foldl (fun b c => match b with | none => some c | some d => if yieldsFirst s c d then some c else some d) none
    match low, bestReady s cl with
    | some o, some i => if prioOf s o < prioOf s i then decideSwitch s cl o i else s
    | _, _ => s
/-- PREEMPTION -/
def execPreemption (cl : BitVec 6) (s : State) : Res := onCore (preempt cl.toNat) s
/-- QUANTUM_EXPIRY (R185). -/
def quantum (c : CtxId) (s : State) : State :=
  let cl := homeOf s c
  if !clOn s cl ∨ fld (act s (aENG + 0xA0)) 0 24 = 0 ∨ (clOf s cl).switch.isSome ∨ !(residentOn s cl).contains c then s
  else match bestReady s cl with
    | some i => if prioOf s c ≤ prioOf s i then decideSwitch s cl c i else s
    | none => s
/-- QUANTUM_EXPIRY -/
def execQuantumExpiry (c : CtxId) (s : State) : Res := onCore (quantum c) s
/-- The end of a switch that no longer applies. -/
def noSwitch (s : State) (cl : Nat) : State := setCl s cl { clOf s cl with switch := none }
/-- CONTEXT_SWITCH (R188): the outgoing register set goes to a save buffer and its context is READY; the incoming record comes from its load buffer.
DEDUCED, safe (log 15). -/
def contextSwitch (cl : Nat) (s : State) : State :=
  if !clOn s cl then s
  else match (clOf s cl).switch with
    | none => s
    | some (o, i) =>
      match slotOf s o with
      | none => noSwitch s cl
      | some k =>
        if stOf s o ≠ .resident ∨ stOf s i ≠ .ready then noSwitch s cl
        else if !isLoaded s cl i ∨ 2 ≤ (clOf s cl).saveBufs.length then s
        else
          let r : Regs := { settleRegs (thrOf s (.ctx o)) (regsOf s (.ctx o)) with stb := 2, waitw := 0 }
          let (n, s1) := nextStamp (noSwitch s cl)
          let s2 := setCl s1 cl { clOf s1 cl with saveBufs := (clOf s1 cl).saveBufs ++ [(o, r)] }
          let s3 := setSlotRegs (setSt s2 o .ready) o.toNat (some r)
          let s4 := setThr s3 (.ctx o) { thrOf s3 (.ctx o) with loads := [], md := none, readyAt := n }
          enterSlot (unload s4 cl i) i k
/-- CONTEXT_SWITCH -/
def execContextSwitch (cl : BitVec 6) (s : State) : Res := onCore (contextSwitch cl.toNat) s
/-- The register set of a save buffer reaches the Gallery (R189), unless the context's record has been written since.
DEDUCED, safe (log 8), DEDUCED, safe (log 15). -/
def saveDone (s : State) (c : CtxId) : State :=
  match slotRegs s c.toNat with
  | some r =>
    if inSlot s c then s
    else
      let s1 := setThr s (.ctx c) { thrOf s (.ctx c) with saved := savedOf (thrOf s (.ctx c)) r false }
      setSlotRegs (setRec (healRec s1 c) c r) c.toNat none
  | none => s
/-- GALLERY_SAVE_DONE (R189): the older save buffer. -/
def gallerySave (cl : Nat) (s : State) : State :=
  match (clOf s cl).saveBufs with
  | [] => s
  | (c, _) :: r => saveDone (setCl s cl { clOf s cl with saveBufs := r }) c
/-- GALLERY_SAVE_DONE -/
def execGallerySaveDone (cl : BitVec 6) (s : State) : Res := onCore (gallerySave cl.toNat) s
/-- Whether fewer than four READY contexts of a cluster rank above one (R189). -/
def ranksTop (s : State) (cl : Nat) (c : CtxId) : Bool :=
  decide (((readyOn s cl).filter fun d => d ≠ c && goesFirst s d c).length < 4)
/-- RECORD_LOAD (R189, R440): the load buffers hold the records of the highest-ranked READY contexts; a save of the record comes first, and an
uncorrectable error halts the context.
DEDUCED, safe (log 15). -/
def recordLoad (c : CtxId) (found : WordEcc 5) (s : State) : State :=
  let cl := homeOf s c
  if !clOn s cl ∨ !(readyOn s cl).contains c ∨ isLoaded s cl c ∨ !ranksTop s cl c then s
  else
    let (finds, s0) := recFinds (saveDone s c) c found .read
    let s1 := eccAll s0 finds
    if finds.any fun h => eccBad h.e then haltLoad s1 c
    else
      let k := clOf s1 cl
      setCl s1 cl { k with loadBufs := (k.loadBufs.filter fun b => (readyOn s1 cl).contains b.1 && ranksTop s1 cl b.1) ++ [(c, recOf s1 c)] }
/-- RECORD_LOAD -/
def execRecordLoad (c : CtxId) (found : WordEcc 5) (s : State) : Res := onCore (recordLoad c found) s

/-! Instruction caches. -/
/-- What the decodes of a code line found (R440): that of the instruction cache when it holds the line, else, or when that one is bad, that of the
Orchard when it does. -/
def lineFinds (s : State) (cl : Nat) (l : CodeLine) : List EccHit :=
  let n := l.line.toNat
  let hit := fun (m : Nat) (e : Ecc) => ({ m := m, addr := 64 * n, key := 0x70_0000_0000 + m * 2 ^ 50 + 64 * n, e := e, use := .refetch } : EccHit)
  let inI := (clOf s cl).icache.contains n
  (if inI then [hit 7 l.icache] else []) ++
    (if !(inI && !eccBad l.icache) && orchCaches s cl (64 * n) && orchHas s n then [hit 3 l.orch] else [])
/-- The caches without a line whose decode was uncorrectable: it is fetched again (R440). -/
def lineDrop (s : State) (cl n : Nat) (finds : List EccHit) : State :=
  let bad := fun (m : Nat) => finds.any fun h => h.m = m && eccBad h.e
  let s1 := if bad 7 then setCl s cl { clOf s cl with icache := (clOf s cl).icache.filter fun k => k ≠ n } else s
  if bad 3 then { s1 with eng := { s1.eng with orch := s1.eng.orch.filter fun e => e.1 ≠ n } } else s1
/-- INSTRUCTION_CACHE_FILL (R190, R191, R192): a line from the Orchard, DRAM or flash joins its set; one of a full set gives way to it. While an
invalidation runs the fetch misses and no line joins; a line behind a retrain waits (R453).
DESIGN CHOICE, safe (log 14). -/
def cacheFill (cl : Nat) (l : CodeLine) (s : State) : State :=
  let line := l.line.toNat
  if !inRun s ∨ 32 < cl ∨ (clOf s cl).mode = .fenced then s
  else
    let finds := lineFinds s cl l
    let s0 := lineDrop (eccAll s finds) cl line finds
    if stalled s0 (.cl cl) (64 * line) ∧ !orchHas s0 line then s
    else match orchLine s0 cl (64 * line) with
      | none => s
      | some (_, s1) =>
        if s1.eng.invBusy then s1
        else
          let k := clOf s1 cl
          let rest := k.icache.filter fun l => l ≠ line
          let stay := setStays 4 s1.eng.victims (rest.filter fun l => l % 256 = line % 256)
          setCl { s1 with eng := { s1.eng with victims := s1.eng.victims + 1 } } cl
            { k with icache := line :: stay ++ rest.filter fun l => l % 256 ≠ line % 256 }
/-- INSTRUCTION_CACHE_FILL -/
def execInstructionCacheFill (cl : BitVec 6) (l : CodeLine) (s : State) : Res := onCore (cacheFill cl.toNat l) s

end Sys2Proof.Machine
end

