-- ==== Sys2Proof/Machine/Ingress.lean ====
section
/-! DEFINITION. A received frame (R315 to R321, R326, R327): MACsec, stream identification, FRER, Qci, the SCT tests of R285, the
judgement of R286, the sequence window (R297, R298), and the express path (R302, R303). -/
namespace Sys2Proof.Machine

/-! MACsec (R327). -/
/-- The receive SA of a SecTAG: a VALID entry with TX = 0, its AN and its SCI. -/
def rxSa (s : State) (b : Bool) (an : BitVec 2) (sci : DWord) : Option Nat :=
  (List.range 64).reverse.find? fun i =>
    let w := tabA s (saTab b) i 0
    bit w 0 && !bit w 1 && decide (fld w 2 2 = an.toNat) && tabA s (saTab b) i 1 == sci
/-- MACsec validation: whether the frame passes, and the state after it.
DEDUCED, unsafe (log 76). -/
def secCheck (s : State) (b : Bool) (sec : SecTag) : Bool × State :=
  let c := act s (aPort b + 0x90)
  let v := fld c 6 2
  let bad := fun k => (decide (v = 1), portCount s b k)
  if !bit c 0 ∨ v = 0 then (true, s)
  else match sec with
    | .none => bad 16
    | .sa an sci _ pn good =>
      match rxSa s b an sci with
      | none => bad 16
      | some i =>
        let low := (saPn s b i).toNat
        if !good then bad 14
        else if bit c 10 ∧ pn.toNat + (act s (aPort b + 0x94)).toNat < low then (false, portCount s b 15)
        else if low ≤ pn.toNat then (true, setPort s b { portOf s b with pn := sset 0 (portOf s b).pn i (pn.toNat + 1) })
        else (true, s)

/-! FRER (R316, R317): what a recovery function finds in a sequence number. -/
/-- What elimination does with a frame: whether it goes on, the counters of R337 that count it, the numbers lost, the history. -/
structure FrerRes where
  take : Bool
  cnt : List Nat := []
  lost : Nat := 0
  next : Frer
/-- The vector recovery algorithm with a history length (R316, R335).
PRESUMED, unsafe (log 77). -/
def frerVector (h : Nat) (x : Frer) (n : Half) : FrerRes :=
  let d := (n - x.last).toNat
  let back := (x.last - n).toNat
  if x.hist = [] then { take := true, next := { x with hist := [n], span := 0, last := n } }
  else if x.hist.contains n then { take := false, cnt := [8], next := x }
  else if d < h then
    let gone := (List.range d).filter fun i =>
      let o := h - 1 - i
      decide (o ≤ x.span) && !x.hist.contains (x.last - BitVec.ofNat 16 o)
    { take := true, cnt := if d = 1 then [] else [9], lost := gone.length
      next :=
        { x with
          hist := n :: x.hist.filter fun m => decide ((n - m).toNat < h)
          span := Nat.min h (x.span + d), last := n, lost := satAdd x.lost gone.length } }
  else if back < h then
    { take := true, cnt := [9], next := { x with hist := x.hist ++ [n], span := Nat.max x.span back } }
  else { take := false, cnt := [10], next := x }
/-- The match recovery algorithm (R335).
PRESUMED, unsafe (log 77). -/
def frerMatch (x : Frer) (n : Half) : FrerRes :=
  if x.hist = [] then { take := true, next := { x with hist := [n], last := n } }
  else if n = x.last then { take := false, cnt := [8], next := x }
  else { take := true, cnt := if n = x.last + 1 then [] else [9], next := { x with hist := [n], last := n } }
/-- Counts what elimination found and keeps the history. -/
def frerNote (s : State) (b : Bool) (i : Nat) (r : FrerRes) : State :=
  let s1 := bumpBy (r.cnt.foldl (fun s k => portCount s b k) s) (aPCnt b 11) r.lost
  setFrer s1 i (if r.take then { r.next with at_ := s.time.now } else r.next)
/-- The recovery function of a frame's stream: its number, its algorithm and its history length (R316, R335); none for one that is not recovered. -/
def recovery (s : State) (f : Frame) (st : Option Nat) : Option (Nat × Bool × Nat) :=
  match st with
  | none => some (4096 + (byteAt f.body 4).toNat, false, 32)
  | some i =>
    let w := tabA s .frer i 0
    if bit w 0 then some (i, bit w 1, Nat.max 2 (fld w 2 6)) else none
/-- What elimination finds in a frame with an R-TAG. -/
def frerFinds (s : State) (f : Frame) (st : Option Nat) : Option (Nat × FrerRes) :=
  match f.rtag, recovery s f st with
  | some n, some (i, alg, h) => some (i, if alg then frerMatch (frerOf s i) n else frerVector h (frerOf s i) n)
  | _, _ => none
/-- Elimination of a frame (R317): one whose ICV is not good leaves no number in the history.
PRESUMED, unsafe (log 77). -/
def eliminate (s : State) (b : Bool) (f : Frame) (st : Option Nat) (sound : Bool) : Bool × State :=
  match frerFinds s f st with
  | none => (true, s)
  | some (i, r) => (r.take, if r.take && !sound then s else frerNote s b i r)

/-! Streams and Qci (R318, R326). -/
/-- The stream identification entry that a frame matches: the highest VALID index (R335). -/
def streamMatch (s : State) (f : Frame) : Option Nat :=
  let hit := fun (e : Nat × DWord) =>
    let w := e.2
    decide (e.1 / 0x1000000 = Tab.streamId.no ∧ e.1 % 16 = 0) && bit w 63 &&
      decide (fld w 0 48 = (if bit w 60 then f.sa else f.da).toNat) &&
      (match f.ctag with
        | none => !bit w 61
        | some t => bit w 61 && decide (fld w 48 12 = t.toNat % 4096))
  (s.reg.tabA.reverse.find? hit).map fun e => e.1 % 0x1000000 / 16
/-- A flow meter takes a frame of n bytes (R326, MEF 10.3, colour-blind); false discards it.
PRESUMED, unsafe (log 78). -/
def meterTake (s : State) (m n : Nat) : Bool × State :=
  let p := tabA s .meter m 0
  let q := tabA s .meter m 1
  let x := sget {} s.ring.meters m
  let dt := s.time.now.toNat - x.at_.toNat
  let capC := fld q 0 24 * 8000000
  let capE := fld q 24 24 * 8000000
  let c := if x.started then x.c + fld p 0 32 * dt else capC
  let e := (if x.started then x.e + fld p 32 32 * dt else capE) + (if bit q 48 then c - capC else 0)
  let c1 := Nat.min c capC
  let e1 := Nat.min e capE
  let need := n * 8000000
  let y : Meter := { x with c := c1, e := e1, at_ := s.time.now, started := true }
  let put := fun (y : Meter) => { s with ring := { s.ring with meters := sset {} s.ring.meters m y } }
  if x.red ∧ bit q 50 then (false, put y)
  else if need ≤ c1 then (true, put { y with c := c1 - need })
  else if need ≤ e1 then (!bit q 49, put { y with e := e1 - need })
  else (false, put { y with red := bit q 50 })
/-- Qci on a frame of stream h with a PCP (R326): none when the frame is discarded, else the priority that selects its queue.
PRESUMED, unsafe (log 78). -/
def qci (s : State) (b : Bool) (h pcp : Nat) (f : Frame) : Option Nat × State :=
  let w := tabA s .filter h 0
  let n := frameLen f
  let drop := fun (s : State) => ((none : Option Nat), portCount s b 13)
  if !bit w 0 then (some pcp, s)
  else if sget false s.ring.blocked h then drop s
  else if !(bit w 4 || decide (fld w 1 3 = pcp)) then (some pcp, s)
  else if fld w 5 14 ≠ 0 ∧ fld w 5 14 < n then
    drop (if bit w 19 then { s with ring := { s.ring with blocked := sset false s.ring.blocked h true } } else s)
  else
    let g := fld w 20 6
    let e := tabA s .gate (16 * g + (sget (0, 0) s.ring.gates g).1) 0
    if bit w 26 ∧ !bit e 0 then drop s
    else
      let pr := if bit w 26 && bit e 4 then fld e 1 3 else pcp
      if bit w 35 then
        let (ok, s1) := meterTake s (fld w 27 8) n
        if ok then (some pr, s1) else drop s1
      else (some pr, s)

/-! Forwarding (R285, R314, R318, R320, R321). -/
/-- The PCP of a frame at port b (R315). -/
def pcpOf (s : State) (b : Bool) (f : Frame) : Nat :=
  match f.ctag with
  | some t => t.toNat / 8192
  | none => fld (act s (aPort b + 0x80)) 24 3
/-- Whether a frame received on port b leaves the other port from queue q by cut-through (R12, R321, R325): that queue must be free. -/
def cutsThrough (s : State) (b : Bool) (q : Nat) : Bool :=
  let o := !b
  bit (act s (aPort b)) 6 && (decide (s.boot.profile ≠ 2) || isExpressQ s o q) && decide (portRate s o ≤ portRate s b) &&
    decide ((portOf s o).st = .active ∧ (portOf s o).link = 2) && (egQ s o q).isEmpty && mayStart s o q (maxSdu s o q)
/-- The queue of the other port that a frame received on port b takes (R12, R320, R322): by its priority, or the express path. -/
def egressQ (s : State) (b : Bool) (pcp : Nat) (express : Bool) : Nat := if express then 8 else pcpQueue s (!b) pcp
/-- A frame received on port b leaves by the other port (R320, R321, R337), ct telling that R317 does not store it: the express path has no limits; a frame above its queue's MAXSDU is
dropped, or ends with an inverted FCS where it left by cut-through.
DEDUCED, unsafe (log 79). -/
def transit (s : State) (b : Bool) (pcp : Nat) (f : Frame) (express ct : Bool) : State :=
  let o := !b
  let q := egressQ s b pcp express
  let cut := ct && cutsThrough s b q
  if (portOf s o).st ≠ .active then portCount s b 5
  else if express then setEgQ s o 8 (egQ s o 8 ++ [{ f := f, cut := cut }])
  else if cut ∧ maxSdu s o q < frameLen f then portCount (portCount s o 3) o 4
  else enqueueAs s o q f b (if cut then maxSdu s o q else frameLen f) cut
/-- A header of R283 read from a frame; LEN is beside it, and whether HCHK passes.
DEDUCED, unsafe (log 79). -/
def parseSct (f : Frame) (b : Bool) : RxMsg × Nat × Bool :=
  let y := f.body
  let g := fun i => byteAt y i
  ({ ver := g 0, typ := g 1, flags := g 2, dst := g 3, src := g 4, hops := g 5, session := BitVec.ofNat 16 (bFld y 6 2),
     seq := BitVec.ofNat 32 (bFld y 8 4), body := slice y 16 (bFld y 12 2), portB := b },
    bFld y 12 2, decide (16 ≤ y.length) && decide (bFld y 14 2 = crcOf 3 (y.take 14)))
/-- Whether a frame is SCT (R281). -/
def isSct (s : State) (f : Frame) : Bool := f.etype == (act s aSCT).setWidth 16 && f.da == groupAddr s
/-- Whether DST is this device or an alias that it holds (R285). -/
def isMine (s : State) (dst : Byte) : Bool := dst == s.rm.addr || (dst == 0xFE && holdsAlias s)
/-- A SRC that no station uses (R346). -/
def srcBad (a : Byte) : Bool := decide ((0x31 ≤ a.toNat ∧ a.toNat ≤ 0xDF) ∨ 0xE8 ≤ a.toNat)
/-- What R285 and R346 do with an SCT frame: accept it, forward it, and the counter that counts its end. -/
structure Verdict where
  accept : Bool := false
  forward : Bool := false
  cnt : Option Nat := none
/-- Whether a frame is this device's own that has travelled the whole ring (R285): its SRC is the device's address. A device without an address knows its
ANNOUNCE by its UID.
DEDUCED, unsafe (log 80). -/
def ownFrame (s : State) (m : RxMsg) : Bool :=
  if s.rm.role = .unaddressed then decide (m.src = 0 ∧ m.typ = 0x05) && decide (BitVec.ofNat 64 (bFld m.body 8 8) = s.boot.uid) else m.src == s.rm.addr
/-- The tests of R285 in order, with the SRC test of R346 after the first; every station takes an ANNOUNCE on its way (R345).
DEDUCED, unsafe (log 75), DEDUCED, unsafe (log 80). -/
def verdict (s : State) (m : RxMsg) (hchk : Bool) : Verdict :=
  if !hchk then { cnt := some 0x40 }
  else if ownFrame s m then {}
  else if srcBad m.src then { cnt := some 0x44 }
  else if m.dst = 0xFE ∧ m.typ = 0x05 ∧ m.session = 0xFFFF ∧ !holdsAlias s then
    (if m.hops = 0 then { accept := true, cnt := some 0x54 } else { accept := true, forward := true })
  else if m.dst = 0xFF then (if m.hops = 0 then { accept := true, cnt := some 0x54 } else { accept := true, forward := true })
  else if isMine s m.dst then { accept := true }
  else if m.hops = 0 then { cnt := some 0x54 }
  else { forward := true }
/-- A frame with HOPS − 1 and its HCHK (R285). -/
def hopFrame (f : Frame) : Frame :=
  let h := f.body.take 5 ++ [byteAt f.body 5 - 1] ++ slice f.body 6 8
  { f with body := hdr16 h ++ f.body.drop 16 }
/-- Whether a transit SCT frame takes the express path: in SWIFT one with EXPRESS does (R12, R322). -/
def bypasses (s : State) (m : RxMsg) : Bool := bit m.flags 1 && decide (s.boot.profile = 1)

/-! Acceptance (R284, R286, R296 to R298). -/
/-- Adds 1 to a counter of the SCT block (R305). -/
def sctCount (s : State) (o : Nat) : State := bump s (aSCT + o)
/-- A sessionless frame or an unsequenced message waits for its command. -/
def toInbox (s : State) (m : RxMsg) : State := { s with sct := { s.sct with inbox := s.sct.inbox ++ [m] } }
/-- LEN of a sessionless TYPE (R286); none for a TYPE that is not sessionless. -/
def lessLen (typ : Nat) : Option Nat :=
  match typ with
  | 0x01 | 0x03 | 0x3E | 0x3F => some 16
  | 0x04 | 0x05 => some 32
  | _ => none
/-- A sessionless frame (R286). An unaddressed device accepts every frame with DST 0x00, and of the others ENUM_REPLY, ANNOUNCE and KEEPALIVE (R343 to
R345). -/
def acceptLess (s : State) (m : RxMsg) : State :=
  let r := (byteAt m.body 4).toNat
  if s.rm.role = .unaddressed ∧ m.dst ≠ 0 ∧ !(m.typ = 0x04 ∨ m.typ = 0x05 ∨ m.typ = 0x3E) then s
  else if lessLen m.typ.toNat ≠ some m.body.length ∨ (m.typ = 0x3F ∧ !(r = 2 ∨ r = 3)) then sctCount s 0x44
  else toInbox s m
/-- The RTO in ns that limits NAK OUT_OF_ORDER (R297). -/
def rtoBase (s : State) : Nat := fld (act s (aSCT + 0x14)) 0 16 * 100
/-- The sequence window of R297, with the acknowledgement policy of R298. -/
def seqWindow (s : State) (k : Nat) (m : RxMsg) : State :=
  let x := sessOf s k
  let d := (m.seq - x.e).toNat
  if d = 0 then
    if x.win.toNat ≤ x.rxq.length then sctCount s 0x50
    else
      let n := x.accCnt + 1
      let s1 := setSess s k
        { x with
          e := x.e + 1, rxq := x.rxq ++ [m], oooAt := none, accCnt := n
          accAt := if x.accAt.isNone then some s.time.now else x.accAt }
      dropBad k (if bit m.flags 0 ∨ fld (act s (aSCT + 0x18)) 0 6 ≤ n then sendAck s1 k else s1)
  else if d < x.win.toNat then
    let s1 := sctCount s 0x4C
    match x.oooAt with
    | some t => if t.toNat + rtoBase s ≤ s.time.now.toNat then nakOoo (setSess s1 k { x with oooAt := some s.time.now }) k x.e m.typ else s1
    | none => nakOoo (setSess s1 k { x with oooAt := some s.time.now }) k x.e m.typ
  else if 2 ^ 31 < d then (let s1 := sctCount s 0x48; if bit m.flags 0 then sendAck s1 k else s1)
  else sctCount s 0x44
/-- Whether a NAK is unsequenced (R290). -/
def nakUnseq (m : RxMsg) : Bool := let r := (byteAt m.body 4).toNat; decide (1 ≤ r ∧ r ≤ 3)
/-- The express dispatch entry that a frame matches (R302, R305): the highest VALID one. -/
def expressEntry (s : State) (m : RxMsg) : Option Nat :=
  (List.range 64).reverse.find? fun n =>
    let a := act s (aSCT + 0x100 + 8 * n)
    bit a 31 && decide (fld a 0 16 = m.session.toNat ∧ fld a 16 8 = m.typ.toNat)
/-- The express dispatch entry of a frame that takes the express path (R302). -/
def expressHit (s : State) (k : Nat) (m : RxMsg) : Option Nat :=
  if bit m.flags 1 ∧ 0x20 ≤ (sessOf s k).ver.toNat ∧ m.dst = s.rm.addr ∧ expressOn s ∧ m.body.length ≤ 112 then expressEntry s m else none
/-- A frame of an open session at the version of the session. -/
def acceptOpen (s : State) (k : Nat) (m : RxMsg) : State :=
  let s1 := setSess s k { sessOf s k with lastRx := s.time.now, fresh := false }
  if (expressHit s k m).isSome then s1
  else match m.typ.toNat with
    | 0x01 | 0x03 | 0x04 | 0x05 => nakSeq s1 k m.seq 4 m.typ
    | 0x3E => if m.body.length = 8 then toInbox s1 m else sctCount s1 0x44
    | 0x3F => if nakUnseq m then (if m.body.length = 16 then toInbox s1 m else sctCount s1 0x44) else seqWindow s1 k m
    | _ => seqWindow s1 k m
/-- The key of a frame's session (R284): host session n, or the peer session with its SRC; none for a reserved SESSION value. -/
def rxKey (m : RxMsg) : Option Nat :=
  if m.session.toNat < 0x40 then some m.session.toNat else if m.session = 0x8000 then some (0x40 + m.src.toNat) else none
/-- A frame of a host or peer session (R286, R290, R296). A HELLO_ACK, and an unsequenced NAK of a session that is not OPEN, can only answer. -/
def acceptSess (s : State) (k : Nat) (m : RxMsg) : State :=
  let x := sessOf s k
  if m.typ = 0x02 then (if m.body.length = 20 ∧ 0x40 ≤ k then toInbox s m else sctCount s 0x44)
  else if x.st ≠ .opened ∨ (k < 0x40 ∧ x.host ≠ m.src) then
    (if m.typ = 0x3F ∧ nakUnseq m then sctCount s 0x44 else nakRaw s m.src m.session m.seq 2 m.typ)
  else if m.ver ≠ x.ver then sctCount s 0x44
  else acceptOpen s k m
/-- An accepted SCT frame (R284, R286). -/
def acceptSct (s : State) (m : RxMsg) (len : Nat) : State :=
  if m.session ≠ 0xFFFF ∧ (rxKey m).isNone then sctCount s 0x44
  else if 9000 < len ∨ m.body.length ≠ len then sctCount s 0x44
  else if m.session = 0xFFFF then acceptLess s m
  else match rxKey m with
    | some k => if s.rm.role = .unaddressed ∧ m.dst ≠ 0 then s else acceptSess s k m
    | none => s
/-- A good SCT frame after elimination (R285). -/
def takeSct (s : State) (b : Bool) (f : Frame) (ct : Bool) : State :=
  let (m, len, ok) := parseSct f b
  let v := verdict s m ok
  let s1 := match v.cnt with | some o => sctCount s o | none => s
  let s2 := if v.forward then transit s1 b (pcpOf s b f) (hopFrame f) (bypasses s m) ct else s1
  if v.accept then acceptSct s2 m len else s2
/-- Whether a frame is one of the time-aware relay's (R318). -/
def isTime (f : Frame) : Bool := decide (f.etype = 0x88F7 ∧ f.da = 0x0180_C200_000E)
/-- Whether a frame that is not SCT, of stream st, is forwarded (R318). -/
def forwards (s : State) (st : Option Nat) (f : Frame) : Bool :=
  !isTime f && f.etype != 0x888E && match st with | some i => bit (tabA s .frer i 0) 0 | none => false
/-- A frame that is not SCT (R318, R332, R333), after identification and Qci; pr is the priority of its queue, st its stream. -/
def takeOther (s : State) (b : Bool) (pr : Nat) (st : Option Nat) (f : Frame) (ct : Bool) : State :=
  if isTime f then pdelayAnswer s b f
  else if f.etype = 0x888E then mgmtReceive s b f
  else if forwards s st f then transit s b pr f false ct
  else portCount s b 7
/-- Stages 3 to 8 of R315 for a frame with a good FCS; sound tells whether its ICV is good too. -/
def classify (s : State) (b : Bool) (f : Frame) (sound ct : Bool) : State :=
  if isSct s f then
    let (ok, s1) := eliminate s b f none sound
    if ok then takeSct s1 b f ct else s1
  else match streamMatch s f with
    | none => takeOther s b (pcpOf s b f) none f ct
    | some i =>
      let (ok, s1) := eliminate s b f (some i) sound
      if ok then
        match qci s1 b i (pcpOf s1 b f) f with
        | (some pr, s2) => takeOther s2 b pr (some i) f ct
        | (none, s2) => s2
      else s1
/-- Whether MACsec lets a frame be forwarded before its ICV (R321, R327): with Strict it has a SecTAG of an SA, and its PN may be accepted. -/
def secCut (s : State) (b : Bool) (sec : SecTag) : Bool :=
  let c := act s (aPort b + 0x90)
  if !bit c 0 ∨ fld c 6 2 = 0 then true
  else match sec with
    | .none => decide (fld c 6 2 = 1)
    | .sa an sci _ pn _ =>
      match rxSa s b an sci with
      | none => decide (fld c 6 2 = 1)
      | some i => !(bit c 10 && decide (pn.toNat + (act s (aPort b + 0x94)).toNat < saNext s b i))
/-- Whether a frame that ends bad has left by cut-through (R315, R317, R318, R321, R326): it passed the stages that come before its end.
DEDUCED, unsafe (log 74). -/
def badCut (s : State) (b : Bool) (sec : SecTag) (f : Frame) : Bool :=
  let st := if isSct s f then none else streamMatch s f
  secCut s b sec && ((frerFinds s f st).all fun r => r.2.take) &&
    if isSct s f then
      let (m, _, ok) := parseSct f b
      (verdict s m ok).forward && cutsThrough s b (egressQ s b (pcpOf s b f) (bypasses s m))
    else match st with
      | some i => forwards s st f && ((qci s b i (pcpOf s b f) f).1.any fun pr => cutsThrough s b (egressQ s b pr false))
      | none => false
/-- A frame that ends bad at port b is counted in k, or ends with an inverted FCS where it left by cut-through (R319, R321). -/
def endBad (s : State) (b : Bool) (sec : SecTag) (f : Frame) (k : Nat) (ct : Bool) : State :=
  if ct && badCut s b sec f then portCount (portCount s (!b) 3) (!b) 4 else portCount s b k
/-- What the wire carries of a frame that MACsec protects while MACsec is off: EtherType 0x88E5 after the addresses. -/
def wireFrame (s : State) (b : Bool) (sec : SecTag) (f : Frame) : Frame :=
  if sec ≠ .none ∧ !secOn s b then { f with ctag := none, rtag := none, etype := 0x88E5 } else f
/-- The bytes of a SecTAG and ICV on the wire (R319). -/
def tagBytes : SecTag → Nat
  | .none => 0
  | .sa _ _ explicit _ _ => secBytes explicit
/-- Whether the ICV of a frame is good, or there is none to check. -/
def icvGood (s : State) (b : Bool) : SecTag → Bool
  | .none => true
  | .sa _ _ _ _ good => good || !secOn s b
/-- A frame that has been received on port b (R315): frags is the number of fragments beyond the first from which it was put together, none when that
failed; ct tells that R317 does not store it. -/
def frameEnds (b : Bool) (f0 : Frame) (frags : Option Nat) (good : Bool) (sec : SecTag) (ct : Bool) (s : State) : State :=
  match frags with
  | none => portCount s b 18
  | some n =>
    let f := wireFrame s b sec f0
    let s1 := bumpBy (portCount s b 0) (aPCnt b 17) n
    if maxLen s b < frameLen f0 + tagBytes sec then endBad s1 b sec f 2 ct
    else if !good then endBad s1 b sec f 1 ct
    else if f.etype = 0x8808 then s1
    else
      let sound := icvGood s b sec
      let (ok, s2) := secCheck s1 b sec
      if ok then classify s2 b f sound ct
      else if !sound ∧ ct ∧ badCut s1 b sec f then portCount (portCount s2 (!b) 3) (!b) 4
      else s2
/-- Whether a frame belongs to a stream that is recovered (R316). -/
def hasRecovery (s : State) (f : Frame) : Bool := (frerFinds s f (if isSct s f then none else streamMatch s f)).isSome
/-- Whether a frame received on port b is the other copy of one that is stored (R317). -/
def otherCopy (b : Bool) (f : Frame) (e : Stored) : Bool :=
  e.portB != b && f.rtag.isSome && decide (e.f.rtag = f.rtag ∧ e.f.sa = f.sa ∧ e.f.da = f.da)
/-- A frame received on port b (R317): one that ends good while the other copy of its number is in reception on the other port is stored; when that copy
has ended it is eliminated, or passed on as stored.
DEDUCED, unsafe (log 74). -/
def doFrame (b : Bool) (f : RxFrame) (good : Bool) (sec : SecTag) (s : State) : State :=
  if (portOf s b).st ≠ .active ∨ (portOf s b).link ≠ 2 then s
  else
    let ct := f.other.isNone || !hasRecovery s f.frame
    if !ct ∧ f.other = some true ∧ good ∧ f.frags.isSome then
      { s with ring := { s.ring with stored := s.ring.stored ++ [{ portB := b, f := f.frame, frags := f.frags, sec := sec }] } }
    else
      let s1 := frameEnds b f.frame f.frags good sec ct s
      match s1.ring.stored.find? (otherCopy b f.frame) with
      | some e => frameEnds e.portB e.f e.frags true e.sec false { s1 with ring := { s1.ring with stored := s1.ring.stored.erase e } }
      | none => s1
/-- FRAME_RECEIVE; an uncorrectable error in its buffer makes its FCS bad (R440).
DEDUCED, unsafe (log 74). -/
def execFrameReceive (portB : Bool) (f : RxFrame) (fcsGood : Bool) (sec : SecTag) (s : State) : Res :=
  onCore (fun s =>
    if running s then
      let s1 := eccAll s (f.ecc.map fun e => { m := 5, addr := e.1.toNat, key := 0x50_0000_0000 + e.1.toNat, e := e.2, use := .read })
      doFrame portB f (fcsGood && !f.ecc.any fun e => eccBad e.2) sec s1
    else s) s

/-! The express path (R302, R303). -/
/-- The mailbox of the pinned slot that a context holds: that of its PIN assignment, while it is neither FREE nor HALTED (R181, R187, R305). -/
def expressSlot (s : State) (c : CtxId) : Option Nat :=
  if pinOf s c ∧ stOf s c ≠ .free ∧ stOf s c ≠ .halted ∧ pinRank s c < pinSlots s then some (homeOf s c * 4 + pinRank s c) else none
/-- The header and the payload of an express frame reach the mailbox, the status word becomes 0 and SIGBIT is set (R303). -/
def dispatchTo (s : State) (f : Frame) (m : RxMsg) (c : CtxId) (sig k : Nat) : State :=
  let base := 0x1000_0000 + k / 4 * 0x1_0000
  let s1 := storeBytes s .sct 2 (base + 0xF800 + 128 * (k % 4)) (f.body.take 16 ++ m.body)
  let s2 := storeBytes s1 .sct 2 (base + 0xFC20 + 4 * (k % 4)) [0, 0, 0, 0]
  let x := mboxOf s2 k
  let s3 := setMbox s2 k { full := true, complete := false, relPend := false, took := f.rtag.map fun n => (m.src, n), bad := x.bad }
  (ctxSignal s3 c (BitVec.ofNat 32 (2 ^ sig))).1
/-- A frame on the express path is dispatched before its FCS (R302, R303, R305); a copy of one still in reception is stored (R317). -/
def doExpress (b : Bool) (f : Frame) (s : State) : State :=
  let (m, len, ok) := parseSct f b
  let dup : Bool := match f.rtag with | some n => (frerOf s (4096 + m.src.toNat)).hist.contains n | none => false
  match rxKey m with
  | none => s
  | some k =>
    let x := sessOf s k
    if (portOf s b).st ≠ .active ∨ (portOf s b).link ≠ 2 ∨ !isSct s f ∨ !ok ∨ dup ∨ m.body.length ≠ len ∨ m.src = s.rm.addr ∨ srcBad m.src ∨
        s.rm.role = .unaddressed ∨ x.st ≠ .opened ∨ (k < 0x40 ∧ x.host ≠ m.src) ∨ m.ver ≠ x.ver then s
    else match expressHit s k m with
      | none => s
      | some n =>
        let w := act s (aSCT + 0x104 + 8 * n)
        let c := BitVec.ofNat 18 (fld w 0 18)
        let s1 := setSess s k { x with lastRx := s.time.now, fresh := false }
        match expressSlot s1 c with
        | none => sctCount s1 0x44
        | some j =>
          let y := mboxOf s1 j
          let same := y.took.isSome && y.took == f.rtag.map fun n => (m.src, n)
          if y.full ∧ same ∧ !y.complete then setMbox s1 j { y with copy := some (b, f) }
          else if y.full ∧ !(y.bad && same) then sctCount s1 0x68
          else dispatchTo s1 f m c (fld w 18 5) j
/-- EXPRESS_DISPATCH -/
def execExpressDispatch (portB : Bool) (f : Frame) (s : State) : Res := onCore (fun s => if running s then doExpress portB f s else s) s
/-- The status word is written when the frame has ended; a release made before takes effect (R303). A copy that came meanwhile is dispatched when the
frame ended bad, and eliminated when it ended good (R317). -/
def doExpressStatus (cl slot : Nat) (good : Bool) (s : State) : State :=
  let k := 4 * cl + slot
  let x := mboxOf s k
  if !x.full ∨ x.complete then s
  else
    let s1 := storeBytes s .sct 2 (0x1000_0000 + cl * 0x1_0000 + 0xFC20 + 4 * slot) [BitVec.ofNat 8 (2 + b2n good), 0, 0, 0]
    let s2 := setMbox s1 k
      { x with complete := true, relPend := false, full := !x.relPend, bad := !good, took := if good then none else x.took, copy := none }
    match x.copy with
    | some (b, f) => if good then s2 else doExpress b f s2
    | none => s2
/-- EXPRESS_STATUS_WRITE -/
def execExpressStatusWrite (cl : BitVec 6) (slot : BitVec 2) (fcsGood : Bool) (s : State) : Res :=
  onCore (doExpressStatus cl.toNat slot.toNat fcsGood) s

end Sys2Proof.Machine
end

