-- ==== Sys2Proof/Machine/SctRx.lean ====
section
/-! DEFINITION. Messages that a session or a sessionless frame has brought (R287 to R303, R367 to R370, R469): sessions, memory access,
contexts and queues, answers, pairs and faults. -/
namespace Sys2Proof.Machine

/-- The message at the head of the inbox, when p holds of it, with the state after it is taken. -/
def takeBox (s : State) (p : RxMsg → Bool) : Option (RxMsg × State) :=
  match s.sct.inbox with
  | m :: r => if p m then some (m, { s with sct := { s.sct with inbox := r } }) else none
  | [] => none

/-! Sessions (R295, R296). -/
/-- The version of a session between this device and one with bounds lo and hi (R296); none without a common version. -/
def chooseVer (s : State) (lo hi : Byte) : Option Byte :=
  ([0x22, 0x21, 0x20, 0x11, 0x10] : List Byte).find? fun v =>
    decide ((vMin s).toNat ≤ v.toNat ∧ v.toNat ≤ (vMax s).toNat ∧ lo.toNat ≤ v.toNat ∧ v.toNat ≤ hi.toNat)
/-- The level at which a session acts (R288). -/
def sessLvl (s : State) (k : Nat) : Lvl :=
  if 0x40 ≤ k ∨ bit (act s (aSCT + 0x20 + 4 * (k / 32))) (k % 32) then 2 else 1
/-- Sends HELLO_ACK (R295). -/
def sendHelloAck (s : State) (k : Nat) (session : Half) (dst ver : Byte) (win : Nat) : State :=
  sendSct s (if ver = 0 then vMax s else ver) 0x02 4 dst session 0
    ([ver, 0] ++ beBytes 2 win ++ beBytes 2 9000 ++ beBytes 2 session.toNat ++ beBytes 8 s.boot.uid.toNat ++
      [s.rm.addr, (sessLvl s k).setWidth 8, 0, 0])
/-- The session that a HELLO asks for (R295): none when it cannot be granted. -/
def helloKey (s : State) (src : Byte) (req : Nat) : Option Nat :=
  if req = 0x8000 then (if 1 ≤ src.toNat ∧ src.toNat ≤ 0x30 then some (0x40 + src.toNat) else none)
  else if req < 0x40 then some req
  else if req = 0xFFFF then (List.range 64).find? fun k => (sessOf s k).st == .closed
  else none
/-- A HELLO opens, reopens or closes a session, or is refused (R295, R296). -/
def doHello (s : State) : State :=
  match takeBox s fun m => m.typ == 0x01 with
  | none => s
  | some (m, s1) =>
    let lo := byteAt m.body 0
    let hi := byteAt m.body 1
    let req := bFld m.body 6 2
    let win := Nat.min (Nat.max 1 (Nat.min 64 (bFld m.body 2 2))) (ownWin s1)
    let no := fun r => nakRaw s1 m.src 0xFFFF m.seq r 0x01
    let held := fun k => let x := sessOf s1 k; x.st == .opened && (k < 0x40 && x.host != m.src)
    if lo = 0 ∧ hi = 0 then
      match if req = 0xFFFF then none else helloKey s1 m.src req with
      | some k => if held k then no 2 else sendHelloAck (closeSess s1 k false) k (BitVec.ofNat 16 req) m.src 0 win
      | none => if req = 0xFFFF then sendHelloAck s1 0 0xFFFF m.src 0 win else no 2
    else match helloKey s1 m.src req with
      | none => no 2
      | some k =>
        let x := sessOf s1 k
        if held k then no 2
        else match chooseVer s1 lo hi with
          | none => no 3
          | some v =>
            if x.st = .opened ∧ bit m.flags 3 ∧ x.fresh then sendHelloAck s1 k (sessNo k) m.src x.ver x.win.toNat
            else openSess (sendHelloAck s1 k (sessNo k) m.src v win) k m.src v win
/-- HELLO.
DEDUCED, unsafe (log 83). -/
def execHello (s : State) : Res := onCore doHello s
/-- A HELLO_ACK opens the peer session that this device asked for (R286, R295). -/
def doHelloAck (s : State) : State :=
  match takeBox s fun m => m.typ == 0x02 with
  | none => s
  | some (m, s1) =>
    let k := 0x40 + m.src.toNat
    if (sessOf s1 k).helloSent ∧ byteAt m.body 0 ≠ 0 then openSess s1 k m.src (byteAt m.body 0) (bFld m.body 2 2) else sctCount s1 0x44
/-- HELLO_ACK -/
def execHelloAck (s : State) : Res := onCore doHelloAck s
/-- A session KEEPALIVE acknowledges every message up to ACKSEQ (R298, R299), and with an EVENT claims its ordinary records (R413). -/
def doSessKa (s : State) : State :=
  match takeBox s fun m => m.typ == 0x3E && m.session != 0xFFFF with
  | none => s
  | some (m, s1) =>
    match rxKey m with
    | none => s1
    | some k =>
      let x := sessOf s1 k
      let ack := BitVec.ofNat 32 (bFld m.body 0 4)
      let left := x.unacked.filter fun u => decide (2 ^ 31 ≤ (ack - u.seq).toNat)
      if x.st ≠ .opened ∨ left.length = x.unacked.length then s1
      else pumpAll (ackEvents (setSess s1 k { x with unacked := left, timeouts := 0 }) k ack) k
/-- SESSION_KEEPALIVE -/
def execSessionKeepalive (s : State) : Res := onCore doSessKa s
/-- An unsequenced NAK of a session (R286, R290, R299): OUT_OF_ORDER brings the retransmission, the answer to a HELLO ends the attempt, and
one that answers nothing is counted.
DEDUCED, unsafe (log 81). -/
def nakPlain (s : State) (k : Nat) (m : RxMsg) : State :=
  let x := sessOf s k
  let n := BitVec.ofNat 32 (bFld m.body 0 4)
  if byteAt m.body 4 = 1 then (if x.st = .opened ∧ (x.unacked.any fun u => u.seq == n) then resendFrom s k n else sctCount s 0x44)
  else if m.session = 0xFFFF then
    (if x.helloSent ∧ byteAt m.body 5 = 0x01 then setSess s k { x with helloSent := false } else sctCount s 0x44)
  else if x.unacked.any fun u => u.seq == n then s else sctCount s 0x44
/-- The session of a NAK in the inbox. -/
def nakKey (m : RxMsg) : Nat := if m.session.toNat < 0x40 then m.session.toNat else 0x40 + m.src.toNat
/-- A NAK received on a session (R286, R290, R291): a refused SIGNAL or RESUME is counted and raises SIG_FAIL, a refused request is answered. -/
def doNak (k : Nat) (s : State) : State :=
  match takeBox s fun m => m.typ == 0x3F && nakKey m == k with
  | some (m, s1) => nakPlain s1 k m
  | none =>
    match takeRx s k 0x3F with
    | none => s
    | some (m, s1) =>
      let x := sessOf s1 k
      let n := BitVec.ofNat 32 (bFld m.body 0 4)
      match x.sigs.find? fun e => e.1 == n with
      | some (_, tgt) =>
        let s2 := setSess s1 k { x with sigs := x.sigs.filter fun e => e.1 != n }
        if byteAt m.body 4 = 0x0A then evFire (sctCount s2 0x64) 0x480 tgt else s2
      | none => setSess s1 k { x with reqs := x.reqs.filter fun e => e.1 != n }
/-- NAK -/
def execNak (k : SessKey) (s : State) : Res := onSess (skey k) (doNak (skey k)) s

/-! Memory and register access (R287 to R289, R521). -/
/-- Whether a device address lies in a SPACE (R288). -/
def inSpace (s : State) (sp a : Nat) : Bool :=
  match sp, locate s .sct a with
  | 0, some (.reg, _) => true
  | 2, some (.sram, _) => true
  | 2, some (.orch, _) => true
  | 3, some (.dram, _) => true
  | 4, some (.flash, _) => true
  | _, _ => false
/-- The SPACE of an address. -/
def spaceOf (a : Nat) : Nat := if a < 0x11_0000 then 0 else if a < 0x10_0000_0000 then 2 else if a < 0x20_0000_0000 then 3 else 4
/-- The refusal of an access before anything is accessed (R288, R290): REASON and DETAIL.
DEDUCED, unsafe (log 82). -/
def accessBad (s : State) (k sp a n : Nat) (write : Bool) : Option (Byte × Nat) :=
  if write ∧ sp = 4 then some (8, a)
  else match (List.range n).find? fun i => !inSpace s sp (a + i) with
    | some i => some (7, a + i)
    | none =>
      let orch := match locate s .sct a with | some (.orch, _) => true | _ => false
      if write && orch && sessLvl s k != 2 then some (8, a) else none
/-- The byte of an offset of space 0x01 (R171): the selection of its word, and its place in the word; none where nothing is mapped. -/
def galByte (o : Nat) : Option (Nat × Nat) :=
  if o < 0x400_0000 then some (o / 256 * 2 ^ 32 + o % 256 / 8 * 8, o % 8)
  else if o < 0x410_0000 then some ((o - 0x400_0000) / 4 * 2 ^ 32 + 0x100, o % 4)
  else if o < 0x420_0000 then some ((o - 0x410_0000) / 4 * 2 ^ 32 + 0x200, o % 4)
  else if o < 0x440_0000 then some ((o - 0x420_0000) / 8 * 2 ^ 32 + 0x300, o % 8)
  else none
/-- The bytes of space 0x01 up to the first with an uncorrectable error, and its offset. -/
def galBytes (s : State) : Nat → Nat → List Byte × Option Nat
  | _, 0 => ([], none)
  | o, n + 1 =>
    match galByte o with
    | none => ([], some o)
    | some (sel, i) =>
      let (v, ue) := galRead s sel
      if ue then ([], some o)
      else
        let (r, f) := galBytes s (o + 1) n
        (BitVec.ofNat 8 (fld v (8 * i) 8) :: r, f)
/-- The writes of bytes of space 0x01 by word: the selection of the word, the value, and the bits that the bytes cover. -/
def galWords (o : Nat) : List Byte → List (Nat × DWord × DWord)
  | [] => []
  | b :: bs =>
    match galByte o with
    | none => []
    | some (sel, i) =>
      let v : DWord := BitVec.ofNat 64 (b.toNat * 2 ^ (8 * i))
      let m : DWord := BitVec.ofNat 64 (0xFF * 2 ^ (8 * i))
      match galWords (o + 1) bs with
      | (sel', v', m') :: r => if sel = sel' then (sel, v ||| v', m ||| m') :: r else (sel, v, m) :: (sel', v', m') :: r
      | [] => [(sel, v, m)]
/-- Writes bytes of space 0x01, word by word. -/
def galPut (o : Nat) (bs : List Byte) (s : State) : State := (galWords o bs).foldl (fun s e => galWrite s e.1 e.2.1 e.2.2) s
/-- What refuses a 64-byte beat of a write in space 0x01: REFUSED of R171, or an uncorrectable error in a word written in part. -/
def galBad (s : State) (o n : Nat) : Option (Byte × Nat) :=
  (List.range n).findSome? fun j =>
    match galByte (o + j) with
    | none => none
    | some (sel, i) =>
      if galRefuse s sel then some (0x0B, 0)
      else if (galRead s sel).2 ∧ !(o ≤ o + j - i ∧ o + j - i + 8 ≤ o + n) then some (9, o + j) else none
/-- Writes the beats of an access in space 0x01 in ascending order up to the first that is refused. -/
def galBeats : List (Nat × Nat) → List Byte → State → State × Option (Byte × Nat)
  | [], _, s => (s, none)
  | (o, n) :: r, bs, s =>
    match galBad s o n with
    | some e => (s, some e)
    | none => galBeats r (bs.drop n) (galPut o (bs.take n) s)
/-- The READ_DATA messages of data read from an address (R287): whole frames of 8,192 bytes, the last with LAST when the read is whole.
DEDUCED, unsafe (log 88). -/
def dataMsgs (sp : Nat) (seq : Word) (whole : Bool) : Nat → Nat → List Byte → List TxMsg
  | 0, _, _ => []
  | f + 1, a, bs =>
    if bs = [] ∨ (!whole ∧ bs.length < 8192) then []
    else
      let d := bs.take 8192
      { typ := 0x11, body := [BitVec.ofNat 8 sp, 0] ++ beBytes 6 a ++ beBytes 4 seq.toNat ++ d, last := whole && decide (bs.length ≤ 8192) } ::
        dataMsgs sp seq whole f (a + d.length) (bs.drop 8192)
/-- Answers a READ with its data, and with the NAK that ends it (R287, R290). -/
def answerRead (s : State) (k sp a : Nat) (seq : Word) (bs : List Byte) (bad : Option (Byte × Nat)) : State :=
  let s1 := (sessPush s k (dataMsgs sp seq bad.isNone 9 a bs)).1
  match bad with
  | some (r, d) => nakSeq s1 k seq r 0x10 d
  | none => s1
/-- Answers a WRITE (R287, R290). -/
def answerWrite (s : State) (k : Nat) (seq : Word) (posted : Bool) (n : Nat) (bad : Option (Byte × Nat)) : State :=
  match bad with
  | some (r, d) => nakSeq s k seq r 0x12 d
  | none => if posted then s else sessSend s k 0x13 (beBytes 4 seq.toNat ++ beBytes 4 n)
/-- A request of session k asks for a channel of the SCT block (R206, R300, R521): until it has an entry it waits in rank order under a key of its
session, which it holds back. -/
def sctRequest (s : State) (k : Nat) (x : Xfer) : State := requestChan s (sctWait k) x
/-- An answer that must wait for those of the requests in progress leaves its request where it is (R300).
DEDUCED, unsafe (log 88). -/
def answerNow (k : Nat) (before_ after : State) : State := if sctBusy before_ k then before_ else after
/-- SCT READ (R287 to R289, R521). -/
def doRead (k : Nat) (s : State) : State :=
  match takeRx s k 0x10 with
  | none => s
  | some (m, s1) =>
    let sp := (byteAt m.body 0).toNat
    let a := bFld m.body 2 6
    let n := bFld m.body 8 4
    if sp = 1 then
      match (List.range n).find? fun i => (galByte (a + i)).isNone with
      | some i => answerNow k s (nakSeq s1 k m.seq 7 0x10 (a + i))
      | none =>
        let (bs, ue) := galBytes s1 a n
        answerNow k s (answerRead s1 k 1 a m.seq bs (ue.map fun o => ((9 : Byte), o)))
    else match accessBad s1 k sp a n false with
      | some (r, d) => answerNow k s (nakSeq s1 k m.seq r 0x10 d)
      | none =>
        sctRequest s1 k { kind := .sctRead, src := BitVec.ofNat 64 a, count := n, left := n, lvl := sessLvl s1 k, req := some (k, m.seq) }
/-- READ -/
def execRead (k : SessKey) (s : State) : Res := onSess (skey k) (doRead (skey k)) s
/-- SCT WRITE (R287 to R289, R521). -/
def doWrite (k : Nat) (s : State) : State :=
  match takeRx s k 0x12 with
  | none => s
  | some (m, s1) =>
    let sp := (byteAt m.body 0).toNat
    let post := bit (byteAt m.body 1) 0
    let a := bFld m.body 2 6
    let bs := m.body.drop 8
    if sp = 1 then
      match (List.range bs.length).find? fun i => (galByte (a + i)).isNone with
      | some i => answerNow k s (nakSeq s1 k m.seq 7 0x12 (a + i))
      | none =>
        if (List.range bs.length).any fun i => decide (0x410_0000 ≤ a + i ∧ a + i < 0x420_0000) then answerNow k s (nakSeq s1 k m.seq 8 0x12 a)
        else
          let (s2, bad) := galBeats (beatsInc (bs.length / 64 + 2) a bs.length) bs s1
          answerNow k s (answerWrite s2 k m.seq post bs.length bad)
    else match accessBad s1 k sp a bs.length true with
      | some (r, d) => answerNow k s (nakSeq s1 k m.seq r 0x12 d)
      | none =>
        sctRequest s1 k
          { kind := .sctWrite, dst := BitVec.ofNat 64 a, count := bs.length, left := bs.length, data := bs, lvl := sessLvl s1 k
            req := some (k, m.seq), posted := post }
/-- WRITE -/
def execWrite (k : SessKey) (s : State) : Res := onSess (skey k) (doWrite (skey k)) s
/-- Whether the channel of an SCT request may end: the requests of its session that started before it have ended (R300). -/
def sctFirst (s : State) (x : Xfer) : Bool :=
  match x.req with
  | none => true
  | some (k, _) => s.mov.chans.all fun e => match e.2.req with | some (j, _) => j != k || decide (x.since ≤ e.2.since) | none => true
/-- The READ_DATA frames before the last whose data has arrived are queued for the READ of a session whose turn it is (R300, R521). -/
def readFrames (k : Nat) (s : State) : State :=
  match s.mov.chans.find? fun e => e.2.kind == .sctRead && (e.2.req.any fun r => r.1 == k) && sctFirst s e.2 with
  | none => s
  | some (key, x) =>
    let n := Nat.min x.data.length (x.count - 1) / 8192 * 8192
    let a := x.src.toNat + x.queued
    (sessPush (setChan s key { x with queued := n }) k
      (dataMsgs (spaceOf a) ((x.req.map (·.2)).getD 0) false 9 a ((x.data.take n).drop x.queued))).1
/-- The local context of a TARGET (R237). -/
def targetCtx (b : List Byte) : CtxId := BitVec.ofNat 18 (bFld b 0 4)
/-- SCT POST acts (R177, R291). -/
def postAct (k : Nat) (seq : Word) (body : List Byte) (s : State) : State :=
  let c := targetCtx body
  let d := fun i => BitVec.ofNat 64 (bFld body (8 + 8 * i) 8)
  match (ctxStart s c (decide (byteAt body 4 = 3)) (d 0) [d 1, d 2, d 3, d 4] none).map roundTidy with
  | some s1 => s1
  | none => nakSeq s k seq 0x0A 0x14 c.toNat
/-- The request of a channel of the SCT block ends (R290, R301, R521); f is the address at which it failed.
DEDUCED, unsafe (log 89). -/
def sctChanDone (s : State) (key : Nat) (x : Xfer) (f : Option Nat) : State :=
  let s1 := grantAll (freeChan (noteBus s f) key)
  match x.req with
  | none => s1
  | some (k, seq) =>
    let a := (if x.kind = .sctRead then x.src else x.dst).toNat
    let bad := f.map fun d => (if d < 0x11_0000 then (8 : Byte) else 9, d)
    dropBad k (readFrames k (if x.kind = .sctPost then postAct k seq x.data s1 else if x.kind = .sctRead then answerRead s1 k (spaceOf a) (a + x.queued) seq (x.data.drop x.queued) bad
      else answerWrite s1 k seq x.posted x.count bad))
/-- READ_DATA (R287, R358): what the new manager reads of a worker's tags, and the tags that it writes when they differ. -/
def doReadData (k : Nat) (s : State) : State :=
  match takeRx s k 0x11 with
  | none => s
  | some (m, s1) =>
    let n := BitVec.ofNat 32 (bFld m.body 8 4)
    let x := sessOf s1 k
    let s2 := if bit m.flags 2 then setSess s1 k { x with reqs := x.reqs.filter fun e => e.1 != n } else s1
    let tags := leNat (m.body.drop 12)
    if byteAt m.body 0 = 0 ∧ bFld m.body 2 6 = 0x03006C ∧ 0x40 ≤ k ∧ s.rm.role = .manager ∧
        tags ≠ s.lnd.tagA.toNat + 0x10000 * s.lnd.tagS.toNat then
      sessSend s2 k 0x12 ([0, 0] ++ beBytes 6 0x060434 ++ leBytes 4 s.lnd.tagA.toNat)
    else s2
/-- READ_DATA -/
def execReadData (k : SessKey) (s : State) : Res := onSess (skey k) (doReadData (skey k)) s
/-- WRITE_ACK answers a WRITE (R287). -/
def doWriteAck (k : Nat) (s : State) : State :=
  match takeRx s k 0x13 with
  | none => s
  | some (m, s1) => setSess s1 k { sessOf s1 k with reqs := (sessOf s1 k).reqs.filter fun e => e.1 != BitVec.ofNat 32 (bFld m.body 0 4) }
/-- WRITE_ACK -/
def execWriteAck (k : SessKey) (s : State) : Res := onSess (skey k) (doWriteAck (skey k)) s

/-! Contexts and queues (R291). -/
/-- SCT POST (R177, R291). Its payload takes a channel of the SCT block (R205, R206), in rank order: one that has its entry and a mover at once, and whose turn
it is, acts in the command, any other with MOVER_COMPLETE.
DEDUCED, unsafe (log 82), DEDUCED, unsafe (log 112). -/
def doPost (k : Nat) (s : State) : State :=
  match takeRx s k 0x14 with
  | none => s
  | some (m, s1) =>
    let s2 := sctRequest s1 k
      { kind := .sctPost, count := m.body.length, left := m.body.length, data := m.body, drop := true, req := some (k, m.seq) }
    match s2.mov.chans.find? fun e => e.2.kind == .sctPost && e.2.req == some (k, m.seq) with
    | some (key, x) => if hasMover s2 key x && sctFirst s2 x then sctChanDone s2 key { x with read := x.count, left := 0 } none else s2
    | none => s2
/-- POST -/
def execPost (k : SessKey) (s : State) : Res := onSess (skey k) (doPost (skey k)) s
/-- SCT DOORBELL (R242, R291). -/
def doDoorbell (k : Nat) (s : State) : State :=
  match takeRx s k 0x15 with
  | none => s
  | some (m, s1) => ring (BitVec.ofNat 12 (bFld m.body 0 2)) s1
/-- DOORBELL -/
def execDoorbell (k : SessKey) (s : State) : Res := onSess (skey k) (doDoorbell (skey k)) s
/-- SCT RESUME (R65, R291). -/
def doSctResume (k : Nat) (s : State) : State :=
  match takeRx s k 0x16 with
  | none => s
  | some (m, s1) =>
    let c := targetCtx m.body
    let (s2, r) := ctxResume s1 c (BitVec.ofNat 64 (bFld m.body 4 8))
    if r = 0 then s2 else answerNow k s (nakSeq s1 k m.seq 0x0A 0x16 c.toNat)
/-- SCT_RESUME -/
def execSctResume (k : SessKey) (s : State) : Res := onSess (skey k) (doSctResume (skey k)) s
/-- SCT SIGNAL (R291, R370).
DEDUCED, unsafe (log 82). -/
def doSctSignal (k : Nat) (s : State) : State :=
  match takeRx s k 0x19 with
  | none => s
  | some (m, s1) =>
    let c := targetCtx m.body
    let (s2, r) := ctxSignal s1 c (BitVec.ofNat 32 (bFld m.body 4 4))
    if r = 0 then s2 else answerNow k s (nakSeq s1 k m.seq 0x0A 0x19 c.toNat)
/-- SCT_SIGNAL -/
def execSctSignal (k : SessKey) (s : State) : Res := onSess (skey k) (doSctSignal (skey k)) s

/-! Staging a landing (R273, R294). -/
/-- Whether a LANDSTAGE record may write an address (R294): LS registers, the access registers of double-banked tables, LND_SYNC. -/
def stageTarget (a : Nat) : Bool :=
  decide (a = 0x030080) || (accOf a).isSome ||
    decide (a = aGAL + 0x10 ∨ a = aWQ + 0x20 ∨ a = aPort false + 0xAC ∨ a = aPort true + 0xAC ∨ a = aSCT + 0x460 ∨ a = aDPT + 0x1C ∨ a = aEVT + 0x3C) ||
    match regAt a with | some (r, _) => r.ls | none => false
/-- Applies LANDSTAGE records in order at P2; the flag tells whether one has no permitted target.
DESIGN CHOICE, unsafe (log 146). -/
def stageRecs : List Byte → State → State × Bool
  | a0 :: a1 :: a2 :: a3 :: v0 :: v1 :: v2 :: v3 :: r, s =>
    let a := beNat [a0, a1, a2, a3]
    let v := BitVec.ofNat 32 (beNat [v0, v1, v2, v3])
    if a % 4 = 0 ∧ stageTarget a then stageRecs r ((regWrite 2 a v s).getD s) else ((stageRecs r s).1, true)
  | _, s => (s, false)
/-- LANDSTAGE (R273): a message of another landing starts a new set; the sets of landings still to come are kept.
DEDUCED, unsafe (log 90). -/
def doLandstage (k : Nat) (s : State) : State :=
  match takeRx s k 0x20 with
  | none => s
  | some (m, s1) =>
    let l := BitVec.ofNat 64 (bFld m.body 0 8)
    let i := byteAt m.body 8
    let n := byteAt m.body 9
    let (s2, bad) := stageRecs (m.body.drop 12) s1
    let x : StageSet := (s2.lnd.stage.find? fun x => x.lnd = l).getD { lnd := l, cnt := n, got := [] }
    let y : StageSet :=
      { x with got := if x.got.contains i then x.got else x.got ++ [i], bad := x.bad || bad || x.cnt != n || decide (n.toNat ≤ i.toNat) }
    { s2 with lnd := { s2.lnd with stage := (s2.lnd.stage.filter fun x => x.lnd ≠ l ∧ s2.lnd.num.toNat < x.lnd.toNat) ++ [y] } }
/-- LANDSTAGE -/
def execLandstage (peer : Byte) (s : State) : Res := onSess (peerKey peer) (doLandstage (peerKey peer)) s

/-! Pairs and faults (R352, R365, R367, R275). -/
/-- The pair entry that names a local context and a partner (R360). -/
def pairNaming (s : State) (c : CtxId) (a : Byte) (p : CtxId) : Option Nat :=
  (s.rm.pairs.find? fun e => decide (e.2.st ≠ .off) && pairCtx s e.1 == c && pairAddr s e.1 == a && pairPctx s e.1 == p).map (·.1)
/-- The entries of a BALLOT sent at landing l by device a (R365): each is kept for its judgement, or discarded and counted. -/
def ballotEnts (a : Byte) (l : DWord) : List Byte → State → State
  | c0 :: c1 :: c2 :: c3 :: p0 :: p1 :: p2 :: p3 :: d0 :: d1 :: d2 :: d3 :: d4 :: d5 :: d6 :: d7 :: r, s =>
    let c := BitVec.ofNat 18 (beNat [c0, c1, c2, c3])
    let g := beNat [p0, p1, p2, p3]
    let d := BitVec.ofNat 64 (beNat [d0, d1, d2, d3, d4, d5, d6, d7])
    let hit := if g / 0x40000 = s.rm.addr.toNat then pairNaming s (BitVec.ofNat 18 g) a c else none
    ballotEnts a l r (match hit with
      | some e =>
        let x := pairL s e
        if x.st = .paired ∧ s.lnd.num.toNat ≤ l.toNat then setPair s e { x with got := x.got.filter (fun y => y.1 ≠ l) ++ [(l, d)] }
        else sctCount s 0x470
      | none => sctCount s 0x470)
  | _, s => s
/-- BALLOT (R364, R365). -/
def doBallot (a : Byte) (s : State) : State :=
  match takeRx s (peerKey a) 0x30 with
  | none => s
  | some (m, s1) => ballotEnts a (BitVec.ofNat 64 (bFld m.body 0 8)) (m.body.drop 12) s1
/-- BALLOT -/
def execBallot (peer : Byte) (s : State) : Res := onSess (peerKey peer) (doBallot peer) s
/-- TAKEOVER (R367).
DEDUCED, unsafe (log 87). -/
def doTakeover (a : Byte) (s : State) : State :=
  match takeRx s (peerKey a) 0x31 with
  | none => s
  | some (m, s1) =>
    let t := bFld m.body 0 4
    let p := bFld m.body 4 4
    let l := BitVec.ofNat 64 (bFld m.body 8 8)
    let hit := if p / 0x40000 = s1.rm.addr.toNat ∧ t / 0x40000 = a.toNat then pairNaming s1 (BitVec.ofNat 18 p) a (BitVec.ofNat 18 t) else none
    match hit with
    | none => s1
    | some e =>
      let x := pairL s1 e
      let ev := fun s => evFire s 0x4B2 (BitVec.ofNat 32 e)
      match x.st with
      | .paired => if pairHsb s1 e then enterYielded (ev s1) e else enterSolo (ev s1) e
      | .solo =>
        if pairHsb s1 e ∧ x.since = l then (if a.toNat < s1.rm.addr.toNat then ev s1 else enterYielded (ev s1) e) else s1
      | _ => s1
/-- TAKEOVER -/
def execTakeover (peer : Byte) (s : State) : Res := onSess (peerKey peer) (doTakeover peer) s
/-- A miss that a worker reports makes the manager revert the landing, while there is time (R275); the miss of a revert makes it restore the worker
(R277). -/
def missReport (s : State) (a : Byte) (info : Word) : State :=
  match s.lnd.ring.find? fun v => v.rev.isNone && decide (v.l.setWidth 32 = info) with
  | some v => if s.time.now.toNat + (act s aGUARD).toNat ≤ (lndTime s (v.l.toNat + 1)).toNat then revertRing s v else s
  | none => if s.lnd.ring.any fun v => v.rev.isSome && decide (0 < info - v.l.setWidth 32 ∧ info - v.l.setWidth 32 < 0x8000_0000) then mustRestore s a else s
/-- SCT FAULT at the manager, or at a segment manager (R275, R352, R355, R469). -/
def doSctFault (k : Nat) (s : State) : State :=
  match takeRx s k 0x38 with
  | none => s
  | some (m, s1) =>
    let src := bFld m.body 0 2
    let info := BitVec.ofNat 32 (bFld m.body 12 4)
    if !holdsAlias s1 then s1
    else if src = 0x080 then linkReport s1 m.src (BitVec.ofNat 8 (fld info 8 8))
    else if src = 0x085 ∧ s1.rm.role = .manager then missReport s1 m.src info
    else s1
/-- FAULT -/
def execSctFault (k : SessKey) (s : State) : Res := onSess (skey k) (doSctFault (skey k)) s

/-! Enumeration and presence (R344 to R350, R356, R357). -/
/-- ENUM at an unaddressed device (R344): it acts on the copy that comes against its direction, and answers from its new address. -/
def doEnum (s : State) : State :=
  match takeBox s fun m => m.typ == 0x03 with
  | none => s
  | some (m, s1) =>
    let a := byteAt m.body 0
    let dirB := decide (byteAt m.body 2 = 1)
    if s1.rm.role ≠ .unaddressed ∨ m.portB = dirB ∨ !(1 ≤ a.toNat ∧ a.toNat ≤ 0x30) then s1
    else
      let x := BitVec.ofNat 64 (bFld m.body 4 8)
      let s2 := setRole { s1 with rm := { s1.rm with
        addr := a, mgr := byteAt m.body 1, mseq := x
        termSeen := if s1.rm.termSeen.toNat < (termOf x).toNat then termOf x else s1.rm.termSeen } } .worker
      reRole (sendLess s2 0x04 0xFF (identBody s2 a))
/-- ENUM.
DEDUCED, unsafe (log 84). -/
def execEnum (s : State) : Res := onCore doEnum s
/-- ENUM_REPLY (R344, R345): the station enters the ring table, and the manager goes on. -/
def doEnumReply (s : State) : State :=
  match takeBox s fun m => m.typ == 0x04 with
  | none => s
  | some (m, s1) =>
    let a := byteAt m.body 0
    let uid := BitVec.ofNat 64 (bFld m.body 8 8)
    let st := (byteAt m.body 1).toNat % 4
    let old := stationOf s1 a
    let s2 := { s1 with rm := { s1.rm with table := s1.rm.table.filter fun t => t.addr == a || t.host || t.uid != uid } }
    let s3 := setStation s2
      { addr := a, cls := BitVec.ofNat 2 (if st = 3 then 0 else st), prio := byteAt m.body 2, uid := uid
        present := match old with | some t => t.present | none => false
        age := match old with | some t => t.age | none => 5
        pos := posOf s2 m.portB m.hops }
    let s4 := reRole s3
    if s4.rm.role ≠ .manager then s4
    else match s4.rm.directed with
      | some (_, b, _, _) => if a = b then answerAnnounce { s4 with rm := { s4.rm with directed := none } } else s4
      | none => if s4.rm.enumOn then nextEnum s4 else s4
/-- ENUM_REPLY.
DEDUCED, unsafe (log 84). -/
def execEnumReply (s : State) : Res := onCore doEnumReply s
/-- The ring table takes what an ANNOUNCE tells of a UID (R345): class and priority; a device that has no address yet has no position. -/
def heardUid (s : State) (uid : DWord) (cls prio : Byte) : State :=
  let c := BitVec.ofNat 2 (if cls.toNat % 4 = 3 then 0 else cls.toNat)
  let mine := fun (t : Station) => t.uid == uid && !t.host
  let l := s.rm.table
  let l1 :=
    if l.any mine then l.map fun t => if mine t then { t with cls := c, prio := prio } else t
    else l ++ [{ addr := 0, cls := c, prio := prio, uid := uid, present := false, age := 5 }]
  { s with rm := { s.rm with table := l1 } }
/-- ANNOUNCE (R345, R348): every station notes it, and the manager answers it. -/
def doAnnounce (s : State) : State :=
  match takeBox s fun m => m.typ == 0x05 with
  | none => s
  | some (m, s0) =>
    let uid := BitVec.ofNat 64 (bFld m.body 8 8)
    let s1 := heardUid s0 uid (byteAt m.body 1) (byteAt m.body 2)
    let dir : Bool := match s1.rm.directed with | some (u, _) => u == uid | none => false
    if s1.rm.role ≠ .manager ∨ (s1.rm.annq.any fun e => e.1 == uid) ∨ dir then s1
    else answerAnnounce { s1 with rm := { s1.rm with annq := s1.rm.annq ++ [(uid, m.portB)] } }
/-- ANNOUNCE.
DEDUCED, unsafe (log 84). -/
def execAnnounce (s : State) : Res := onCore doAnnounce s
/-- A KEEPALIVE marks its sender present (R349, R350); a manager restores a device that was absent (R358).
DEDUCED, unsafe (log 84). -/
def markPresent (s : State) (m : RxMsg) (role : Byte) : State :=
  let old := stationOf s m.src
  let t : Station := match old with | some t => t | none => { addr := m.src, present := false, pos := posOf s m.portB m.hops }
  let s1 := setStation s { t with present := true, age := 0, role := role, host := role == 5, detaching := role == 4 }
  if t.present then s1
  else
    let s2 := presenceEv { s1 with rm := { s1.rm with links := s1.rm.links.filter fun e => e.2 != m.src } } m.src true
    if s.rm.role = .manager ∧ role ≠ 5 ∧ old.isSome ∧ !s2.rm.restore.contains m.src then { s2 with rm := { s2.rm with restore := s2.rm.restore ++ [m.src] } }
    else s2
/-- AUTH of an MSEQ (R342). -/
def authOf (m : DWord) : Bool := bit m 63
/-- A station leaves its address and attaches again (R348, R357). -/
def attachAgain (s : State) (heard : Bool) : State :=
  let s1 := reattach s
  let s2 := { s1 with rm := { s1.rm with heardMgr := heard } }
  if heard then sendAnnounce s2 else s2
/-- Whether a keepalive with MSEQ x comes from the manager that this station follows: from its address, and with its UIDL (R342, R357).
DEDUCED, unsafe (log 136). -/
def ownMgr (s : State) (a : Byte) (x : DWord) : Bool := a == s.rm.mgr && decide (x.toNat % 65536 = s.rm.mseq.toNat % 65536)
/-- A keepalive of the manager followed is noted for the pair judgements (R366). -/
def noteAuth (s : State) (x : DWord) : State :=
  { s with rm := { s.rm with authKa := match s.rm.authKa with | [] => [authOf x] | h :: t => (h || authOf x) :: t } }
/-- A station follows another manager (R357). -/
def follow (s : State) (x : DWord) (m : RxMsg) (role : Byte) : State :=
  let mgr :=
    if role = 2 ∨ role = 3 then m.src
    else match s.rm.table.find? fun t => decide (t.uid.toNat % 65536 = x.toNat % 65536) && t.addr != s.rm.addr && t.addr != 0 with
      | some t => t.addr
      | none => s.rm.mgr
  let s1 := { s with rm := { s.rm with mseq := x, mgr := mgr } }
  if role = 2 ∨ role = 3 then noteAuth s1 x else s1
/-- A manager other than the one that this station follows is heard with MSEQ x (R357); an MSEQ that differs from a manager's own in AUTH
alone is its own. -/
def otherMgr (s : State) (x : DWord) (m : RxMsg) (role : Byte) : State :=
  let f := s.rm.mseq
  if x.toNat ≤ f.toNat then s
  else match s.rm.role with
    | .worker | .standby =>
      if authOf x && !authOf f then follow s x m role
      else if authOf x && authOf f then attachAgain s (role == 2) else s
    | .segManager => if authOf x then reRole (setRole (follow s x m role) .worker) else s
    | .manager =>
      if x.toNat % 2 ^ 63 = f.toNat % 2 ^ 63 then s
      else if (termOf f).toNat < (termOf x).toNat then
        let s1 := follow s x m role
        reRole (setRole { s1 with rm := { s1.rm with auth := false, enumOn := false, directed := none, annq := [] } } .worker)
      else attachAgain s (role == 2)
    | _ => s
/-- What a KEEPALIVE tells an addressed device about its manager (R354, R356, R357, R366). -/
def hearMgr (s : State) (m : RxMsg) (role : Byte) : State :=
  let x := BitVec.ofNat 64 (bFld m.body 4 8)
  let s0 := { s with rm := { s.rm with termSeen := if s.rm.termSeen.toNat < (termOf x).toNat then termOf x else s.rm.termSeen } }
  if role = 5 ∨ role = 4 then s0
  else if (role = 2 ∨ role = 3) ∧ ownMgr s0 m.src x ∧ (s0.rm.role = .worker ∨ s0.rm.role = .standby) then
    noteAuth { s0 with rm := { s0.rm with mseq := x, noMgr := if role = 2 then 0 else s0.rm.noMgr } } x
  else
    let s1 := if x = s0.rm.mseq then s0 else otherMgr s0 x m role
    if s1.rm.role = .manager ∧ role < 2 then
      { s1 with rm := { s1.rm with noWorker := 0, auth := true, mseq := setFld s1.rm.mseq 63 1 1 } }
    else s1
/-- A sessionless KEEPALIVE (R343, R348 to R350, R357). -/
def doKa (s : State) : State :=
  match takeBox s fun m => m.typ == 0x3E && m.session == 0xFFFF with
  | none => s
  | some (m, s1) =>
    let r := byteAt m.body 0
    if 6 ≤ r.toNat then s1
    else if s1.rm.role = .unaddressed then
      let x := BitVec.ofNat 64 (bFld m.body 4 8)
      let s0 := markPresent s1 m r
      let s2 := { s0 with rm := { s0.rm with termSeen := if s0.rm.termSeen.toNat < (termOf x).toNat then termOf x else s0.rm.termSeen } }
      if r = 2 ∧ !s2.rm.heardMgr then sendAnnounce { s2 with rm := { s2.rm with heardMgr := true } } else s2
    else hearMgr (reRole (markPresent s1 m r)) m r
/-- KEEPALIVE.
DEDUCED, unsafe (log 85). -/
def execKeepalive (s : State) : Res := onCore doKa s

end Sys2Proof.Machine
end

