-- ==== Sys2Proof/Machine/MoverArms.lean ====
section
/-! DEFINITION. How channels end and stop (R214 to R222, R229, R230), and the end of device-port bus accesses (R520). -/
namespace Sys2Proof.Machine

/-- Whether a channel serves a step of a context. -/
def servesStep (k : Nat) (x : Xfer) : Bool := isCtxKey k && decide (x.kind ≠ .move) && !isPortInstr x
/-- Whether the end of a step must wait for the stores of its context (R61, R62). -/
def endHeld (s : State) (k : Nat) (x : Xfer) : Bool := servesStep k x && fenceWait s (BitVec.ofNat 18 k)
/-- A channel of the SCT block runs to its end (R214, R521). -/
def runSct (s : State) (k : Nat) (x : Xfer) : State :=
  if sctFirst s x then
    let (s1, x1, f) := progress s k x x.count x.count
    sctChanDone s1 k x1 f
  else s
/-- A channel completes (R214). -/
def moverComplete (o : Owner) (s : State) : State :=
  match chanOf s (okey o) with
  | none => s
  | some x =>
    if !chanRuns s (okey o) x || endHeld s (okey o) x || chanStalled s (okey o) x x.count then s
    else match o with
      | .sct _ => settle (runSct s (okey o) x)
      | _ => settle (runChan s (okey o) x)
/-- MOVER_COMPLETE -/
def execMoverComplete (o : Owner) (s : State) : Res := onCore (moverComplete o) s

/-- Whether an offset of a side is a beat boundary: the end of a beat from the offset where the side stands, or that offset itself. -/
def atBeat (ps : List Piece) (o e : Nat) : Bool :=
  decide (e = o) || ((planBeats ps o (planLen ps)).foldl (fun (p : Nat × Bool) b => (p.1 + b.2, p.2 || decide (p.1 + b.2 = e))) (o, false)).2
/-- Whether channel w takes the mover of channel v (R216): every mover of their pool runs a channel, v is the lowest-ranked of these, and w, which waits,
outranks it. -/
def takesMover (s : State) (w v : Nat) (x y : Xfer) : Bool :=
  let runs := s.mov.chans.filter fun e => e.2.running && samePool e.2 y
  samePool x y && chanReady s w x && !x.running && hasMover s v y && decide (y.kind ≠ .sense) && decide (chanRank s v < chanRank s w) &&
    decide (runs.length = poolSize y) && runs.all fun e => decide (e.1 = v) || before s e (v, y)
/-- The mover of a channel that is preempted, and waits anew, goes to the winner (R207, R216, R217). -/
def handMover (s : State) (w v : Nat) (y : Xfer) : State :=
  let (n, s1) := nextStamp s
  let s2 := setChan s1 v { y with age := n, running := false }
  match chanOf s2 w with
  | some x => setChan s2 w { x with running := true }
  | none => s2
/-- The READ_DATA frames that a preempted channel has completed leave (R521). -/
def sctFrames (x : Xfer) (s : State) : State := match x.req with | some (k, _) => readFrames k s | none => s
/-- A channel is preempted at a write-beat boundary (R216, R217): reads have gone to rd, writes to wr, and what lies between is kept. It waits
anew (R207). A MOVE whose watch is hit on the way is interrupted there instead (R146); an access that fails is that of the channel's end, which for an SCT
channel waits for its turn (R300).
DEDUCED, safe (log 24). -/
def channelPreempt (w v : Owner) (rd wr : Nat) (s : State) : State :=
  match chanOf s (okey w), chanOf s (okey v) with
  | some x, some y =>
    let k := okey v
    let top := (reach s k y).1
    if takesMover s (okey w) k x y && decide (y.read ≤ rd ∧ rd ≤ top) && decide (written y ≤ wr ∧ wr ≤ rd ∧ rd - wr ≤ 128) &&
        decide (limReach s k y rd = rd) && !chanStalled s k y rd && (fromData y || atBeat (srcPlan s k y).1 y.read rd) &&
        (toData y || y.drop || atBeat (dstPlan s k y).1 (written y) wr) then
      let (s0, hit) := noteWatch s k y rd
      if hit.isSome then settle (interruptMove s0 (.ctx (BitVec.ofNat 18 k)) (hit.getD rd)).1
      else
      let (s1, y1, f) := progress s0 k y rd wr
      match f with
      | none => settle (sctFrames y (bump (handMover s1 (okey w) k y1) (aMOV + 0x20)))
      | some a =>
        settle (match v with
          | .sct _ => if sctFirst s y then sctChanDone s1 k y1 (some a) else s
          | _ => busFail s0 k y s1 y1 a)
    else s
  | _, _ => s
/-- CHANNEL_PREEMPT -/
def execChannelPreempt (winner victim : Owner) (rd wr : Nat) (s : State) : Res := onCore (channelPreempt winner victim rd wr) s

/-- The writes of a STOP, of a HALT or of the global pause are issued (R218 to R222, R230); rd is how far reads had gone. They wait for a DRAM interface that
is retrained (R215).
DEDUCED, safe (log 24). -/
def stopDone (c : CtxId) (rd : Nat) (s : State) : State :=
  let k := c.toNat
  match chanOf s k with
  | none => s
  | some x =>
    match x.stopping with
    | none => s
    | some why =>
      if chanStalled s k x (limReach s k x (beatEnd s k x (Nat.max x.read (Nat.min rd (reach s k x).1)))) then s
      else settle (stopEnd s c x why rd)
/-- STOP_DONE -/
def execStopDone (c : CtxId) (rd : Nat) (s : State) : Res := onCore (stopDone c rd) s

/-! The device-port bus (R520). -/
/-- SENSE ends (R47): the sense record is read and written to memory. -/
def senseDone (s : State) (c : CtxId) (x : Xfer) : State :=
  let k := c.toNat
  if !hasMover s k x || fenceWait s c || decide (limReach s k x x.count ≠ x.count) || chanStalled s k x x.count then s
  else
    let y := { x with data := (senseRec s x.unit.toNat).take x.count }
    let (s1, y1, f) := progress s k y x.count x.count
    match f with
    | some _ => stepChanEnd (noteBus s1 f) c y1 (written y1) sBUS 0
    | none =>
      let n := stepCount (thrOf s (.ctx c))
      stepChanEnd s1 c y1 x.count (if n < 32 then sLONG else if 32 < n then sSHORT else 0) 0
/-- CONTROL, PWR or PRD ends (R47, R125, R126): a port instruction whose unit has been disabled meanwhile raises the port exception, with no effect on the
digest either (R132). -/
def accessDone (s : State) (c : CtxId) (b : BusOp) : State :=
  let t : Thread := .ctx c
  let u := b.unit.toNat
  let free := fun (s : State) => setThr s t { thrOf s t with bus := none }
  if (thrOf s t).phase = .step then
    (if fenceWait s c then s else finishStep (winWrite u b.off.toNat (b.val.getD 0) (free s)) c 0 0 0)
  else if (unitOf s u).st = .disabled then portExc (undigest (free s) c) c u 0x12
  else match b.val with
    | some v => let s1 := winWrite u b.off.toNat v (setThr s t { thrOf s t with bus := none, undig := none }); setRegs s1 t { regsOf s1 t with pc := (regsOf s1 t).pc + 4 }
    | none =>
      let g := regsOf s t
      setRegs (free s) t { g.setG b.gd ((winRead s u b.off.toNat).setWidth 64) with pc := g.pc + 4 }
/-- An access on the device-port bus completes.
DEDUCED, unsafe (log 73). -/
def portBusDone (o : Owner) (s : State) : State :=
  match o with
  | .ctx c =>
    if ctxFenced s c then s
    else match (thrOf s (.ctx c)).bus with
      | some b => accessDone s c b
      | none =>
        match chanOf s c.toNat with
        | some x => if x.kind = .sense then settle (senseDone s c x) else s
        | none => s
  | _ => s
/-- DEVICE_PORT_BUS_DONE -/
def execDevicePortBusDone (o : Owner) (s : State) : Res := onCore (portBusDone o) s

end Sys2Proof.Machine
end

