-- ==== Sys2Proof/Machine/Landing.lean ====
section
/-! DEFINITION. A landing (R193 to R197, R262 to R276, R364, R365): the swap, and what it brings in every block. -/
namespace Sys2Proof.Machine

/-! Clusters (R18, R181, R193 to R197). -/
/-- The physical clusters. -/
def clusters : List Nat := List.range 33
/-- The contexts that are not FREE, in ascending order. -/
def liveCtxs (s : State) : List CtxId := (s.gal.live.filter fun e => e.2.st ≠ .free).map fun e => BitVec.ofNat 18 e.1
/-- The checkpoint: the register sets of the slots in use of active clusters are written to their records (R193). -/
def checkpoint (s : State) : State :=
  s.eng.occ.foldl (fun s e =>
    match e.2 with
    | some c => if (clOf s (e.1 / 16)).mode = .active then saveRec s c (stOf s c) else s
    | none => s) s
/-- A decided switch does not outlast a landing. -/
def dropSwitches (s : State) : State := clusters.foldl (fun s n => if (clOf s n).switch.isSome then noSwitch s n else s) s
/-- Where a context that the spare takes over goes on: the step at STPA, or the code at PC; a queue's MOVE is started again (R87, R196).
DEDUCED, unsafe (log 91). -/
def restart (x : Thr) (r : Regs) : Thr :=
  let step := decide (r.stpa ≠ 0)
  { phase := if x.wqMove.isSome then .step else if step then .fetch else .code
    skip := x.saved.skip
    cur := if x.wqMove.isSome then x.cur else {}
    src := if x.wqMove.isSome then x.src else {}
    holdPass := x.saved.inStep || x.saved.holdPass
    run := x.saved.run, callPc := if step then x.saved.callPc else none, saved := x.saved, origin := x.origin, wqMove := x.wqMove,
    rtPl := x.rtPl, watch := x.watch, readyAt := x.readyAt, resAt := x.resAt, haltEnt := x.haltEnt }
/-- The report of a takeover (R82, R84, R87): it concerns the step at STPA of the saved state, which is executed again from its start. -/
def takenRep (s : State) (x : Thr) (r : Regs) : Rep :=
  let w : StepW := if x.saved.inStep then { lo := r.stpw } else {}
  let data := decide (wAct w = 8) || decide (wAct w = 9) || decide (wAct w = 0xA) || decide (0x40 ≤ wAct w)
  let y : Thr := { cur := w, run := match x.saved.run with | some q => some q | none => if data then some (newRun w) else none }
  let ub := if x.saved.inStep then unitBits s y else (0, 0)
  { next := r.stpa, residual := if actData (stepAct y) then stepCount y else 0, status := sTAKEN ||| ub.2 ||| (if stepFlag y 12 then sNOTED else 0),
    reason := 0x19, psts := ub.1, crc := runCrc y }
/-- A unit of transfer that the step at STPA had taken at the save goes back to its unit: the step is to move it again (R87). -/
def untake (s : State) (x : Thr) (r : Regs) : State :=
  match x.saved.taken, stepUnit { cur := { lo := r.stpw } } with
  | some (bs, e), some u => setUnit s u { unitOf s u with rx := { bytes := bs, fin := e } :: (unitOf s u).rx }
  | _, _ => s
/-- The spare takes a context over (R87, R196): its registers are those that its last save left, at the level before a routine whose step is executed
again; it reports, and it is READY. A HELD context stays HELD. A halt that waits for stores of the failed cluster waits no longer.
DEDUCED, unsafe (log 91). -/
def takeOver (s : State) (c : CtxId) : State :=
  let x := thrOf s (.ctx c)
  match stOf s c, x.last with
  | .free, _ | .halted, _ | .idle, _ => leaveSlot s c
  | .held, none =>
    let s1 := setThr (leaveSlot s c) (.ctx c) { x with loads := [], md := none, sb := [], bus := none, cut := none }
    (postReport s1 c (if x.phase = .fetch then repHeld s1 c sTAKEN 0x19 else takenRep s1 x (recOf s c)) true).1
  | _, some (.halt st rs n) => haltEnd (setThr (leaveSlot s c) (.ctx c) { x with sb := [], last := none }) c st rs n
  | _, _ =>
    let r0 := savedRec s c
    let r := match x.saved.lvl with | some l => { r0 with sr := setFld r0.sr 8 2 l.toNat } | none => r0
    let s1 := setThr (setRec (leaveSlot (untake s x r) c) c r) (.ctx c) (restart x r)
    let (s2, ok) := postReport s1 c (takenRep s1 x r) true
    if ok then becomeReady s2 c else s2
/-- HOME n becomes 32 in the ACTIVE bank too (R196). -/
def rehomeA (n : Nat) (s : State) : State := { s with reg := { s.reg with tabA := rehome n s.reg.tabA } }
/-- The spare serves the failed cluster from a landing that falls at time t on (R196), before the banks swap there: HOME of the ACTIVE bank changes;
answers the contexts to take over. -/
def spareServes (t : DWord) (s : State) : State × List CtxId :=
  if spareDue s t then
    let n := s.eng.spareFor.toNat
    let s1 := setCl (setCl s n { clOf s n with serves := 0x3F }) 32 { serves := s.eng.spareFor }
    (rehomeA n { s1 with eng := { s1.eng with spareInUse := true, sparePending := false } }, homedOn s n)
  else (s, [])
/-- The takeover of contexts, after the swap (R193, R196), with its event.
DEDUCED, unsafe (log 91). -/
def spareTakeover (due : Bool) (l : List CtxId) (s : State) : State :=
  if due then evFire (l.foldl takeOver s) 0x4A1 (s.eng.spareFor.setWidth 32) else s
/-- A context of a failed cluster that no spare takes over halts (R148, R197): its report is on the state at the fault, its record what the last save
left; its stores are lost with the cluster. -/
def haltLost (s : State) (c : CtxId) : State :=
  match stOf s c with
  | .free | .halted => s
  | _ =>
    let r := repNow s c sABORT 0x17 (haltResidual s c)
    let s1 := setRec (leaveSlot s c) c (savedRec s c)
    haltPost (setThr s1 (.ctx c) { thrOf s1 (.ctx c) with sb := [] }) c r
/-- The clusters without a spare (R197): l holds each context with its home before the landing.
DEDUCED, unsafe (log 92). -/
def haltLostAll (l : List CtxId) (s : State) : State :=
  if s.eng.noSpareAt = [] then s
  else l.foldl haltLost (raise { s with eng := { s.eng with noSpareAt := [] } } 0x050)
/-- The contexts homed on clusters that found no spare. -/
def lostCtxs (s : State) : List CtxId := (liveCtxs s).filter fun c => s.eng.noSpareAt.contains (BitVec.ofNat 6 (homeOf s c))
/-- Clusters 16 to 31 stop in FRUGAL and run in every other profile (R18). -/
def frugal (s : State) : State :=
  (List.range 16).foldl (fun s i =>
    let k := clOf s (16 + i)
    if s.boot.profile = 3 ∧ k.mode = .active then setCl s (16 + i) { k with mode := .frugal, loadBufs := [] }
    else if s.boot.profile ≠ 3 ∧ k.mode = .frugal then setCl s (16 + i) { k with mode := .active }
    else s) s
/-- A context gives up its slot without a save: another slot follows. -/
def unseat (s : State) (c : CtxId) : State :=
  match slotOf s c with
  | some k => { s with eng := { s.eng with occ := sset none s.eng.occ k none } }
  | none => s
/-- A context after its HOME or PIN may have changed (R181, R194): it keeps its slot, gives it up, or is moved. old is the state before.
DEDUCED, unsafe (log 93). -/
def rehomeCtx (old : State) (s : State) (c : CtxId) : State :=
  let moved := decide (homeOf old c ≠ homeOf s c)
  let s1 :=
    if pinOf s c ∧ (!moved ∨ stOf s c ≠ .resident) then unseat s c
    else match slotOf s c with
      | none => s
      | some k =>
        if !pinOf s c ∧ !pinOf old c ∧ !moved ∧ pinSlots s ≤ k % 16 then s
        else match stOf s c with
          | .resident => pushOut s c
          | .waiting | .held => leaveSlot (saveRec s c (stOf s c)) c
          | _ => leaveSlot s c
  if moved ∧ stOf s1 c = .ready then
    let (n, s2) := nextStamp s1
    setThr (unload s2 (homeOf old c) c) (.ctx c) { thrOf s2 (.ctx c) with readyAt := n }
  else s1
/-- A pinned context takes its pinned slot (R181, R194): a READY one that gains PIN or is taken over is RESIDENT there. One without registers loads its
record, and halts where that meets an uncorrectable error (R440).
DEDUCED, unsafe (log 93). -/
def seat (old : State) (taken : List CtxId) (s : State) (c : CtxId) : State :=
  let i := pinRank s c
  let k := 16 * homeOf s c + i
  if !pinOf s c ∨ pinSlots s ≤ i then s
  else match stOf s c with
    | .free | .halted => s
    | .ready =>
      if (!pinOf old c ∨ taken.contains c) ∧ (sget none s.eng.occ k).isNone then
        let s1 := saveDone s c
        if recUpset s1 c then haltLoad (noteRecs s1 c) c else enterSlot s1 c k
      else s
    | .waiting =>
      let s1 : State := { s with eng := { s.eng with occ := sset none s.eng.occ k (some c) } }
      if (slotRegs s c.toNat).isSome then s1 else if recUpset s c then haltLoad (noteRecs s c) c else loadRec s1 c
    | _ => { s with eng := { s.eng with occ := sset none s.eng.occ k (some c) } }
/-- Whether any HOME, any PIN or the number of pinned slots may have changed.
DEDUCED, unsafe (log 93). -/
def reseat (old : State) (taken : List CtxId) (s : State) : State :=
  let l := liveCtxs s
  l.foldl (seat old taken) (l.reverse.foldl (rehomeCtx old) s)

/-! Movers (R222, R225). -/
/-- MOVER_ABORT of a MOVE whose context waits because of a pause (R220, R222). -/
def abortMove (s : State) (c : CtxId) : State := moveEnd (ctxEvent (bump s (aMOV + 0x24)) c 3 0x18) (.ctx c) true
/-- A landing that makes a paused BULK context TIMED aborts its channel (R222), one that is being paused when its bytes are written.
DEDUCED, unsafe (log 94). -/
def timedAbort (old : State) (s : State) (c : CtxId) : State :=
  if timedOf old c ∨ !timedOf s c then s
  else
    let stopped := (chstOf s c).paused || s.mov.bulkPaused
    match chanOf s c.toNat with
    | some x =>
      match x.stopping with
      | some .halt => s
      | some _ => setChan s c.toNat { x with stopping := some .timed }
      | none => if x.granted ∧ !isPortInstr x ∧ (x.paused ∨ s.mov.bulkPaused) ∧ x.kind ≠ .move then stopAbort s c { x with paused := false } none else s
    | none => if stopped ∧ onMove s c ∧ !ctxFenced s c then abortMove s c else s
/-! Blocks whose settings swap. -/
/-- MP_n_ISP takes a new MP_n_ISB (R168). -/
def ispLand (old s : State) : State :=
  (List.range 4).foldl (fun s n =>
    let a := aMPC + 0x100 * n + 4
    if act old a ≠ act s a then
      let m := mpOf s (BitVec.ofNat 2 n)
      setMp s (BitVec.ofNat 2 n) { m with isp := BitVec.ofNat 18 (fld (act s a) 7 11 * 128) }
    else s) s
/-- The dispatch caches are cleared at a landing that changes an ENG_RTAB register (R78). -/
def rtabLand (old s : State) : State :=
  if (List.range 16).any fun i => act old (aENG + 0x100 + 4 * i) != act s (aENG + 0x100 + 4 * i) then
    clusters.foldl (fun s n => if (clOf s n).dcache = [] then s else setCl s n { clOf s n with dcache := [] }) s
  else s
/-- Lines of which each set keeps at most w. -/
def fitSets (w : Nat) (l : List (Nat × List Byte)) : List (Nat × List Byte) :=
  l.foldl (fun a e => if (a.filter fun d => d.1 % 16384 = e.1 % 16384).length < w then a ++ [e] else a) []
/-- The window of the Orchard changes size (R191): what a smaller one releases is lost, and the lines cached where a larger one lies are dropped.
DESIGN CHOICE, safe (log 14). -/
def orchLand (old s : State) : State :=
  if orchSize s < orchSize old then
    { s with mem := s.mem.filter fun e => !decide (0x2_0000_0000 + orchSize s ≤ e.1 ∧ e.1 < 0x2_0200_0000) }
  else if orchWays s < orchWays old then
    { s with eng := { s.eng with orch := fitSets (orchWays s) (s.eng.orch.rotateLeft (Config.victim s.eng.victims)), victims := s.eng.victims + 1 } }
  else s
/-- Every mailbox is released when SCT_XCFG.EN changes from 0 to 1 (R303). -/
def mboxLand (old s : State) : State :=
  if !bit (act old (aSCT + 0x28)) 0 ∧ bit (act s (aSCT + 0x28)) 0 then { s with sct := { s.sct with mbox := [] } } else s
/-- Level sources whose staged word the landing changed look at their signal again (R405). -/
def evLand (old s : State) : State :=
  ((List.range 2048).filter fun n => isLevelSrc n && evW0 old n != evW0 s n).foldl (fun s n => evLevel s n (evSrc s n).level (evSrc s n).info) s
/-- Targets that hold records are judged again under the moderation that a landing brings (R412). -/
def moderateAll (s : State) : State := (List.range 20).foldl (fun s t => if tgtLoad s t = 0 then s else moderate s t) s
/-- The profile in force (R12, R16, R17, R500, R501).
DESIGN CHOICE, unsafe (log 100). -/
def profileLand (s : State) : State :=
  let p := fld (act s aPROFILE) 0 3
  let f := decide (profFreq p ≠ profFreq s.boot.profile.toNat)
  frugal { s with boot := { s.boot with
    profile := BitVec.ofNat 3 p, vid := BitVec.ofNat 4 (vidCode s p), pll := s.boot.pll != f
    stbyLock := s.boot.stbyLock && !f, stbyBusy := s.boot.stbyBusy && !f } }
/-- What a swap brings in every block; old is the state before it. -/
def swapLand (old : State) (taken : List CtxId) (s : State) : State :=
  let s1 := reseat old taken (profileLand s)
  let s2 := (liveCtxs s1).foldl (timedAbort old) s1
  let s3 := mboxLand old (orchLand old (rtabLand old (ispLand old (limLand old s2))))
  let s4 := (List.range 112).foldl (fun s u => if unitOk u then unitLand old s u else s) (moderateAll (evLand old s3))
  grantAll (pickRef (scrubLand old (faultLevels s4)))

/-! The banks (R262, R264, R268, R276). -/
/-- The banks swap: the STAGED settings come into force under a tag. -/
def swapBanks (tag : Half) (n : DWord) (s : State) : State :=
  { s with
    reg := { s.reg with act := s.reg.stg, stg := s.reg.act, tabA := s.reg.tabS, tabS := s.reg.tabA }
    lnd := { s.lnd with tagS := s.lnd.tagA, tagA := tag, last := 1, landed := some n } }
/-- What the decision of the judgement does to the banks at landing n; whether they swap. late tells that a commit for this landing that
came after the judgement has just missed: LAST and LREASON then show its miss unless the banks swap (R268, R270).
DEDUCED, unsafe (log 95). -/
def judgedSwap (n : DWord) (late : Bool) (d : Option (Commit × BitVec 4)) (s : State) : State × Bool :=
  match d with
  | none => (if late then s else { s with lnd := { s.lnd with last := 0 } }, false)
  | some (c, r) =>
    if r ≠ 0 then (if late then s else { s with lnd := { s.lnd with last := 2, lreason := r } }, false)
    else match c.revert with
      | some (p, l) =>
        if revertRow s p l = 1 then (swapBanks (p + 2) n s, true)
        else if revertRow s p l = 2 then ({ s with lnd := { s.lnd with tagA := p + 2, tagS := p + 1, last := 3 } }, false)
        else (s, false)
      | none => (swapBanks c.seq n s, true)
/-- The commit whose landing this is although it came after the judgement (R268, R270). -/
def lateCommit (n : Nat) (s : State) : Option Commit := s.lnd.pend.filter fun c => c.revert.isNone && decide (c.tgt.toNat ≤ n)
/-- A commit whose target this landing is, received after the judgement, misses: with LATE when it names the landing judged (R268, R270).
DEDUCED, unsafe (log 53). -/
def latePend (n : Nat) (s : State) : State :=
  match lateCommit n s with
  | some c =>
    let r := firstFail s c n true
    let late := match s.lnd.judged with | some (j, _) => decide (c.tgt.toNat ≤ j.toNat) | none => false
    missCommit { s with lnd := { s.lnd with pend := none } } c.tgt (if late then 1 else if r = 0 then 3 else r)
  | none => s
/-- A worker that sent ARMED for a ring commit, or for a LANDREVERT, reports that it missed (R274, R277), by the landing that it named. -/
def missReported (c : Commit) (s : State) : State :=
  if c.ring ∧ c.preason = 0 ∧ (s.rm.role = .worker ∨ s.rm.role = .standby) then
    reportFault (raise s 0x085 (c.tgt.setWidth 32)) 0x085 1 (c.tgt.setWidth 32)
  else s
/-- The reports of the commits that miss at a landing: the one judged, and one that came too late (R274). -/
def missReports (d : Option (Commit × BitVec 4)) (late : Option Commit) (s : State) : State :=
  let s1 := match d with | some (c, r) => if r ≠ 0 then missReported c s else s | none => s
  match late with | some c => missReported c s1 | none => s1
/-- The waits for the next landing end (R43); a WAIT that is decoded and not yet WAITING remembers it. -/
def landWaits (s : State) : State :=
  (liveCtxs s).foldl (fun s c =>
    let x := thrOf s (.ctx c)
    match x.wait with
    | some w =>
      if !w.landing then s
      else if stOf s c = .waiting ∧ !ctxFenced s c then endTimeWait s c
      else setThr s (.ctx c) { x with wait := some { w with landed := true } }
    | none => s) s

/-! Pairs (R360 to R368). -/
/-- The pair entries with word 0 not 0 in a bank. -/
def pairEntries (bank : Sparse DWord) : List Nat :=
  (bank.filter fun e => decide (0xB000000 ≤ e.1 ∧ e.1 < 0xC000000 ∧ e.1 % 16 = 0)).map fun e => (e.1 - 0xB000000) / 16
/-- VALID of a pair entry -/ def pairValid (s : State) (e : Nat) : Bool := bit (tabA s .pair e 0) 63
/-- The judgement of an entry's ballots, sent at the landing before this one (R365). -/
def judgePair (n : Nat) (s : State) (e : Nat) : State :=
  let x := pairL s e
  if x.st ≠ .paired ∨ n < x.since.toNat + 2 then s
  else
    let own := digestOf x (BitVec.ofNat 64 (n - 2))
    match x.got.find? fun g => g.1 = BitVec.ofNat 64 (n - 1) with
    | some (_, d) =>
      if d = own then setPair s e { x with own := own, part := d, silent := 0 }
      else
        bump (raise (setPair s e { x with own := own, part := d, silent := 0, mism := if x.mism = 255 then 255 else x.mism + 1 }) 0x083
          (BitVec.ofNat 32 e)) (aSCT + 0x47C)
    | none => setPair s e { x with own := own, part := 0, silent := if x.silent = 0 then 1 else 2 }
/-- Whether a VALID entry breaks R361 by its own address or by a lower entry, and whether by the version of its session.
DEDUCED, unsafe (log 96). -/
def pairBad (s : State) (valid : List Nat) (e : Nat) : Bool × Bool :=
  let a := pairAddr s e
  let dup := a = s.rm.addr || !decide (1 ≤ a.toNat ∧ a.toNat ≤ 0x30) ||
    valid.any fun f => decide (f < e) && (pairCtx s f == pairCtx s e || (pairAddr s f == a && pairPctx s f == pairPctx s e))
  (dup, isOpen s (peerKey a) && decide ((sessOf s (peerKey a)).ver.toNat < 0x20))
/-- An entry enters PAIRED at landing n (R361, R362, R368). -/
def enterPaired (n : Nat) (s : State) (e : Nat) : State :=
  let x := pairL s e
  setPair s e { x with st := .paired, silent := 0, supp := pairHsb s e && bit (tabA s .pair e 0) 45, since := BitVec.ofNat 64 n, viol := false, kept := .off, got := [] }
/-- The state of an entry after the landing's settings (R360, R361, R362, R368): one that breaks R361 acts as OFF and keeps its state meanwhile.
DEDUCED, unsafe (log 96). -/
def pairLand (old : State) (n : Nat) (valid : List Nat) (s : State) (e : Nat) : State :=
  if !pairValid s e then { s with rm := { s.rm with pairs := sset {} s.rm.pairs e {} } }
  else
    let (dup, ver) := pairBad s valid e
    let s1 := { s with rm := { s.rm with ptDup := s.rm.ptDup || dup, ptVer := s.rm.ptVer || ver } }
    let x := pairL s1 e
    let fresh := !pairValid old e || decide (fld (tabA old .pair e 0) 46 4 ≠ fld (tabA s1 .pair e 0) 46 4)
    let kept := if fresh then .paired else if x.viol then x.kept else x.st
    if dup ∨ ver then setPair s1 e { mism := x.mism, viol := true, kept := kept }
    else if fresh ∨ (x.viol ∧ kept = .paired) then enterPaired n s1 e
    else if x.viol then setPair s1 e { x with st := kept, supp := decide (kept = .yielded), since := BitVec.ofNat 64 n, viol := false, kept := .off }
    else if x.st = .paired then setPair s1 e { x with supp := pairHsb s1 e && bit (tabA s1 .pair e 0) 45 }
    else s1
/-- The entries of a ballot to a device at landing n (R364). -/
def ballotTo (s : State) (n : Nat) (valid : List Nat) (a : Byte) : List (List Byte) :=
  (valid.filter fun e => pairAddr s e == a && (pairL s e).st == .paired && (pairL s e).silent != 2 && decide ((pairL s e).since.toNat < n)).map fun e =>
    beBytes 4 (pairCtx s e).toNat ++ beBytes 4 (targetWord (pairPctx s e) a) ++ beBytes 8 (digestOf (pairL s e) (BitVec.ofNat 64 (n - 1))).toNat
/-- Sends the ballots to a device, at most 561 entries in a message (R294, R364). -/
def sendBallots (n : Nat) (valid : List Nat) (s : State) (a : Byte) : State :=
  let l := ballotTo s n valid a
  let cnt := (l.length + 560) / 561
  if !present s a then s
  else (List.range cnt).foldl (fun s i =>
    let p := (l.drop (561 * i)).take 561
    sessSend s (peerKey a) 0x30 (beBytes 8 n ++ [BitVec.ofNat 8 i, BitVec.ofNat 8 cnt] ++ beBytes 2 p.length ++ p.flatten)) s
/-- Digests and ballots that no judgement needs any more are dropped. -/
def trimPair (n : Nat) (s : State) (e : Nat) : State :=
  let x := pairL s e
  setPair s e { x with dig := x.dig.filter fun d => decide (n ≤ d.1.toNat + 1), got := x.got.filter fun g => decide (n ≤ g.1.toNat) }
/-- The pairs at landing n (R361 to R368); a detached device sends no ballots (R351). -/
def pairsLand (old : State) (n : Nat) (s : State) : State :=
  let s1 := (s.rm.pairs.map fun e => e.1).foldl (judgePair n) s
  let valid := (pairEntries s1.reg.tabA).filter (pairValid s1)
  let all := ((pairEntries s1.reg.tabA) ++ s1.rm.pairs.map fun e => e.1).dedup
  let s2 := all.foldl (pairLand old n valid) { s1 with rm := { s1.rm with ptDup := false, ptVer := false } }
  let s3 := if s2.rm.role = .detached then s2 else ((valid.map (pairAddr s2)).dedup).foldl (sendBallots n valid) s2
  (s3.rm.pairs.map fun e => e.1).foldl (trimPair n) s3

/-! Ring management (R350, R354, R356, R358). -/
/-- A flight passes for the presence of a station. -/
def stationAge (own : Byte) (t : Station) : Station :=
  if t.addr = own then t else { t with age := if t.detaching ∧ t.age < 4 then 4 else Nat.min (t.age + 1) 5 }
/-- Presence and authority at a landing (R350, R354, R356); a manager's MSEQ carries the PRIO that is ACTIVE (R342). -/
def rmLand (s0 : State) : State :=
  let s := if s0.rm.role = .manager then setRole { s0 with rm := { s0.rm with mseq := ownMseq s0 s0.rm.auth s0.rm.term } } .manager else s0
  let r := s.rm
  let lone := decide (r.role = .manager) && (workers s).isEmpty
  { s with rm := { r with
      table := r.table.map (stationAge r.addr)
      noMgr := if r.role = .worker ∨ r.role = .standby then Nat.min (r.noMgr + 1) 5 else 0
      noWorker := if lone then Nat.min (r.noWorker + 1) 3 else 0
      authKa := (false :: r.authKa).take 3 } }
/-- The manager's view of a ring-wide landing ends at the landing after it, and once reverted at the landing after that, when every worker present has
answered its LANDREVERT (R275 to R277). -/
def ringLand (n : Nat) (s : State) : State :=
  { s with lnd := { s.lnd with ring := s.lnd.ring.filterMap fun v =>
      match v.rev with
      | none => if v.l.toNat + 1 ≤ n then none else some v
      | some w =>
        let w' := w.filter (present s)
        if v.l.toNat + 2 ≤ n ∧ w' = [] then none else some { v with rev := some w' } } }
/-- After a landing a manager reads LND_SEQ of the workers that it may have to restore (R358, R359). -/
def restoreLand (s : State) : State :=
  if s.rm.role = .manager ∧ s.rm.restore ≠ [] then
    s.rm.restore.foldl (fun s a => if present s a then sessSend s (peerKey a) 0x10 ([0, 0] ++ beBytes 6 0x03006C ++ beBytes 4 4) else s)
      { s with rm := { s.rm with restore := [] } }
  else s

/-! The landing. -/
/-- Whether a commit that came after the judgement of landing n is due at a later landing that ring time has stepped past (R271). -/
def steppedPast (s : State) (n : DWord) : Bool :=
  timeGe s (lndTime s (n.toNat + 1)) && match s.lnd.pend with | some c => decide (n.toNat < c.tgt.toNat) && timeGe s (lndTime s c.tgt.toNat) | none => false
/-- The decision in force: that of the judgement, made again when ring time has stepped past a later landing and no commit was judged, or
one that failed while another is due there (R271).
DEDUCED, unsafe (log 53). -/
def judgedNow (s : State) : State :=
  let again := doJudge { s with lnd := { s.lnd with judged := none } }
  match s.lnd.judged with
  | some (n, none) => if timeGe s (lndTime s (n.toNat + 1)) then again else s
  | some (n, some (c, r)) => if r ≠ 0 ∧ steppedPast s n then missReported c again else s
  | none => s
/-- The number of the landing taken: the highest whose time has come (R271). -/
def landNum (s : State) (n : DWord) : Nat := Nat.max n.toNat (lndAt s s.time.now)
/-- Landing n with decision d; fa and fb are what the ports counted in the flight that ends. -/
def landAt (fa fb : Fec) (n : Nat) (d : Option (Commit × BitVec 4)) (s : State) : State :=
  let nb := BitVec.ofNat 64 n
  let skip := n - s.lnd.num.toNat - 1
  let s0 := atTime s (lndTime s n)
  let s1 := setIm s0 aSKIP (BitVec.ofNat 32 (Nat.min ((imr s0 aSKIP).toNat + skip) 0xFFFF))
  let lost := lostCtxs s1
  let late := lateCommit n s1
  let due := spareDue s1 (lndTime s n)
  let (old, taken) := spareServes (lndTime s n) (checkpoint (dropSwitches (latePend n s1)))
  let (s3, swap) := judgedSwap nb late.isSome d old
  let s4 := missReports d late (spareTakeover due taken { s3 with lnd := { s3.lnd with num := nb, judged := none } })
  let s5 := if swap then swapLand old taken s4 else taken.foldl (seat old taken) s4
  let s6 := applyHeld (haltLostAll lost s5)
  let s7 := landWaits (evFire (portsLand old fa fb s6) 0x490 (nb.setWidth 32))
  settle (autoRetrain (restoreLand (rmLand (ringLand n (pairsLand old n s7)))))
/-- A landing (R262): the landing that was judged is taken. -/
def doLanding (fa fb : Fec) (s : State) : State :=
  if !running s then s
  else
    let s1 := judgedNow s
    match s1.lnd.judged with
    | none => s
    | some (n, d) => landAt fa fb (landNum s1 n) d s1
/-- LANDING -/
def execLanding (fecA fecB : Fec) (s : State) : Res := onCore (doLanding fecA fecB) s

/-! Boot done (R478). -/
/-- The first landing, taken as boot ends (R261, R478): the settings that boot wrote to both banks come into force where a landing brings them in: the
signals of the level sources, the units, the lists and SAs of the ring ports, the pairs.
DEDUCED, unsafe (log 135). -/
def firstLanding (n : Nat) (s : State) : State :=
  let bare := { s with reg := { s.reg with tabA := [] } }
  let fresh := { s with reg := { s.reg with act := [] } }
  let s1 := (List.range 112).foldl (fun s u => if unitOk u then unitLand bare s u else s) (evLand bare s)
  let s2 := verifyLand fresh (verifyLand fresh (portsLand bare {} {} s1) false) true
  evFire (pairsLand bare n { s2 with lnd := { s2.lnd with num := BitVec.ofNat 64 n } }) 0x490 (BitVec.ofNat 32 n)
/-- BOOT_DONE.
DESIGN CHOICE, safe (log 11), DESIGN CHOICE, unsafe (log 13), DEDUCED, unsafe (log 26). -/
def doBootDone (s : State) : State :=
  if s.boot.st = .boot ∧ s.boot.loaded ∧ !s.flt.f4 then
    let s1 := takeProfile s
    let s2 := { s1 with boot := { s1.boot with
        st := .run, failmask := if s1.boot.first then 0 else s1.boot.failmask, tdone := BitVec.ofNat 32 (s1.time.now.toNat / 1000)
        modes := [], loaded := false, fltKept := false } }
    let s3 := (List.range 4).foldl (fun s n => resetPair s (BitVec.ofNat 2 n)) s2
    let s4 := s1.boot.modes.foldl startMode s3
    firstLanding (flightOf s4 s4.time.now).toNat s4
  else s
/-- BOOT_DONE -/
def execBootDone (s : State) : Res := .next (doBootDone s)

end Sys2Proof.Machine
end

