-- ==== Sys2Proof/Machine/Dispatch.lean ====
section
/-! DEFINITION. What each command does: one arm per constructor of Instr. -/
namespace Sys2Proof.Machine

/-- The effect of a command on everything but the queue. -/
def exec (i : Instr) (s : State) : Host.Outcome State Fault Refusal :=
  match i with
  | .registerWrite lvl addr v => Sys2Proof.Machine.execRegisterWrite lvl addr v s
  | .rcRead lvl addr => Sys2Proof.Machine.execRcRead lvl addr s
  | .glbRsvdWrClear lvl v => Sys2Proof.Machine.execGlbRsvdWrClear lvl v s
  | .timeNowNsLoRead lvl => Sys2Proof.Machine.execTimeNowNsLoRead lvl s
  | .timeLndNumLoRead lvl => Sys2Proof.Machine.execTimeLndNumLoRead lvl s
  | .stbyPllLock => Sys2Proof.Machine.execStbyPllLock s
  | .stepFetch c => Sys2Proof.Machine.execStepFetch c s
  | .nopStep c => Sys2Proof.Machine.execNopStep c s
  | .jump c => Sys2Proof.Machine.execJump c s
  | .waitStep c => Sys2Proof.Machine.execWaitStep c s
  | .signalStep c => Sys2Proof.Machine.execSignalStep c s
  | .reportStep c => Sys2Proof.Machine.execReportStep c s
  | .endStep c => Sys2Proof.Machine.execEndStep c s
  | .moveIn c => Sys2Proof.Machine.execMoveIn c s
  | .moveOut c => Sys2Proof.Machine.execMoveOut c s
  | .moveMem c => Sys2Proof.Machine.execMoveMem c s
  | .controlStep c => Sys2Proof.Machine.execControlStep c s
  | .senseStep c => Sys2Proof.Machine.execSenseStep c s
  | .routineStep c => Sys2Proof.Machine.execRoutineStep c s
  | .timeWaitEnd c => Sys2Proof.Machine.execTimeWaitEnd c s
  | .add t p w gd ga gb => Sys2Proof.Machine.execAdd t p w gd ga gb s
  | .sub t p w gd ga gb => Sys2Proof.Machine.execSub t p w gd ga gb s
  | .and t p w gd ga gb => Sys2Proof.Machine.execAnd t p w gd ga gb s
  | .or t p w gd ga gb => Sys2Proof.Machine.execOr t p w gd ga gb s
  | .xor t p w gd ga gb => Sys2Proof.Machine.execXor t p w gd ga gb s
  | .andn t p w gd ga gb => Sys2Proof.Machine.execAndn t p w gd ga gb s
  | .mov t p w gd ga => Sys2Proof.Machine.execMov t p w gd ga s
  | .not t p w gd ga => Sys2Proof.Machine.execNot t p w gd ga s
  | .neg t p w gd ga => Sys2Proof.Machine.execNeg t p w gd ga s
  | .cmp t p w ga gb => Sys2Proof.Machine.execCmp t p w ga gb s
  | .tst t p w ga gb => Sys2Proof.Machine.execTst t p w ga gb s
  | .shl t p w gd ga gb => Sys2Proof.Machine.execShl t p w gd ga gb s
  | .shr t p w gd ga gb => Sys2Proof.Machine.execShr t p w gd ga gb s
  | .sar t p w gd ga gb => Sys2Proof.Machine.execSar t p w gd ga gb s
  | .rol t p w gd ga gb => Sys2Proof.Machine.execRol t p w gd ga gb s
  | .ror t p w gd ga gb => Sys2Proof.Machine.execRor t p w gd ga gb s
  | .min t p w gd ga gb => Sys2Proof.Machine.execMin t p w gd ga gb s
  | .max t p w gd ga gb => Sys2Proof.Machine.execMax t p w gd ga gb s
  | .minu t p w gd ga gb => Sys2Proof.Machine.execMinu t p w gd ga gb s
  | .maxu t p w gd ga gb => Sys2Proof.Machine.execMaxu t p w gd ga gb s
  | .clz t p w gd ga => Sys2Proof.Machine.execClz t p w gd ga s
  | .ctz t p w gd ga => Sys2Proof.Machine.execCtz t p w gd ga s
  | .popc t p w gd ga => Sys2Proof.Machine.execPopc t p w gd ga s
  | .bswap t p w gd ga => Sys2Proof.Machine.execBswap t p w gd ga s
  | .addi t p w gd ga imm => Sys2Proof.Machine.execAddi t p w gd ga imm s
  | .cmpi t p w ga imm => Sys2Proof.Machine.execCmpi t p w ga imm s
  | .andi t p w gd ga imm => Sys2Proof.Machine.execAndi t p w gd ga imm s
  | .ori t p w gd ga imm => Sys2Proof.Machine.execOri t p w gd ga imm s
  | .xori t p w gd ga imm => Sys2Proof.Machine.execXori t p w gd ga imm s
  | .movi t p gd imm => Sys2Proof.Machine.execMovi t p gd imm s
  | .ins t p gd h imm => Sys2Proof.Machine.execIns t p gd h imm s
  | .shi t p kind w gd ga n => Sys2Proof.Machine.execShi t p kind w gd ga n s
  | .ld t p sz gd ga imm => Sys2Proof.Machine.execLd t p sz gd ga imm s
  | .lds t p sz gd ga imm => Sys2Proof.Machine.execLds t p sz gd ga imm s
  | .st t p sz gd ga imm => Sys2Proof.Machine.execSt t p sz gd ga imm s
  | .ldP t p sz gd ga imm => Sys2Proof.Machine.execLdP t p sz gd ga imm s
  | .ldsP t p sz gd ga imm => Sys2Proof.Machine.execLdsP t p sz gd ga imm s
  | .stP t p sz gd ga imm => Sys2Proof.Machine.execStP t p sz gd ga imm s
  | .loadDataArrival t gd => Sys2Proof.Machine.execLoadDataArrival t gd s
  | .bc t p cond off => Sys2Proof.Machine.execBc t p cond off s
  | .bl t p off => Sys2Proof.Machine.execBl t p off s
  | .b t p off => Sys2Proof.Machine.execB t p off s
  | .cbz t p ga imm => Sys2Proof.Machine.execCbz t p ga imm s
  | .cbnz t p ga imm => Sys2Proof.Machine.execCbnz t p ga imm s
  | .br t p ga => Sys2Proof.Machine.execBr t p ga s
  | .blr t p ga => Sys2Proof.Machine.execBlr t p ga s
  | .ret t p => Sys2Proof.Machine.execRet t p s
  | .mul t p ga gb => Sys2Proof.Machine.execMul t p ga gb s
  | .mulu t p ga gb => Sys2Proof.Machine.execMulu t p ga gb s
  | .div t p ga gb => Sys2Proof.Machine.execDiv t p ga gb s
  | .divu t p ga gb => Sys2Proof.Machine.execDivu t p ga gb s
  | .muldivResult t => Sys2Proof.Machine.execMuldivResult t s
  | .move t p fs fd bar crc gd gs gn => Sys2Proof.Machine.execMove t p fs fd bar crc gd gs gn s
  | .chain t p ga => Sys2Proof.Machine.execChain t p ga s
  | .sdone t p ga => Sys2Proof.Machine.execSdone t p ga s
  | .sfail t p ga => Sys2Proof.Machine.execSfail t p ga s
  | .pwr t p unit ga gb => Sys2Proof.Machine.execPwr t p unit ga gb s
  | .prd t p unit gd ga => Sys2Proof.Machine.execPrd t p unit gd ga s
  | .psend t p unit ga gb => Sys2Proof.Machine.execPsend t p unit ga gb s
  | .psendAt t p unit gd ga gb => Sys2Proof.Machine.execPsendAt t p unit gd ga gb s
  | .precv t p unit gd ga gb => Sys2Proof.Machine.execPrecv t p unit gd ga gb s
  | .waite t p gd ga gb => Sys2Proof.Machine.execWaite t p gd ga gb s
  | .waitt t p ga => Sys2Proof.Machine.execWaitt t p ga s
  | .signal t p gd ga gb => Sys2Proof.Machine.execSignal t p gd ga gb s
  | .resume t p gd ga gb => Sys2Proof.Machine.execResume t p gd ga gb s
  | .yield t p => Sys2Proof.Machine.execYield t p s
  | .susp t p => Sys2Proof.Machine.execSusp t p s
  | .wfi t p => Sys2Proof.Machine.execWfi t p s
  | .sys t p code => Sys2Proof.Machine.execSys t p code s
  | .retx t p => Sys2Proof.Machine.execRetx t p s
  | .brk t p code => Sys2Proof.Machine.execBrk t p code s
  | .mfs t p gd x => Sys2Proof.Machine.execMfs t p gd x s
  | .mts t p x ga => Sys2Proof.Machine.execMts t p x ga s
  | .bar t p => Sys2Proof.Machine.execBar t p s
  | .ibar t p ga => Sys2Proof.Machine.execIbar t p ga s
  | .nop t p => Sys2Proof.Machine.execNop t p s
  | .lck t p gd ga => Sys2Proof.Machine.execLck t p gd ga s
  | .ulk t p gd ga => Sys2Proof.Machine.execUlk t p gd ga s
  | .asyncEntry t k => Sys2Proof.Machine.execAsyncEntry t k s
  | .runLimit c => Sys2Proof.Machine.execRunLimit c s
  | .quantumExpiry c => Sys2Proof.Machine.execQuantumExpiry c s
  | .preemption cl => Sys2Proof.Machine.execPreemption cl s
  | .slotFill cl => Sys2Proof.Machine.execSlotFill cl s
  | .contextSwitch cl => Sys2Proof.Machine.execContextSwitch cl s
  | .recordLoad c ecc => Sys2Proof.Machine.execRecordLoad c ecc s
  | .interruptEntry n => Sys2Proof.Machine.execInterruptEntry n s
  | .galAccRead lvl => Sys2Proof.Machine.execGalAccRead lvl s
  | .galAccWrite lvl => Sys2Proof.Machine.execGalAccWrite lvl s
  | .indirectAccessDone a => Sys2Proof.Machine.execIndirectAccessDone a s
  | .alloc lvl c => Sys2Proof.Machine.execAlloc lvl c s
  | .release lvl c => Sys2Proof.Machine.execRelease lvl c s
  | .reset lvl c => Sys2Proof.Machine.execReset lvl c s
  | .halt lvl c => Sys2Proof.Machine.execHalt lvl c s
  | .galCctSyncGo lvl => Sys2Proof.Machine.execGalCctSyncGo lvl s
  | .cctCopyDone => Sys2Proof.Machine.execCctCopyDone s
  | .galLockCmdBreak lvl cell => Sys2Proof.Machine.execGalLockCmdBreak lvl cell s
  | .engCodeInvGo lvl => Sys2Proof.Machine.execEngCodeInvGo lvl s
  | .codeInvDone => Sys2Proof.Machine.execCodeInvDone s
  | .moverComplete o => Sys2Proof.Machine.execMoverComplete o s
  | .channelPreempt winner victim rd wr => Sys2Proof.Machine.execChannelPreempt winner victim rd wr s
  | .queryChannel lvl c => Sys2Proof.Machine.execQueryChannel lvl c s
  | .enableChannel lvl c => Sys2Proof.Machine.execEnableChannel lvl c s
  | .disableChannel lvl c => Sys2Proof.Machine.execDisableChannel lvl c s
  | .channelDrainEnd c => Sys2Proof.Machine.execChannelDrainEnd c s
  | .stop lvl c => Sys2Proof.Machine.execStop lvl c s
  | .stopDone c rd => Sys2Proof.Machine.execStopDone c rd s
  | .unpause lvl c => Sys2Proof.Machine.execUnpause lvl c s
  | .pauseBulk lvl => Sys2Proof.Machine.execPauseBulk lvl s
  | .unpauseBulk lvl => Sys2Proof.Machine.execUnpauseBulk lvl s
  | .wqDoorbell lvl q => Sys2Proof.Machine.execWqDoorbell lvl q s
  | .queryQueue lvl q => Sys2Proof.Machine.execQueryQueue lvl q s
  | .enableQueue lvl q => Sys2Proof.Machine.execEnableQueue lvl q s
  | .disableQueue lvl q => Sys2Proof.Machine.execDisableQueue lvl q s
  | .queueDrainEnd q => Sys2Proof.Machine.execQueueDrainEnd q s
  | .wqAccRead lvl => Sys2Proof.Machine.execWqAccRead lvl s
  | .wqAccWrite lvl => Sys2Proof.Machine.execWqAccWrite lvl s
  | .wqDsyncGo lvl => Sys2Proof.Machine.execWqDsyncGo lvl s
  | .wqCopyDone => Sys2Proof.Machine.execWqCopyDone s
  | .entryFetch q => Sys2Proof.Machine.execEntryFetch q s
  | .pollWaitEnd q => Sys2Proof.Machine.execPollWaitEnd q s
  | .wqStart q => Sys2Proof.Machine.execWqStart q s
  | .wqResume q => Sys2Proof.Machine.execWqResume q s
  | .wqSignal q => Sys2Proof.Machine.execWqSignal q s
  | .wqMove q => Sys2Proof.Machine.execWqMove q s
  | .wqHalt q => Sys2Proof.Machine.execWqHalt q s
  | .queueError q => Sys2Proof.Machine.execQueueError q s
  | .coalTimeExpiry q => Sys2Proof.Machine.execCoalTimeExpiry q s
  | .landingJudgement => Sys2Proof.Machine.execLandingJudgement s
  | .landing fecA fecB => Sys2Proof.Machine.execLanding fecA fecB s
  | .commit lvl seq => Sys2Proof.Machine.execCommit lvl seq s
  | .cancel lvl => Sys2Proof.Machine.execCancel lvl s
  | .lndSyncRegs lvl => Sys2Proof.Machine.execLndSyncRegs lvl s
  | .lndSyncAll lvl => Sys2Proof.Machine.execLndSyncAll lvl s
  | .lndCopyDone => Sys2Proof.Machine.execLndCopyDone s
  | .landackDeadline => Sys2Proof.Machine.execLandackDeadline s
  | .landstage peer => Sys2Proof.Machine.execLandstage peer s
  | .landcommit peer => Sys2Proof.Machine.execLandcommit peer s
  | .landack peer => Sys2Proof.Machine.execLandack peer s
  | .landrevert peer => Sys2Proof.Machine.execLandrevert peer s
  | .frameReceive portB f fcsGood sec => Sys2Proof.Machine.execFrameReceive portB f fcsGood sec s
  | .frerReset stream => Sys2Proof.Machine.execFrerReset stream s
  | .hello => Sys2Proof.Machine.execHello s
  | .helloAck => Sys2Proof.Machine.execHelloAck s
  | .enum => Sys2Proof.Machine.execEnum s
  | .enumReply => Sys2Proof.Machine.execEnumReply s
  | .announce => Sys2Proof.Machine.execAnnounce s
  | .read k => Sys2Proof.Machine.execRead k s
  | .readData k => Sys2Proof.Machine.execReadData k s
  | .write k => Sys2Proof.Machine.execWrite k s
  | .writeAck k => Sys2Proof.Machine.execWriteAck k s
  | .post k => Sys2Proof.Machine.execPost k s
  | .doorbell k => Sys2Proof.Machine.execDoorbell k s
  | .sctResume k => Sys2Proof.Machine.execSctResume k s
  | .sctSignal k => Sys2Proof.Machine.execSctSignal k s
  | .ballot peer => Sys2Proof.Machine.execBallot peer s
  | .takeover peer => Sys2Proof.Machine.execTakeover peer s
  | .sctFault k => Sys2Proof.Machine.execSctFault k s
  | .keepalive => Sys2Proof.Machine.execKeepalive s
  | .sessionKeepalive => Sys2Proof.Machine.execSessionKeepalive s
  | .nak k => Sys2Proof.Machine.execNak k s
  | .rtoExpiry k => Sys2Proof.Machine.execRtoExpiry k s
  | .ackHoldoff k => Sys2Proof.Machine.execAckHoldoff k s
  | .sessionIdle k => Sys2Proof.Machine.execSessionIdle k s
  | .sessionQuery lvl n => Sys2Proof.Machine.execSessionQuery lvl n s
  | .sessionClose lvl n => Sys2Proof.Machine.execSessionClose lvl n s
  | .expressDispatch portB f => Sys2Proof.Machine.execExpressDispatch portB f s
  | .expressStatusWrite cl slot fcsGood => Sys2Proof.Machine.execExpressStatusWrite cl slot fcsGood s
  | .sendWordStore c slot => Sys2Proof.Machine.execSendWordStore c slot s
  | .releaseWordStore c slot => Sys2Proof.Machine.execReleaseWordStore c slot s
  | .peerSessionOpen peer => Sys2Proof.Machine.execPeerSessionOpen peer s
  | .portEnable lvl portB => Sys2Proof.Machine.execPortEnable lvl portB s
  | .portDisable lvl portB => Sys2Proof.Machine.execPortDisable lvl portB s
  | .portDrainEnd portB => Sys2Proof.Machine.execPortDrainEnd portB s
  | .retrain lvl portB => Sys2Proof.Machine.execRetrain lvl portB s
  | .signalDetect portB => Sys2Proof.Machine.execSignalDetect portB s
  | .linkUp portB => Sys2Proof.Machine.execLinkUp portB s
  | .signalLoss portB => Sys2Proof.Machine.execSignalLoss portB s
  | .linkRetry portB => Sys2Proof.Machine.execLinkRetry portB s
  | .portFrameTransmit portB => Sys2Proof.Machine.execPortFrameTransmit portB s
  | .qbvGateEntry portB => Sys2Proof.Machine.execQbvGateEntry portB s
  | .streamGateEntry g => Sys2Proof.Machine.execStreamGateEntry g s
  | .verifyRetry portB succeeded => Sys2Proof.Machine.execVerifyRetry portB succeeded s
  | .syncReceive portB dom1 offset msg => Sys2Proof.Machine.execSyncReceive portB dom1 offset msg s
  | .syncSend dom1 => Sys2Proof.Machine.execSyncSend dom1 s
  | .syncLoss portB dom1 => Sys2Proof.Machine.execSyncLoss portB dom1 s
  | .pdelayReqSend portB => Sys2Proof.Machine.execPdelayReqSend portB s
  | .pdelayResponse portB meas => Sys2Proof.Machine.execPdelayResponse portB meas s
  | .pdelayMiss portB => Sys2Proof.Machine.execPdelayMiss portB s
  | .paMrxDoneWrite lvl portB v => Sys2Proof.Machine.execPaMrxDoneWrite lvl portB v s
  | .paMtxSend lvl portB ofs len => Sys2Proof.Machine.execPaMtxSend lvl portB ofs len s
  | .mtxDone portB => Sys2Proof.Machine.execMtxDone portB s
  | .paTacRead lvl portB => Sys2Proof.Machine.execPaTacRead lvl portB s
  | .paTacWrite lvl portB => Sys2Proof.Machine.execPaTacWrite lvl portB s
  | .electionClaim => Sys2Proof.Machine.execElectionClaim s
  | .enumTmo => Sys2Proof.Machine.execEnumTmo s
  | .announceRepeat => Sys2Proof.Machine.execAnnounceRepeat s
  | .keepaliveSend => Sys2Proof.Machine.execKeepaliveSend s
  | .stationAbsent addr => Sys2Proof.Machine.execStationAbsent addr s
  | .managerLoss => Sys2Proof.Machine.execManagerLoss s
  | .authLoss => Sys2Proof.Machine.execAuthLoss s
  | .announceCmd lvl => Sys2Proof.Machine.execAnnounceCmd lvl s
  | .detach lvl => Sys2Proof.Machine.execDetach lvl s
  | .rmTagsetWrite lvl tag => Sys2Proof.Machine.execRmTagsetWrite lvl tag s
  | .rmPtRead lvl => Sys2Proof.Machine.execRmPtRead lvl s
  | .rmPtWrite lvl => Sys2Proof.Machine.execRmPtWrite lvl s
  | .pairSilent e => Sys2Proof.Machine.execPairSilent e s
  | .unitEnable lvl u => Sys2Proof.Machine.execUnitEnable lvl u s
  | .unitDisable lvl u => Sys2Proof.Machine.execUnitDisable lvl u s
  | .unitDrainEnd u => Sys2Proof.Machine.execUnitDrainEnd u s
  | .drainTmo u => Sys2Proof.Machine.execDrainTmo u s
  | .ackAttn u => Sys2Proof.Machine.execAckAttn u s
  | .flushRx u => Sys2Proof.Machine.execFlushRx u s
  | .flushTx u => Sys2Proof.Machine.execFlushTx u s
  | .recover u => Sys2Proof.Machine.execRecover u s
  | .mdioRd u => Sys2Proof.Machine.execMdioRd u s
  | .mdioWr u => Sys2Proof.Machine.execMdioWr u s
  | .mdioDone u phy => Sys2Proof.Machine.execMdioDone u phy s
  | .wakeCmd u => Sys2Proof.Machine.execWakeCmd u s
  | .setLevel u => Sys2Proof.Machine.execSetLevel u s
  | .recordReceive u r e => Sys2Proof.Machine.execRecordReceive u r e s
  | .launchTime u => Sys2Proof.Machine.execLaunchTime u s
  | .recordTransmit u d => Sys2Proof.Machine.execRecordTransmit u d s
  | .busOffRecovery u => Sys2Proof.Machine.execBusOffRecovery u s
  | .plcaLost u => Sys2Proof.Machine.execPlcaLost u s
  | .mgLinkChange u up rate => Sys2Proof.Machine.execMgLinkChange u up rate s
  | .linHeader u pid r e => Sys2Proof.Machine.execLinHeader u pid r e s
  | .noResp u r => Sys2Proof.Machine.execNoResp u r s
  | .captureEdge u p => Sys2Proof.Machine.execCaptureEdge u p s
  | .compareEdge u => Sys2Proof.Machine.execCompareEdge u s
  | .dptTacRead lvl => Sys2Proof.Machine.execDptTacRead lvl s
  | .dptTacWrite lvl => Sys2Proof.Machine.execDptTacWrite lvl s
  | .eventRecordWrite => Sys2Proof.Machine.execEventRecordWrite s
  | .claim lvl t g => Sys2Proof.Machine.execClaim lvl t g s
  | .eoi lvl src t => Sys2Proof.Machine.execEoi lvl src t s
  | .claimWindowEnd src => Sys2Proof.Machine.execClaimWindowEnd src s
  | .modTimeExpiry t => Sys2Proof.Machine.execModTimeExpiry t s
  | .eventSend t => Sys2Proof.Machine.execEventSend t s
  | .hold lvl => Sys2Proof.Machine.execHold lvl s
  | .releaseHold lvl => Sys2Proof.Machine.execReleaseHold lvl s
  | .evtSwset lvl idx info => Sys2Proof.Machine.execEvtSwset lvl idx info s
  | .evtTIdle lvl t => Sys2Proof.Machine.execEvtTIdle lvl t s
  | .evtAccRead lvl => Sys2Proof.Machine.execEvtAccRead lvl s
  | .evtAccWrite lvl => Sys2Proof.Machine.execEvtAccWrite lvl s
  | .wakeMatch k => Sys2Proof.Machine.execWakeMatch k s
  | .evtWkStsClear lvl v => Sys2Proof.Machine.execEvtWkStsClear lvl v s
  | .arbitrationPhase k bank req withdrawn => Sys2Proof.Machine.execArbitrationPhase k bank req withdrawn s
  | .arbSlotWrite lvl k j v => Sys2Proof.Machine.execArbSlotWrite lvl k j v s
  | .arbQuotaWrite lvl k v => Sys2Proof.Machine.execArbQuotaWrite lvl k v s
  | .quotaWindowEnd k => Sys2Proof.Machine.execQuotaWindowEnd k s
  | .arbDupClear lvl v => Sys2Proof.Machine.execArbDupClear lvl v s
  | .dramAccessDone addr wr e => Sys2Proof.Machine.execDramAccessDone addr wr e s
  | .correctionWriteback m => Sys2Proof.Machine.execCorrectionWriteback m s
  | .scrubRead m e => Sys2Proof.Machine.execScrubRead m e s
  | .memLogSelWrite lvl v => Sys2Proof.Machine.execMemLogSelWrite lvl v s
  | .memLogRidxWrite lvl v => Sys2Proof.Machine.execMemLogRidxWrite lvl v s
  | .memRetSelWrite lvl v => Sys2Proof.Machine.execMemRetSelWrite lvl v s
  | .remove lvl page => Sys2Proof.Machine.execRemove lvl page s
  | .retireDone => Sys2Proof.Machine.execRetireDone s
  | .memGrowCmdGo lvl c => Sys2Proof.Machine.execMemGrowCmdGo lvl c s
  | .rowRetireDone loss => Sys2Proof.Machine.execRowRetireDone loss s
  | .trackingStep m temp => Sys2Proof.Machine.execTrackingStep m temp s
  | .retrain0 lvl => Sys2Proof.Machine.execRetrain0 lvl s
  | .retrain1 lvl => Sys2Proof.Machine.execRetrain1 lvl s
  | .retrainDone m good => Sys2Proof.Machine.execRetrainDone m good s
  | .faultLatch src info => Sys2Proof.Machine.execFaultLatch src info s
  | .fltForce lvl src => Sys2Proof.Machine.execFltForce lvl src s
  | .fltNmtAck lvl v => Sys2Proof.Machine.execFltNmtAck lvl v s
  | .fltLock lvl v => Sys2Proof.Machine.execFltLock lvl v s
  | .fltStkClear lvl w v => Sys2Proof.Machine.execFltStkClear lvl w v s
  | .fltWdKick lvl n => Sys2Proof.Machine.execFltWdKick lvl n s
  | .watchdogTimeout n => Sys2Proof.Machine.execWatchdogTimeout n s
  | .safestateAssert => Sys2Proof.Machine.execSafestateAssert s
  | .safestateRelease => Sys2Proof.Machine.execSafestateRelease s
  | .vddCorePowerLoss => Sys2Proof.Machine.execVddCorePowerLoss s
  | .porstN straps => Sys2Proof.Machine.execPorstN straps s
  | .sysrstN => Sys2Proof.Machine.execSysrstN s
  | .glbRstCmd lvl key => Sys2Proof.Machine.execGlbRstCmd lvl key s
  | .bootDone => Sys2Proof.Machine.execBootDone s
  | .bootUpdCmdGo lvl slotB recovery => Sys2Proof.Machine.execBootUpdCmdGo lvl slotB recovery s
  | .updateDone flashGood => Sys2Proof.Machine.execUpdateDone flashGood s
  | .program lvl k => Sys2Proof.Machine.execProgram lvl k s
  | .revoke lvl k => Sys2Proof.Machine.execRevoke lvl k s
  | .fuseSecure lvl => Sys2Proof.Machine.execFuseSecure lvl s
  | .standby lvl => Sys2Proof.Machine.execStandby lvl s
  | .off lvl => Sys2Proof.Machine.execOff lvl s
  | .resumeFromStandby => Sys2Proof.Machine.execResumeFromStandby s
  | .supplyValid => Sys2Proof.Machine.execSupplyValid s
  | .supplyTimeout => Sys2Proof.Machine.execSupplyTimeout s
  | .memRetCmdAdd lvl page => Sys2Proof.Machine.execMemRetCmdAdd lvl page s
  | .illegalInstruction t p w => Sys2Proof.Machine.execIllegalInstruction t p w s
  | .instructionFetchFault t word => Sys2Proof.Machine.execInstructionFetchFault t word s
  | .devicePortBusDone o => Sys2Proof.Machine.execDevicePortBusDone o s
  | .storeBufferDrain t m => Sys2Proof.Machine.execStoreBufferDrain t m s
  | .gallerySaveDone cl => Sys2Proof.Machine.execGallerySaveDone cl s
  | .instructionCacheFill cl line => Sys2Proof.Machine.execInstructionCacheFill cl line s
  | .wakeInLevelChange m level => Sys2Proof.Machine.execWakeInLevelChange m level s
  | .plcaBeaconReturn u nodeCnt => Sys2Proof.Machine.execPlcaBeaconReturn u nodeCnt s
  | .slewComplete => Sys2Proof.Machine.execSlewComplete s
  | .referenceClockReturn refB => Sys2Proof.Machine.execReferenceClockReturn refB s

end Sys2Proof.Machine
end

