-- ==== Sys2Proof/Machine/Idle.lean ====
section
/-! DEFINITION. What happens while no command waits. -/
namespace Sys2Proof.Machine

/-- The block idles while no command waits; time passes in the commands that a time brings about (assumption log 2).
DESIGN CHOICE, unsafe (log 2). -/
def idle (s : State) : State := s

end Sys2Proof.Machine
end

