-- ==== Sys2Proof/Machine/Step.lean ====
section
/-! DEFINITION. One step of the block: the command at the front of the queue. -/
namespace Sys2Proof.Machine

/-- The command at the front of the queue runs on the machine with the rest of the queue; with an empty queue the block
idles (assumption log 2).
DESIGN CHOICE, unsafe (log 2), DESIGN CHOICE, unsafe (log 9). -/
def step (s : State) : Host.Outcome State Fault Refusal :=
  match s.pending with
  | [] => .next (idle s)
  | i :: rest => exec i { s with pending := rest }

/-- The state with the command that a word spells at the front of the queue; unchanged when the word spells none.
DESIGN CHOICE, safe (log 1), DESIGN CHOICE, safe (log 11). -/
def State.withFetchWord (s : State) (nbits w : Nat) : State :=
  match decodeTableWord nbits w with
  | some i => { s with pending := i :: s.pending }
  | none => s

end Sys2Proof.Machine
end

