-- ==== Sys2Proof/Machine/Words.lean ====
section
/-! DEFINITION. The instruction that a Clana word spells (R97 to R99): the fields of formats A to E become its operands, OP and the function codes
select it. A command of the Clana rows is what its thread makes of the word at its PC. -/
namespace Sys2Proof.Machine

/-- RD, RA and RB of a word (R97). -/
def wordRd (w : Word) : Reg := w.extractLsb' 22 4
/-- RA -/ def wordRa (w : Word) : Reg := w.extractLsb' 18 4
/-- RB -/ def wordRb (w : Word) : Reg := w.extractLsb' 14 4
/-- SUB of format B. -/ def wordSub (w : Word) : BitVec 2 := w.extractLsb' 16 2
/-- IMM of format B: bits [15:0]. -/ def wordImm (w : Word) : Half := w.extractLsb' 0 16
/-- X of format E. -/ def wordX (w : Word) : Byte := w.extractLsb' 6 8

/-- The ALU register group (R104, R105): FN selects. -/
def aluWord (t : Thread) (p : Pfx) (w : Word) : Option Instr :=
  let n := bit w 13
  let d := wordRd w
  let a := wordRa w
  let b := wordRb w
  match fld w 0 8 with
  | 0 => some (.add t p n d a b) | 1 => some (.sub t p n d a b) | 2 => some (.and t p n d a b) | 3 => some (.or t p n d a b)
  | 4 => some (.xor t p n d a b) | 5 => some (.andn t p n d a b) | 6 => some (.mov t p n d a) | 7 => some (.not t p n d a)
  | 8 => some (.neg t p n d a) | 9 => some (.cmp t p n a b) | 10 => some (.tst t p n a b) | 12 => some (.shl t p n d a b)
  | 13 => some (.shr t p n d a b) | 14 => some (.sar t p n d a b) | 15 => some (.rol t p n d a b) | 16 => some (.ror t p n d a b)
  | 17 => some (.min t p n d a b) | 18 => some (.max t p n d a b) | 19 => some (.minu t p n d a b) | 20 => some (.maxu t p n d a b)
  | 24 => some (.clz t p n d a) | 25 => some (.ctz t p n d a) | 26 => some (.popc t p n d a) | 27 => some (.bswap t p n d a)
  | _ => none
/-- The groups of format E (R97, R99): OP and FN select. -/
def formWord (t : Thread) (p : Pfx) (w : Word) : Option Instr :=
  let d := wordRd w
  let a := wordRa w
  let b := wordRb w
  let x := wordX w
  match fld w 26 6, fld w 0 6 with
  | 0x1C, 0 => some (.br t p a) | 0x1C, 1 => some (.blr t p a) | 0x1C, 2 => some (.ret t p)
  | 0x28, 0 => some (.chain t p a) | 0x28, 1 => some (.sdone t p a) | 0x28, 2 => some (.sfail t p a)
  | 0x2A, 0 => some (.pwr t p x a b) | 0x2A, 1 => some (.prd t p x d a) | 0x2A, 2 => some (.psend t p x a b)
  | 0x2A, 3 => some (.psendAt t p x d a b) | 0x2A, 4 => some (.precv t p x d a b)
  | 0x2B, 0 => some (.waite t p d a b) | 0x2B, 1 => some (.waitt t p a) | 0x2B, 2 => some (.signal t p d a b)
  | 0x2B, 3 => some (.resume t p d a b) | 0x2B, 4 => some (.yield t p) | 0x2B, 5 => some (.susp t p) | 0x2B, 6 => some (.wfi t p)
  | 0x2C, 0 => some (.sys t p x) | 0x2C, 1 => some (.retx t p) | 0x2C, 2 => some (.brk t p x) | 0x2C, 3 => some (.mfs t p d x)
  | 0x2C, 4 => some (.mts t p x a) | 0x2C, 5 => some (.bar t p) | 0x2C, 6 => some (.ibar t p a) | 0x2C, 7 => some (.nop t p)
  | 0x2D, 0 => some (.lck t p d a) | 0x2D, 1 => some (.ulk t p d a)
  | _, _ => none
/-- The instruction of a word whose fields are legal (R97, R99): OP selects the format and the group. -/
def pickWord (t : Thread) (p : Pfx) (w : Word) : Option Instr :=
  let d := wordRd w
  let a := wordRa w
  let b := wordRb w
  let sub := wordSub w
  let imm := wordImm w
  let half := bit w 16
  match fld w 26 6 with
  | 0x01 => aluWord t p w
  | 0x02 => some (.addi t p half d a imm) | 0x03 => some (.cmpi t p half a imm) | 0x04 => some (.andi t p half d a imm)
  | 0x05 => some (.ori t p half d a imm) | 0x06 => some (.xori t p half d a imm) | 0x07 => some (.movi t p d imm)
  | 0x08 => some (.ins t p d sub imm) | 0x09 => some (.shi t p sub (bit w 8) d a (w.extractLsb' 0 8))
  | 0x10 => some (.ld t p sub d a imm) | 0x11 => some (.lds t p sub d a imm) | 0x12 => some (.st t p sub d a imm)
  | 0x14 => some (.ldP t p sub d a imm) | 0x15 => some (.ldsP t p sub d a imm) | 0x16 => some (.stP t p sub d a imm)
  | 0x18 => some (.bc t p d (w.extractLsb' 0 22)) | 0x19 => some (.bl t p (w.extractLsb' 0 26)) | 0x1A => some (.b t p (w.extractLsb' 0 26))
  | 0x1B => some (if half then .cbnz t p a imm else .cbz t p a imm)
  | 0x20 => match fld w 0 8 with
    | 0 => some (.mul t p a b) | 1 => some (.mulu t p a b) | 2 => some (.div t p a b) | 3 => some (.divu t p a b) | _ => none
  | 0x29 => some (.move t p (bit w 0) (bit w 1) (bit w 2) (w.extractLsb' 3 3) d a b)
  | _ => formWord t p w
/-- The instruction that a thread decodes from a word (R97 to R99); step tells whether a step is in progress. None is the illegal instruction: a
reserved value, a reserved bit that is set, or a group that the thread lacks. -/
def clanaDecode (t : Thread) (p : Pfx) (step : Bool) (w : Word) : Option Instr :=
  if (wordOk (isMp t) step w).isSome then pickWord t p w else none
/-- The prefixes at the front of a unit and its instruction word (R100, R101): REP, then EXT, each at most once; none for words that are no unit. -/
def unitWords : List Word → Option (Pfx × Word)
  | [] => none
  | w :: ws =>
    if w = 0xFC00_0000#32 then
      (match ws with
        | v :: [u] => if fld v 16 16 = 0xF800 then some ({ rep := true, ext := some (v.extractLsb' 0 16) }, u) else none
        | [u] => some ({ rep := true, ext := none }, u)
        | _ => none)
    else if fld w 16 16 = 0xF800 then (match ws with | [u] => some ({ rep := false, ext := some (w.extractLsb' 0 16) }, u) | _ => none)
    else match ws with | [] => some ({ rep := false, ext := none }, w) | _ => none

end Sys2Proof.Machine
end

