-- ==== Sys2Proof/Safety.lean ====
section
/-! DEFINITION. What claims about runs are stated in: completion, what a frame keeps, when a thread issues an instruction and what it leaves, the
flags of SR, and the F4 latch. -/
namespace Sys2Proof.Machine

/-- A command completes in a state: it answers a next state, and P holds of it. -/
def Answers (c : Instr) (s : State) (P : State → Prop) : Prop := ∃ t, exec c s = .next t ∧ P t
/-- Memory keeps its canonical form (Sparse): rising addresses, and no byte that equals what an unlisted address reads as. -/
abbrev MemCanonical (s : State) : Prop := memWf s = true
/-- Every byte of memory of t reads as in s. -/
def SameMemory (s t : State) : Prop := ∀ k, memGet t k = memGet s k
/-- Every byte of memory of t outside n bytes from key a reads as in s. -/
def SameMemoryBut (s t : State) (a n : Nat) : Prop := ∀ k, ¬(a ≤ k ∧ k < a + n) → memGet t k = memGet s k
/-- The F4 latch is set (R464). -/
abbrev F4Latched (s : State) : Prop := s.flt.f4 = true

/-! Threads. -/
/-- A thread issues the unit at its PC with prefixes p, on registers regs: it can issue, its words are fetched without an interrupt of the watch,
no outstanding load writes regs, and a REP has iterations left (R101, R112, R141, R146). -/
def Ready (s : State) (t : Thread) (p : Pfx) (regs : List Reg) : Prop :=
  canIssue s t = true ∧ fetchOk s t (pfxSize p) = true ∧ watchOn s t 21 (regsOf s t).pc.toNat (pfxSize p) = s ∧
    (∀ l ∈ (thrOf s t).loads, l.1 ∉ regs) ∧ (p.rep = true → (regsOf s t).rc ≠ 0)
/-- The bytes of a unit: a word for the instruction and one for each prefix (R100, R101). -/
def unitBytes (p : Pfx) : DWord := (if p.rep then 4 else 0) + (if p.ext.isSome then 4 else 0) + 4
/-- The register set after a unit that does not jump: PC moves past it; under REP, RC counts down and PC moves when RC reaches 0 (R101). -/
def pastUnit (p : Pfx) (r : Regs) : Regs :=
  if p.rep then { r with rc := r.rc - 1, pc := if r.rc = 1 then r.pc + unitBytes p else r.pc } else { r with pc := r.pc + unitBytes p }
/-- What the device keeps for a thread after such a unit. -/
def afterUnit (p : Pfx) (r : Regs) (x : Thr) : Thr := if p.rep then { x with inRep := decide (r.rc ≠ 1) } else x
/-- The registers and what the device keeps of every thread but t are the same. -/
def OtherThreads (s u : State) (t : Thread) : Prop := ∀ v, v ≠ t → regsOf u v = regsOf s v ∧ thrOf u v = thrOf s v
/-- u with the register sets, the records and what the device keeps for threads as in s. -/
def threadsBack (s u : State) : State :=
  { u with eng := { u.eng with slots := s.eng.slots, thr := s.eng.thr }, gal := { u.gal with recs := s.gal.recs } }
/-- Nothing has changed but the register set of thread t and what the device keeps for it: memory, every other thread and the rest of the device
are the same. -/
def OnlyThread (s u : State) (t : Thread) : Prop := OtherThreads s u t ∧ threadsBack s u = s
/-- A command leaves thread t with registers r and x beside them, and changes nothing else. -/
def Leaves (c : Instr) (s : State) (t : Thread) (r : Regs) (x : Thr) : Prop :=
  Answers c s fun u => regsOf u t = r ∧ thrOf u t = x ∧ OnlyThread s u t
/-- An instruction of thread t gives it the registers r, moves PC past its unit, and changes nothing else. -/
def Gives (c : Instr) (s : State) (t : Thread) (p : Pfx) (r : Regs) : Prop :=
  Leaves c s t (pastUnit p r) (afterUnit p r (thrOf s t))

/-! Flags (R91, R105). -/
/-- SR with N and Z of a result. -/
def srNZ (sr : Word) (x : DWord) : Word := (sr &&& ~~~0x3#32) ||| (if x.msb then 1 else 0) ||| (if x = 0 then 2 else 0)
/-- SR with C. -/
def srC (sr : Word) (c : Bool) : Word := (sr &&& ~~~0x4#32) ||| (if c then 4 else 0)
/-- SR with V. -/
def srV (sr : Word) (v : Bool) : Word := (sr &&& ~~~0x8#32) ||| (if v then 8 else 0)
/-- SR with the Z flag. -/
def srZ (sr : Word) (z : Bool) : Word := (sr &&& ~~~0x2#32) ||| (if z then 2 else 0)
/-- A result of a form on two operands: the operation on 64 bits, or for a W form on the low 32 bits, sign-extended. -/
def formed (w : Bool) (f : (n : Nat) → BitVec n → BitVec n → BitVec n) (a b : DWord) : DWord :=
  if w then (f 32 (a.setWidth 32) (b.setWidth 32)).signExtend 64 else f 64 a b
/-- A test of a form on two operands. -/
def tested (w : Bool) (f : (n : Nat) → BitVec n → BitVec n → Bool) (a b : DWord) : Bool :=
  if w then f 32 (a.setWidth 32) (b.setWidth 32) else f 64 a b
/-- The register set with a result in gd and the flags N, Z, C and V. -/
def withNZCV (r : Regs) (gd : Reg) (x : DWord) (c v : Bool) : Regs := { r.setG gd x with sr := srV (srC (srNZ r.sr x) c) v }
/-- The register set with a result in gd and the flags N and Z. -/
def withNZ (r : Regs) (gd : Reg) (x : DWord) : Regs := { r.setG gd x with sr := srNZ r.sr x }

/-! Exceptions (R91, R93, R138, R147). -/
/-- The level of an exception entry: the ceiling of a context, P2 on a processor. -/
def entryLvl (r : Regs) : Thread → Lvl
  | .ctx _ => if r.ceil = 0 then 0 else 1
  | .mp _ => 2
/-- The vector offset of a cause (R138). -/
def vectorAt (cause : Nat) : DWord := if cause = 8 then 0x40 else if cause = 9 then 0x80 else if 16 ≤ cause then 0xC0 else 0
/-- The register set after an exception entry (R147): EPC, ESR, ECAUSE with its PREFIX and INREP bits, EVAL, SR with PL the level of the entry, EM
set and RSM clear, PC at the vector; every other register as it was. -/
def entered (r : Regs) (lvl : Lvl) (cause : Nat) (eval : DWord) (pfx inrep : Bool) : Regs :=
  { r with
    epc := r.pc
    esr := r.sr
    ecause := BitVec.ofNat 16 cause ||| (if pfx then 0x100 else 0) ||| (if inrep then 0x200 else 0)
    eval := eval
    sr := (r.sr &&& ~~~0xF00#32) ||| (lvl.setWidth 32 <<< 8) ||| 0x400
    pc := r.exv + vectorAt cause }
/-- A thread can take an exception: EM is clear and EXV is set (R148, R149, R158). -/
def CanEnter (s : State) (t : Thread) : Prop := (regsOf s t).sr.getLsbD 10 = false ∧ (regsOf s t).exv ≠ 0
/-- An instruction raises an exception with this cause and EVAL, entered by the registers of s, and changes nothing else. -/
def Raises (c : Instr) (s : State) (t : Thread) (p : Pfx) (cause : Nat) (eval : DWord) : Prop :=
  Leaves c s t (entered (regsOf s t) (entryLvl (regsOf s t) t) cause eval (p.rep || p.ext.isSome) false) { thrOf s t with inRep := false }

/-! Loads, stores and branches. -/
/-- The watch does not select an access of thread t: reads are kind 19, writes kind 20 (R146). -/
def Unwatched (s : State) (t : Thread) (kind a n : Nat) : Prop := ∀ c, t = .ctx c → watchHit s c kind a n = false
/-- No byte of n at an address holds an uncorrectable error (R440). -/
def NoUpset (s : State) (ag : Agent) (a n : Nat) : Prop := ∀ i, i < n → ∀ kd k, locate s ag (a + i) = some (kd, k) → isUpset s k = false
/-- The n bytes of a value, least significant first. -/
def lowBytes (n : Nat) (v : DWord) : List Byte := (List.range n).map fun i => (v >>> (8 * i)).setWidth 8
/-- The value of loaded bytes, with the bits above them 0 or the sign (R111). -/
def loadedAs (sgn : Bool) (bs : List Byte) (v : DWord) : Prop :=
  (∀ i, i < 8 * bs.length → v.getLsbD i = (bs.getD (i / 8) 0).getLsbD (i % 8)) ∧
    ∀ i, 8 * bs.length ≤ i → i < 64 → v.getLsbD i = (sgn && v.getLsbD (8 * bs.length - 1))
/-- Whether a branch condition holds (R108): EQ, NE, LO, HS, MI, PL, VS, VC, HI, LS, LT, GE, GT, LE, AL. -/
def condition (cond : BitVec 4) (sr : Word) : Bool :=
  let n := sr.getLsbD 0
  let z := sr.getLsbD 1
  let c := sr.getLsbD 2
  let v := sr.getLsbD 3
  [z, !z, c, !c, n, !n, v, !v, !c && !z, c || z, n != v, n == v, !z && n == v, z || n != v, true].getD cond.toNat false
/-- A value that a branch to a register takes as a return token (R75, R164): the step return token while a step is in progress, the interrupt return
token while a handler runs. -/
def Token (s : State) (t : Thread) (v : DWord) : Prop :=
  match t with
  | .ctx _ => v = 0xFFFFFFFFFFFFFFFC#64 ∧ (regsOf s t).stpa ≠ 0
  | .mp n => v = 0xFFFFFFFFFFFFFFF8#64 ∧ (mpOf s n).depth ≠ 0
/-- RSP with its pointer moved by d and its depth set (R95). -/
def moved (v : DWord) (d : BitVec 40) (depth : BitVec 12) : DWord :=
  depth ++ v.extractLsb' 40 12 ++ ((v.extractLsb' 0 40 &&& ~~~0x7#40) + d)

/-! Contexts, steps and events. -/
/-- The live control word of every context but c is the same. -/
def OtherLive (s u : State) (c : CtxId) : Prop := ∀ d, d ≠ c → liveOf u d = liveOf s d
/-- The step engine can act for a context on a step in progress whose ACT is a (R32, R177). -/
def AtStep (s : State) (c : CtxId) (a : Byte) : Prop :=
  engineOn s c = true ∧ (thrOf s (.ctx c)).phase = .step ∧ (thrOf s (.ctx c)).cur.lo.extractLsb' 0 8 = a ∧ (thrOf s (.ctx c)).wqMove = none
/-- The step in progress has NEXT and neither CONT, NOTE nor FENCE (R34, R48). -/
def HasNextOnly (x : Thr) : Prop :=
  x.cur.lo.getLsbD 8 = false ∧ x.cur.lo.getLsbD 9 = true ∧ x.cur.lo.getLsbD 12 = false ∧ x.cur.lo.getLsbD 13 = false
/-- What the device keeps for a context whose chain goes on with the next step. -/
def onward (x : Thr) : Thr := { x with phase := .fetch, run := none, skip := false, wait := none }
/-- A source of the event controller after a firing (R406). -/
def firedSrc (x : EvSrc) (enabled : Bool) (info : Word) (now : DWord) : EvSrc :=
  match x.st with
  | .inactive => if enabled then { x with st := .pending, queued := false, info := info, time := now, more := false } else x
  | .active => { x with st := .activePending, info := info, time := now, more := false }
  | _ => { x with more := true }
/-- Source n of the event controller has fired with its information, and no other has changed. -/
def Fired (s u : State) (n : Nat) (info : Word) : Prop :=
  evSrc u n = firedSrc (evSrc s n) ((tabA s .evt n 0).getLsbD 11) info s.time.now ∧ ∀ m, m ≠ n → evSrc u m = evSrc s m
/-- A context is READY, or RESIDENT when it keeps a pinned slot, and waits for nothing (R177, R187). -/
def Awake (s u : State) (c : CtxId) : Prop :=
  stOf u c = (if inSlot s c then .resident else .ready) ∧ (liveOf u c).waitk = 0 ∧ (thrOf u (.ctx c)).wait = none
/-- A context waits with a WAITK and what it waits for (R43, R127, R177). -/
def WaitsFor (u : State) (c : CtxId) (k : BitVec 4) (w : Wait) : Prop :=
  stOf u c = .waiting ∧ (liveOf u c).waitk = k ∧ (thrOf u (.ctx c)).wait = some w
/-- The channel of owner key k has been requested with what x says (R205, R206). -/
def Requested (u : State) (k : Nat) (x : Xfer) : Prop :=
  ∃ y, chanOf u k = some y ∧ { y with granted := x.granted, since := x.since, age := x.age, running := x.running } = x
/-- A level reaches a register family (R134): P2 every one, P1 those for which lo is 1; level 0b11 is reserved. -/
def Reaches (lvl : Lvl) (lo : Nat) : Prop := lo ≤ lvl.toNat ∧ lvl.toNat ≤ 2
/-- u with the IM operand registers and counters as in s. -/
def ImBack (s u : State) : State := { u with reg := { u.reg with im := s.reg.im } }
/-- Every IM register but the one at an address is the same. -/
def OtherIm (s u : State) (a : Nat) : Prop := ∀ b, b ≠ a → imr u b = imr s b
/-- A held lock cell that is broken (R200): free, with BROKEN. -/
def lockBroken (w : Word) : Word := (w &&& ~~~0x80000#32) ||| 0x100000
/-- The one message in the receive buffer of session k is m, in a form that the session carries, and it may be acted on (R286, R297, R300). -/
def Heads (s : State) (k : Nat) (m : RxMsg) : Prop := (sessOf s k).rxq = [m] ∧ badReason s k m = none ∧ sctWriting s k = false
/-- Session k is OPEN, with room in its window and nothing that waits (R299). -/
def CanSend (s : State) (k : Nat) : Prop :=
  (sessOf s k).st = .opened ∧ (sessOf s k).waitq = [] ∧ (sessOf s k).unacked.length < (sessOf s k).win.toNat
/-- One message of a type has been sent on session k, with the next SEQ and R-TAG number, and stays until it is acknowledged (R297, R299, R316). -/
def Sent (s u : State) (k : Nat) (typ : Byte) (body : List Byte) : Prop :=
  u.sct.rtag = s.sct.rtag + 1 ∧ (sessOf u k).next = (sessOf s k).next + 1 ∧
    ∃ m, (sessOf u k).unacked = (sessOf s k).unacked ++ [m] ∧ m.typ = typ ∧ m.body = body ∧ m.seq = (sessOf s k).next
/-- No command has asked for a reset or a power state that has not yet taken place (R474, R493): what one asks for takes place with it. -/
def Settled (s : State) : Prop := s.flt.rstPend = none ∧ s.boot.rstCmd = false ∧ s.boot.pwrCmd = 0
/-- Every device port unit but unit k is the same. -/
def OtherUnits (s u : State) (k : Nat) : Prop := ∀ j, j ≠ k → unitOf u j = unitOf s j
/-- Nothing has changed but device port unit k, the counters and operand registers, and the event sources. -/
def OnlyUnit (s u : State) (k : Nat) : Prop :=
  OtherUnits s u k ∧ { u with dpt := s.dpt, evt := { u.evt with src := s.evt.src }, reg := { u.reg with im := s.reg.im } } = s
/-- The signal of the event source of unit k follows ATTN while EVEN = 1, and no other source has changed (R378). -/
def Signals (s u : State) (k : Nat) : Prop :=
  (evSrc u (0x400 + k)).level = ((unitOf u k).attn && (act s (aUnit k 0)).getLsbD 2) ∧ ∀ m, m ≠ 0x400 + k → evSrc u m = evSrc s m
/-- No context waits for unit k: neither for its data, nor for room in its buffer, nor for the launch of a record (R376, R377). -/
def NoWaiters (s : State) (k : Nat) : Prop := rxWaiters s k = [] ∧ txWaiters s k = [] ∧ ∀ r ∈ (unitOf s k).tx, r.waiter = none
/-- What the F4 latch stops is as it was (R464): memory, the settings and tables, and every block outside SAFE and AON. -/
def Frozen (s u : State) : Prop :=
  u.mem = s.mem ∧ u.reg.act = s.reg.act ∧ u.reg.stg = s.reg.stg ∧ u.reg.tabA = s.reg.tabA ∧ u.reg.tabS = s.reg.tabS ∧ u.gal = s.gal ∧ u.eng = s.eng ∧ u.mov = s.mov ∧
    u.wq = s.wq ∧ u.lnd = s.lnd ∧ u.sct = s.sct ∧ u.ring = s.ring ∧ u.rm = s.rm ∧ u.dpt = s.dpt ∧ u.arb = s.arb ∧ u.memc = s.memc
/-- n steps: the first that stops ends the run. -/
def steps : Nat → State → Host.Outcome State Fault Refusal
  | 0, s => .next s
  | n + 1, s => match step s with | .next u => steps n u | o => o

end Sys2Proof.Machine
end

