-- ==== Sys2Proof/Certificates/Slice0/Obligations.lean ====
section
/-! DEFINITION. What is claimed of the TMC-2840: statements for the provers, family by family. -/
open Sys2Proof Sys2Proof.Machine

/-- Addition and subtraction (R104, R105, R106): the result in gd, N and Z from it, C the carry or borrow, V the signed overflow, on 64 bits or on the
low 32 bits; CMP and CMPI write the flags alone. -/
def Obligations.AdditionAndSubtractionSetEveryFlag : Prop :=
  ∀ (s : State) (t : Thread) (p : Pfx) (w : Bool) (gd ga gb : Reg) (imm : Half),
    let r := regsOf s t
    let a := r.gr ga
    let b := r.gr gb
    let i := immS p imm
    let sum := fun x y => formed w (fun _ x y => x + y) x y
    let dif := fun x y => formed w (fun _ x y => x - y) x y
    let carry := fun x y => tested w (fun _ x y => BitVec.uaddOverflow x y) x y
    let addV := fun x y => tested w (fun _ x y => BitVec.saddOverflow x y) x y
    let borrow := fun x y => tested w (fun _ x y => BitVec.usubOverflow x y) x y
    let subV := fun x y => tested w (fun _ x y => BitVec.ssubOverflow x y) x y
    (Ready s t p [gd, ga, gb] → p.ext = none →
      Gives (.add t p w gd ga gb) s t p (withNZCV r gd (sum a b) (carry a b) (addV a b)) ∧
      Gives (.sub t p w gd ga gb) s t p (withNZCV r gd (dif a b) (borrow a b) (subV a b))) ∧
    (Ready s t p [gd, ga] → p.ext = none →
      Gives (.neg t p w gd ga) s t p (withNZCV r gd (dif 0 a) (borrow 0 a) (subV 0 a))) ∧
    (Ready s t p [ga, gb] → p.ext = none →
      Gives (.cmp t p w ga gb) s t p { r with sr := srV (srC (srNZ r.sr (dif a b)) (borrow a b)) (subV a b) }) ∧
    (Ready s t p [gd, ga] →
      Gives (.addi t p w gd ga imm) s t p (withNZCV r gd (sum a i) (carry a i) (addV a i))) ∧
    (Ready s t p [ga] →
      Gives (.cmpi t p w ga imm) s t p { r with sr := srV (srC (srNZ r.sr (dif a i)) (borrow a i)) (subV a i) })

/-- The operations on bits (R104, R105, R106): the result in gd, N and Z from it, C and V unchanged; TST writes the flags alone. -/
def Obligations.BitOperationsSetNAndZ : Prop :=
  ∀ (s : State) (t : Thread) (p : Pfx) (w : Bool) (gd ga gb : Reg) (imm : Half),
    let r := regsOf s t
    let a := r.gr ga
    let b := r.gr gb
    let i := immU p imm
    let conj := fun x y => formed w (fun _ x y => x &&& y) x y
    let disj := fun x y => formed w (fun _ x y => x ||| y) x y
    let excl := fun x y => formed w (fun _ x y => x ^^^ y) x y
    (Ready s t p [gd, ga, gb] → p.ext = none →
      Gives (.and t p w gd ga gb) s t p (withNZ r gd (conj a b)) ∧
      Gives (.or t p w gd ga gb) s t p (withNZ r gd (disj a b)) ∧
      Gives (.xor t p w gd ga gb) s t p (withNZ r gd (excl a b)) ∧
      Gives (.andn t p w gd ga gb) s t p (withNZ r gd (formed w (fun _ x y => x &&& ~~~y) a b))) ∧
    (Ready s t p [gd, ga] → p.ext = none →
      Gives (.not t p w gd ga) s t p (withNZ r gd (formed w (fun _ x _ => ~~~x) a 0))) ∧
    (Ready s t p [ga, gb] → p.ext = none →
      Gives (.tst t p w ga gb) s t p { r with sr := srNZ r.sr (conj a b) }) ∧
    (Ready s t p [gd, ga] →
      Gives (.andi t p w gd ga imm) s t p (withNZ r gd (conj a i)) ∧
      Gives (.ori t p w gd ga imm) s t p (withNZ r gd (disj a i)) ∧
      Gives (.xori t p w gd ga imm) s t p (withNZ r gd (excl a i)))

/-- Shifts and rotates (R106, R107): the count is the low 8 bits of gb, or the count of SHI; a count of 0 leaves C, a rotate leaves it always; past
the width a shift gives 0 or the sign. -/
def Obligations.ShiftsFollowTheirCount : Prop :=
  ∀ (s : State) (t : Thread) (p : Pfx) (w : Bool) (gd ga gb : Reg) (n : Byte),
    let r := regsOf s t
    let a := r.gr ga
    let shl := fun (c : Nat) => formed w (fun _ x _ => x <<< c) a 0
    let shr := fun (c : Nat) => formed w (fun _ x _ => x >>> c) a 0
    let sar := fun (c : Nat) => formed w (fun _ x _ => x.sshiftRight c) a 0
    let rol := fun (c : Nat) => formed w (fun _ x _ => x.rotateLeft c) a 0
    let ror := fun (c : Nat) => formed w (fun _ x _ => x.rotateRight c) a 0
    let shlC := fun (c : Nat) => tested w (fun m x _ => decide (c ≤ m) && x.getLsbD (m - c)) a 0
    let shrC := fun (c : Nat) => tested w (fun _ x _ => x.getLsbD (c - 1)) a 0
    let sarC := fun (c : Nat) => tested w (fun m x _ => if c < m then x.getLsbD (c - 1) else x.msb) a 0
    let put := fun (c : Nat) (x : DWord) (k : Bool) => { r.setG gd x with sr := if c = 0 then srNZ r.sr x else srC (srNZ r.sr x) k }
    let k := ((r.gr gb).setWidth 8).toNat
    (Ready s t p [gd, ga, gb] → p.ext = none →
      Gives (.shl t p w gd ga gb) s t p (put k (shl k) (shlC k)) ∧
      Gives (.shr t p w gd ga gb) s t p (put k (shr k) (shrC k)) ∧
      Gives (.sar t p w gd ga gb) s t p (put k (sar k) (sarC k)) ∧
      Gives (.rol t p w gd ga gb) s t p (withNZ r gd (rol k)) ∧
      Gives (.ror t p w gd ga gb) s t p (withNZ r gd (ror k))) ∧
    (Ready s t p [gd, ga] → p.ext = none →
      Gives (.shi t p 0 w gd ga n) s t p (put n.toNat (shl n.toNat) (shlC n.toNat)) ∧
      Gives (.shi t p 1 w gd ga n) s t p (put n.toNat (shr n.toNat) (shrC n.toNat)) ∧
      Gives (.shi t p 2 w gd ga n) s t p (put n.toNat (sar n.toNat) (sarC n.toNat)) ∧
      Gives (.shi t p 3 w gd ga n) s t p (withNZ r gd (ror n.toNat)))

/-- The selections, moves and counts (R104, R105, R106): the result in gd and no flag changed. -/
def Obligations.SelectionsAndMovesLeaveTheFlags : Prop :=
  ∀ (s : State) (t : Thread) (p : Pfx) (w : Bool) (gd ga gb : Reg) (h : BitVec 2) (imm : Half),
    let r := regsOf s t
    let a := r.gr ga
    let b := r.gr gb
    let n := if w then 32 else 64
    (Ready s t p [gd, ga, gb] → p.ext = none →
      Gives (.min t p w gd ga gb) s t p (r.setG gd (formed w (fun _ x y => if x.sle y then x else y) a b)) ∧
      Gives (.max t p w gd ga gb) s t p (r.setG gd (formed w (fun _ x y => if x.sle y then y else x) a b)) ∧
      Gives (.minu t p w gd ga gb) s t p (r.setG gd (formed w (fun _ x y => if x.ule y then x else y) a b)) ∧
      Gives (.maxu t p w gd ga gb) s t p (r.setG gd (formed w (fun _ x y => if x.ule y then y else x) a b))) ∧
    (Ready s t p [gd, ga] → p.ext = none →
      Gives (.mov t p w gd ga) s t p (r.setG gd (formed w (fun _ x _ => x) a 0)) ∧
      (∃ k, k ≤ n ∧ (∀ i, i < k → a.getLsbD (n - 1 - i) = false) ∧ (k < n → a.getLsbD (n - 1 - k) = true) ∧
        Gives (.clz t p w gd ga) s t p (r.setG gd (BitVec.ofNat 64 k))) ∧
      (∃ k, k ≤ n ∧ (∀ i, i < k → a.getLsbD i = false) ∧ (k < n → a.getLsbD k = true) ∧
        Gives (.ctz t p w gd ga) s t p (r.setG gd (BitVec.ofNat 64 k))) ∧
      Gives (.popc t p w gd ga) s t p (r.setG gd (BitVec.ofNat 64 ((List.range n).countP fun i => a.getLsbD i))) ∧
      (∃ x : DWord, (∀ i, i < n → x.getLsbD i = a.getLsbD (n - 8 - i / 8 * 8 + i % 8)) ∧
        (∀ i, n ≤ i → i < 64 → x.getLsbD i = x.getLsbD (n - 1)) ∧ Gives (.bswap t p w gd ga) s t p (r.setG gd x))) ∧
    (Ready s t p [gd] → Gives (.movi t p gd imm) s t p (r.setG gd (immS p imm))) ∧
    (Ready s t p [gd] → p.ext = none →
      Gives (.ins t p gd h imm) s t p
        (r.setG gd ((r.gr gd &&& ~~~(0xFFFF#64 <<< (16 * h.toNat))) ||| (imm.setWidth 64 <<< (16 * h.toNat)))))

/-- The multiplier and divider (R110, R117 to R119, R160): MUL and MULU leave the flags and the product outstanding; a division writes V and sets DZ when it issues
and leaves quotient and remainder outstanding; a division by zero with DZT = 1 raises its exception with the dividend, DZ set and V cleared.
The result arrives in ML and MH; one outstanding at an interrupt entry goes to the frame instead. -/
def Obligations.MultiplyAndDivideIssue : Prop :=
  (∀ (s : State) (t : Thread) (p : Pfx) (ga gb : Reg), Ready s t p [ga, gb] → p.ext = none →
      let r := regsOf s t
      let a := r.gr ga
      let b := r.gr gb
      let x := thrOf s t
      let edge := decide (a = 0x8000000000000000#64 ∧ b = BitVec.allOnes 64)
      let rz : Regs := { r with sr := srV (r.sr ||| 0x10#32) false }
      let put := fun c (r1 : Regs) (lo hi : DWord) => Leaves c s t (pastUnit p r1) (afterUnit p r1 { x with md := some (lo, hi) })
      put (.mul t p ga gb) r (a * b) ((a.signExtend 128 * b.signExtend 128).extractLsb' 64 64) ∧
      put (.mulu t p ga gb) r (a * b) ((a.setWidth 128 * b.setWidth 128).extractLsb' 64 64) ∧
      (b ≠ 0 → put (.div t p ga gb) { r with sr := srV r.sr edge } (a.sdiv b) (a.srem b)) ∧
      (b ≠ 0 → put (.divu t p ga gb) { r with sr := srV r.sr false } (a / b) (a % b)) ∧
      (b = 0 → r.sr.getLsbD 5 = false →
        put (.div t p ga gb) rz (BitVec.allOnes 64) a ∧ put (.divu t p ga gb) rz (BitVec.allOnes 64) a) ∧
      (b = 0 → r.sr.getLsbD 5 = true → r.sr.getLsbD 10 = false → r.exv ≠ 0 →
        let e : Regs := enterRegs rz (match t with | .ctx _ => ceilOf r | .mp _ => 2) 5 a p.rep false
        Leaves (.div t p ga gb) s t e { x with inRep := false } ∧ Leaves (.divu t p ga gb) s t e { x with inRep := false })) ∧
  (∀ (s : State) (t : Thread) (n : BitVec 2) (lo hi : DWord) (a : Nat), clocksOn s = true →
      ((thrOf s t).md = some (lo, hi) → (thrOf s t).mdFrame = [] →
        Leaves (.muldivResult t) s t { regsOf s t with ml := lo, mh := hi } { thrOf s t with md := none }) ∧
      (∀ more, t = .mp n → (thrOf s t).mdFrame = (lo, hi, a) :: more → a + 16 ≤ 0x40000 →
        Answers (.muldivResult t) s fun u => (thrOf u t).mdFrame = more ∧ (∀ i, i < 8 → memGet u (tcmKey n (a + i)) = (lo >>> (8 * i)).setWidth 8) ∧
          (∀ i, i < 8 → memGet u (tcmKey n (a + 8 + i)) = (hi >>> (8 * i)).setWidth 8) ∧ SameMemoryBut s u (tcmKey n a) 16 ∧ regsOf u t = regsOf s t))

/-- Loads (R111, R112): an aligned load of memory reads its bytes with the thread's own waiting stores in place and leaves them outstanding for gd;
a .P form adds the immediate to ga; the arrival writes gd. A load of DRAM waits while its interface is retrained (R453). -/
def Obligations.LoadsReadMemoryAndArrive : Prop :=
  (∀ (s : State) (t : Thread) (p : Pfx) (sz : BitVec 2) (gd ga : Reg) (imm : Half) (post sgn : Bool) (bs : List Byte),
    let r := regsOf s t
    let x := thrOf s t
    let n := 2 ^ sz.toNat
    let a := if post then r.gr ga else r.gr ga + immS p imm
    let c : Instr := if post then (if sgn then .ldsP t p sz gd ga imm else .ldP t p sz gd ga imm)
      else (if sgn then .lds t p sz gd ga imm else .ld t p sz gd ga imm)
    Ready s t p [gd, ga] → (sgn = true → sz ≠ 3) → (post = true → gd ≠ ga) → a.toNat % n = 0 → 0x110000 ≤ a.toNat →
    bs.length = n → (∀ i, i < n → ∃ k, rdKey s (thrAgent s t) (a.toNat + i) = some k ∧
      bs.getD i 0 = (sbByte x.sb (physAddr (thrAgent s t) a.toNat + i)).getD (memGet s k)) →
    Unwatched s t 19 a.toNat n → stalledIn s (thrAgent s t) a.toNat n = false →
    let r1 := if post then r.setG ga (r.gr ga + immS p imm) else r
    ∃ v, loadedAs sgn bs v ∧ Leaves c s t (pastUnit p r1) (afterUnit p r1 { x with loads := x.loads ++ [(gd, v)] })) ∧
  (∀ (s : State) (t : Thread) (p : Pfx) (sz : BitVec 2) (gd ga : Reg) (imm : Half), Ready s t p [gd, ga] →
    let a := (regsOf s t).gr ga + immS p imm
    a.toNat % 2 ^ sz.toNat = 0 → stalledIn s (thrAgent s t) a.toNat (2 ^ sz.toNat) = true →
    exec (.ld t p sz gd ga imm) s = .next s ∧ (sz ≠ 3 → exec (.lds t p sz gd ga imm) s = .next s)) ∧
  (∀ (s : State) (t : Thread) (gd : Reg) (v : DWord), clocksOn s = true → (thrOf s t).loads.find? (fun l => l.1 = gd) = some (gd, v) →
    Leaves (.loadDataArrival t gd) s t ((regsOf s t).setG gd v)
      { thrOf s t with loads := (thrOf s t).loads.filter fun l => l.1 ≠ gd })

/-- Stores (R111, R112): an aligned store that its level may make enters the thread's store buffer of 8 entries with the low bytes of gd, by the address
of the scratch where the address lies in the alias; memory is unchanged until the buffer drains; ST.P adds the immediate to ga. -/
def Obligations.StoresEnterTheStoreBuffer : Prop :=
  ∀ (s : State) (t : Thread) (p : Pfx) (sz : BitVec 2) (gd ga : Reg) (imm : Half) (post : Bool),
    let r := regsOf s t
    let x := thrOf s t
    let n := 2 ^ sz.toNat
    let a := if post then r.gr ga else r.gr ga + immS p imm
    let c : Instr := if post then .stP t p sz gd ga imm else .st t p sz gd ga imm
    Ready s t p [gd, ga] → a.toNat % n = 0 → storeMay s (thrAgent s t) (thrLvl s t) a.toNat n = true → x.sb.length < 8 →
    Unwatched s t 20 a.toNat n →
    let r1 := if post then r.setG ga (r.gr ga + immS p imm) else r
    let e : SbEntry := { addr := BitVec.ofNat 64 (physAddr (thrAgent s t) a.toNat), bytes := lowBytes n (r.gr gd), lvl := thrLvl s t }
    Leaves c s t (pastUnit p r1) (afterUnit p r1 { x with sb := x.sb ++ [e] })

/-- A misaligned load or store raises the alignment exception with its address, and one that meets a bus error the bus-error exception; ga is
unchanged (R112, R131); a load that meets an uncorrectable error on the chip raises MEM_UE too (R440). -/
def Obligations.FaultingLoadsAndStoresRaise : Prop :=
  ∀ (s : State) (t : Thread) (p : Pfx) (sz : BitVec 2) (gd ga : Reg) (imm : Half), Ready s t p [gd, ga] → CanEnter s t →
    let r := regsOf s t
    let a := r.gr ga + immS p imm
    let q := r.gr ga
    let n := 2 ^ sz.toNat
    (a.toNat % n ≠ 0 →
      Raises (.ld t p sz gd ga imm) s t p 3 a ∧ Raises (.st t p sz gd ga imm) s t p 3 a ∧ (sz ≠ 3 → Raises (.lds t p sz gd ga imm) s t p 3 a)) ∧
    (q.toNat % n ≠ 0 →
      Raises (.stP t p sz gd ga imm) s t p 3 q ∧ (gd ≠ ga → Raises (.ldP t p sz gd ga imm) s t p 3 q) ∧
      (gd ≠ ga → sz ≠ 3 → Raises (.ldsP t p sz gd ga imm) s t p 3 q)) ∧
    (a.toNat % n = 0 → storeMay s (thrAgent s t) (thrLvl s t) a.toNat n = false → Raises (.st t p sz gd ga imm) s t p 4 a) ∧
    (a.toNat % n = 0 → 0x110000 ≤ a.toNat → (∃ i, i < n ∧ rdKey s (thrAgent s t) (a.toNat + i) = none) →
      stalledIn s (thrAgent s t) a.toNat n = false →
      (NoUpset s (thrAgent s t) a.toNat n → Raises (.ld t p sz gd ga imm) s t p 4 a) ∧
      Answers (.ld t p sz gd ga imm) s fun u =>
        regsOf u t = entered r (entryLvl r t) 4 a (p.rep || p.ext.isSome) false ∧ OtherThreads s u t ∧ SameMemory s u) ∧
    (∀ kd k, a.toNat % n = 0 → locate s (thrAgent s t) a.toNat = some (kd, k) → kd = .sram ∨ kd = .scratch ∨ kd = .tcm → isUpset s k = true →
      Answers (.ld t p sz gd ga imm) s fun u => regsOf u t = entered r (entryLvl r t) 4 a (p.rep || p.ext.isSome) false ∧ (0x060, 0) ∈ u.flt.det)

/-- Branches (R108, R113, R114): a taken branch goes to its offset in words from the branch word, a branch to a register to the register's value; a
branch that is not taken goes on; no flag and no other register changes. -/
def Obligations.BranchesGoToTheirTargets : Prop :=
  ∀ (s : State) (t : Thread) (p : Pfx) (cond : BitVec 4) (off : BitVec 22) (far : BitVec 26) (ga : Reg) (imm : Half), p.rep = false →
    let r := regsOf s t
    let a := r.gr ga
    let near := r.pc + 4 * off.signExtend 64
    let short := r.pc + (if p.ext.isSome then 4 else 0) + 4 * immS p imm
    (Ready s t p [] → p.ext = none → cond ≠ 15 →
      (condition cond r.sr = true → Leaves (.bc t p cond off) s t { r with pc := near } (thrOf s t)) ∧
      (condition cond r.sr = false → Gives (.bc t p cond off) s t p r)) ∧
    (Ready s t p [] → p.ext = none → Leaves (.b t p far) s t { r with pc := r.pc + 4 * far.signExtend 64 } (thrOf s t)) ∧
    (Ready s t p [ga] →
      (a = 0 → Leaves (.cbz t p ga imm) s t { r with pc := short } (thrOf s t) ∧ Gives (.cbnz t p ga imm) s t p r) ∧
      (a ≠ 0 → Gives (.cbz t p ga imm) s t p r ∧ Leaves (.cbnz t p ga imm) s t { r with pc := short } (thrOf s t))) ∧
    (Ready s t p [ga] → p.ext = none → a.toNat % 4 = 0 → ¬Token s t a → Leaves (.br t p ga) s t { r with pc := a } (thrOf s t)) ∧
    (Ready s t p [ga] → p.ext = none → a.toNat % 4 ≠ 0 → CanEnter s t → Raises (.br t p ga) s t p 3 a ∧ Raises (.blr t p ga) s t p 3 a)

/-- Calls and returns (R95, R116): with RSM = 0 BL and BLR write LR and RET goes to LR; with RSM = 1 they push the return address on the return stack
and RET pops it; a full or an empty return stack raises its exception with RSP in EVAL. -/
def Obligations.CallsLinkAndReturn : Prop :=
  ∀ (s : State) (t : Thread) (p : Pfx) (far : BitVec 26) (ga : Reg) (bs : List Byte) (v : DWord), p.rep = false → p.ext = none →
    let r := regsOf s t
    let x := thrOf s t
    let a := r.gr ga
    let there := r.pc + 4 * far.signExtend 64
    let ptr := (r.rsp.extractLsb' 0 40 &&& ~~~0x7#40).toNat
    let low := (r.rsp - 8).extractLsb' 0 40 &&& ~~~0x7#40
    let lim := r.rsp.extractLsb' 40 12
    let depth := r.rsp.extractLsb' 52 12
    (r.sr.getLsbD 11 = false →
      (Ready s t p [] → Leaves (.bl t p far) s t { r with lr := r.pc + 4, pc := there } x) ∧
      (Ready s t p [ga] → a.toNat % 4 = 0 → ¬Token s t a → Leaves (.blr t p ga) s t { r with lr := r.pc + 4, pc := a } x) ∧
      (Ready s t p [] → r.lr.toNat % 4 = 0 → ¬Token s t r.lr → Leaves (.ret t p) s t { r with pc := r.lr } x)) ∧
    (r.sr.getLsbD 11 = true → depth ≠ lim → lim ≠ 0 → storeMay s (thrAgent s t) (thrLvl s t) ptr 8 = true → x.sb.length < 8 →
      let e : SbEntry := { addr := BitVec.ofNat 64 (physAddr (thrAgent s t) ptr), bytes := lowBytes 8 (r.pc + 4), lvl := thrLvl s t }
      let sp := moved r.rsp 8 (depth + 1)
      (Ready s t p [] → Leaves (.bl t p far) s t { r with rsp := sp, pc := there } { x with sb := x.sb ++ [e] }) ∧
      (Ready s t p [ga] → a.toNat % 4 = 0 → ¬Token s t a →
        Leaves (.blr t p ga) s t { r with rsp := sp, pc := a } { x with sb := x.sb ++ [e] })) ∧
    (r.sr.getLsbD 11 = true → depth ≠ 0 → 0x110000 ≤ low.toNat → Ready s t p [] → stalledIn s (thrAgent s t) low.toNat 8 = false → bs.length = 8 →
      (∀ i, i < 8 → ∃ k, rdKey s (thrAgent s t) (low.toNat + i) = some k ∧
        bs.getD i 0 = (sbByte x.sb (physAddr (thrAgent s t) low.toNat + i)).getD (memGet s k)) →
      loadedAs false bs v → v.toNat % 4 = 0 → ¬Token s t v →
      Leaves (.ret t p) s t { r with rsp := depth - 1 ++ lim ++ low, pc := v } x) ∧
    (r.sr.getLsbD 11 = true → CanEnter s t →
      (depth = lim ∨ lim = 0 → Ready s t p [] → Raises (.bl t p far) s t p 6 r.rsp) ∧ (depth = 0 → Ready s t p [] → Raises (.ret t p) s t p 7 r.rsp))

/-- The instructions that raise an exception by themselves (R129, R131, R147, R154): SYS and BRK enter with their code in EVAL, a word that is no
instruction with that word, a PC that is misaligned or whose word is not readable with its address. RETX restores SR and goes to EPC
in one step; a PL that is reserved, above the level or above the ceiling raises PRIVRET with the refused ESR. -/
def Obligations.ExceptionsEnterAndReturn : Prop :=
  (∀ (s : State) (t : Thread) (p : Pfx) (code : Byte) (w : Word) (k : BitVec 2), CanEnter s t →
      let r := regsOf s t
      let first : Word := if p.rep then 0xFC000000 else match p.ext with | some h => 0xF8000000 ||| h.setWidth 32 | none => w
      (Ready s t p [] → p.rep = false → p.ext = none →
        Raises (.sys t p code) s t p 8 (code.setWidth 64) ∧ Raises (.brk t p code) s t p 9 (code.setWidth 64)) ∧
      (Ready s t p [] → clanaDecode t p (decide (r.stpa ≠ 0)) w = none → Raises (.illegalInstruction t p w) s t p 1 (first.setWidth 64)) ∧
      (canIssue s t = true → r.pc.toNat % 4 ≠ 0 →
        Raises (.instructionFetchFault t k) s t { rep := false, ext := none } 3 r.pc) ∧
      (canIssue s t = true → r.pc.toNat % 4 = 0 → rdBytes s (thrAgent s t) r.pc.toNat 4 = none → codeStalled s t r.pc.toNat = false →
        NoUpset s (thrAgent s t) r.pc.toNat 4 → Raises (.instructionFetchFault t 0) s t { rep := false, ext := none } 4 r.pc)) ∧
  (∀ (s : State) (t : Thread) (p : Pfx), Ready s t p [] → p.rep = false → p.ext = none →
      let r := regsOf s t
      let pl := r.esr.extractLsb' 8 2
      let ceil := entryLvl r t
      let ok := pl ≠ 3 ∧ pl.toNat ≤ (r.sr.extractLsb' 8 2).toNat ∧ pl.toNat ≤ ceil.toNat
      (ok → Leaves (.retx t p) s t { r with sr := r.esr, pc := r.epc } (thrOf s t)) ∧
      (¬ok → CanEnter s t → Raises (.retx t p) s t p 10 (r.esr.setWidth 64)))

/-- MFS and MTS (R89, R92, R94, R95): a register that the level may read comes to gd and one that it may write takes ga without its reserved bits;
below the level of its column the access raises the privilege exception with its number. -/
def Obligations.SpecialRegistersReadAndWrite : Prop :=
  ∀ (s : State) (t : Thread) (p : Pfx) (gd ga : Reg) (x : Byte), p.ext = none →
    let r := regsOf s t
    let v := r.gr ga
    let lvl := (r.sr.extractLsb' 8 2).toNat
    let mfs := fun (y : DWord) => Gives (.mfs t p gd x) s t p (r.setG gd y)
    let mts := fun (r1 : Regs) => Gives (.mts t p x ga) s t p r1
    let kept := fun (r1 : Regs) (u : State) => regsOf u t = pastUnit p r1 ∧ OtherThreads s u t ∧ SameMemory s u
    let masked := fun (bits : DWord) (r1 : Regs) => (v &&& bits = 0 → mts r1) ∧
      (v &&& bits ≠ 0 → Answers (.mts t p x ga) s fun u => regsOf u t = pastUnit p r1 ∧ u.reg.rsvd = true ∧ SameMemory s u)
    (Ready s t p [gd] →
      (x = 0x00 → mfs (r.pc + (if p.rep then 4 else 0))) ∧ (x = 0x01 → mfs (r.sr.setWidth 64)) ∧ (x = 0x02 → mfs r.lr) ∧ (x = 0x03 → mfs r.rc) ∧
      (x = 0x04 → mfs r.ml) ∧ (x = 0x05 → mfs r.mh) ∧ (x = 0x0B → mfs r.eval) ∧ (x = 0x0C → mfs r.rsp) ∧ (x = 0x18 → mfs s.time.now) ∧
      (∀ c, t = .ctx c → (x = 0x10 → mfs r.stpa) ∧ (x = 0x11 → mfs r.stpw) ∧ (x = 0x13 → mfs (r.ceil.setWidth 64)) ∧
        (x = 0x15 → 1 ≤ lvl → mfs r.repa) ∧ (x = 0x12 → mfs ((s.rm.addr ++ c).setWidth 64)) ∧ (x = 0x1C → mfs 0x06140410) ∧ (x = 0x1D → mfs 0xBF)) ∧
      (∀ n, t = .mp n → (x = 0x10 ∨ x = 0x11 → mfs 0) ∧ (x = 0x13 → mfs 2) ∧ (x = 0x12 → mfs (0x80000000 + n.setWidth 64)) ∧
        (x = 0x1C → mfs 0x00140410) ∧ (x = 0x1D → mfs 0xC7)) ∧
      (1 ≤ lvl → (x = 0x08 → mfs r.epc) ∧ (x = 0x09 → mfs (r.esr.setWidth 64)) ∧ (x = 0x0A → mfs (r.ecause.setWidth 64)) ∧ (x = 0x14 → mfs r.exv)) ∧
      (lvl = 0 → x = 0x08 ∨ x = 0x09 ∨ x = 0x0A ∨ x = 0x14 → CanEnter s t → Raises (.mfs t p gd x) s t p 2 (x.setWidth 64)) ∧
      (x = 0x06 → CanEnter s t → Raises (.mfs t p gd x) s t p 1 (if p.rep then 0xFC000000 else (fmtE 0x2C gd 0 0 x 3).setWidth 64))) ∧
    (Ready s t p [ga] →
      (x = 0x01 → 1 ≤ lvl → mts { r with sr := (r.sr &&& 0x300#32) ||| (v.setWidth 32 &&& 0xC3F#32) }) ∧
      (x = 0x01 → lvl = 0 → v.getLsbD 10 = r.sr.getLsbD 10 → mts { r with sr := (r.sr &&& 0x300#32) ||| (v.setWidth 32 &&& 0xC3F#32) }) ∧
      (x = 0x01 → lvl = 0 → v.getLsbD 10 ≠ r.sr.getLsbD 10 → CanEnter s t → Raises (.mts t p x ga) s t p 2 1) ∧
      (x = 0x02 → mts { r with lr := v }) ∧ (x = 0x03 → p.rep = false → mts { r with rc := v }) ∧ (x = 0x04 → mts { r with ml := v }) ∧
      (x = 0x05 → mts { r with mh := v }) ∧
      (1 ≤ lvl → (x = 0x08 → mts { r with epc := v }) ∧ (x = 0x0A → masked 0xFC00 { r with ecause := v.setWidth 16 &&& 0x3FF }) ∧
        (x = 0x09 → masked 0xFFFFF0C0 { r with esr := v.setWidth 32 &&& 0xF3F }) ∧ (x = 0x0B → mts { r with eval := v }) ∧
        (x = 0x0C → masked 7 { r with rsp := v &&& ~~~0x7#64 }) ∧ 
        (∀ n, t = .mp n → x = 0x14 → mts { r with exv := v &&& 0xFFFFFFFFFF00 }) ∧
        (∀ c, t = .ctx c → x = 0x14 → Answers (.mts t p x ga) s fun u =>
          kept { r with exv := v &&& 0xFFFFFFFFFF00 } u ∧ (recOf u c).exv = v &&& 0xFFFFFFFFFF00 ∧ u.reg = s.reg) ∧
        (∀ c, t = .ctx c → x = 0x15 → Answers (.mts t p x ga) s fun u =>
          kept { r with repa := v &&& 0xFFFFFFFFFFFF } u ∧ (recOf u c).repa = v &&& 0xFFFFFFFFFFFF ∧
            u.reg.rsvd = (s.reg.rsvd || decide (v &&& 0xFFFF000000000000 ≠ 0)))) ∧
      (lvl = 0 → x = 0x08 ∨ x = 0x09 ∨ x = 0x0A ∨ x = 0x0B ∨ x = 0x0C ∨ x = 0x14 → CanEnter s t →
        Raises (.mts t p x ga) s t p 2 (x.setWidth 64)))

/-- BAR and IBAR (R129): they complete when the store buffer is empty, and until then leave the device as it is; IBAR then drops the line of ga from
the cluster's instruction cache. NOP does nothing but move PC. -/
def Obligations.BarriersWaitForStores : Prop :=
  ∀ (s : State) (t : Thread) (p : Pfx) (ga : Reg), p.ext = none →
    (Ready s t p [] → Gives (.nop t p) s t p (regsOf s t)) ∧
    (Ready s t p [] → (thrOf s t).sb = [] → Gives (.bar t p) s t p (regsOf s t)) ∧
    (Ready s t p [] → (thrOf s t).sb ≠ [] → exec (.bar t p) s = .next s) ∧
    (Ready s t p [ga] → p.rep = false → (thrOf s t).sb ≠ [] → exec (.ibar t p ga) s = .next s) ∧
    (∀ n, t = .mp n → Ready s t p [ga] → p.rep = false → (thrOf s t).sb = [] → Gives (.ibar t p ga) s t p (regsOf s t)) ∧
    (∀ c, t = .ctx c → Ready s t p [ga] → p.rep = false → (thrOf s t).sb = [] →
      Answers (.ibar t p ga) s fun u => regsOf u t = pastUnit p (regsOf s t) ∧ OtherThreads s u t ∧
        (clOf u (homeOf s c)).icache = (clOf s (homeOf s c)).icache.filter (fun l => l ≠ ((regsOf s t).gr ga).toNat / 64) ∧
        (∀ k, k ≠ homeOf s c → clOf u k = clOf s k) ∧ { threadsBack s u with eng := { (threadsBack s u).eng with cls := s.eng.cls } } = s)

/-- The lock group (R130, R198, R199): LCK acquires a free cell for the thread with the next generation and clears BROKEN, finds it busy, or names no cell; ULK
releases a cell that the thread owns. Z tells whether gd is 0; every other cell keeps its word. -/
def Obligations.LocksAreAcquiredAndReleased : Prop :=
  ∀ (s : State) (t : Thread) (p : Pfx) (gd ga : Reg), Ready s t p [gd, ga] → p.rep = false → p.ext = none →
    let r := regsOf s t
    let v := r.gr ga
    let w := lockOf s v.toNat
    let mine : BitVec 19 := match t with | .ctx c => c.setWidth 19 | .mp n => 0x40000 + n.setWidth 19
    let put := fun (y : DWord) => ({ r.setG gd y with sr := srZ r.sr (y = 0) } : Regs)
    let takes := fun (c : Instr) (y : DWord) (w1 : Word) =>
      Answers c s fun u => regsOf u t = pastUnit p (put y) ∧ thrOf u t = thrOf s t ∧ OtherThreads s u t ∧ lockOf u v.toNat = w1 ∧
        (∀ n, n ≠ v.toNat → lockOf u n = lockOf s n) ∧ { threadsBack s u with gal := { (threadsBack s u).gal with locks := s.gal.locks } } = s
    (4096 ≤ v.toNat → Gives (.lck t p gd ga) s t p (put 3) ∧ Gives (.ulk t p gd ga) s t p (put 3)) ∧
    (v.toNat < 4096 →
      (w.getLsbD 19 = true → Gives (.lck t p gd ga) s t p (put 1)) ∧
      (w.getLsbD 19 = false → takes (.lck t p gd ga) (if w.getLsbD 20 then 2 else 0) ((w.extractLsb' 21 11 + 1) ++ (0b01#2 ++ mine))) ∧
      (w.getLsbD 19 = true → w.extractLsb' 0 19 = mine → takes (.ulk t p gd ga) 0 (w &&& ~~~0x80000#32)) ∧
      (w.getLsbD 19 = false ∨ w.extractLsb' 0 19 ≠ mine → Gives (.ulk t p gd ga) s t p (put 1)))

/-- The steps that move no data (R43, R45, R48, R49): with NEXT and without a report the chain goes on with the step after it, JUMP with its
target; a WAIT takes the signals of its mask, or waits for them or for its time; a SIGNAL sets bits of a context of the device; END makes the context IDLE. -/
def Obligations.StepsWithoutDataEnd : Prop :=
  ∀ (s : State) (c : CtxId),
    let t : Thread := .ctx c
    let r := regsOf s t
    let x := thrOf s t
    let l := liveOf s c
    let next : Regs := { r with stpa := r.stpa + 16 }
    let mask := x.cur.lo.extractLsb' 32 32
    let d := x.cur.hi.extractLsb' 0 18
    (AtStep s c 0 → HasNextOnly x → Leaves (.nopStep c) s t next (onward x)) ∧
    (AtStep s c 1 → HasNextOnly x → Leaves (.jump c) s t { r with stpa := x.cur.hi } (onward x)) ∧
    (AtStep s c 2 → HasNextOnly x → x.wait = some { mask := mask } → l.pend &&& mask ≠ 0 →
      Answers (.waitStep c) s fun u => regsOf u t = { next with eval := (l.pend &&& mask).setWidth 64 } ∧ thrOf u t = onward x ∧
        liveOf u c = { l with pend := l.pend &&& ~~~mask } ∧ OtherThreads s u t ∧ OtherLive s u c ∧ SameMemory s u) ∧
    (AtStep s c 2 → HasNextOnly x → x.wait = some { mask := mask } → mask ≠ 0 → l.pend &&& mask = 0 →
      Answers (.waitStep c) s fun u => WaitsFor u c 1 { mask := mask } ∧ (liveOf u c).pend = l.pend ∧ OtherLive s u c ∧ SameMemory s u) ∧
    (∀ v : DWord, AtStep s c 2 → HasNextOnly x → x.wait = some { till := some v } →
      (v.toNat ≤ s.time.now.toNat → Leaves (.waitStep c) s t next (onward x)) ∧
      (s.time.now.toNat < v.toNat → Answers (.waitStep c) s fun u => WaitsFor u c 2 { till := some v } ∧ OtherLive s u c ∧ SameMemory s u)) ∧
    (AtStep s c 3 → HasNextOnly x → x.cur.hi.extractLsb' 18 8 = 0 → d ≠ c → stOf s d = .idle ∨ stOf s d = .ready ∨ stOf s d = .resident ∨ stOf s d = .held →
      Answers (.signalStep c) s fun u => regsOf u t = next ∧ thrOf u t = onward x ∧
        liveOf u d = { liveOf s d with pend := (liveOf s d).pend ||| mask } ∧ OtherLive s u d ∧ OtherThreads s u t ∧ SameMemory s u) ∧
    (AtStep s c 5 → x.cur.lo.getLsbD 8 = false → x.cur.lo.getLsbD 12 = false → x.sb = [] → x.callPc = none → r.repa = 0 → x.origin = none →
      x.haltEnt = [] →
      Answers (.endStep c) s fun u => stOf u c = .idle ∧ (liveOf u c).pend = l.pend ∧ (thrOf u t).phase = .code ∧ OtherLive s u c ∧
        (∀ k, pinOf s c = false → slotOf s c = some k → sget none u.eng.occ k = none) ∧ SameMemory s u)

/-- A report (R80, R82, R85, R86): REPORT writes 32 bytes to the report ring at RIDX, moves RIDX on and raises the report event; no other byte of memory changes. -/
def Obligations.ReportIsWrittenToTheRing : Prop :=
  ∀ (s : State) (c : CtxId) (k : Nat),
    let t : Thread := .ctx c
    let r := regsOf s t
    let x := thrOf s t
    let l := liveOf s c
    let at_ := (r.repa.extractLsb' 5 43).toNat * 32 + l.ridx.toNat % 2 ^ Nat.min 16 (r.repa.extractLsb' 0 5).toNat * 32
    let bytes := lowBytes 8 (r.stpa + 16) ++ lowBytes 4 ((x.cur.lo.extractLsb' 32 32).setWidth 64) ++ [0x01, 0x00, 0x00, 0x04] ++
      lowBytes 4 ((s.rm.addr ++ c).setWidth 64) ++ lowBytes 4 (BitVec.ofNat 64 (runCrc x)) ++ lowBytes 8 s.time.now
    AtStep s c 4 → HasNextOnly x → r.repa ≠ 0 →
    (∀ i, i < 32 → wrKey s (ctxAgent s c) (if r.ceil = 0 then 0 else 1) (at_ + i) = some (k + i)) →
    Answers (.reportStep c) s fun u =>
      (∀ i, i < 32 → memGet u (k + i) = bytes.getD i 0) ∧ SameMemoryBut s u k 32 ∧ liveOf u c = { l with ridx := l.ridx + 1 } ∧ OtherLive s u c ∧
        regsOf u t = { r with stpa := r.stpa + 16 } ∧ thrOf u t = onward x ∧ OtherThreads s u t ∧
        Fired s u (evlOf s c) (BitVec.ofNat 32 (c.toNat + 0x100000 + 4 * 0x1000000))

/-- A fetch (R32, R33, R64, R68): the step at STPA is read with its 64-byte line; a step that passes its checks is in progress, and STPW holds its first word;
while the line lies behind a DRAM interface that is retrained the fetch waits (R453). -/
def Obligations.StepFetchReadsTheStep : Prop :=
  ∀ (s : State) (c : CtxId) (bs : List Byte),
    let t : Thread := .ctx c
    let r := regsOf s t
    let x := thrOf s t
    let a := r.stpa.toNat
    let w := stepIn (a / 64 * 64, bs) a
    engineOn s c = true → x.phase = .fetch → x.skip = false → x.holdPass = false → x.line = none → a % 16 = 0 →
    (stalled s (ctxAgent s c) a = true → exec (.stepFetch c) s = .next s) ∧
    (stalled s (ctxAgent s c) a = false →
    rdBytes s (ctxAgent s c) (a / 64 * 64) 64 = some bs → w.lo.getLsbD 11 = false → (w.lo.extractLsb' 0 8).toNat ≤ 5 → checkStep w {} false x.run = none →
    (∀ i, i < 64 → w.lo.getLsbD i = (bs.getD (a % 64 + i / 8) 0).getLsbD (i % 8)) ∧
      (∀ i, i < 64 → w.hi.getLsbD i = (bs.getD (a % 64 + 8 + i / 8) 0).getLsbD (i % 8)) ∧
      Answers (.stepFetch c) s fun u =>
        regsOf u t = { r with stpw := w.lo } ∧
          (thrOf u t = { x with line := some (a / 64 * 64, bs), phase := .step, cur := w, src := {}, wait := (thrOf u t).wait, start := x.run, taken := none }) ∧ OnlyThread s u t)

/-- The dispatch of a routine (R74): the registers that the step engine sets, and the context runs at ENTRY at the level of the entry. -/
def Obligations.RoutineDispatchSetsTheRegisters : Prop :=
  ∀ (s s1 : State) (c : CtxId) (e : DWord) (a : Byte),
    let t : Thread := .ctx c
    let w := (thrOf s t).cur
    AtStep s c a → 0x40 ≤ a.toNat → routineCheck s c w = .inr (e, s1) →
    Answers (.routineStep c) s fun u =>
      let r := regsOf u t
      r.gr 0 = w.hi ∧ r.gr 1 = (w.lo.extractLsb' 32 32).setWidth 64 ∧ r.gr 2 = (w.lo.extractLsb' 16 8).setWidth 64 ∧ r.stpa = (regsOf s1 t).stpa ∧
        r.stpw = w.lo ∧ r.lr = 0xFFFFFFFFFFFFFFFC ∧ r.pc = (e.extractLsb' 2 46 ++ 0#2).setWidth 64 ∧
        r.sr = ((regsOf s1 t).sr &&& ~~~0x300#32) ||| (if e.getLsbD 1 then 0x100 else 0) ∧ (∀ g : Reg, 3 ≤ g.toNat → r.gr g = (regsOf s1 t).gr g) ∧
        (thrOf u t).phase = .code ∧ (thrOf u t).rtPl = (regsOf s1 t).sr.extractLsb' 8 2 ∧ OtherThreads s1 u t ∧ threadsBack s1 u = s1

/-- The end of a routine's step (R75, R79, R137): SDONE with no residual goes on with the next step and restores the level; SFAIL of ABORTED fails it with its
event; CHAIN runs the chain at ga from code. -/
def Obligations.RoutinesEndTheirStep : Prop :=
  ∀ (s : State) (c : CtxId) (p : Pfx) (ga : Reg), p.rep = false → p.ext = none → Ready s (.ctx c) p [ga] →
    let t : Thread := .ctx c
    let r := regsOf s t
    let x := thrOf s t
    let v := r.gr ga
    let next : Regs := { r with stpa := r.stpa + 16, sr := (r.sr &&& ~~~0x300#32) ||| (x.rtPl.setWidth 32 <<< 8) }
    let routine := 0x40 ≤ (x.cur.lo.extractLsb' 0 8).toNat
    (r.stpa ≠ 0 → routine → HasNextOnly x → x.wqMove = none → v.extractLsb' 0 32 = 0 → Leaves (.sdone t p ga) s t next (onward x)) ∧
    (r.stpa ≠ 0 → routine → HasNextOnly x → x.wqMove = none → v.extractLsb' 0 14 = 0x1000 → r.repa = 0 →
      Answers (.sfail t p ga) s fun u => regsOf u t = next ∧ thrOf u t = onward x ∧ OtherThreads s u t ∧ SameMemory s u ∧
        Fired s u (evlOf s c) (BitVec.ofNat 32 (c.toNat + 0x100000 + (v.extractLsb' 16 8).toNat * 0x1000000))) ∧
    (r.stpa = 0 → Leaves (.chain t p ga) s t { r with stpa := v, stpw := 0, cpl := r.sr.extractLsb' 8 2 }
      { x with phase := .fetch, callPc := some (r.pc + 4), line := none, holdPass := false, run := none, skip := false })

/-- CHAIN in a routine (R77): while a step is in progress, CHAIN raises the illegal-instruction exception with the instruction word. -/
def Obligations.ChainInARoutineIsIllegal : Prop :=
  ∀ (s : State) (c : CtxId) (p : Pfx) (ga : Reg), Ready s (.ctx c) p [] → CanEnter s (.ctx c) → (regsOf s (.ctx c)).stpa ≠ 0 →
    Raises (.chain (.ctx c) p ga) s (.ctx c) p 1 ((firstWord p (0x28#6 ++ 0#4 ++ ga ++ 0#18)).setWidth 64)

/-- Data steps (R41, R42, R46, R47, R60, R205, R520): MOVE-OUT, MOVE-MEM and SENSE request a mover channel with their addresses and count, MOVE-IN for the
oldest unit of transfer, and the context waits with WAITK 6; MOVE-MEM with a list that is not aligned fails with CHAIN_BAD and asks for none; with no unit of transfer MOVE-IN waits with WAITK 5; CONTROL puts its write on the device-port bus. -/
def Obligations.DataStepsRequestTheirChannel : Prop :=
  ∀ (s : State) (c : CtxId),
    let t : Thread := .ctx c
    let x := thrOf s t
    let w := x.cur
    let n := (w.lo.extractLsb' 32 32).toNat
    let u := (w.lo.extractLsb' 16 8).toNat
    let base : Xfer :=
      { kind := .moveOut, cl := BitVec.ofNat 6 (homeOf s c), count := n, left := n, barrier := w.lo.getLsbD 13, crcsel := w.lo.extractLsb' 24 3,
        unit := w.lo.extractLsb' 16 7, lvl := if (regsOf s t).ceil = 0 then 0 else 1, flight := s.lnd.num }
    let waits := fun (v : State) (k : BitVec 4) => stOf v c = .waiting ∧ (liveOf v c).waitk = k ∧ OtherLive s v c ∧ SameMemory s v
    (AtStep s c 9 → misaligned w = false →
      Answers (.moveOut c) s fun v => Requested v c.toNat { base with src := w.hi, srcList := w.lo.getLsbD 14 } ∧ waits v 6) ∧
    (AtStep s c 0xA → (w.lo.getLsbD 14 = true ∧ w.hi.toNat % 16 ≠ 0) ∨ (x.src.lo.getLsbD 14 = true ∧ x.src.hi.toNat % 16 ≠ 0) →
      x.src.lo.extractLsb' 0 8 = 0xB → HasNextOnly x → chanOf s c.toNat = none → (regsOf s t).repa = 0 →
      Answers (.moveMem c) s fun v => chanOf v c.toNat = none ∧ (regsOf v t).stpa = (regsOf s t).stpa + 32 ∧ (thrOf v t).phase = .fetch ∧ OtherLive s v c ∧
        Fired s v (evlOf s c) (BitVec.ofNat 32 (c.toNat + 0x100000 + 9 * 0x1000000))) ∧
    (∀ r, AtStep s c 0xA → x.run = some r → (w.lo.getLsbD 14 = true → w.hi.toNat % 16 = 0) →
      (x.src.lo.getLsbD 14 = true → x.src.hi.toNat % 16 = 0) → Answers (.moveMem c) s fun v => Requested v c.toNat { base with
        kind := .moveMem, unit := 0, dst := w.hi, dstList := w.lo.getLsbD 14, drop := w.lo.getLsbD 10, src := x.src.hi,
        srcList := x.src.lo.getLsbD 14, fs := x.src.lo.getLsbD 32, fd := x.src.lo.getLsbD 33 } ∧ waits v 6) ∧
    (AtStep s c 0x11 →
      Answers (.senseStep c) s fun v =>
        Requested v c.toNat { base with kind := .sense, count := Nat.min n 32, left := Nat.min n 32, dst := w.hi } ∧ waits v 6) ∧
    (∀ r d rest, AtStep s c 8 → misaligned w = false → x.run = some r → r.inEnd = none → notCapture s u = false → (unitOf s u).rx = d :: rest →
      Answers (.moveIn c) s fun v =>
        Requested v c.toNat { base with
          kind := .moveIn, count := Nat.min n d.bytes.length, left := Nat.min n d.bytes.length, dst := w.hi, dstList := w.lo.getLsbD 14,
          drop := w.lo.getLsbD 10, data := d.bytes } ∧ waits v 6 ∧ (unitOf v u).rx = rest) ∧
    (∀ r, AtStep s c 8 → misaligned w = false → x.run = some r → r.inEnd = none → notCapture s u = false → (unitOf s u).rx = [] →
      (unitOf s u).st ≠ .disabled → Answers (.moveIn c) s fun v => waits v 5 ∧ (thrOf v t).pwait = some u) ∧
    (AtStep s c 0x10 → suppressed s c = false →
      Answers (.controlStep c) s fun v =>
        (thrOf v t).bus = some { unit := w.lo.extractLsb' 16 7, off := w.hi.extractLsb' 0 16, val := some (w.lo.extractLsb' 32 32) } ∧
          regsOf v t = regsOf s t ∧ OtherThreads s v t ∧ SameMemory s v)

/-- MOVE and the port instructions (R120, R125, R126, R520): MOVE of no bytes clears V and completes, any other requests a channel with its addresses and
count, as do PSEND, PSEND.AT and PRECV of a unit of transfer; PRECV with none waits with WAITK 5; PWR and PRD put an access on the device-port bus, and the end of a
PRD writes gd and moves PC; a DISABLED unit raises the port exception with PORT_DISABLED. -/
def Obligations.MovesAndPortInstructionsIssue : Prop :=
  ∀ (s : State) (t : Thread) (c : CtxId) (p : Pfx) (fs fd bar : Bool) (crc : BitVec 3) (gd ga gb : Reg) (unit : Byte), p.rep = false → p.ext = none →
    let r := regsOf s t
    let n := (r.gr gb).toNat
    let u := unit.toNat
    let size := elemSize (unitClass u)
    let open_ := unitOk u = true ∧ unitAcc s u ≤ (thrLvl s t).toNat
    let aligned := (r.gr ga).toNat % size = 0 ∧ n % size = 0
    let record : Xfer :=
      { kind := .psend, cl := thrCl s t, src := r.gr ga, count := n, left := n, unit := unit.setWidth 7, lvl := thrLvl s t, flight := s.lnd.num }
    (Ready s t p [gd, ga, gb] → gd ≠ ga → gd ≠ gb → ga ≠ gb → crc.toNat ≤ 4 →
      (n = 0 → crc = 0 ∨ (thrOf s t).md = none → Gives (.move t p fs fd bar crc gd ga gb) s t p { r with sr := srV r.sr false }) ∧
      (n ≠ 0 → crc = 0 ∨ (thrOf s t).md = none →
        Answers (.move t p fs fd bar crc gd ga gb) s fun v => SameMemory s v ∧ Requested v (tkey t)
          { kind := .move, cl := thrCl s t, src := r.gr ga, dst := r.gr gd, count := n, left := n, fs := fs, fd := fd, barrier := bar,
            crcsel := crc, lvl := thrLvl s t, gd := gd, ga := ga, gb := gb })) ∧
    (t = .ctx c → open_ →
      (Ready s t p [ga, gb] → aligned → canSend (unitClass u) = true → (unitOf s u).st = .active →
        Answers (.psend t p unit ga gb) s fun v => SameMemory s v ∧ Requested v c.toNat record) ∧
      (Ready s t p [gd, ga, gb] → aligned → canSend (unitClass u) = true → (unitOf s u).st = .active →
        Answers (.psendAt t p unit gd ga gb) s fun v =>
          SameMemory s v ∧ Requested v c.toNat { record with kind := .psendAt, launch := some (r.gr gd) }) ∧
      (∀ d rest, Ready s t p [gd, ga, gb] → aligned → (unitOf s u).st ≠ .disabled → notCapture s u = false → (unitOf s u).rx = d :: rest →
        Answers (.precv t p unit gd ga gb) s fun v => SameMemory s v ∧ (unitOf v u).rx = rest ∧ Requested v c.toNat
          { kind := .precv, cl := thrCl s t, dst := r.gr ga, count := Nat.min n d.bytes.length, left := Nat.min n d.bytes.length,
            unit := unit.setWidth 7, data := d.bytes, rxEnd := some d.fin, lvl := thrLvl s t, gd := gd }) ∧
      (Ready s t p [gd, ga, gb] → aligned → (unitOf s u).st ≠ .disabled → notCapture s u = false → (unitOf s u).rx = [] →
        Answers (.precv t p unit gd ga gb) s fun v => WaitsFor v c 5 {} ∧ (thrOf v t).pwait = some u ∧ OtherLive s v c ∧ SameMemory s v) ∧
      (Ready s t p [ga, gb] → (r.gr ga).extractLsb' 0 2 = 0 → (unitOf s u).st ≠ .disabled → suppressed s c = false →
        Answers (.pwr t p unit ga gb) s fun v => regsOf v t = r ∧ OtherThreads s v t ∧ SameMemory s v ∧
          (thrOf v t).bus = some { unit := unit.setWidth 7, off := (r.gr ga).setWidth 16, val := some ((r.gr gb).setWidth 32) }) ∧
      (Ready s t p [gd, ga] → (r.gr ga).extractLsb' 0 2 = 0 → (unitOf s u).st ≠ .disabled →
        Leaves (.prd t p unit gd ga) s t r { thrOf s t with bus := some { unit := unit.setWidth 7, off := (r.gr ga).setWidth 16, val := none, gd := gd } }) ∧
      (Ready s t p [gd, ga] → (r.gr ga).extractLsb' 0 2 = 0 → (unitOf s u).st = .disabled → CanEnter s t →
        Raises (.prd t p unit gd ga) s t p 11 (((portSts s u) ++ 0x12#8 ++ unit).setWidth 64))) ∧
    (∀ b : BusOp, t = .ctx c → clocksOn s = true → stOf s c = .resident → ctxFenced s c = false → (thrOf s t).bus = some b → (thrOf s t).phase = .code → b.val = none →
      (unitOf s b.unit.toNat).st ≠ .disabled →
      Leaves (.devicePortBusDone (.ctx c)) s t
        { r.setG b.gd ((winRead s b.unit.toNat b.off.toNat).setWidth 64) with pc := r.pc + 4 } { thrOf s t with bus := none })

/-- Waiting and waking (R43, R127, R128, R133, R177): WAITE takes the pending bits of its mask or waits for them or its deadline, WAITT waits for its time, whose coming
lets the context go on; YIELD makes an unpinned context READY, SUSP makes it HELD at the next instruction, WFI waits for an interrupt. -/
def Obligations.WaitsBeginAndEnd : Prop :=
  ∀ (s : State) (c : CtxId) (p : Pfx) (gd ga gb : Reg) (m : BitVec 2), p.rep = false → p.ext = none →
    let t : Thread := .ctx c
    let r := regsOf s t
    let l := liveOf s c
    let mask : Word := (r.gr ga).setWidth 32
    let hit := l.pend &&& mask
    let due := r.gr gb
    let put := fun (v : Word) => ({ r.setG gd (v.setWidth 64) with eval := v.setWidth 64, sr := srZ r.sr (v = 0), pc := r.pc + 4 } : Regs)
    (Ready s t p [gd, ga, gb] →
      (hit ≠ 0 → Answers (.waite t p gd ga gb) s fun u =>
        regsOf u t = put hit ∧ liveOf u c = { l with pend := l.pend &&& ~~~mask } ∧ OtherLive s u c ∧ OtherThreads s u t ∧ SameMemory s u) ∧
      (hit = 0 → due ≠ 0 → due.toNat ≤ s.time.now.toNat → Leaves (.waite t p gd ga gb) s t (put 0) { thrOf s t with abandoned := none }) ∧
      (hit = 0 → r.gr ga = 0 → due = 0 → Leaves (.waite t p gd ga gb) s t (put 0) { thrOf s t with abandoned := none }) ∧
      (hit = 0 → r.gr ga ≠ 0 → due = 0 → Answers (.waite t p gd ga gb) s fun u =>
        WaitsFor u c 1 { mask := mask, gd := some gd } ∧ (regsOf u t).pc = r.pc ∧ OtherLive s u c ∧ SameMemory s u) ∧
      (hit = 0 → s.time.now.toNat < due.toNat → Answers (.waite t p gd ga gb) s fun u =>
        WaitsFor u c (if r.gr ga = 0 then 2 else 3) { mask := mask, till := some due, gd := some gd } ∧ (regsOf u t).pc = r.pc ∧ OtherLive s u c ∧
          SameMemory s u)) ∧
    (Ready s t p [ga] →
      ((r.gr ga).toNat ≤ s.time.now.toNat → Gives (.waitt t p ga) s t p r) ∧
      (s.time.now.toNat < (r.gr ga).toNat → Answers (.waitt t p ga) s fun u =>
        WaitsFor u c 2 { till := some (r.gr ga) } ∧ (regsOf u t).pc = r.pc ∧ OtherLive s u c ∧ SameMemory s u)) ∧
    (∀ (w : Wait) (d : DWord), inRun s = true → stOf s c = .waiting → ctxFenced s c = false → (thrOf s t).wait = some w → w.till = some d → w.gd = none →
      (thrOf s t).phase = .code →
      Answers (.timeWaitEnd c) s fun u => Awake s u c ∧ (regsOf u t).pc = r.pc + 4 ∧ d.toNat ≤ u.time.now.toNat ∧ OtherLive s u c ∧ SameMemory s u) ∧
    (Ready s t p [] →
      (pinOf s c = true → Leaves (.yield t p) s t { r with pc := r.pc + 4 } (thrOf s t)) ∧
      (pinOf s c = false → Answers (.yield t p) s fun u =>
        stOf u c = .ready ∧ (liveOf u c).pend = l.pend ∧ (thrOf u t).readyAt = s.stamp ∧ OtherLive s u c ∧ SameMemory s u) ∧
      Answers (.susp t p) s fun u => stOf u c = .held ∧ (thrOf u t).heldAt = r.pc + 4 ∧ (regsOf u t).pc = r.pc + 4 ∧ OtherLive s u c ∧ SameMemory s u) ∧
    (Ready s (.mp m) p [] →
      (mpRequests s m ≠ [] → Gives (.wfi (.mp m) p) s (.mp m) p (regsOf s (.mp m))) ∧
      (mpRequests s m = [] → Answers (.wfi (.mp m) p) s fun u =>
        (mpOf u m).wfi = true ∧ (∀ k, k ≠ m → mpOf u k = mpOf s k) ∧ (∀ v, regsOf u v = regsOf s v ∧ thrOf u v = thrOf s v) ∧ SameMemory s u))

/-- SIGNAL and RESUME (R45, R65, R128, R346): SIGNAL sets the pending bits of a context of this device, RESUME makes a HELD context go on; gd is 0, 0x13 when the target is FREE
or HALTED or lies on a device that is not present, and 9 for a value that names no target. -/
def Obligations.SignalsAndResumesReachContexts : Prop :=
  ∀ (s : State) (t : Thread) (p : Pfx) (gd ga gb : Reg), Ready s t p [gd, ga, gb] → p.rep = false → p.ext = none →
    let r := regsOf s t
    let v := r.gr ga
    let d := v.extractLsb' 0 18
    let bits : Word := (r.gr gb).setWidth 32
    let held := thrOf s (.ctx d)
    let signal : Instr := .signal t p gd ga gb
    let resume : Instr := .resume t p gd ga gb
    (v.extractLsb' 26 38 ≠ 0 → Gives signal s t p (r.setG gd 9) ∧ Gives resume s t p (r.setG gd 9)) ∧
    (v.extractLsb' 18 46 = 0 →
      (stOf s d = .free ∨ stOf s d = .halted → Gives resume s t p (r.setG gd 0x13) ∧ (r.gr gb ≠ 0 → Gives signal s t p (r.setG gd 0x13))) ∧
      (r.gr gb = 0 → Gives signal s t p (r.setG gd 0)) ∧
      (r.gr gb ≠ 0 → stOf s d = .idle ∨ stOf s d = .ready ∨ stOf s d = .resident ∨ stOf s d = .held →
        Answers signal s fun u => regsOf u t = { r.setG gd 0 with pc := r.pc + 4 } ∧ thrOf u t = thrOf s t ∧
          liveOf u d = { liveOf s d with pend := (liveOf s d).pend ||| bits } ∧ OtherLive s u d ∧ OtherThreads s u t ∧ SameMemory s u) ∧
      (stOf s d = .held → t ≠ .ctx d → ctxFenced s d = false → (inSlot s d = true → recUpset s d = false) → r.gr gb = 0 ∨ r.gr gb = held.heldAt →
        Answers resume s fun u => regsOf u t = { r.setG gd 0 with pc := r.pc + 4 } ∧ Awake s u d ∧ (liveOf u d).pend = (liveOf s d).pend ∧
          OtherLive s u d ∧ SameMemory s u) ∧
      (stOf s d = .idle ∨ stOf s d = .ready ∨ stOf s d = .resident ∨ stOf s d = .waiting → Gives resume s t p (r.setG gd 0))) ∧
    (v.extractLsb' 26 38 = 0 → r.gr gb ≠ 0 → v.extractLsb' 18 8 ≠ 0 → v.extractLsb' 18 8 ≠ s.rm.addr → presentDev s (v.extractLsb' 18 8) = false →
      thrSuppressed s t = false → Gives signal s t p (r.setG gd 0x13) ∧ Gives resume s t p (r.setG gd 0x13))

/-- The store buffer (R112, R303, R523): an entry of plain memory completes with its bytes and no other byte of memory; a store to a send word sends the transmit buffer
as a frame of its session, one with a length that it may not have sets GLB_RSVD_WR; a store to a release word releases its mailbox. -/
def Obligations.StoresReachMemory : Prop :=
  ∀ (s : State) (t : Thread) (c : CtxId) (i : BitVec 3) (slot : BitVec 2) (e : SbEntry) (k : Nat), Settled s → clocksOn s = true →
    (thrOf s t).last = none → (thrOf s (.ctx c)).last = none →
    let x := thrOf s t
    let y := thrOf s (.ctx c)
    let a := e.addr.toNat
    let n := e.bytes.length
    let send := 0x10000000 + homeOf s c * 0x10000 + 0xFC00 + 4 * slot.toNat
    let release := 0x10000000 + homeOf s c * 0x10000 + 0xFC10 + 4 * slot.toNat
    let len := leNat e.bytes
    let lands := ∀ j, j < n → wrKey s (thrAgent s (.ctx c)) e.lvl (a + j) = some (a + j)
    (x.sb[i.toNat]? = some e → mayDrain x.sb i.toNat = true → 0x110000 ≤ a → expressWord a = false →
      (∀ j, j < n → wrKey s (thrAgent s t) e.lvl (a + j) = some (k + j)) → partialUpset s (thrAgent s t) e.lvl a n = false →
      stalled s (thrAgent s t) a = false →
      Answers (.storeBufferDrain t i) s fun u => (∀ j, j < n → memGet u (k + j) = e.bytes.getD j 0) ∧ SameMemoryBut s u k n ∧
        (thrOf u t).sb = x.sb.eraseIdx i.toNat ∧ (∀ v, regsOf u v = regsOf s v)) ∧
    (y.sb = [e] → homeOf s c ≤ 32 → expressOn s = true → a = send → n = 4 → lands →
      (16 ≤ len → len ≤ 128 → ∀ j : BitVec 6,
        beNat (slice ((List.range len).map fun o => memGet s (0x10000000 + homeOf s c * 0x10000 + 0xFA00 + 128 * slot.toNat + o)) 6 2) = j.toNat →
        Answers (.sendWordStore c slot) s fun u => (thrOf u (.ctx c)).sb = [] ∧ u.sct.rtag = s.sct.rtag + 1 ∧
          (sessOf u j.toNat).express = (sessOf s j.toNat).express + 1 ∧ SameMemoryBut s u a 4 ∧ u.reg.rsvd = s.reg.rsvd) ∧
      (len < 16 ∨ 128 < len → Answers (.sendWordStore c slot) s fun u =>
        (thrOf u (.ctx c)).sb = [] ∧ u.reg.rsvd = true ∧ u.sct = s.sct ∧ SameMemory s u)) ∧
    (y.sb = [e] → homeOf s c ≤ 32 → expressOn s = true → a = release → n = 4 → lands →
      (mboxOf s (4 * homeOf s c + slot.toNat)).full = true → (mboxOf s (4 * homeOf s c + slot.toNat)).complete = true →
      Answers (.releaseWordStore c slot) s fun u => (thrOf u (.ctx c)).sb = [] ∧ mboxOf u (4 * homeOf s c + slot.toNat) = {} ∧
        (∀ j, j ≠ 4 * homeOf s c + slot.toNat → mboxOf u j = mboxOf s j) ∧ SameMemoryBut s u a 4)

/-- Asynchronous causes (R139, R141, R143, R145, R147): the run limit becomes pending with its time; a pending cause that can be taken is entered at a boundary, the
watch before the limit before the signals, which are taken from the pending set. -/
def Obligations.AsynchronousCausesAreEntered : Prop :=
  ∀ (s : State) (c : CtxId) (k : Nat),
    let t : Thread := .ctx c
    let r := regsOf s t
    let x := thrOf s t
    let bits := (liveOf s c).pend &&& r.siga
    let ready := inRun s = true ∧ stOf s c = .resident ∧ x.phase = .code ∧ ctxFenced s c = false ∧ x.bus = none ∧ x.egress = none ∧ chanOf s c.toNat = none ∧
      x.last = none ∧ CanEnter s t
    let into := fun cause eval => entered (match x.abandoned with | some gd => r.setG gd eval | none => r) (entryLvl r t) cause eval (prefixAt s c || x.inRep) x.inRep
    (inRun s = true → stOf s c = .resident → x.phase = .code → r.rlen = true → act s (aENG + 0x200) ≠ 0 → x.limit = none →
      Leaves (.runLimit c) s t r { x with limit := some s.time.now }) ∧
    (∀ a, ready → x.watch = some a → Leaves (.asyncEntry t k) s t (into 0x12 a) { x with watch := none, inRep := false, abandoned := none }) ∧
    (∀ l, ready → x.watch = none → x.limit = some l → Leaves (.asyncEntry t k) s t (into 0x11 l) { x with limit := none, inRep := false, abandoned := none }) ∧
    (ready → x.watch = none → x.limit = none → bits ≠ 0 →
      Answers (.asyncEntry t k) s fun u => regsOf u t = into 0x10 (bits.setWidth 64) ∧ thrOf u t = { x with inRep := false, abandoned := none } ∧
        liveOf u c = { liveOf s c with pend := (liveOf s c).pend &&& ~~~bits } ∧ OtherLive s u c ∧ OtherThreads s u t ∧ SameMemory s u)

/-- An interrupt (R157 to R162): the highest request that qualifies pushes its frame of 128 bytes, with the outstanding loads and without a result that the multiplier still
owes, which goes to the frame, and starts its handler at P2 at its vector, with the interrupt return token in LR; a processor that waits in WFI goes past it first. -/
def Obligations.InterruptPushesItsFrame : Prop :=
  ∀ (s : State) (n : BitVec 2) (l : Nat),
    let t : Thread := .mp n
    let x := thrOf s t
    let m := mpOf s n
    let r : Regs := let g := x.loads.foldl (fun g l => g.setG l.1 l.2) (regsOf s t); { g with pc := g.pc + (if m.wfi then 4 else 0) }
    let isp := m.isp.toNat
    let vec := ((act s (aMPC + 0x100 * n.toNat)).extractLsb' 7 11).toNat * 128 + 8 * (l - 1)
    let frame := lowBytes 8 r.pc ++ lowBytes 4 (r.sr.setWidth 64) ++ lowBytes 4 (m.lvl.setWidth 64) ++ lowBytes 8 r.lr ++ lowBytes 8 r.rc ++ lowBytes 8 r.ml ++
      lowBytes 8 r.mh ++ lowBytes 8 0 ++ lowBytes 8 (r.gr 0) ++ lowBytes 8 (r.gr 1) ++ lowBytes 8 (r.gr 2) ++ lowBytes 8 (r.gr 3) ++ lowBytes 8 (r.gr 12) ++
      lowBytes 8 (r.gr 13) ++ lowBytes 8 (r.gr 14) ++ lowBytes 16 0
    inRun s = true → m.stopped = false → m.fenced = false → x.egress = none → chanOf s (tkey t) = none →
    qualifies s n m.lvl.toNat (r.sr.getLsbD 10) = some l → isp + 128 ≤ ((act s (aMPC + 0x100 * n.toNat + 8)).extractLsb' 7 11).toNat * 128 →
    Answers (.interruptEntry n) s fun u =>
      (∀ i, i < 128 → memGet u (tcmKey n (isp + i)) = frame.getD i 0) ∧ SameMemoryBut s u (tcmKey n isp) 128 ∧
        mpOf u n = { m with isp := m.isp + 128, depth := m.depth + 1, lvl := BitVec.ofNat 4 l, wfi := false } ∧
        (∀ i, i < 64 → (regsOf u t).pc.getLsbD i = (memGet u (tcmKey n ((vec + i / 8) % 0x40000))).getLsbD (i % 8)) ∧
        regsOf u t = { r with sr := (r.sr &&& ~~~0xF00#32) ||| 0x200, lr := 0xFFFFFFFFFFFFFFF8, pc := (regsOf u t).pc } ∧
        thrOf u t = { x with
          loads := [], inRep := false, md := none,
          mdFrame := x.mdFrame ++ (match x.md with | some (lo, hi) => [(lo, hi, isp + 0x20)] | none => []) } ∧ OtherThreads s u t

/-- The scheduler (R183 to R189): a free slot takes the highest-ranked READY context once its record is loaded; a READY context of higher priority, or at the end of the time
slice of the same, makes the RESIDENT one that yields first stop; the switch exchanges them; records are loaded and saved through the buffers of the cluster. -/
def Obligations.SchedulingMovesContexts : Prop :=
  ∀ (s : State) (cl : BitVec 6) (o i : CtxId) (k : Nat) (r : Regs),
    let n := cl.toNat
    let y := clOf s n
    let best := i ∈ readyOn s n ∧ ∀ d ∈ readyOn s n, d ≠ i → goesFirst s i d = true
    let idle := (thrOf s (.ctx o)).phase = .code ∧ (thrOf s (.ctx o)).bus = none ∧ (thrOf s (.ctx o)).egress = none ∧ chanOf s o.toNat = none
    let decided : State → Prop := fun u => clOf u n = { y with switch := some (o, i) } ∧ { u with eng := { u.eng with cls := s.eng.cls } } = s
    clOn s n = true →
    ((∀ c ∈ inState s .ready, pinOf s c = false) → best → isLoaded s n i = true → (freeSlots s n).head? = some k →
      Answers (.slotFill cl) s fun u => stOf u i = .resident ∧ sget none u.eng.occ (16 * n + k) = some i ∧ isLoaded u n i = false ∧ OtherLive s u i ∧
        SameMemory s u) ∧
    (y.switch = none → freeSlots s n = [] → best → o ∈ residentOn s n → (∀ d ∈ residentOn s n, d ≠ o → yieldsFirst s o d = true) →
      prioOf s o < prioOf s i → stOf s o = .resident → idle → Answers (.preemption cl) s decided) ∧
    (homeOf s o = n → (act s (aENG + 0xA0)).extractLsb' 0 24 ≠ 0 → y.switch = none → o ∈ residentOn s n → best → prioOf s o ≤ prioOf s i →
      stOf s o = .resident → idle → Answers (.quantumExpiry o) s decided) ∧
    (y.switch = some (o, i) → o ≠ i → slotOf s o = some k → stOf s o = .resident → stOf s i = .ready → isLoaded s n i = true → y.saveBufs.length < 2 →
      Answers (.contextSwitch cl) s fun u => stOf u o = .ready ∧ stOf u i = .resident ∧ sget none u.eng.occ k = some i ∧ (clOf u n).switch = none ∧
        (thrOf u (.ctx o)).readyAt = s.stamp ∧
        (clOf u n).saveBufs = y.saveBufs ++ [(o, { settleRegs (thrOf s (.ctx o)) (regsOf s (.ctx o)) with stb := 2, waitw := 0 })] ∧ SameMemory s u) ∧
    (homeOf s i = n → i ∈ readyOn s n → isLoaded s n i = false → ranksTop s n i = true → recUpset s i = false → slotRegs s i.toNat = none → storesDone s i = true →
      (Answers (.recordLoad i []) s fun u => (i, recOf s i) ∈ (clOf u n).loadBufs ∧ { u with eng := { u.eng with cls := s.eng.cls } } = s) ∧
      ∀ (w : BitVec 5) (syn : Byte), Answers (.recordLoad i [(w, .ue syn)]) s fun u => stOf u i = .halted ∧ isUpset u (recKey i w.toNat) = true ∧
        imr u (aMEM + 0x2C) = satAdd (imr s (aMEM + 0x2C)) 1) ∧
    (∀ rest, y.saveBufs = (o, r) :: rest → slotRegs s o.toNat = some r → inSlot s o = false →
      Answers (.gallerySaveDone cl) s fun u => recOf u o = r ∧ slotRegs u o.toNat = none ∧ (clOf u n).saveBufs = rest ∧ regsOf u (.ctx o) = r ∧
        (∀ d, d ≠ o → recOf u d = recOf s d) ∧ SameMemory s u)

/-- The context commands (R177, R179, R180, R200, R203): ALLOC makes a FREE context IDLE; RELEASE of an IDLE or HALTED one makes it FREE, and RESET of any that is not FREE makes it
IDLE, with its record cleared but for its settings; HALT makes one with work HALTED with its report, and RESET acts as HALT first; both wait, with BUSY = 1, for a channel that moves data to stop.
The locks of the context are broken. A command on a context that is not in its state only shows in GAL_CTX_STS, where one given while BUSY = 1 is REFUSED. -/
def Obligations.ContextCommandsMoveTheLifeCycle : Prop :=
  ∀ (s : State) (c : CtxId) (ch : Xfer) (lvl : Lvl) (kr : Nat), clocksOn s = true → Reaches lvl 2 →
    let t : Thread := .ctx c
    let x := thrOf s t
    let l := liveOf s c
    let r := regsOf s t
    let status := aGAL + 0x24
    let shown := fun (u : State) (op : Nat) (refused : Bool) => imr u status = BitVec.ofNat 32 (c.toNat + op * 0x40000 + (if refused then 0x400000 else 0))
    let onlyStatus := fun (u : State) => OtherIm s u status ∧ ImBack s u = s
    let broken := fun (u : State) => swf (fun _ => (0 : Word)) s.gal.locks = true → ∀ n : Nat,
      lockOf u n = if (lockOf s n).getLsbD 19 ∧ (lockOf s n).extractLsb' 0 19 = c.setWidth 19 then lockBroken (lockOf s n) else lockOf s n
    let left := fun (u : State) => ∀ k, slotOf s c = some k → sget none u.eng.occ k = none
    let atRest := stOf s c = .idle ∨ stOf s c = .halted
    let working := stOf s c = .ready ∨ stOf s c = .resident ∨ stOf s c = .waiting ∨ stOf s c = .held
    let still := working ∧ chanOf s c.toNat = none ∧ x.sb = [] ∧ x.last = none ∧ x.origin = none ∧ x.haltEnt = []
    let moving := working ∧ chanOf s c.toNat = some ch ∧ ch.left ≠ 0 ∧ ch.granted = true ∧ ch.paused = false
    let repAt := (r.repa.extractLsb' 5 43).toNat * 32 + l.ridx.toNat % 2 ^ Nat.min 16 (r.repa.extractLsb' 0 5).toNat * 32
    let reportable := r.repa ≠ 0 ∧ ∀ i, i < 32 → wrKey s (ctxAgent s c) (if r.ceil = 0 then 0 else 1) (repAt + i) = some (kr + i)
    let reported := fun (u : State) =>
      (∀ i, i < 32 → memGet u (kr + i) = (repBytes s c (repNow s c 0x1000 0x17 (haltResidual s c))).getD i 0) ∧ SameMemoryBut s u kr 32
    let cleared : Regs :=
      { stb := 0, ceil := r.ceil, rlen := r.rlen, wen := r.wen, siga := r.siga, repa := r.repa, exv := r.exv, sw := r.sw }
    let resets := fun (u : State) => shown u 3 false ∧ stOf u c = .idle ∧ (liveOf u c).pend = 0 ∧ (liveOf u c).waitk = 0 ∧ OtherLive s u c ∧ left u ∧ broken u ∧
      (chstOf u c).paused = false ∧ thrOf u t = {} ∧ { recOf u c with stb := 0 } = cleared ∧ regsOf u t = recOf u c
    let halts := fun (u : State) => shown u 4 false ∧ stOf u c = .halted ∧ (liveOf u c).pend = l.pend ∧ (liveOf u c).waitk = 0 ∧ OtherLive s u c ∧ left u ∧ broken u ∧
      (chstOf u c).paused = false ∧ thrOf u t = {} ∧ ∀ g, slotRegs s c.toNat = some g → recOf u c = { settleRegs x g with stb := 6, waitw := 0 }
    let stops := fun (op : Nat) (u : State) => shown u op false ∧ u.gal.cmdBusy = some (c, BitVec.ofNat 3 op) ∧
      chanOf u c.toNat = some { ch with stopping := some .halt } ∧ OtherIm s u status ∧
      { ImBack s u with mov := { u.mov with chans := s.mov.chans }, gal := { u.gal with cmdBusy := none } } = s
    (s.gal.cmdBusy = none →
      (stOf s c = .free → Answers (.alloc lvl c) s fun u => shown u 1 false ∧ OtherIm s u status ∧ liveOf u c = { st := .idle } ∧ OtherLive s u c ∧
        { ImBack s u with gal := { u.gal with live := s.gal.live } } = s) ∧
      (stOf s c ≠ .free → Answers (.alloc lvl c) s fun u => shown u 1 false ∧ onlyStatus u) ∧
      (atRest → Answers (.release lvl c) s fun u => shown u 2 false ∧ liveOf u c = { l with st := .free, pend := 0, waitk := 0 } ∧ OtherLive s u c ∧ left u ∧
        broken u ∧ (chstOf u c).paused = false ∧ SameMemory s u) ∧
      (stOf s c = .free → Answers (.release lvl c) s fun u => shown u 2 false ∧ onlyStatus u) ∧
      (working → Answers (.release lvl c) s fun u => shown u 2 true ∧ onlyStatus u) ∧
      (atRest → Answers (.reset lvl c) s fun u => shown u 3 false ∧ liveOf u c = { l with st := .idle, pend := 0, waitk := 0 } ∧ OtherLive s u c ∧ u.eng.occ = s.eng.occ ∧
        broken u ∧ (chstOf u c).paused = false ∧ SameMemory s u ∧ thrOf u t = { sb := x.sb } ∧
        (let g := recOf s c
         recOf u c = { stb := g.stb, ceil := g.ceil, rlen := g.rlen, wen := g.wen, siga := g.siga, repa := g.repa, exv := g.exv, sw := g.sw }) ∧
        regsOf u t = recOf u c) ∧
      (stOf s c = .free → Answers (.reset lvl c) s fun u => shown u 3 false ∧ onlyStatus u) ∧
      (still →
        (r.repa = 0 → Answers (.halt lvl c) s (fun u => halts u ∧ (liveOf u c).ridx = l.ridx ∧ SameMemory s u) ∧
          Answers (.reset lvl c) s fun u => resets u ∧ (liveOf u c).ridx = l.ridx ∧ SameMemory s u) ∧
        (reportable → Answers (.halt lvl c) s (fun u => halts u ∧ (liveOf u c).ridx = l.ridx + 1 ∧ reported u) ∧
          Answers (.reset lvl c) s fun u => resets u ∧ (liveOf u c).ridx = l.ridx + 1 ∧ reported u)) ∧
      (moving → Answers (.halt lvl c) s (stops 4) ∧ Answers (.reset lvl c) s (stops 3)) ∧
      (stOf s c = .free ∨ atRest → Answers (.halt lvl c) s fun u => shown u 4 false ∧ onlyStatus u)) ∧
    (s.gal.cmdBusy ≠ none → ∀ i ∈ [Instr.alloc lvl c, .release lvl c, .reset lvl c, .halt lvl c],
      Answers i s fun u => imr u status = imr s status ||| 0x400000 ∧ onlyStatus u)

/-- Indirect accesses (R171, R203, R256, R265, R334, R371, R401, R423, R518): a command of an access port whose BUSY is 0 begins its access with the operands as they are, one that
its table refuses or that meets BUSY = 1 sets REFUSED and does nothing else, but SYNCWR when only a copy of the banks stops it; at the end of an access BUSY falls, a read is in the data
registers, and a write is in its table: a record word without its reserved bits, RIDX of a live word, the fields of a staged word. -/
def Obligations.IndirectAccessesRunToTheirEnd : Prop :=
  ∀ (s : State) (lvl : Lvl), clocksOn s = true →
    let only := fun (u : State) => { u with reg := { u.reg with acc := s.reg.acc, accRef := s.reg.accRef } } = s
    let others := fun (u : State) (a : AccPort) => ∀ b, b ≠ a → accRefused u b = accRefused s b
    let begins := fun (i : Instr) (a : AccPort) (w : Bool) => Answers i s fun u =>
      u.reg.acc = s.reg.acc ++ [(a, { write := w, sel := accSel s a, data := accVal s a })] ∧ accBusy u a = true ∧ accRefused u a = false ∧ others u a ∧ only u
    let refused := fun (i : Instr) (a : AccPort) => Answers i s fun u => u.reg.acc = s.reg.acc ∧ accRefused u a = true ∧ others u a ∧ only u
    let copied := fun (i : Instr) (a : AccPort) => Answers i s fun u => u.reg.acc = s.reg.acc ∧ accRefused u a = true ∧ others u a ∧ u.lnd.syncwr = true ∧
      only { u with lnd := { u.lnd with syncwr := s.lnd.syncwr } }
    let port := fun (a : AccPort) (rd wr : Instr) =>
      (accBusy s a = false → begins rd a false) ∧ (accBusy s a = true → refused rd a ∧ refused wr a) ∧
        (accBusy s a = false → accRefuse s a (accSel s a) = false → begins wr a true) ∧
        (accBusy s a = false → accRefuse s a (accSel s a) = true →
          (s.lnd.syncBusy = none → refused wr a) ∧
          (s.lnd.syncBusy ≠ none → accRefuse { s with lnd := { s.lnd with syncBusy := none } } a (accSel s a) = true → refused wr a) ∧
          (s.lnd.syncBusy ≠ none → accRefuse { s with lnd := { s.lnd with syncBusy := none } } a (accSel s a) = false → copied wr a))
    (Reaches lvl 2 →
      port .gal (.galAccRead lvl) (.galAccWrite lvl) ∧ port .pa (.paTacRead lvl false) (.paTacWrite lvl false) ∧
        port .pb (.paTacRead lvl true) (.paTacWrite lvl true) ∧ port .rm (.rmPtRead lvl) (.rmPtWrite lvl) ∧ port .dpt (.dptTacRead lvl) (.dptTacWrite lvl)) ∧
    (Reaches lvl 1 → port .wq (.wqAccRead lvl) (.wqAccWrite lvl) ∧ port .evt (.evtAccRead lvl) (.evtAccWrite lvl)) ∧
    (∀ (a : AccPort) (op : AccOp), (s.reg.acc.find? fun e => e.1 == a) = some (a, op) →
      let done := fun (P : State → Prop) => Answers (.indirectAccessDone a) s fun u => accBusy u a = false ∧ (∀ b, b ≠ a → accBusy u b = accBusy s b) ∧ P u
      let c : CtxId := BitVec.ofNat 18 (op.sel / 2 ^ 32)
      let area := op.sel / 256 % 4
      let w := op.sel / 8 % 32
      let half := a = .gal ∧ (area = 1 ∨ area = 2)
      let mask : DWord := if w = 26 then 0x00000F3F00000F3F else if w = 27 then 0xFFFFFFFF3FFF03FF else if w = 30 then 0x0000FFFFFFFFFF00 else BitVec.allOnes 64
      let stages := fun (T : Tab) (k n : Nat) (m : DWord) => done fun u =>
        tabS u T k n = (mergeTab (tabS s T k n) ((tabS s T k n &&& ~~~m) ||| (op.data &&& m)) (tabFlds T n)).1 ∧
          (∀ j, j ≠ tkeyOf T k n → sget (tabReset j) u.reg.tabS j = sget (tabReset j) s.reg.tabS j) ∧ u.reg.tabA = s.reg.tabA ∧ SameMemory s u
      let all : DWord := BitVec.allOnes 64
      (op.write = false → done fun u => imr u (accData a).1 = (accRead s a op.sel).1.setWidth 32 ∧
        (a ≠ .evt → imr u (accData a).2 = if half then imr s (accData a).2 else (accRead s a op.sel).1.extractLsb' 32 32) ∧
        ((accRead s a op.sel).2 = true → a = .gal ∧ isUpset s (recKey c w) = true ∧ imr u (aMEM + 0x2C) = satAdd (imr s (aMEM + 0x2C)) 1) ∧
        ((accRead s a op.sel).2 = false → (∀ b, b ≠ (accData a).1 → b ≠ (accData a).2 → imr u b = imr s b) ∧
          { u with reg := { u.reg with im := s.reg.im, acc := s.reg.acc, accEcc := s.reg.accEcc } } = s)) ∧
      (op.write = true → a = .gal → area = 0 →
        done fun u => recWord (recOf u c) w = op.data &&& mask ∧ (∀ v, v ≠ w → recWord (recOf u c) v = recWord (recOf s c) v) ∧
          (∀ d, d ≠ c → recOf u d = recOf s d) ∧ SameMemory s u) ∧
      (op.write = true → a = .gal → area = 3 →
        done fun u => liveOf u c = { liveOf s c with ridx := op.data.extractLsb' 32 16 } ∧ OtherLive s u c ∧ SameMemory s u) ∧
      (op.write = true → s.boot.st = .run → s.lnd.syncBusy = none → s.lnd.judged = none →
        (half → area = 1 → stages .cct c.toNat 0 0xFFFFFFFF) ∧
        (a = .wq → stages .wq (op.sel / 2 ^ 32 % 4096) (op.sel % 8) all) ∧
        (a = .rm → stages .pair (op.sel / 2 ^ 32 % 0x4000) 0 all) ∧
        (a = .dpt → stages .canFilter (op.sel % 256) 0 all) ∧
        (a = .evt → stages .evt (op.sel / 2 ^ 32 % 2048) 0 all) ∧
        (∀ (b : Bool) (T : Tab) (k n : Nat) (live : List Nat), a = (if b then .pb else .pa) → portTab b (op.sel / 4096 % 16) = some (T, k, n, live) →
          stages T (op.sel % 4096) (op.sel / 65536 % 16) all)))

/-- Table copies, lock breaks and code (R175, R190, R191, R192, R202, R252, R265, R270): a copy begins at its command, or after the landing when the command comes in the judgement interval, and at
its end the STAGED bank holds what the ACTIVE bank holds; a broken lock cell is free with BROKEN and its event; an invalidation empties the Orchard and every instruction cache; a fill puts its line first. -/
def Obligations.CopiesAndCachesRunToTheirEnd : Prop :=
  ∀ (s : State) (lvl : Lvl) (cell : BitVec 12) (all : Bool) (cl : BitVec 6) (line : BitVec 42), clocksOn s = true →
    let copies := fun (i : Instr) (code : Byte) (busy : Bool) (run : State) =>
      (busy = true → exec i s = .next s) ∧ (busy = false → s.lnd.judged = none → exec i s = .next run) ∧
        (busy = false → s.lnd.judged ≠ none → s.lnd.heldGo.contains code = false →
          exec i s = .next { s with lnd := { s.lnd with heldGo := s.lnd.heldGo ++ [code] } })
    let region := fun (u : State) (t : Tab) =>
      swf tabReset s.reg.tabA = true → swf tabReset s.reg.tabS = true → ∀ k, sget (tabReset k) u.reg.tabS k =
        if k / 0x1000000 = t.no then sget (tabReset k) s.reg.tabA k else sget (tabReset k) s.reg.tabS k
    let n := cl.toNat
    (Reaches lvl 2 → copies (.galCctSyncGo lvl) 0 s.gal.cctBusy { s with gal := { s.gal with cctBusy := true } } ∧
      copies (.lndSyncRegs lvl) 2 s.lnd.syncBusy.isSome { s with lnd := { s.lnd with syncBusy := some false } } ∧
      copies (.lndSyncAll lvl) 3 s.lnd.syncBusy.isSome { s with lnd := { s.lnd with syncBusy := some true } }) ∧
    (Reaches lvl 1 → copies (.wqDsyncGo lvl) 1 s.wq.copyBusy { s with wq := { s.wq with copyBusy := true } }) ∧
    (s.gal.cctBusy = true → Answers .cctCopyDone s fun u => u.gal.cctBusy = false ∧ region u .cct ∧
      { u with reg := { u.reg with tabS := s.reg.tabS }, gal := { u.gal with cctBusy := true } } = s) ∧
    (s.wq.copyBusy = true → Answers .wqCopyDone s fun u => u.wq.copyBusy = false ∧ region u .wq ∧
      { u with reg := { u.reg with tabS := s.reg.tabS }, wq := { u.wq with copyBusy := true } } = s) ∧
    (s.lnd.syncBusy = some all → Answers .lndCopyDone s fun u => u.lnd.syncBusy = none ∧ (∀ a, stg u a = act s a ∧ act u a = act s a) ∧
      u.reg.tabS = (if all then s.reg.tabA else s.reg.tabS) ∧
      { u with reg := { u.reg with stg := s.reg.stg, tabS := s.reg.tabS }, lnd := { u.lnd with syncBusy := some all } } = s) ∧
    (Reaches lvl 2 → (lockOf s cell.toNat).getLsbD 19 = true →
      Answers (.galLockCmdBreak lvl cell) s fun u => lockOf u cell.toNat = lockBroken (lockOf s cell.toNat) ∧
        (∀ m, m ≠ cell.toNat → lockOf u m = lockOf s m) ∧ Fired s u 0x4A0 (cell.setWidth 32) ∧
        imr u (aGAL + 0x54) = BitVec.ofNat 32 (Nat.min ((imr s (aGAL + 0x54)).toNat + 1) 0xFFFF) ∧ SameMemory s u) ∧
    (Reaches lvl 2 → (lockOf s cell.toNat).getLsbD 19 = false → exec (.galLockCmdBreak lvl cell) s = .next s) ∧
    (Reaches lvl 2 → s.eng.invBusy = false → exec (.engCodeInvGo lvl) s = .next { s with eng := { s.eng with invBusy := true } }) ∧
    (s.eng.invBusy = true → Answers .codeInvDone s fun u => u.eng.invBusy = false ∧ u.eng.orch = [] ∧ (∀ k, (clOf u k).icache = []) ∧
      { u with eng := { u.eng with invBusy := true, orch := s.eng.orch, cls := s.eng.cls } } = s) ∧
    (∀ bs s1, inRun s = true → n ≤ 32 → (clOf s n).mode ≠ .fenced → orchLine s n (64 * line.toNat) = some (bs, s1) →
      stalled s (.cl n) (64 * line.toNat) = false ∨ orchHas s line.toNat = true →
      (s.eng.invBusy = true → Answers (.instructionCacheFill cl { line := line, orch := .good, icache := .good }) s fun u =>
        u.eng.orch = s.eng.orch ∧ u.eng.cls = s.eng.cls ∧
          (orchCaches s n (64 * line.toNat) = true → imr u (aENG + 0x310) = satAdd (imr s (aENG + 0x310)) 1)) ∧
      (∀ syn, line.toNat ∈ (clOf s n).icache → Answers (.instructionCacheFill cl { line := line, orch := .good, icache := .ue syn }) s fun u =>
        u.memc.widx = s.memc.widx + 1 ∧ (sget {} u.memc.log (s.memc.widx.toNat % 256)).typ = 4 ∧ (sget {} u.memc.log (s.memc.widx.toNat % 256)).memid = 7 ∧
          imr u (aMEM + 0x2C) = satAdd (imr s (aMEM + 0x2C)) 1) ∧
      (s.eng.invBusy = false → Answers (.instructionCacheFill cl { line := line, orch := .good, icache := .good }) s fun u => (clOf u n).icache.head? = some line.toNat ∧
        (∀ l ∈ (clOf u n).icache, l = line.toNat ∨ l ∈ (clOf s1 n).icache) ∧
        ((clOf u n).icache.filter fun l => l % 256 = line.toNat % 256).length ≤ 4 ∧ (∀ k, k ≠ n → clOf u k = clOf s1 k) ∧
        { u with eng := { u.eng with cls := s1.eng.cls, victims := s1.eng.victims } } = s1))

/-- Registers (R3, R4, R5, R6, R27, R28, R260): a write to a staged setting takes its defined fields into the STAGED bank and leaves the ACTIVE bank, with GLB_RSVD_WR
for a reserved encoding or bit; a write where no register lies only sets GLB_RSVD_WR; a read of a counter clears it; a read of TIME_NOW_NS_LO or TIME_LND_NUM_LO fills the words beside it. -/
def Obligations.RegistersAreWrittenAndRead : Prop :=
  ∀ (s : State) (addr : BitVec 24) (v : Word) (row : Row) (i : Nat) (lvl : Lvl), clocksOn s = true →
    let a := addr.toNat
    let now := s.time.now.toNat
    (Settled s → Reaches lvl 2 → a % 4 = 0 → a < 0x110000 →
      (regAt a = some (row, i) → row.acc = .rw → row.ls = true → s.boot.st = .run → s.lnd.syncBusy = none → s.lnd.judged = none → s.lnd.held = [] →
        s.flt.lock = false →
        Answers (.registerWrite lvl addr v) s fun u => stg u a = (mergeReg (stg s a) v (row.flds i)).1 ∧ (∀ b, b ≠ a → stg u b = stg s b) ∧
          (∀ b, act u b = act s b) ∧ u.reg.rsvd = (s.reg.rsvd || (mergeReg (stg s a) v (row.flds i)).2) ∧
          { u with reg := s.reg, lnd := { u.lnd with wrdl := s.lnd.wrdl } } = s) ∧
      (regAt a = none → exec (.registerWrite lvl addr v) s = .next { s with reg := { s.reg with rsvd := true } }) ∧
      (Reaches lvl 1 → regAt a = some (row, i) → row.acc = .rc → ¬(0xB0120 ≤ a ∧ a < 0xB0620) →
        Answers (.rcRead lvl addr) s fun u => imr u a = 0 ∧ OtherIm s u a ∧ ImBack s u = s)) ∧
    (Reaches lvl 2 → exec (.glbRsvdWrClear lvl v) s =
      .next { s with reg := { s.reg with rsvd := (s.reg.rsvd && !v.getLsbD 0) || decide (v >>> 1 ≠ 0) } }) ∧
    (Reaches lvl 1 → Answers (.timeNowNsLoRead lvl) s fun u => (imr u 0x030014).toNat = now / 2 ^ 32 ∧ (imr u 0x030018).toNat = now % 1000000000 ∧
      (imr u 0x03001C).toNat = now / 1000000000 % 2 ^ 32 ∧ (imr u 0x030020).toNat = now / 1000000000 / 2 ^ 32 % 2 ^ 16 ∧ ImBack s u = s) ∧
    (Reaches lvl 1 → Answers (.timeLndNumLoRead lvl) s fun u => (imr u 0x030054).toNat = s.lnd.num.toNat / 2 ^ 32 ∧
      (imr u 0x030058).toNat + 2 ^ 32 * (imr u 0x03005C).toNat = lndNext s ∧ ImBack s u = s) ∧
    (s.boot.stbyBusy = true → exec .stbyPllLock s = .next { s with boot := { s.boot with stbyBusy := false, stbyLock := true } })

/-- The channel commands (R8, R9, R218, R219, R221, R223, R232): each answers its RESULT; ENABLE and DISABLE follow the enable state, DISABLE with no transfer in flight
draining at once; STOP stops a granted step channel or MOVE as its class in force says, and is BUSY until STOP_DONE; PAUSE_BULK stops the BULK channels that hold an entry; UNPAUSE and
UNPAUSE_BULK let what was paused go on; a command while BUSY = 1 only shows 0b10. -/
def Obligations.ChannelCommandsAnswer : Prop :=
  ∀ (s : State) (c : CtxId) (lvl : Lvl) (x : Xfer), clocksOn s = true → Reaches lvl 1 →
    let m := s.mov
    let k := c.toNat
    let st := chstOf s c
    let otherCh := fun (u : State) => ∀ d, d ≠ c → chstOf u d = chstOf s d
    let onlyMov := fun (u : State) => { u with mov := s.mov } = s
    let result := fun (n : BitVec 2) => exec (.stop lvl c) s = .next { s with mov := { m with cmdCtx := c, cmdRes := n } }
    let becomes := fun (i : Instr) (y : ChSt) => Answers i s fun u => chstOf u c = y ∧ otherCh u ∧ u.mov.cmdCtx = c ∧ u.mov.cmdRes = 0 ∧ onlyMov u
    (m.cmdBusy = true → ∀ i ∈ [Instr.queryChannel lvl c, .enableChannel lvl c, .disableChannel lvl c, .stop lvl c, .unpause lvl c],
      exec i s = .next { s with mov := { m with cmdRes := 2 } }) ∧
    (m.cmdBusy = false →
      exec (.queryChannel lvl c) s = .next { s with mov := { m with cmdCtx := c, cmdRes := 0 } } ∧
      (st.en = .disabled → becomes (.enableChannel lvl c) { st with en := .active, enPend := false }) ∧
      (st.en = .draining → becomes (.enableChannel lvl c) { st with enPend := true } ∧ becomes (.disableChannel lvl c) { st with enPend := false }) ∧
      (st.en = .active → becomes (.enableChannel lvl c) st) ∧
      (st.en = .active → inFlight s c = false → becomes (.disableChannel lvl c) { st with en := .disabled, enPend := false }) ∧
      (st.en = .active → inFlight s c = true → becomes (.disableChannel lvl c) { st with en := .draining, enPend := false }) ∧
      (st.en = .disabled → becomes (.disableChannel lvl c) st) ∧
      (chanOf s k = none → result 1) ∧
      (chanOf s k = some x → x.granted = false ∨ x.paused = true ∨ isPortInstr x = true ∨ (x.stopping ≠ none ∧ x.stopping ≠ some .glob) → result 1) ∧
      (chanOf s k = some x → x.granted = true → x.paused = false → isPortInstr x = false → x.stopping = none ∨ x.stopping = some .glob →
        Answers (.stop lvl c) s fun u => chanOf u k = some { x with stopping := some (if timedOf s c then .timed else .bulk) } ∧
          (∀ j, j ≠ k → chanOf u j = chanOf s j) ∧
          u.mov = { m with chans := u.mov.chans, cmdCtx := c, cmdBusy := true, cmdRes := 0 } ∧ onlyMov u) ∧
      (st.paused = false → exec (.unpause lvl c) s = .next { s with mov := { m with cmdCtx := c, cmdRes := 1 } }) ∧
      (st.paused = true → chanOf s k = some x → x.offered = false → Answers (.unpause lvl c) s fun u =>
        chstOf u c = { st with paused := false } ∧ otherCh u ∧ u.mov.cmdCtx = c ∧ u.mov.cmdRes = 0 ∧ (∃ y, chanOf u k = some y ∧ y.paused = false) ∧
          onlyMov { u with stamp := s.stamp }) ∧
      (st.paused = true → chanOf s k = none → onMove s c = false → becomes (.unpause lvl c) { st with paused := false }) ∧
      (st.paused = true → chanOf s k = none → onMove s c = true → Answers (.unpause lvl c) s fun u =>
        Awake s u c ∧ chstOf u c = { st with paused := false } ∧ u.mov.cmdRes = 0 ∧ OtherLive s u c ∧ regsOf u (.ctx c) = regsOf s (.ctx c) ∧ SameMemory s u)) ∧
    (st.en = .draining → inFlight s c = false → Answers (.channelDrainEnd c) s fun u =>
      chstOf u c = { st with en := if st.enPend then .active else .disabled, enPend := false } ∧ otherCh u ∧ onlyMov u) ∧
    (Answers (.pauseBulk lvl) s fun u => u.mov.bulkPaused = true ∧ onlyMov { u with gal := { u.gal with live := s.gal.live } } ∧
      (∀ d, liveOf u d = if stOf s d = .waiting ∧ timedOf s d = false ∧ (∃ e ∈ m.chans, BitVec.ofNat 18 e.1 = d ∧ isCtxKey e.1 = true ∧
        e.2.offered = true ∧ isPortInstr e.2 = false) then { liveOf s d with waitk := 6 } else liveOf s d) ∧ u.mov.chans.map (·.1) = m.chans.map (·.1) ∧
      ∀ e ∈ m.chans, (e.1, if isCtxKey e.1 && !timedOf s (BitVec.ofNat 18 e.1) && e.2.granted && !isPortInstr e.2 && !e.2.offered &&
          decide (e.2.kind ≠ .sense) && !e.2.paused && e.2.stopping.isNone
        then { e.2 with stopping := some .glob } else e.2) ∈ u.mov.chans) ∧
    (m.bulkPaused = true → (∀ e ∈ m.chans, e.2.offered = false) → Answers (.unpauseBulk lvl) s fun u => u.mov.bulkPaused = false ∧ SameMemory s u ∧
      (∀ d ∈ bulkWaiters s, (stOf u d = .ready ∨ stOf u d = .resident) ∧ (liveOf u d).waitk = 0 ∧ (thrOf u (.ctx d)).wait = none) ∧
      ∀ d, d ∉ bulkWaiters s → liveOf u d = liveOf s d ∧ thrOf u (.ctx d) = thrOf s (.ctx d)) ∧
    (m.bulkPaused = false → exec (.unpauseBulk lvl) s = .next s)

/-- The end of channels (R121, R122, R209, R214, R217, R218, R219, R220, R222): a MOVE of plain memory that goes to its end has copied its bytes and no other byte of
memory, with its registers and PC moved on and its channel freed; a MOVE-IN of a whole unit has them in memory and its chain goes on; preemption keeps the bytes read and not written; a STOP pauses a
BULK channel and aborts a TIMED one. -/
def Obligations.ChannelsCompleteAndStop : Prop :=
  ∀ (s : State) (t : Thread) (c : CtxId) (x : Xfer) (ks kd : Nat), Settled s → clocksOn s = true →
    let n := x.count
    let fresh := x.left = n ∧ x.read = 0 ∧ x.kept = [] ∧ x.srcList = false ∧ x.dstList = false ∧ x.fs = false ∧ x.fd = false ∧ x.drop = false
    let calm := (memIf s false).retraining = false ∧ (memIf s true).retraining = false ∧ s.memc.upset = []
    let runs := fun (k : Nat) => chanOf s k = some x ∧ chanRuns s k x = true ∧ limiters s k x = [] ∧ calm
    let source := fun (k : Nat) => 0x110000 ≤ x.src.toNat ∧ ∀ i, i < n → rdKey s (chanAgent k x) (x.src.toNat + i) = some (ks + i)
    let dest := fun (k : Nat) => 0x110000 ≤ x.dst.toNat ∧ ∀ i, i < n → wrKey s (chanAgent k x) x.lvl (x.dst.toNat + i) = some (kd + i)
    let y := thrOf s (.ctx c)
    let r := regsOf s (.ctx c)
    let nothing := fun (why : Stop) => chanOf s c.toNat = some x ∧ x.kind = .moveMem ∧ x.stopping = some why ∧ x.kept = [] ∧ x.read = written x ∧
      s.mov.cmdBusy = true ∧ s.mov.cmdCtx = c ∧ x.left ≤ n ∧ x.granted = true ∧ calm
    (runs (tkey t) → fresh → x.kind = .move → x.crcsel = 0 → source (tkey t) → dest (tkey t) → ks + n ≤ kd ∨ kd + n ≤ ks → moveWatch s (tkey t) x n = none →
      x.gd ≠ x.ga → x.gd ≠ x.gb → x.ga ≠ x.gb →
      Answers (.moverComplete (match t with | .ctx d => .ctx d | .mp m => .mp m)) s fun u =>
        (∀ i, i < n → memGet u (kd + i) = memGet s (ks + i)) ∧ SameMemoryBut s u kd n ∧ chanOf u (tkey t) = none ∧
          (let g := regsOf s t
           let m : DWord := BitVec.ofNat 64 n
           regsOf u t = { ((g.setG x.ga (g.gr x.ga + m)).setG x.gd (g.gr x.gd + m)).setG x.gb (g.gr x.gb - m) with
             sr := srV g.sr false, pc := g.pc + 4 }) ∧ ∀ v, v ≠ t → regsOf u v = regsOf s v) ∧
    (∀ run, runs c.toNat → fresh → x.kind = .moveIn → dest c.toNat → stOf s c = .waiting → y.phase = .step → y.cur.lo.extractLsb' 0 8 = 8 → HasNextOnly y →
      y.wqMove = none → y.run = some run → run.inData = x.data → x.data.length = n → (y.cur.lo.extractLsb' 32 32).toNat = n →
      run.inEnd = some { crcBad := false, portErr := false, code := 0 } → fenceWait s c = false →
      Answers (.moverComplete (.ctx c)) s fun u => (∀ i, i < n → memGet u (kd + i) = x.data.getD i 0) ∧ SameMemoryBut s u kd n ∧
        chanOf u c.toNat = none ∧ (stOf u c = .ready ∨ stOf u c = .resident) ∧ (regsOf u (.ctx c)).stpa = r.stpa + 16 ∧
        (thrOf u (.ctx c)).phase = .fetch ∧ (thrOf u (.ctx c)).run = none ∧ OtherLive s u c) ∧
    (∀ (w : Owner) (z : Xfer) (rd : Nat), chanOf s (okey w) = some z → chanOf s c.toNat = some x → takesMover s (okey w) c.toNat z x = true → limiters s c.toNat x = [] →
      calm → x.kind = .moveMem → x.req = none → x.srcList = false → x.dstList = false → x.fs = false → x.drop = false → x.read ≤ rd → rd ≤ n →
      x.left ≤ n → written x ≤ rd → rd - written x ≤ 128 → atBeat (srcPlan s c.toNat x).1 x.read rd = true → source c.toNat →
      Answers (.channelPreempt w (.ctx c) rd (written x)) s fun u =>
        chanOf u c.toNat = some { x with
          read := rd, age := s.stamp, running := false, kept := x.kept ++ (List.range (rd - x.read)).map fun i => memGet s (ks + x.read + i) } ∧
          chanOf u (okey w) = some { z with running := true } ∧ (∀ j, j ≠ c.toNat → j ≠ okey w → chanOf u j = chanOf s j) ∧ imr u (aMOV + 0x20) = satAdd (imr s (aMOV + 0x20)) 1 ∧
          (∀ v, regsOf u v = regsOf s v) ∧ (∀ d, liveOf u d = liveOf s d) ∧ SameMemory s u) ∧
    (nothing .bulk → (stOf s c = .waiting → (liveOf s c).waitk = 6) → Answers (.stopDone c x.read) s fun u => chanOf u c.toNat = some { x with paused := true, stopping := none, running := false } ∧
      (chstOf u c).paused = true ∧ u.mov.cmdBusy = false ∧ u.mov.cmdRes = 0 ∧ (∀ d, liveOf u d = liveOf s d) ∧ (∀ v, regsOf u v = regsOf s v) ∧ SameMemory s u) ∧
    (nothing .timed → stOf s c = .waiting → y.phase = .step → y.cur.lo.extractLsb' 0 8 = 0xA → y.src.lo.extractLsb' 0 8 = 0xB → HasNextOnly y → y.wqMove = none → r.repa = 0 →
      Answers (.stopDone c x.read) s fun u => chanOf u c.toNat = none ∧ u.mov.cmdBusy = false ∧ u.mov.cmdRes = 0 ∧
        imr u (aMOV + 0x24) = satAdd (imr s (aMOV + 0x24)) 1 ∧ (stOf u c = .ready ∨ stOf u c = .resident) ∧ (regsOf u (.ctx c)).stpa = r.stpa + 32 ∧
        Fired s u (evlOf s c) (BitVec.ofNat 32 (c.toNat + 0x100000 + 0x18 * 0x1000000)) ∧ OtherLive s u c ∧ SameMemory s u)

/-- Queues and their states (R8, R9, R234, R236, R241, R242, R243, R248, R249, R250): a doorbell ends a poll wait or counts; ENABLE makes a queue with a good BASE ACTIVE, DISABLE drains it, at
once when no started entry is open; an entry that the device owns is fetched and its OWN bit cleared, else the queue polls; a malformed entry puts the queue in ERROR; a publication leaves as HEADPUB. -/
def Obligations.QueuesFollowTheirStates : Prop :=
  ∀ (s : State) (q : QId) (lvl : Lvl) (k : Nat) (bs : List Byte) (e : WqEntry), clocksOn s = true →
    let x := wqOf s q
    let a := entryAddr x x.tail
    let others := fun (u : State) => ∀ p, p ≠ q → wqOf u p = wqOf s p
    let becomes := fun (u : State) (y : WqLive) => wqOf u q = y ∧ others u
    let onlyWq := fun (u : State) => { u with wq := s.wq } = s
    let enabled : WqLive :=
      { x with st := .active, enPend := false, errcode := 0, stopRead := false, rung := false, polling := none, base := (wqW s q 0).extractLsb' 6 42 ++ 0#6 |>.setWidth 64,
               log2 := (wqW s q 1).extractLsb' 0 5, tokens := (wqW s q 1).extractLsb' 8 8 }
    let drained : WqLive := { x with st := .disabled, enPend := false, tail := x.head, ents := [], polling := none, notify := false }
    let even := (wqW s q 3).getLsbD 10 = true
    let line := ((wqW s q 3).extractLsb' 0 10).toNat
    (Reaches lvl 1 →
      (x.st = .active → Answers (.wqDoorbell lvl q) s fun u =>
        becomes u { x with polling := none, rung := x.rung || (x.polling.isNone && mayFetch s q) } ∧ onlyWq u) ∧
      (x.st ≠ .active → Answers (.wqDoorbell lvl q) s fun u => imr u (aWQ + 0x4C) = satAdd (imr s (aWQ + 0x4C)) 1 ∧ OtherIm s u (aWQ + 0x4C) ∧ ImBack s u = s) ∧
      exec (.queryQueue lvl q) s = .next { s with wq := { s.wq with cmdQ := q } } ∧
      (x.st = .disabled → baseOk s q = true → Answers (.enableQueue lvl q) s fun u => becomes u enabled ∧ u.wq.cmdQ = q ∧ u.wq.cmdRefused = false ∧ onlyWq u) ∧
      (x.st = .disabled → baseOk s q = false → exec (.enableQueue lvl q) s = .next { s with wq := { s.wq with cmdQ := q, cmdRefused := true } }) ∧
      (x.st = .draining → baseOk s q = true → Answers (.enableQueue lvl q) s fun u => becomes u { x with enPend := true } ∧ u.wq.cmdRefused = false ∧ onlyWq u) ∧
      (x.st = .draining → baseOk s q = false →
        exec (.enableQueue lvl q) s = .next { s with wq := { s.wq with cmdQ := q, cmdRefused := !x.enPend } }) ∧
      (x.st = .active ∨ x.st = .error → exec (.enableQueue lvl q) s = .next { s with wq := { s.wq with cmdQ := q, cmdRefused := false } }) ∧
      (x.st = .disabled → exec (.disableQueue lvl q) s = .next { s with wq := { s.wq with cmdQ := q } }) ∧
      (x.st = .draining → Answers (.disableQueue lvl q) s fun u => becomes u { x with enPend := false } ∧ u.wq.cmdQ = q ∧ onlyWq u) ∧
      (x.st = .active ∨ x.st = .error → (∃ d ∈ x.ents, d.started = true ∧ d.done = false) → Answers (.disableQueue lvl q) s fun u =>
        becomes u { x with st := .draining, enPend := false, ents := x.ents.filter fun d => d.started, polling := none } ∧ u.wq.cmdQ = q ∧ onlyWq u) ∧
      (x.st = .active ∨ x.st = .error → (∀ d ∈ x.ents, d.started = true → d.done = true) → x.head = x.pubhead → Answers (.disableQueue lvl q) s fun u =>
        becomes u drained ∧ u.wq.cmdQ = q ∧ SameMemory s u ∧ (even → Fired s u line (BitVec.ofNat 32 (q.toNat + 6 * 0x100000))))) ∧
    (x.st = .draining → (∀ d ∈ x.ents, d.started = true → d.done = true) → x.head = x.pubhead →
      Answers (.queueDrainEnd q) s fun u => SameMemory s u ∧ (even → Fired s u line (BitVec.ofNat 32 (q.toNat + 6 * 0x100000))) ∧
        (x.enPend = false → becomes u drained) ∧ (x.enPend = true →
          becomes u { enabled with tail := x.head, ents := [], notify := false })) ∧
    (stalledIn s .sct a 64 = true → exec (.entryFetch q) s = .next s) ∧
    (mayFetch s q = true → stalledIn s .sct a 64 = false → rdBytes s .sct a 64 = some bs →
      ((bs.getD 0 0).getLsbD 7 = true → wrKey s .sct 2 a = some k → Answers (.entryFetch q) s fun u =>
        becomes u { x with tail := x.tail + 1, rung := false, ents := x.ents ++ [{ cnt := x.tail, bytes := bs, err := entryErr s bs }] } ∧
          memGet u k = bs.getD 0 0 &&& 0x7F ∧ SameMemoryBut s u k 1) ∧
      ((bs.getD 0 0).getLsbD 7 = false → x.rung = true → Answers (.entryFetch q) s fun u => becomes u { x with rung := false } ∧ onlyWq u) ∧
      ((bs.getD 0 0).getLsbD 7 = false → x.rung = false → Answers (.entryFetch q) s fun u =>
        becomes u { x with polling := some (s.time.now + ((wqW s q 1).extractLsb' 32 24).setWidth 64 * 64) } ∧ onlyWq u)) ∧
    (mayFetch s q = true → stalledIn s .sct a 64 = false → rdBytes s .sct a 64 = none → Answers (.entryFetch q) s fun u =>
      becomes u { x with tail := x.tail + 1, stopRead := true, rung := false, ents := x.ents ++ [{ cnt := x.tail, bytes := [], err := 5 }] } ∧ onlyWq u) ∧
    (∀ v, x.polling = some v → Answers (.pollWaitEnd q) s fun u => becomes u { x with polling := none } ∧ u.time.now.toNat = Nat.max s.time.now.toNat v.toNat ∧
      { u with wq := s.wq, time := s.time } = s) ∧
    (x.st = .active → startEntry x = some e → e.err ≠ 0 → x.head = x.pubhead → Answers (.queueError q) s fun u =>
      becomes u { x with st := .error, erridx := e.cnt, errcode := e.err, ents := x.ents.filter fun d => d.started, polling := none, notify := false } ∧
        imr u (aWQ + 0x50) = BitVec.ofNat 32 (q.toNat + e.err.toNat * 0x10000) ∧ SameMemory s u ∧
        (even → Fired s u line (BitVec.ofNat 32 (q.toNat + 5 * 0x100000 + e.err.toNat * 0x1000000)))) ∧
    (∀ since, x.coal = some since → (wqW s q 2).extractLsb' 32 24 ≠ 0 → (wqW s q 1).getLsbD 31 = true → x.head ≠ x.pubhead →
      let n := ((wqW s q 1).extractLsb' 24 6).toNat
      let z := sessOf s n
      (z.st ≠ .opened ∨ z.ver.toNat < 0x20 → Answers (.coalTimeExpiry q) s fun u => becomes u { x with pubhead := x.head, coal := none } ∧ u.sct = s.sct ∧
        imr u (aSCT + 0x60) = satAdd (imr s (aSCT + 0x60)) 1 ∧ SameMemory s u) ∧
      (z.st = .opened → 0x20 ≤ z.ver.toNat → z.waitq = [] → z.unacked.length < z.win.toNat → Answers (.coalTimeExpiry q) s fun u =>
        becomes u { x with pubhead := x.head, coal := none } ∧ u.sct.rtag = s.sct.rtag + 1 ∧ SameMemory s u ∧
          ∃ m, (sessOf u n).unacked = z.unacked ++ [m] ∧ m.typ = 0x17 ∧ m.seq = z.next ∧
            m.body = [BitVec.ofNat 8 (q.toNat / 256), q.setWidth 8, 0, 0] ++ (lowBytes 4 (x.head.setWidth 64)).reverse))

/-- The entries of a queue (R239, R244, R245, R246, R247): the dispatcher's choice takes a token; START puts an IDLE context to work, at its program or its chain, MOVE with its pair; RESUME, SIGNAL and HALT
act on their context and complete; a START whose target is FREE or HALTED is bad. HEAD passes an entry that completes at the front. -/
def Obligations.QueueEntriesAreStarted : Prop :=
  ∀ (s s1 : State) (q : QId) (e : WqEntry), clocksOn s = true → nextQueue s = some (q, s1) → startable s1 q = some e →
    let b := e.bytes
    let c := eCtx b
    let t : Thread := .ctx c
    let op := eOp b
    let x := wqOf s1 q
    let r := recOf s1 c
    let word := fun (o : Nat) => BitVec.ofNat 64 (eFld b o 8)
    let taken := fun (u : State) => (wqOf u q).tokens = x.tokens - 1
    let completes := fun (u : State) => taken u ∧ (x.ents = [e] → (wqOf u q).head = x.head + 1 ∧ (wqOf u q).ents = [])
    let works := fun (u : State) => stOf u c = .ready ∨ stOf u c = .resident
    let mayStart := stOf s1 c = .idle ∧ (inSlot s1 c = true → recUpset s1 c = false) ∧ (r.sr.extractLsb' 8 2).toNat ≤ (if r.ceil = 0 then 0 else 1)
    let keeps := fun (u : State) => OtherLive s1 u c ∧ (liveOf u c).pend = (liveOf s1 c).pend
    (op = 1 → mayStart → eFmt b = 3 → Answers (.wqStart q) s fun u => completes u ∧ works u ∧ keeps u ∧ (regsOf u t).pc = word 8 ∧ (regsOf u t).stpa = 0 ∧
      (thrOf u t).phase = .code ∧ (∀ i : Reg, i.toNat < 4 → (regsOf u t).gr i = word (16 + 8 * i.toNat)) ∧
      (∀ i : Reg, 4 ≤ i.toNat → (regsOf u t).gr i = r.gr i) ∧ SameMemory s u) ∧
    (op = 1 → mayStart → eFmt b ≠ 3 → Answers (.wqStart q) s fun u => taken u ∧ works u ∧ keeps u ∧
      regsOf u t = { r with stpa := word 8, stpw := 0 } ∧ (thrOf u t).phase = .fetch ∧ (thrOf u t).origin = some (q, e.cnt) ∧ SameMemory s u) ∧
    (op = 1 → stOf s1 c = .free ∨ stOf s1 c = .halted → Answers (.wqStart q) s fun u => completes u ∧ (∀ d, liveOf u d = liveOf s1 d) ∧
      (wqOf u q).badidx = e.cnt ∧ (wqOf u q).badkind = 1 ∧ (wqOf u q).badreason = 0 ∧ imr u (aWQ + 0x48) = satAdd (imr s (aWQ + 0x48)) 1) ∧
    (op = 4 → mayStart → Answers (.wqMove q) s fun u => taken u ∧ works u ∧ keeps u ∧ (regsOf u t).stpa = 0 ∧
      (thrOf u t).phase = .step ∧ (thrOf u t).origin = some (q, e.cnt) ∧ (thrOf u t).wqMove = some (if eFmt b = 2 then eFld b 16 4 else 65536) ∧
      (thrOf u t).cur.hi = word 24 ∧ (thrOf u t).src.hi = word 8 ∧ stepCount (thrOf u t) = eFld b 32 4 ∧ stepAct (thrOf u t) = 0xA ∧ SameMemory s u) ∧
    (op = 2 → isLocal s1 (eRing b) = true → stOf s1 c = .held → ctxFenced s1 c = false → (inSlot s1 c = true → recUpset s1 c = false) → word 8 = 0 ∨ word 8 = (thrOf s1 t).heldAt →
      Answers (.wqResume q) s fun u => completes u ∧ works u ∧ keeps u ∧ SameMemory s u) ∧
    (op = 3 → isLocal s1 (eRing b) = true → stOf s1 c = .idle ∨ stOf s1 c = .ready ∨ stOf s1 c = .resident ∨ stOf s1 c = .held →
      Answers (.wqSignal q) s fun u => completes u ∧ OtherLive s1 u c ∧
        liveOf u c = { liveOf s1 c with pend := (liveOf s1 c).pend ||| BitVec.ofNat 32 (eFld b 16 4) } ∧ SameMemory s u) ∧
    (op = 5 → stOf s1 c = .free ∨ stOf s1 c = .idle ∨ stOf s1 c = .halted →
      Answers (.wqHalt q) s fun u => completes u ∧ (∀ d, liveOf u d = liveOf s1 d) ∧ SameMemory s u) ∧
    (op = 5 → haltable s1 c = true → chanOf s1 c.toNat = none → (thrOf s1 t).sb = [] → (thrOf s1 t).last = none → (regsOf s1 t).repa = 0 → (thrOf s1 t).origin = none →
      (thrOf s1 t).haltEnt = [] → Answers (.wqHalt q) s fun u => completes u ∧ stOf u c = .halted ∧ keeps u ∧ SameMemory s u)

/-- Commits (R263, R266, R267, R268, R271): a COMMIT for a later landing becomes pending with its time of receipt and the first check that it fails, one for no later landing misses with TARGET, CANCEL
discards it; the judgement of the next landing takes a pending commit that passes, counts one that fails as missed with its reason, and lets one for a later landing wait. -/
def Obligations.CommitsArePendingThenJudged : Prop :=
  ∀ (s : State) (lvl : Lvl) (seq : Half) (c : Commit), clocksOn s = true → Reaches lvl 2 → s.boot.st = .run ∨ s.boot.st = .maint →
    let l := s.lnd
    let d := (imr s aTGT - l.num.setWidth 32).toNat
    let late := 2 ^ 31 ≤ d ∨ d = 0
    let fresh : Commit := { tgt := l.num + BitVec.ofNat 64 d, seq := seq, ring := false, rcv := s.time.now }
    let n := l.num.toNat + 1
    let nb : DWord := BitVec.ofNat 64 n
    let t := lndTime s n
    let soon := s.time.now.toNat < t.toNat ∧ spareDue s t = false ∧ l.judged = none
    let clock := fun (u : State) => u.time.now.toNat = Nat.max s.time.now.toNat (t - 512).toNat
    let missed := fun (u : State) (tgt : Word) (r : BitVec 4) => imr u aMISS = BitVec.ofNat 32 (Nat.min ((imr s aMISS).toNat + 1) 0xFFFF) ∧
      imr u aLASTMISS = tgt ∧ u.lnd.last = 2 ∧ u.lnd.lreason = r
    (late → Answers (.commit lvl seq) s fun u => u.lnd.pend = none ∧ missed u (imr s aTGT) 1 ∧ Fired s u 0x491 1 ∧ SameMemory s u) ∧
    (¬late → changesFreq s = false → Answers (.commit lvl seq) s fun u =>
      u.lnd = { l with wrdl := false, syncwr := false, pend := some { fresh with preason := firstFail s fresh fresh.tgt.toNat false } } ∧
        (l.pend = none → { u with lnd := s.lnd } = s)) ∧
    (¬late → changesFreq s = true → Answers (.commit lvl seq) s fun u => u.boot.stbyBusy = true ∧ u.boot.stbyLock = false ∧ SameMemory s u ∧
      u.lnd = { l with wrdl := false, syncwr := false, pend := some { fresh with preason := firstFail s fresh fresh.tgt.toNat false } }) ∧
    ((lndTime s fresh.tgt.toNat).toNat < s.time.now.toNat + (act s aGUARD).toNat → firstFail s fresh fresh.tgt.toNat false = 1) ∧
    (Answers (.cancel lvl) s fun u => u.lnd = { l with pend := none } ∧ u.reg = s.reg ∧ SameMemory s u ∧ (l.pend = none → u = s)) ∧
    (soon → l.pend = none → Answers .landingJudgement s fun u => u.lnd = { l with judged := some (nb, none) } ∧ clock u ∧
      { u with lnd := s.lnd, time := s.time } = s) ∧
    (soon → l.pend = some c →
      (n < c.tgt.toNat → Answers .landingJudgement s fun u => u.lnd = { l with judged := some (nb, none) } ∧ clock u) ∧
      (c.tgt.toNat ≤ n → firstFail s c n true = 0 → Answers .landingJudgement s fun u =>
        u.lnd = { l with pend := none, judged := some (nb, some (c, 0)) } ∧ clock u ∧ { u with lnd := s.lnd, time := s.time } = s) ∧
      (c.tgt.toNat ≤ n → c.revert = none → firstFail s c n true ≠ 0 → Answers .landingJudgement s fun u =>
        u.lnd.judged = some (nb, some (c, firstFail s c n true)) ∧ u.lnd.pend = none ∧ missed u (c.tgt.setWidth 32) (firstFail s c n true) ∧ clock u ∧
          SameMemory s u))

/-- A landing (R262, R264, R271): without a commit the banks stay as they are; the landing of a judged commit swaps the STAGED and the ACTIVE bank of every register and table and
takes its tag; either way the landing's number is the one taken and nothing stays judged. -/
def Obligations.LandingsSwapTheBanks : Prop :=
  ∀ (s : State) (n : DWord) (c : Commit) (fa fb : Fec), Settled s → clocksOn s = true → s.boot.st = .run ∨ s.boot.st = .maint → s.lnd.held = [] → s.lnd.heldGo = [] →
    s.lnd.pend = none → s.eng.sparePending = false → s.eng.noSpareAt = [] → period s ≠ 0 → lndAt s s.time.now ≤ n.toNat →
    s.time.now.toNat < (lndTime s (n.toNat + 1)).toNat → n ≠ 0 →
    (s.lnd.judged = some (n, none) → Answers (.landing fa fb) s fun u => u.lnd.num = n ∧ u.lnd.judged = none ∧ u.lnd.last = 0 ∧ u.reg.act = s.reg.act ∧
      u.reg.stg = s.reg.stg ∧ u.reg.tabA = s.reg.tabA ∧ u.reg.tabS = s.reg.tabS ∧ u.lnd.tagA = s.lnd.tagA ∧ u.lnd.tagS = s.lnd.tagS ∧
      u.time.now.toNat = Nat.max s.time.now.toNat (lndTime s n.toNat).toNat) ∧
    (s.lnd.judged = some (n, some (c, 0)) → c.revert = none → (∀ e ∈ s.mov.chans, e.2.kind = .move → 0x110000 ≤ e.2.dst.toNat) → Answers (.landing fa fb) s fun u => u.lnd.num = n ∧ u.lnd.judged = none ∧ u.lnd.last = 1 ∧
      u.lnd.landed = some n ∧ u.reg.act = s.reg.stg ∧ u.reg.stg = s.reg.act ∧ u.reg.tabA = s.reg.tabS ∧ u.reg.tabS = s.reg.tabA ∧ u.lnd.tagA = c.seq ∧
      u.lnd.tagS = s.lnd.tagA ∧ u.time.now.toNat = Nat.max s.time.now.toNat (lndTime s n.toNat).toNat) ∧
    (∀ r, s.lnd.judged = some (n, some (c, r)) → r ≠ 0 → Answers (.landing fa fb) s fun u => u.lnd.num = n ∧ u.lnd.judged = none ∧ u.lnd.last = 2 ∧
      u.reg.act = s.reg.act ∧ u.reg.stg = s.reg.stg ∧ u.reg.tabA = s.reg.tabA ∧ u.reg.tabS = s.reg.tabS ∧ u.lnd.tagA = s.lnd.tagA)

/-- Ring-wide landings (R273 to R277, R294): LANDSTAGE stages its record and joins its set, LANDCOMMIT acts as the writes of a commit and LANDREVERT brings a commit back, each answered with LANDACK; at the
manager LANDACKs are noted landing by landing, at the deadline a landing that a present worker has not armed is reverted, and a worker that cannot follow
is noted for restoring. -/
def Obligations.RingLandingsAreStagedAndReverted : Prop :=
  ∀ (s : State) (peer : Byte) (m : RxMsg), clocksOn s = true →
    let k := peerKey peer
    let b := m.body
    let l : DWord := BitVec.ofNat 64 (bFld b 0 8)
    let seq : Half := BitVec.ofNat 16 (bFld b 8 2)
    let d := (l.setWidth 32 - s.lnd.num.setWidth 32).toNat
    let target := s.lnd.num + BitVec.ofNat 64 d
    (∀ row i, Heads s k m → m.typ = 0x20 → b.length = 20 → s.lnd.stage = [] →
      let a := bFld b 12 4
      let v : Word := BitVec.ofNat 32 (bFld b 16 4)
      a % 4 = 0 → a < 0x110000 → regAt a = some (row, i) → row.acc = .rw → row.ls = true → s.boot.st = .run → s.lnd.syncBusy = none → s.lnd.judged = none → s.lnd.held = [] →
        s.flt.lock = false → Answers (.landstage peer) s fun u => (sessOf u k).rxq = [] ∧ stg u a = (mergeReg (stg s a) v (row.flds i)).1 ∧
          (∀ x, x ≠ a → stg u x = stg s x) ∧ (∀ x, act u x = act s x) ∧ SameMemory s u ∧
          u.lnd.stage = [{ lnd := l, cnt := b.getD 9 0, got := [b.getD 8 0], bad := decide ((b.getD 9 0).toNat ≤ (b.getD 8 0).toNat) }]) ∧
    (Heads s k m → m.typ = 0x21 → CanSend s k → d ≠ 0 → d < 2 ^ 31 → Answers (.landcommit peer) s fun u => imr u aTGT = l.setWidth 32 ∧
      (∃ c r, u.lnd.pend = some c ∧ c = { tgt := target, seq := seq, ring := true, rcv := s.time.now, cnt := b.getD 10 0, preason := r } ∧
        Sent s u k 0x22 (ackBody s l seq r)) ∧ SameMemory s u) ∧
    (Heads s k m → m.typ = 0x23 → CanSend s k → Answers (.landrevert peer) s fun u => SameMemory s u ∧
      ∃ c, u.lnd.pend = some c ∧ c.tgt = BitVec.ofNat 64 (revertAt s l.toNat) ∧ c.seq = seq + 2 ∧ c.ring = true ∧ c.revert = some (seq, l - 1) ∧ c.rcv = s.time.now ∧
        c.preason = (if revertRow s seq (l - 1) = 0 then 3 else 0) ∧ Sent s u k 0x22 (ackBody s c.tgt (seq + 2) c.preason)) ∧
    (Heads s k m → m.typ = 0x22 → s.lnd.ring = [] → Answers (.landack peer) s fun u => (sessOf u k).rxq = [] ∧ { u with lnd := s.lnd, sct := s.sct } = s ∧
      u.lnd = if s.lnd.num.toNat < l.toNat then { s.lnd with ring := [{ l := l, prior := seq - 1, acks := if b.getD 10 0 = 1 then [peer] else [] }] } else s.lnd) ∧
    (∀ v : RingView, Heads s k m → m.typ = 0x22 → s.lnd.ring = [v] → v.rev = none → l = v.l → seq = v.prior + 1 → b.getD 10 0 = 1 → v.acks.contains peer = false →
      Answers (.landack peer) s fun u => u.lnd = { s.lnd with ring := [{ v with acks := v.acks ++ [peer] }] } ∧ { u with lnd := s.lnd, sct := s.sct } = s) ∧
    (∀ (v : RingView) (left : List Byte), Heads s k m → m.typ = 0x22 → s.lnd.ring = [v] → v.rev = some left → left.contains peer = true → seq = v.prior + 2 →
      Answers (.landack peer) s fun u => u.lnd = { s.lnd with ring := [{ v with rev := some (left.filter fun a => a ≠ peer) }] } ∧
        { u with lnd := s.lnd, sct := s.sct, rm := s.rm } = s ∧
        u.rm = if b.getD 10 0 = 1 ∨ s.rm.restore.contains peer = true then s.rm else { s.rm with restore := s.rm.restore ++ [peer] }) ∧
    (∀ v : RingView, s.lnd.ring = [v] → v.due = false → v.rev = none → s.rm.role = .manager → s.lnd.num.toNat < v.l.toNat →
      (∀ c, s.lnd.pend = some c → c.revert = none → c.tgt = v.l) →
      let t := lndTime s v.l.toNat - (act s aGUARD).setWidth 64
      ((workers s).all (fun a => v.acks.contains a) = true → Answers .landackDeadline s fun u => u.lnd = { s.lnd with ring := [{ v with due := true }] } ∧
        t.toNat ≤ u.time.now.toNat ∧ { u with time := s.time, lnd := s.lnd } = s) ∧
      ((workers s).all (fun a => v.acks.contains a) = false → Answers .landackDeadline s fun u =>
        u.lnd.ring = [{ v with due := true, rev := some (workers s) }] ∧ t.toNat ≤ u.time.now.toNat ∧
        ∃ c, u.lnd.pend = some c ∧ c.seq = v.prior + 2 ∧ c.revert = some (v.prior, v.l))) ∧
    (∀ c, s.lnd.ring = [] → s.lnd.pend = some c → c.revert = none → s.rm.role = .manager → s.lnd.num.toNat < c.tgt.toNat → workers s ≠ [] →
      Answers .landackDeadline s fun u => u.lnd.ring = [{ l := c.tgt, prior := s.lnd.tagA, due := true, rev := some (workers s) }] ∧
        ∃ d, u.lnd.pend = some d ∧ d.seq = s.lnd.tagA + 2 ∧ d.revert = some (s.lnd.tagA, c.tgt))

/-- Frames of a ring port (R285, R297, R302, R303, R315, R316, R317, R319, R320, R322): a frame whose fragments do not fit, one too long and one with a bad FCS are counted; an SCT frame for this
device in order on its OPEN session joins the receive buffer, a copy of one taken is eliminated, one whose other copy is in reception is stored, one for another station goes on with HOPS − 1 from the queue of its priority, or on the express path; an
express frame reaches its mailbox and sets its bit, and its status word follows at its end; a quiet stream
starts anew. -/
def Obligations.FramesAreJudgedAndTaken : Prop :=
  ∀ (s : State) (b : Bool) (f : Frame) (m : RxMsg) (k j n : Nat) (seq : Half) (stream : BitVec 13) (good : Bool), clocksOn s = true →
    s.boot.st = .run ∨ s.boot.st = .maint →
    let p := portOf s b
    let receive := Instr.frameReceive b { frame := f, frags := some 0 } good SecTag.none
    let alone := s.ring.stored = []
    let counts := fun (u : State) (l : List Nat) => ∀ i, imr u (aPCnt b i) = if i ∈ l then satAdd (imr s (aPCnt b i)) 1 else imr s (aPCnt b i)
    let up := p.st = .active ∧ p.link = 2
    let fits := frameLen f ≤ maxLen s b
    let sct := isSct s f = true ∧ parseSct f b = (m, m.body.length, true) ∧ m.src ≠ s.rm.addr ∧ srcBad m.src = false ∧ m.body.length ≤ 9000
    let plain := up ∧ fits ∧ good = true ∧ (act s (aPort b + 0x90)).getLsbD 0 = false ∧ f.etype ≠ 0x8808
    let x := sessOf s k
    let mine := sct ∧ rxKey m = some k ∧ m.session ≠ 0xFFFF ∧ x.st = .opened ∧ (64 ≤ k ∨ x.host = m.src) ∧ m.ver = x.ver ∧ s.rm.role ≠ .unaddressed ∧
      m.dst = s.rm.addr ∧ m.dst ≠ 0xFF
    (up → alone → Answers (.frameReceive b { frame := f, frags := none } good SecTag.none) s fun u => counts u [18] ∧ ImBack s u = s) ∧
    (up → good = true → hasRecovery s f = true → exec (.frameReceive b { frame := f, frags := some 0, other := some true } good SecTag.none) s =
      .next { s with ring := { s.ring with stored := s.ring.stored ++ [{ portB := b, f := f, frags := some 0, sec := SecTag.none }] } }) ∧
    (up → alone → maxLen s b < frameLen f → badCut s b SecTag.none f = false → Answers receive s fun u => counts u [0, 2] ∧ ImBack s u = s) ∧
    (up → alone → fits → good = false → badCut s b SecTag.none f = false → Answers receive s fun u => counts u [0, 1] ∧ ImBack s u = s) ∧
    (plain → mine → f.rtag = none → 6 ≤ m.typ.toNat → m.typ ≠ 0x3E → m.typ ≠ 0x3F → m.flags.getLsbD 0 = false → m.flags.getLsbD 1 = false → m.seq = x.e → x.rxq = [] →
      x.win ≠ 0 → x.accCnt + 1 < ((act s (aSCT + 0x18)).extractLsb' 0 6).toNat → badReason s k m = none →
      Answers receive s fun u => (sessOf u k).rxq = [m] ∧ (sessOf u k).e = x.e + 1 ∧ (sessOf u k).accCnt = x.accCnt + 1 ∧ (sessOf u k).lastRx = s.time.now ∧
        (∀ i, i ≠ k → sessOf u i = sessOf s i) ∧ counts u [0] ∧ SameMemory s u) ∧
    (plain → alone → sct → f.rtag = some seq → (frerOf s (4096 + (byteAt f.body 4).toNat)).hist.contains seq = true →
      Answers receive s fun u => counts u [0, 8] ∧ u.sct = s.sct ∧ SameMemory s u) ∧
    (plain → sct → f.rtag = none → m.typ ≠ 5 → m.dst ≠ 0xFF → isMine s m.dst = false → m.hops ≠ 0 →
      let o := !b
      let express := m.flags.getLsbD 1 = true ∧ s.boot.profile = 1
      let q := if express then 8 else pcpQueue s o (pcpOf s b f)
      let cut := cutsThrough s b q
      let size := if cut then maxSdu s o q else frameLen (hopFrame f)
      (portOf s o).st = .active →
      express ∨ (frameLen (hopFrame f) ≤ maxSdu s o q ∧
        queueBytes (egQ s o q) + size ≤ ((act s (aPort o + 0x60 + 4 * q)).extractLsb' 16 8).toNat * 0x10000 ∧
        portBytes s false + portBytes s true + size ≤ 28 * 0x100000) →
      Answers receive s fun u => egQ u o q = egQ s o q ++ [{ f := hopFrame f, cut := cut }] ∧ (∀ i, i ≠ q → egQ u o i = egQ s o i) ∧
        u.sct = s.sct ∧ SameMemory s u) ∧
    (up → mine → f.rtag = none → expressHit s k m = some n →
      let c : CtxId := (act s (aSCT + 0x104 + 8 * n)).extractLsb' 0 18
      let area := 0x10000000 + j / 4 * 0x10000
      expressSlot s c = some j → (mboxOf s j).full = false → scratchOk s (j / 4) = true → stOf s c ≠ .waiting →
      Answers (.expressDispatch b f) s fun u =>
        mboxOf u j = { full := true, complete := false, relPend := false, took := none, bad := (mboxOf s j).bad } ∧ (∀ i, i ≠ j → mboxOf u i = mboxOf s i) ∧
          (∀ i, i < 16 → memGet u (area + 0xF800 + 128 * (j % 4) + i) = f.body.getD i 0) ∧
          (∀ i, i < m.body.length → memGet u (area + 0xF810 + 128 * (j % 4) + i) = m.body.getD i 0) ∧
          (∀ i, i < 4 → memGet u (area + 0xFC20 + 4 * (j % 4) + i) = 0) ∧
          (∀ i, ¬(area + 0xF800 + 128 * (j % 4) ≤ i ∧ i < area + 0xF810 + 128 * (j % 4) + m.body.length) →
            ¬(area + 0xFC20 + 4 * (j % 4) ≤ i ∧ i < area + 0xFC24 + 4 * (j % 4)) → memGet u i = memGet s i) ∧
          liveOf u c = { liveOf s c with pend := (liveOf s c).pend ||| 1#32 <<< ((act s (aSCT + 0x104 + 8 * n)).extractLsb' 18 5).toNat } ∧ OtherLive s u c) ∧
    (∀ (cl : BitVec 6) (slot : BitVec 2), cl.toNat ≤ 32 → scratchOk s cl.toNat = true →
      let y := mboxOf s (4 * cl.toNat + slot.toNat)
      let a := 0x10000000 + cl.toNat * 0x10000 + 0xFC20 + 4 * slot.toNat
      y.full = true → y.complete = false → y.copy = none → Answers (.expressStatusWrite cl slot good) s fun u =>
        mboxOf u (4 * cl.toNat + slot.toNat) =
          { y with complete := true, relPend := false, full := !y.relPend, bad := !good, took := if good then none else y.took } ∧
          memGet u a = (if good then 3 else 2) ∧ (∀ i, 0 < i → i < 4 → memGet u (a + i) = 0) ∧ SameMemoryBut s u a 4) ∧
    ((frerOf s stream.toNat).hist ≠ [] → frerTmo s stream.toNat ≠ 0 → Answers (.frerReset stream) s fun u =>
      frerOf u stream.toNat = { frerOf s stream.toNat with hist := [] } ∧ (∀ i, i ≠ stream.toNat → frerOf u i = frerOf s i) ∧
        imr u (aPCnt false 12) = satAdd (imr s (aPCnt false 12)) 1 ∧
        (frerOf s stream.toNat).at_ + BitVec.ofNat 64 (frerTmo s stream.toNat * 1000000) ≤ u.time.now ∧ SameMemory s u)

/-- Sessions (R290, R291, R295, R296, R297, R298, R299, R301, R305, R353): HELLO opens a host session at the highest common version and is answered, without one it is refused; HELLO_ACK opens the peer
session that was asked for; acknowledgements, retransmission, idle time and commands keep, fail and close sessions; a NAK brings a retransmission or SIG_FAIL. -/
def Obligations.SessionsOpenAndEnd : Prop :=
  ∀ (s : State) (key : SessKey) (m : RxMsg) (box : List RxMsg) (peer : Byte) (n : BitVec 6) (lvl : Lvl) (v : Byte) (msg : TxMsg) (since : DWord), clocksOn s = true →
    let k := skey key
    let x := sessOf s k
    let b := m.body
    let first := fun (typ : Byte) => s.sct.inbox = m :: box ∧ m.typ = typ
    let frames := fun (u : State) (i : Half) => u.sct.rtag = s.sct.rtag + i
    let others := fun (u : State) (h : Nat) => ∀ i, i ≠ h → sessOf u i = sessOf s i
    let back := fun (o : Nat) (u : State) => imr u (aSCT + o) = satAdd (imr s (aSCT + o)) 1
    let n32 : Word := BitVec.ofNat 32 (bFld b 0 4)
    let unwatched := fun (h : Nat) => ∀ t, 4 ≤ t → t < 20 → tgtSess s t ≠ h
    let rtoOf := ((act s (aSCT + 0x14)).extractLsb' 0 16).toNat * 100 * 2 ^ Nat.min 3 x.timeouts
    (first 0x01 →
      let h := bFld b 6 2
      let win := Nat.min (Nat.max 1 (Nat.min 64 (bFld b 2 2))) (ownWin s)
      h < 64 → (sessOf s h).st ≠ .opened → ¬(b.getD 0 0 = 0 ∧ b.getD 1 0 = 0) →
        (chooseVer s (b.getD 0 0) (b.getD 1 0) = some v → Answers .hello s fun u => u.sct.inbox = box ∧ frames u 1 ∧ others u h ∧ SameMemory s u ∧
          sessOf u h = { st := .opened, ver := v, host := m.src, win := BitVec.ofNat 7 win, lastRx := s.time.now, fresh := true } ∧
          (vMin s).toNat ≤ v.toNat ∧ v.toNat ≤ (vMax s).toNat ∧ (b.getD 0 0).toNat ≤ v.toNat ∧ v.toNat ≤ (b.getD 1 0).toNat) ∧
        (chooseVer s (b.getD 0 0) (b.getD 1 0) = none → Answers .hello s fun u => u.sct.inbox = box ∧ frames u 1 ∧ (∀ i, sessOf u i = sessOf s i) ∧
          back 0x5C u ∧ SameMemory s u)) ∧
    (first 0x02 → b.getD 0 0 ≠ 0 →
      let h := peerKey m.src
      (sessOf s h).helloSent = true → (sessOf s h).waitq = [] → Answers .helloAck s fun u => u.sct.inbox = box ∧ frames u 0 ∧ others u h ∧ SameMemory s u ∧
        sessOf u h = { st := .opened, ver := b.getD 0 0, host := m.src, win := BitVec.ofNat 7 (bFld b 2 2), lastRx := s.time.now, fresh := true }) ∧
    (attached s = true → (∃ t ∈ s.rm.table, t.addr = peer ∧ t.present = true ∧ t.host = false) → peer.toNat < s.rm.addr.toNat →
      (sessOf s (peerKey peer)).st ≠ .opened → Answers (.peerSessionOpen peer) s fun u => frames u 1 ∧ others u (peerKey peer) ∧ SameMemory s u ∧
        sessOf u (peerKey peer) = { sessOf s (peerKey peer) with helloSent := true }) ∧
    (x.st = .opened → x.unacked = [msg] →
      (x.timeouts + 1 < ((act s (aSCT + 0x10)).extractLsb' 8 4).toNat → Answers (.rtoExpiry key) s fun u => frames u 1 ∧ back 0x58 u ∧ others u k ∧ SameMemory s u ∧
        sessOf u k = { x with timeouts := x.timeouts + 1, unacked := [{ msg with sent := u.time.now }] } ∧
        (msg.sent + BitVec.ofNat 64 rtoOf).toNat ≤ u.time.now.toNat) ∧
      (((act s (aSCT + 0x10)).extractLsb' 8 4).toNat ≤ x.timeouts + 1 → 64 ≤ k → Answers (.rtoExpiry key) s fun u => others u k ∧ SameMemory s u ∧
        sessOf u k = { st := .failed, waitq := x.waitq.filter fun z => !isResponse z } ∧ Fired (atTime s (msg.sent + BitVec.ofNat 64 rtoOf)) u 0x481 0x8000) ∧
      (((act s (aSCT + 0x10)).extractLsb' 8 4).toNat ≤ x.timeouts + 1 → k < 64 → x.waitq = [] → unwatched k → Answers (.rtoExpiry key) s fun u =>
        others u k ∧ SameMemory s u ∧ sessOf u k = { st := .failed } ∧ Fired (atTime s (msg.sent + BitVec.ofNat 64 rtoOf)) u 0x481 (BitVec.ofNat 32 k))) ∧
    (x.st = .opened → x.accAt = some since → Answers (.ackHoldoff key) s fun u => frames u 1 ∧ others u k ∧ SameMemory s u ∧
      sessOf u k = { x with accCnt := 0, accAt := none } ∧
      (since + ((act s (aSCT + 0x18)).extractLsb' 16 16).setWidth 64 * 64).toNat ≤ u.time.now.toNat) ∧
    (x.st = .opened → 64 ≤ k ∨ x.waitq = [] → Answers (.sessionIdle key) s fun u => (64 ≤ k ∨ unwatched k → SameMemory s u) ∧ others u k ∧
      sessOf u k = { st := .closed, waitq := if 64 ≤ k then x.waitq.filter (fun z => !isResponse z) else [] } ∧
      (x.lastRx + ((act s (aSCT + 0x1C)).extractLsb' 0 24).setWidth 64 * 1000).toNat ≤ u.time.now.toNat) ∧
    (Reaches lvl 2 → exec (.sessionQuery lvl n) s = .next { s with sct := { s.sct with cmdSess := n } }) ∧
    (Reaches lvl 2 → (sessOf s n.toNat).st ≠ .closed → (sessOf s n.toNat).waitq = [] → Answers (.sessionClose lvl n) s fun u => u.sct.cmdSess = n ∧
      sessOf u n.toNat = {} ∧ others u n.toNat ∧ (unwatched n.toNat → SameMemory s u)) ∧
    (first 0x3E → rxKey m = some k → m.session ≠ 0xFFFF → x.st = .opened → x.waitq = [] →
      let left := x.unacked.filter fun z => decide (2 ^ 31 ≤ (n32 - z.seq).toNat)
      left ≠ x.unacked → Answers .sessionKeepalive s fun u => u.sct.inbox = box ∧ sessOf u k = { x with unacked := left, timeouts := 0 } ∧ others u k ∧
        frames u 0 ∧
        (∀ (t : Nat) (g : Nat) (r : EvRec), 4 ≤ t → t < 20 → g < 8 → tgtSess s t = k → r ∈ (evQ u t g).recs → r.sent = true → r.offered = false →
          (evQ s t g).recs.Nodup → 2 ^ 31 ≤ (n32 - r.seq).toNat)) ∧
    (first 0x3F → nakKey m = k → b.getD 4 0 = 1 → x.st = .opened → x.rxq = [] → x.unacked = [msg] → msg.seq = n32 → Answers (.nak key) s fun u =>
      u.sct.inbox = box ∧ frames u 1 ∧ back 0x58 u ∧ (sessOf u k).unacked = [{ msg with sent := s.time.now }] ∧ others u k ∧ SameMemory s u) ∧
    (∀ tgt, s.sct.inbox = [] → Heads s k m → m.typ = 0x3F → (x.sigs.find? fun e => e.1 == n32) = some (n32, tgt) → b.getD 4 0 = 0x0A →
      Answers (.nak key) s fun u => sessOf u k = { x with rxq := [], sigs := x.sigs.filter fun e => e.1 != n32 } ∧ Fired s u 0x480 tgt ∧ back 0x64 u ∧
        others u k ∧ SameMemory s u)

/-- Messages of a session (R177, R206, R242, R287 to R291, R300, R352, R365 to R367, R370, R469, R521): READ and WRITE take the lowest free SCT entry of the channel table, wait for one, or are refused with a NAK; answers end their requests; POST, DOORBELL,
RESUME and SIGNAL act on their context and queue; BALLOT is kept for its judgement, TAKEOVER makes the partner act or yield, FAULT tells the manager of a lost link. -/
def Obligations.SessionMessagesAct : Prop :=
  ∀ (s : State) (key : SessKey) (peer : Byte) (m : RxMsg) (i e : Nat) (r : Byte) (detail : Nat), clocksOn s = true → Heads s (skey key) m →
    let k := skey key
    let x := sessOf s k
    let b := m.body
    let sp := (b.getD 0 0).toNat
    let a := bFld b 2 6
    let taken := fun (u : State) => sessOf u k = { x with rxq := [] } ∧ ∀ h, h ≠ k → sessOf u h = sessOf s h
    let c := targetCtx b
    let t : Thread := .ctx c
    let g := recOf s c
    let n32 := fun (o : Nat) => (BitVec.ofNat 32 (bFld b o 4) : Word)
    let arg := fun (j : Nat) => (BitVec.ofNat 64 (bFld b (8 + 8 * j) 8) : DWord)
    let works := fun (u : State) => stOf u c = .ready ∨ stOf u c = .resident
    let fits := stOf s c = .idle ∧ (inSlot s c = true → recUpset s c = false) ∧ (g.sr.extractLsb' 8 2).toNat ≤ (if g.ceil = 0 then 0 else 1)
    let refuses := fun (cmd : Instr) (req : Byte) => Answers cmd s fun u => Sent s u k 0x3F (nakBody m.seq r req detail) ∧ (sessOf u k).rxq = [] ∧
      imr u (aSCT + 0x5C) = satAdd (imr s (aSCT + 0x5C)) 1 ∧ u.mov.chans = s.mov.chans ∧ SameMemory s u
    let used := (s.mov.chans.filter fun y => !isCtxKey y.1 && y.2.granted).length
    let mine := chanOf s (sctWait k) = none
    let asks := fun (cmd : Instr) (y : Xfer) =>
      (mine → used < 64 → sctEntry s = some e → (∀ z ∈ s.mov.chans, z.2.granted = true) → Answers cmd s fun u => taken u ∧ SameMemory s u ∧
        Requested u e y ∧ ∃ z, chanOf u e = some z ∧ z.granted = true) ∧
      (mine → 64 ≤ used → Answers cmd s fun u => taken u ∧ SameMemory s u ∧
        Requested u (sctWait k) y ∧ ∃ z, chanOf u (sctWait k) = some z ∧ z.granted = false)
    (m.typ = 0x10 → sp ≠ 1 →
      (accessBad s k sp a (bFld b 8 4) false = none → asks (.read key)
        { kind := .sctRead, src := BitVec.ofNat 64 a, count := bFld b 8 4, left := bFld b 8 4, lvl := sessLvl s k, req := some (k, m.seq) }) ∧
      (accessBad s k sp a (bFld b 8 4) false = some (r, detail) → sctBusy s k = false → CanSend s k → refuses (.read key) 0x10)) ∧
    (m.typ = 0x12 → sp ≠ 1 →
      let d := b.drop 8
      (accessBad s k sp a d.length true = none → asks (.write key)
        { kind := .sctWrite, dst := BitVec.ofNat 64 a, count := d.length, left := d.length, data := d, lvl := sessLvl s k, req := some (k, m.seq)
          posted := (b.getD 1 0).getLsbD 0 }) ∧
      (accessBad s k sp a d.length true = some (r, detail) → sctBusy s k = false → CanSend s k → refuses (.write key) 0x12)) ∧
    (m.typ = 0x11 → m.flags.getLsbD 2 = true → a ≠ 0x03006C → Answers (.readData key) s fun u =>
      sessOf u k = { x with rxq := [], reqs := x.reqs.filter fun q => q.1 != n32 8 } ∧ { u with sct := s.sct } = s) ∧
    (m.typ = 0x13 → Answers (.writeAck key) s fun u =>
      sessOf u k = { x with rxq := [], reqs := x.reqs.filter fun q => q.1 != n32 0 } ∧ { u with sct := s.sct } = s) ∧
    (m.typ = 0x14 → mine → 64 ≤ used → Answers (.post key) s fun u => taken u ∧ SameMemory s u ∧ Requested u (sctWait k)
      { kind := .sctPost, count := b.length, left := b.length, data := b, drop := true, req := some (k, m.seq) }) ∧
    (m.typ = 0x14 → fits → s.mov.chans = [] → Answers (.post key) s fun u => taken u ∧ works u ∧ OtherLive s u c ∧ (liveOf u c).pend = (liveOf s c).pend ∧ SameMemory s u ∧
      (b.getD 4 0 = 3 → (regsOf u t).pc = arg 0 ∧ (regsOf u t).stpa = 0 ∧ (thrOf u t).phase = .code ∧
        (∀ j : Reg, j.toNat < 4 → (regsOf u t).gr j = arg (1 + j.toNat)) ∧ ∀ j : Reg, 4 ≤ j.toNat → (regsOf u t).gr j = g.gr j) ∧
      (b.getD 4 0 ≠ 3 → regsOf u t = { g with stpa := arg 0, stpw := 0 } ∧ (thrOf u t).phase = .fetch)) ∧
    (m.typ = 0x15 →
      let q : QId := BitVec.ofNat 12 (bFld b 0 2)
      (wqOf s q).st = .active → Answers (.doorbell key) s fun u => taken u ∧ wqOf u q = { wqOf s q with polling := none, rung := (wqOf s q).rung || ((wqOf s q).polling.isNone && mayFetch s q) } ∧
        (∀ p, p ≠ q → wqOf u p = wqOf s p) ∧ SameMemory s u) ∧
    (m.typ = 0x16 → stOf s c = .held → ctxFenced s c = false → (inSlot s c = true → recUpset s c = false) → bFld b 4 8 = 0 ∨ BitVec.ofNat 64 (bFld b 4 8) = (thrOf s t).heldAt →
      Answers (.sctResume key) s fun u => taken u ∧ works u ∧ OtherLive s u c ∧ (liveOf u c).pend = (liveOf s c).pend ∧ SameMemory s u) ∧
    (m.typ = 0x19 → stOf s c = .idle ∨ stOf s c = .ready ∨ stOf s c = .resident ∨ stOf s c = .held → Answers (.sctSignal key) s fun u => taken u ∧
      liveOf u c = { liveOf s c with pend := (liveOf s c).pend ||| n32 4 } ∧ OtherLive s u c ∧ SameMemory s u) ∧
    (m.typ = 0x14 ∨ m.typ = 0x16 ∨ m.typ = 0x19 → (m.typ = 0x14 → s.mov.chans = []) → stOf s c = .free ∨ stOf s c = .halted → sctBusy s k = false → CanSend s k → r = 0x0A → detail = c.toNat →
      refuses (if m.typ = 0x14 then .post key else if m.typ = 0x16 then .sctResume key else .sctSignal key) m.typ) ∧
    (key = .peer peer →
      (∀ l : DWord, m.typ = 0x30 → b.length = 28 → l = BitVec.ofNat 64 (bFld b 0 8) → bFld b 16 4 / 0x40000 = s.rm.addr.toNat →
        pairNaming s (BitVec.ofNat 18 (bFld b 16 4)) peer (BitVec.ofNat 18 (bFld b 12 4)) = some i → (pairL s i).st = .paired → s.lnd.num.toNat ≤ l.toNat →
        Answers (.ballot peer) s fun u => taken u ∧ (∀ j, j ≠ i → pairL u j = pairL s j) ∧ SameMemory s u ∧
          pairL u i = { pairL s i with got := (pairL s i).got.filter (fun y => y.1 ≠ l) ++ [(l, BitVec.ofNat 64 (bFld b 20 8))] }) ∧
      (m.typ = 0x31 → bFld b 4 4 / 0x40000 = s.rm.addr.toNat → bFld b 0 4 / 0x40000 = peer.toNat →
        pairNaming s (BitVec.ofNat 18 (bFld b 4 4)) peer (BitVec.ofNat 18 (bFld b 0 4)) = some i → (pairL s i).st = .paired →
        (pairHsb s i = true → Answers (.takeover peer) s fun u => taken u ∧ Fired s u 0x4B2 (BitVec.ofNat 32 i) ∧
          pairL u i = { pairL s i with st := .yielded, supp := true, since := s.lnd.num } ∧ imr u (aSCT + 0x478) = satAdd (imr s (aSCT + 0x478)) 1 ∧
          u.flt.det = s.flt.det ++ [(0x084, BitVec.ofNat 32 i)] ∧ SameMemory s u) ∧
        (pairHsb s i = false → Answers (.takeover peer) s fun u =>
          pairL u i = { pairL s i with st := .solo, supp := false, since := s.lnd.num } ∧ imr u (aSCT + 0x474) = satAdd (imr s (aSCT + 0x474)) 1))) ∧
    (m.typ = 0x38 → holdsAlias s = true → bFld b 0 2 = 0x080 →
      let lost : Byte := BitVec.ofNat 8 (bFld b 14 1)
      s.rm.links.contains (m.src, lost) = false → s.rm.links.contains (lost, m.src) = false → Answers (.sctFault key) s fun u =>
        taken u ∧ u.rm = { s.rm with links := s.rm.links ++ [(m.src, lost)] } ∧
          (segmented s = false → segmented u = true → Fired s u 0x4B0 (BitVec.ofNat 32 (m.src.toNat + 256 * lost.toNat))) ∧
          (segmented s = true ∨ segmented u = false → u.evt = s.evt))

/-- Enumeration and keepalives (R294, R343 to R350): the messages of a ring that forms. ENUM gives an unaddressed device its address, ENUM_REPLY and ANNOUNCE fill the manager's table and move it on, a KEEPALIVE
marks its sender present; a device without a manager claims the role; time that passes without a reply moves enumeration on, and the manager
then answers the ANNOUNCEs that wait. -/
def Obligations.EnumerationFormsTheRing : Prop :=
  ∀ (s : State) (m : RxMsg) (box : List RxMsg) (a : Byte), clocksOn s = true →
    let b := m.body
    let rm := s.rm
    let first := fun (typ : Byte) => s.sct.inbox = m :: box ∧ m.typ = typ
    let frames := fun (u : State) (i : Half) => u.sct.rtag = s.sct.rtag + i
    let x : DWord := BitVec.ofNat 64 (bFld b 4 8)
    let uid : DWord := BitVec.ofNat 64 (bFld b 8 8)
    let free := freeAddr s = some a
    let mine := fun (t : Station) => t.uid == uid && !t.host
    let known := (rm.table.find? fun t => mine t && t.addr != 0).map fun t => t.addr
    let cls : BitVec 2 := if (b.getD 1 0).toNat % 4 = 3 then 0 else BitVec.ofNat 2 (b.getD 1 0).toNat
    let noted : List Station :=
      if rm.table.any mine then rm.table.map fun t => if mine t then { t with cls := cls, prio := b.getD 2 0 } else t
      else rm.table ++ [{ addr := 0, cls := cls, prio := b.getD 2 0, uid := uid, present := false, age := 5 }]
    let here := fun (u : State) => u.sct.inbox = box ∧
      (∃ t, stationOf u m.src = some t ∧ t.present = true ∧ t.age = 0 ∧ t.role = b.getD 0 0 ∧ (t.host = true ↔ b.getD 0 0 = 5)) ∧
      ((∀ t, stationOf s m.src = some t → t.present = false) → Fired s u 0x4B1 (BitVec.ofNat 32 (m.src.toNat + 256)))
    (first 0x03 → rm.role = .unaddressed → m.portB ≠ decide (b.getD 2 0 = 1) → 1 ≤ (b.getD 0 0).toNat → (b.getD 0 0).toNat ≤ 0x30 →
      Answers .enum s fun u => u.rm.addr = b.getD 0 0 ∧ u.rm.mgr = b.getD 1 0 ∧ u.rm.mseq = x ∧ (u.rm.role = .worker ∨ u.rm.role = .standby) ∧ frames u 1 ∧
        u.sct.inbox = box ∧ (stationOf u (b.getD 0 0)).isSome = true ∧ SameMemory s u) ∧
    (first 0x03 → rm.role ≠ .unaddressed → Answers .enum s fun u => u.sct.inbox = box ∧ { u with sct := s.sct } = s) ∧
    (first 0x04 → rm.role = .manager → rm.directed = none → rm.enumOn = false → Answers .enumReply s fun u =>
      (∃ t, stationOf u (b.getD 0 0) = some t ∧ t.uid = uid ∧ t.prio = b.getD 2 0 ∧ t.host = false ∧ t.pos = posOf s m.portB m.hops ∧
        t.present = match stationOf s (b.getD 0 0) with | some o => o.present | none => false) ∧
      (∀ t ∈ u.rm.table, t.addr ≠ b.getD 0 0 → t ∈ rm.table ∧ (t.host = true ∨ t.uid ≠ uid)) ∧ u.sct.inbox = box ∧ frames u 0 ∧ SameMemory s u) ∧
    (first 0x04 → rm.role = .manager → rm.directed = none → rm.enumOn = true → Answers .enumReply s fun u =>
      (stationOf u (b.getD 0 0)).isSome = true ∧ SameMemory s u ∧ ∀ d, freeAddr u = some d → frames u 1 ∧ u.rm.enumAddr = d ∧ u.rm.enumOn = true) ∧
    (first 0x05 → (rm.role ≠ .manager → Answers .announce s fun u => u.rm = { rm with table := noted } ∧ frames u 0 ∧ u.sct.inbox = box ∧ SameMemory s u) ∧
      (rm.role = .manager → rm.enumOn = true → rm.directed = none → rm.annq.any (fun w => w.1 == uid) = false → Answers .announce s fun u =>
        u.rm = { rm with table := noted, annq := rm.annq ++ [(uid, m.portB)] } ∧ frames u 0 ∧ u.sct.inbox = box ∧ SameMemory s u) ∧
      (rm.role = .manager → rm.enumOn = false → rm.directed = none → rm.annq = [] → ∀ d, known = some d ∨ (known = none ∧ freeAddr s = some d) →
        Answers .announce s fun u => u.rm = { rm with table := noted, directed := some (uid, d, m.portB, false) } ∧ frames u 1 ∧ u.sct.inbox = box ∧
          SameMemory s u)) ∧
    (first 0x3E → m.session = 0xFFFF → rm.role ≠ .unaddressed → m.src ≠ rm.addr → (b.getD 0 0).toNat < 6 → Answers .keepalive s fun u =>
      here u ∧
      (rm.role = .worker → m.src = rm.mgr → b.getD 0 0 = 2 → u.rm.mseq = x ∧ u.rm.noMgr = 0)) ∧
    (first 0x3E → m.session = 0xFFFF → rm.role = .unaddressed →
      (b.getD 0 0 = 2 → rm.heardMgr = false → Answers .keepalive s fun u => here u ∧ u.rm.heardMgr = true ∧ u.rm.role = .unaddressed ∧ frames u 1 ∧ SameMemory s u) ∧
      ((b.getD 0 0).toNat < 6 → b.getD 0 0 ≠ 2 ∨ rm.heardMgr = true → Answers .keepalive s fun u =>
        here u ∧ u.rm.heardMgr = rm.heardMgr ∧ u.rm.role = .unaddressed ∧ frames u 0 ∧ SameMemory s u)) ∧
    (rm.addr = 0 → rm.role = .unaddressed → mgrCapable s = true → rm.heardMgr = false → s.ring.a.link = 2 ∨ s.ring.b.link = 2 →
      Answers .electionClaim s fun u => u.rm.addr = 1 ∧ u.rm.role = .manager ∧ u.rm.auth = true ∧ u.rm.mgr = 1 ∧ u.rm.enumPhase = false ∧
        u.rm.term = (if rm.termSeen = 0 then 1 else rm.termSeen + 1) ∧ u.rm.mseq = ownMseq s true u.rm.term ∧ SameMemory s u ∧
        ∀ d, freeAddr u = some d → u.rm.enumAddr = d ∧ u.rm.enumOn = true ∧ frames u 1) ∧
    (rm.role = .manager →
      (rm.directed = none → rm.enumOn = true → rm.enumPhase = false → free → Answers .enumTmo s fun u =>
        u.rm = { rm with enumPhase := true, enumAddr := a } ∧ frames u 1 ∧ SameMemory s u) ∧
      (rm.directed = none → rm.enumOn = true → rm.enumPhase = false → freeAddr s = none → rm.annq = [] → Answers .enumTmo s fun u =>
        u.rm = { rm with enumPhase := true, enumOn := false } ∧ frames u 0 ∧ u.flt.det = s.flt.det ++ [(0x081, 0)] ∧ SameMemory s u) ∧
      (rm.directed = none → rm.enumOn = true → rm.enumPhase = true → rm.annq = [] → exec .enumTmo s = .next { s with rm := { rm with enumOn := false } }) ∧
      (∀ w p r, rm.directed = none → rm.enumOn = true → rm.enumPhase = true → rm.annq = (w, p) :: r → free →
        (∀ t ∈ rm.table, t.uid ≠ w ∨ t.host = true ∨ t.addr = 0) → Answers .enumTmo s fun u =>
          u.rm = { rm with enumOn := false, annq := r, directed := some (w, a, p, false) } ∧ frames u 1 ∧ SameMemory s u) ∧
      (∀ w d p, rm.directed = some (w, d, p, false) → Answers .enumTmo s fun u => u.rm = { rm with directed := some (w, d, !p, true) } ∧ frames u 1 ∧
        SameMemory s u) ∧
      (∀ w d p, rm.directed = some (w, d, p, true) → rm.annq = [] → exec .enumTmo s = .next { s with rm := { rm with directed := none } })) ∧
    (rm.role = .unaddressed → rm.heardMgr = true → Answers .announceRepeat s fun u => frames u 1 ∧ u.rm = rm ∧ SameMemory s u) ∧
    (attached s = true → ((act s (aSCT + 0x404)).extractLsb' 0 27).toNat < period s → Answers .keepaliveSend s fun u => frames u 1 ∧ u.rm = rm ∧
      (lndTime s s.lnd.num.toNat + ((act s (aSCT + 0x404)).extractLsb' 0 27).setWidth 64).toNat ≤ u.time.now.toNat ∧ SameMemory s u) ∧
    (attached s = true → period s ≤ ((act s (aSCT + 0x404)).extractLsb' 0 27).toNat → exec .keepaliveSend s = .next { s with rm := { rm with ofsErr := true } })

/-- The ring in service (R350, R351, R354, R356, R359, R361, R366): a station that three flights have not heard is absent and its sessions close; without its manager the standby, when alone in seeing it, or the highest
rank takes over; DETACH and ANNOUNCE leave and join, without effect on a device that has left or has not; RM_TAGSET sets the tags unless a commit is shown; a silent partner makes its pair act or yield. -/
def Obligations.RingServiceFollowsPresence : Prop :=
  ∀ (s : State) (a : Byte) (t : Station) (e : BitVec 14) (tag : Half) (lvl : Lvl), clocksOn s = true →
    let rm := s.rm
    let i := e.toNat
    let others := s.rm.table.filter fun z => decide (z.age = 4) && z.addr != rm.mgr && z.addr != rm.addr
    let term := termOf rm.mseq + 1
    (stationOf s a = some t → t.present = true → 4 ≤ t.age → a ≠ rm.addr → Answers (.stationAbsent a) s fun u =>
      stationOf u a = some { t with present := false, detaching := false } ∧ (sessOf u (peerKey a)).st = .closed ∧
        ∀ k, k < 64 → (sessOf s k).st = .opened → (sessOf s k).host = a → (sessOf u k).st = .closed) ∧
    (rm.noMgr = 4 → topRank s = true → rm.role = .standby → others = [] → Answers .managerLoss s fun u => u.rm.role = .manager ∧ u.rm.auth = true ∧
      u.rm.term = term ∧ u.rm.mgr = rm.addr ∧ u.rm.mseq = ownMseq s true term ∧ u.flt.det = s.flt.det ++ [(0x082, 0)] ∧ SameMemory s u) ∧
    (rm.noMgr = 4 → topRank s = true → rm.role = .worker ∨ (rm.role = .standby ∧ others ≠ []) → Answers .managerLoss s fun u => u.rm.role = .segManager ∧
      u.rm.auth = false ∧ u.rm.mseq = rm.mseq &&& ~~~0x8000000000000000#64 ∧ u.rm.mgr = rm.mgr ∧ u.flt.det = s.flt.det ++ [(0x082, 0)] ∧ SameMemory s u) ∧
    (rm.role = .manager → 3 ≤ rm.noWorker → rm.auth = true → Answers .authLoss s fun u =>
      u.rm = { rm with auth := false, mseq := rm.mseq &&& ~~~0x8000000000000000#64 } ∧ { u with rm := rm } = s) ∧
    (Reaches lvl 2 → rm.role = .detached → rm.heardMgr = false → Answers (.announceCmd lvl) s fun u => u.rm.role = .unaddressed ∧ u.rm.addr = 0 ∧
      { u with rm := rm } = s) ∧
    (Reaches lvl 2 → rm.role = .detached → rm.heardMgr = true → Answers (.announceCmd lvl) s fun u => u.rm.role = .unaddressed ∧ u.rm.addr = 0 ∧
      u.sct.rtag = s.sct.rtag + 1 ∧ SameMemory s u) ∧
    (Reaches lvl 2 → rm.role ≠ .detached → exec (.announceCmd lvl) s = .next s) ∧
    (Reaches lvl 2 → rm.role ≠ .detached → Answers (.detach lvl) s fun u => u.rm.role = .detached ∧ u.rm.addr = rm.addr ∧ u.rm.pairs = [] ∧ u.rm.enumOn = false ∧
      u.rm.directed = none ∧ u.rm.annq = [] ∧ u.sct.rtag = (if rm.addr = 0 then s.sct.rtag else s.sct.rtag + 1) ∧ SameMemory s u) ∧
    (Reaches lvl 2 → rm.role = .detached → exec (.detach lvl) s = .next s) ∧
    (Reaches lvl 2 → s.lnd.pend = none → (∀ n c, s.lnd.judged ≠ some (n, some (c, 0))) → exec (.rmTagsetWrite lvl tag) s =
      .next { s with lnd := { s.lnd with tagA := tag, tagS := tag - 1 }, rm := { rm with tagref := false } }) ∧
    (Reaches lvl 2 → s.lnd.pend ≠ none ∨ (∃ n c, s.lnd.judged = some (n, some (c, 0))) →
      exec (.rmTagsetWrite lvl tag) s = .next { s with rm := { rm with tagref := true } }) ∧
    ((pairL s i).st = .paired → (pairL s i).silent = 2 →
      (pairHsb s i = true → pairAuth s = false → Answers (.pairSilent e) s fun u =>
        pairL u i = { pairL s i with st := .yielded, supp := true, since := s.lnd.num } ∧ (∀ j, j ≠ i → pairL u j = pairL s j) ∧
          imr u (aSCT + 0x478) = satAdd (imr s (aSCT + 0x478)) 1 ∧ u.flt.det = s.flt.det ++ [(0x084, e.setWidth 32)] ∧ SameMemory s u) ∧
      (pairHsb s i = false ∨ pairAuth s = true → Answers (.pairSilent e) s fun u =>
        pairL u i = { pairL s i with st := .solo, supp := false, since := s.lnd.num } ∧ (∀ j, j ≠ i → pairL u j = pairL s j) ∧
          imr u (aSCT + 0x474) = satAdd (imr s (aSCT + 0x474)) 1))

/-- The link of a ring port (R8, R9, R310, R311, R314, R325, R404): ENABLE, DISABLE and the drain move its enable state; a signal, a completed training, a lost signal and a retry move LINK, each with the link event;
RETRAIN is noted with its event while the link is UP. The other port is as it was. -/
def Obligations.PortLinksFollowTheirSignals : Prop :=
  ∀ (s : State) (b : Bool) (lvl : Lvl), clocksOn s = true →
    let p := portOf s b
    let o := fun (u : State) => portOf u (!b) = portOf s (!b) ∧ SameMemory s u
    let linkEv := 0x470 + (if b then 4 else 0)
    let link := fun (u : State) (v : Word) => Fired s u linkEv v
    let c := act s (aPort b + 0x88)
    (Reaches lvl 2 →
      (p.st = .disabled → Answers (.portEnable lvl b) s fun u =>
        portOf u b = { p with st := .active, enPend := false, link := 1 } ∧ (p.link ≠ 1 → link u 1) ∧ o u) ∧
      (p.st = .active → exec (.portEnable lvl b) s = .next s) ∧
      (p.st = .draining → Answers (.portEnable lvl b) s fun u => portOf u b = { p with enPend := true } ∧ o u) ∧
      (p.st = .active → Answers (.portDisable lvl b) s fun u => portOf u b = { p with st := .draining, enPend := false } ∧ o u) ∧
      (p.st = .draining → Answers (.portDisable lvl b) s fun u => portOf u b = { p with enPend := false } ∧ o u) ∧
      (p.link = 2 → Answers (.retrain lvl b) s fun u => portOf u b = { p with rtrReq := true } ∧ Fired s u (0x471 + (if b then 4 else 0)) 0 ∧ o u) ∧
      (p.link ≠ 2 → exec (.retrain lvl b) s = .next s)) ∧
    (p.st = .draining → p.q = [] → Answers (.portDrainEnd b) s fun u =>
      (portOf u b).st = (if p.enPend then .active else .disabled) ∧ (portOf u b).enPend = false ∧ (portOf u b).link = (if p.enPend then 1 else 0) ∧
        (portOf u b).rtrReq = false ∧ (portOf u b).rtrWait = false ∧ (portOf u b).rtrSeen = false ∧ SameMemory s u ∧
        (s.rm.addr = 0 → portOf u (!b) = portOf s (!b) ∧ (portOf u b).q = [])) ∧
    (p.st = .active → p.link = 0 → (Answers (.signalDetect b) s fun u => portOf u b = { p with signal := true, link := 1 } ∧ link u 1 ∧ o u) ∧
      Answers (.linkRetry b) s fun u => portOf u b = { p with link := 1 } ∧ link u 1 ∧ o u) ∧
    (p.st ≠ .disabled → p.link = 1 ∨ p.link = 3 → Answers (.linkUp b) s fun u =>
      portOf u b = { p with link := 2, vstat := if c.getLsbD 0 ∧ c.getLsbD 1 then 1 else 0 } ∧ link u 2 ∧ o u) ∧
    (p.link = 0 → Answers (.signalLoss b) s fun u =>
      portOf u b = { p with signal := false, rtrReq := false, rtrWait := false, rtrSeen := false } ∧ o u) ∧
    (p.link ≠ 0 → Answers (.signalLoss b) s fun u =>
      (portOf u b).link = 0 ∧ (portOf u b).signal = false ∧ (portOf u b).rtrReq = false ∧ imr u (aPCnt b 20) = satAdd (imr s (aPCnt b 20)) 1 ∧
        evSrc u linkEv = firedSrc (evSrc s linkEv) ((tabA s .evt linkEv 0).getLsbD 11) 0 s.time.now ∧
        SameMemory s u ∧ (s.rm.addr ≠ 0 → u.flt.det = s.flt.det ++ [(0x080, BitVec.ofNat 32 ((if b then 1 else 0) + (neighbour s b).toNat * 256))]) ∧
        (s.rm.addr = 0 → u.flt.det = s.flt.det))

/-- Transmission and gates (R322, R323, R325, R326, R329, R333): the highest queue that holds a frame is served first, an express frame preempts a preemptable one, and a frame without a transmit SA is discarded; the lists of
gates go on with their next entry at its time and start again at the end of a cycle; the verify handshake takes its result; PA_MTX queues a frame of shared SRAM and is REFUSED while BUSY. -/
def Obligations.PortsTransmitAndGate : Prop :=
  ∀ (s : State) (b : Bool) (q : Nat) (f : EgFrame) (rest : List EgFrame) (g : BitVec 6) (ok : Bool) (lvl : Lvl) (done : Half) (ofs : BitVec 18) (len : BitVec 14),
    clocksOn s = true →
    let p := portOf s b
    let o := fun (u : State) => portOf u (!b) = portOf s (!b) ∧ SameMemory s u
    let gates := (act s (aPort b + 0x50)).getLsbD 0
    let c := act s (aPort b + 0x88)
    let e := gateEntry s b
    let secure := (act s (aPort b + 0x90)).getLsbD 0
    let taken := fun (u : State) => egQ u b q = rest ∧ (∀ j, j ≠ q → egQ u b j = egQ s b j) ∧ o u
    let sent := fun (at_ : DWord) => ({
      f := f.f, sec := none, express := isExpressQ s b q, start := at_, till := at_ + BitVec.ofNat 64 (byteTime s b (frameLen f.f + 20)) } : OnWire)
    let cyc := ((act s (aPort b + 0x54)).extractLsb' 0 27).toNat
    let entries := ((act s (aPort b + 0x50)).extractLsb' 1 11).toNat
    let fin := p.gateOff + (e.extractLsb' 32 32).toNat
    let hold := fun (u : State) => (portOf u b).macHold = (match ((gateEntry u b).extractLsb' 8 2).toNat with | 1 => true | 2 => false | _ => p.macHold)
    let gate := sget (0, 0) s.ring.gates g.toNat
    let w := tabA s .gate (16 * g.toNat + gate.1) 0
    let start := (lndTime s s.lnd.num.toNat).toNat
    let fr := rawFrame ((List.range len.toNat).map fun i => memGet s (0x100000000 + (ofs.toNat * 64 + i) % 0x1000000))
    let fq := pcpQueue s b ((act s (aPort b + 0x80)).extractLsb' 24 3).toNat
    (p.link = 2 → p.st ≠ .disabled → gates = false → q ≤ 8 → egQ s b q = f :: rest → (∀ j, q < j → j ≤ 8 → egQ s b j = []) →
      (p.rest = 0 → (∀ y, p.wire = some y → y.till.toNat ≤ s.time.now.toNat) →
        (secure = false → Answers (.portFrameTransmit b) s fun u => taken u ∧ OtherIm s u (aPCnt b 3) ∧ u.time = s.time ∧ (portOf u b).rest = 0 ∧
          imr u (aPCnt b 3) = satAdd (imr s (aPCnt b 3)) 1 ∧ (portOf u b).wire = some (sent s.time.now)) ∧
        (secure = true → txSa s b = none → Answers (.portFrameTransmit b) s fun u => taken u ∧ OtherIm s u (aPCnt b 16) ∧ u.time = s.time ∧
          imr u (aPCnt b 16) = satAdd (imr s (aPCnt b 16)) 1 ∧ (portOf u b).wire = p.wire)) ∧
      (∀ y t, secure = false → p.wire = some y → y.express = false → isExpressQ s b q = true → c.getLsbD 0 = true → c.getLsbD 1 = false ∨ p.vstat = 3 →
        t = Nat.max s.time.now.toNat (y.start.toNat + byteTime s b ((1 + (c.extractLsb' 2 2).toNat) * 64)) → t < y.till.toNat →
        Answers (.portFrameTransmit b) s fun u => taken u ∧ u.time.now.toNat = t ∧ (portOf u b).rest = y.till.toNat - t ∧
          (portOf u b).wire = some (sent u.time.now))) ∧
    (gates = true →
      (cyc = 0 ∨ fin < p.gateCyc + cyc → p.gateIdx + 1 < entries → start + fin < 2 ^ 64 → Answers (.qbvGateEntry b) s fun u =>
        (portOf u b).gateIdx = p.gateIdx + 1 ∧ (portOf u b).gateOff = fin ∧ (portOf u b).gateCyc = p.gateCyc ∧ hold u ∧ start + fin ≤ u.time.now.toNat ∧ o u) ∧
      (cyc ≠ 0 → entries ≤ p.gateIdx + 1 ∨ p.gateCyc + cyc ≤ fin → start + p.gateCyc + cyc < 2 ^ 64 → Answers (.qbvGateEntry b) s fun u =>
        (portOf u b).gateIdx = 0 ∧ (portOf u b).gateOff = p.gateCyc + cyc ∧ (portOf u b).gateCyc = p.gateCyc + cyc ∧ hold u ∧
          start + p.gateCyc + cyc ≤ u.time.now.toNat ∧ o u) ∧
      (cyc = 0 → entries ≤ p.gateIdx + 1 → exec (.qbvGateEntry b) s = .next s)) ∧
    (gates = false → exec (.qbvGateEntry b) s = .next s) ∧
    ((w.extractLsb' 32 32) = 0 → exec (.streamGateEntry g) s = .next s) ∧
    ((w.extractLsb' 32 32) ≠ 0 → Answers (.streamGateEntry g) s fun u => sget (0, 0) u.ring.gates g.toNat =
      ((if w.getLsbD 5 ∨ gate.1 = 15 then 0 else gate.1 + 1), gate.2 + (w.extractLsb' 32 32).toNat) ∧
        (∀ h, h ≠ g.toNat → sget (0, 0) u.ring.gates h = sget (0, 0) s.ring.gates h) ∧ SameMemory s u) ∧
    (p.link = 2 → c.getLsbD 0 = true → c.getLsbD 1 = true → p.vstat ≠ 3 → Answers (.verifyRetry b ok) s fun u =>
      portOf u b = { p with vstat := if ok then 3 else if p.vstat = 1 then 2 else 4 } ∧ o u) ∧
    (Reaches lvl 2 → Answers (.paMrxDoneWrite lvl b done) s fun u => portOf u b = { p with mrxDone := done } ∧ o u) ∧
    (Reaches lvl 2 → len.toNat < 60 ∨ 9212 < len.toNat → exec (.paMtxSend lvl b ofs len) s = .next { s with reg := { s.reg with rsvd := true } }) ∧
    (Reaches lvl 2 → 60 ≤ len.toNat → len.toNat ≤ 9212 →
      (p.mtxBusy ≠ none → Answers (.paMtxSend lvl b ofs len) s fun u => portOf u b = { p with mtxRefused := true } ∧ o u) ∧
      (p.mtxBusy = none → Answers (.paMtxSend lvl b ofs len) s fun u => (portOf u b).mtxRefused = false ∧ o u ∧ (portOf u b).mtxBusy = some fr ∧
        (p.st = .active → frameLen fr ≤ maxSdu s b fq → queueBytes (egQ s b fq) + frameLen fr ≤ ((act s (aPort b + 0x60 + 4 * fq)).extractLsb' 16 8).toNat * 0x10000 →
          portBytes s false + portBytes s true + frameLen fr ≤ 28 * 0x100000 → egQ u b fq = egQ s b fq ++ [{ f := fr, cut := false }]))) ∧
    (Answers (.mtxDone b) s fun u => portOf u b = { p with mtxBusy := none } ∧ o u)

/-- Ring time (R257, R258, R259, R272, R330, R331, R332): a Sync on a SLAVE port, its offset corrected by the port's latency, slews ring time up to the threshold and steps it beyond, with the counter and the event; a
grandmaster that sends its Sync is in SYNC; the loss of the selected domain at the last port that receives it puts ring time into HOLDOVER; path delay is the mean of eight results at the reference plane. That timestamps and
delays come as measured at the pins is the model's reading (log 116); when ring time leaves a slew back is its choice (log 117). -/
def Obligations.RingTimeFollowsItsDomain : Prop :=
  ∀ (s : State) (b dom1 : Bool) (offset : DWord) (rate : Word) (origin : BitVec 80) (corr resid : DWord) (delay : BitVec 28) (ratio : Word), clocksOn s = true →
    let p := portOf s b
    let other := !b
    let t := s.time
    let carried := fun (c : Bool) => (portOf s c).link = 2 ∧ (portOf s c).ascap = true
    let ofs := fun (c : Bool) => ((act s (aPort c + 0x34)).extractLsb' 0 27).toNat
    let rx := ((act s (aPort b + 0x20)).extractLsb' 0 16).toNat
    let tx := ((act s (aPort b + 0x20)).extractLsb' 16 16).toNat
    let off := offset + BitVec.ofNat 64 rx
    let slave := asRole s b dom1 = 1 ∧ carried b
    let heard : Port := if dom1 then { p with sync1 := true, syncAge1 := 0 } else { p with sync0 := true, syncAge0 := 0 }
    let selected := (act s aTIMECFG).getLsbD 0 = dom1
    let small := off.toInt.natAbs ≤ ((act s aSTEPTHR).extractLsb' 0 20).toNat
    let o := fun (u : State) => portOf u other = portOf s other ∧ SameMemory s u
    let sync := Instr.syncReceive b dom1 offset ⟨rate, origin, corr, resid⟩
    let got := fun (u : State) => portOf u b = heard ∧ (asRole s other dom1 ≠ 2 → portOf u other = portOf s other) ∧ SameMemory s u
    let stepped := fun (u : State) => imr u aSTEPCNT = satAdd (imr s aSTEPCNT) 1 ∧ imr u aLASTSTEP = stepSat off ∧
      evSrc u 0x492 = firedSrc (evSrc s 0x492) ((tabA s .evt 0x492 0).getLsbD 11) (stepSat off) (t.now + off)
    let otherHears := asRole s other dom1 = 1 ∧ (if dom1 then (portOf s other).sync1 else (portOf s other).sync0) = true
    (¬slave → exec sync s = .next s) ∧
    (slave → ¬selected → Answers sync s fun u => got u ∧ u.time = t) ∧
    (slave → selected → t.st = .sync →
      (small → Answers sync s fun u => got u ∧ u.time = { t with slew := off, syncs := t.syncs + 1, rate := rate, rateOk := true, gm := false }) ∧
      (¬small → Answers sync s fun u => got u ∧ stepped u ∧
        u.time = { t with now := t.now + off, slew := 0, syncs := t.syncs + 1, rate := rate, rateOk := true, gm := false })) ∧
    (slave → selected → t.st ≠ .sync →
      (p.pdlyValid = true → Answers sync s fun u => got u ∧ stepped u ∧
        evSrc u 0x493 = firedSrc (evSrc s 0x493) ((tabA s .evt 0x493 0).getLsbD 11) 1 t.now ∧
        u.time = { t with st := .sync, now := t.now + off, slew := 0, syncs := 1, rateOk := false, gm := false }) ∧
      (p.pdlyValid = false → Answers sync s fun u => got u ∧ u.time = t)) ∧
    (asRole s false dom1 = 2 → asRole s true dom1 = 2 → Answers (.syncSend dom1) s fun u =>
      (∀ c, (portOf u c).ofsErr = !decide (ofs c < period s)) ∧ SameMemory s u ∧
      (selected → (∃ c, ofs c < period s ∧ carried c) → u.time.st = .sync ∧ u.time.gm = true) ∧
      (¬selected ∨ (∀ c, ofs c < period s → ¬carried c) → u.time.st = t.st ∧ u.time.gm = t.gm)) ∧
    (asRole s false dom1 ≠ 2 ∨ asRole s true dom1 ≠ 2 → exec (.syncSend dom1) s = .next s) ∧
    (asRole s b dom1 = 1 → (if dom1 then p.sync1 = true ∧ 3 ≤ p.syncAge1 else p.sync0 = true ∧ 3 ≤ p.syncAge0) →
      Answers (.syncLoss b dom1) s fun u => portOf u b = (if dom1 then { p with sync1 := false } else { p with sync0 := false }) ∧ o u ∧
        (selected → t.st = .sync → ¬otherHears → u.time = { t with st := .holdover } ∧ Fired s u 0x493 2) ∧
        (¬selected ∨ t.st ≠ .sync ∨ otherHears → u.time = t ∧ u.evt = s.evt)) ∧
    ((act s (aPort b + 0x30)).getLsbD 4 = true → p.link = 2 →
      (ofs b < period s → Answers (.pdelayReqSend b) s fun u => (portOf u b).pdlyOpen = true ∧ (portOf u b).ofsErr = false ∧ o u ∧
        (lndTime s s.lnd.num.toNat + BitVec.ofNat 64 (ofs b)).toNat ≤ u.time.now.toNat) ∧
      (period s ≤ ofs b → Answers (.pdelayReqSend b) s fun u => portOf u b = { p with ofsErr := true } ∧ o u)) ∧
    ((act s (aPort b + 0x30)).getLsbD 4 = true → p.pdlyOpen = true → Answers (.pdelayResponse b ⟨delay, ratio⟩) s fun u =>
      let l := ((delay.toNat - 8 * (rx + tx)) :: p.pdly).take 8
      portOf u b = { p with pdlyOpen := false, pdlyRun := 0, ascap := true, pdlyValid := true, pdly := l, nrr := ratio } ∧
        imr u (aPort b + 0x38) = BitVec.ofNat 32 (l.foldl (· + ·) 0 / l.length) ∧ o u) ∧
    ((act s (aPort b + 0x30)).getLsbD 4 = false ∨ p.pdlyOpen = false → exec (.pdelayResponse b ⟨delay, ratio⟩) s = .next s) ∧
    (3 ≤ p.pdlyRun → Answers (.pdelayMiss b) s fun u => portOf u b = { p with ascap := false } ∧ o u) ∧
    (p.pdlyRun < 3 → exec (.pdelayMiss b) s = .next s) ∧
    (exec .slewComplete s = .next { s with time := { t with now := if t.slew.toInt < 0 then t.now else t.now + t.slew, slew := 0 } })

/-- The commands of a device port unit (R8, R9, R378 to R382, R384, R385, R390, R391, R404): ENABLE takes settings that keep their limits into force with empty buffers; DISABLE drains, discarding what is not yet
eligible; the window's commands act on the classes that have them and are otherwise ignored with FORMAT; the signal of the unit follows ATTN. Stated where no context waits for the unit. That events stop while the class clock is
gated, and that settings which break a limit at the end of a drain leave the former ones in force, are the model's readings (logs 122 and 108). -/
def Obligations.DevicePortUnitsFollowTheirCommands : Prop :=
  ∀ (s : State) (v : BitVec 7) (lvl : Lvl) (phy : Option Half) (n : Byte) (up : Bool) (rate : BitVec 2), clocksOn s = true → unitOk v.toNat = true →
    let k := v.toNat
    let x := unitOf s k
    let cls := unitClass k
    let is := fun (u : State) (y : DUnit) => unitOf u k = y ∧ OnlyUnit s u k
    let count := fun (u : State) (i j : Nat) => imr u (aUnit k (0x20 + 4 * i)) = satAdd (imr s (aUnit k (0x20 + 4 * i))) j
    let ignored := fun (c : Instr) => Answers c s fun u => unitOf u k = { x with code := 3 } ∧ u.reg.rsvd = true ∧ Signals s u k ∧ OtherUnits s u k ∧ SameMemory s u
    let discards := fun (r : TxRec) => cls = 7 ∨ r.eligible = none
    let mode := ((unitSet s k 0).extractLsb' 0 2).toNat
    let clk := unitClk s k = true
    let reopened := fun (u : State) => (unitOf u k).st = .active ∧ (unitOf u k).enPend = false ∧ (unitOf u k).code = 0 ∧ (unitOf u k).attn = false ∧
      (unitOf u k).refused = (!cfgOk cls (unitCfg s k)) ∧ (unitOf u k).applied = if cfgOk cls (unitCfg s k) then (List.range 4).map (unitCfg s k) else x.applied
    let follows := clk ∧ cls = 1 ∧ x.st ≠ .disabled ∧ (unitSet s k 0).getLsbD 0 = true ∧ (unitSet s k 0).extractLsb' 8 8 ≠ 0
    (Reaches lvl 2 →
      (x.st = .disabled → cfgOk cls (unitCfg s k) = true → Answers (.unitEnable lvl v) s fun u => Signals s u k ∧ is u
        { x with
          st := .active, enPend := false, refused := false, code := 0, attn := false, tx := [], rx := [], armed := [], rxStop := false, edgeAt := none
          linSub := false, spiRx := [], filt := [], was := none, syncPs := none, applied := (List.range 4).map (unitCfg s k)
          level := if cls = 7 ∧ (unitCfg s k 0).getLsbD 0 = true then (unitCfg s k 0).getLsbD 14 else x.level }) ∧
      (x.st = .disabled → cfgOk cls (unitCfg s k) = false → Answers (.unitEnable lvl v) s (is · { x with enPend := false, refused := true })) ∧
      (x.st = .draining → cfgOk cls (unitCfg s k) = true → Answers (.unitEnable lvl v) s (is · { x with enPend := true, refused := false })) ∧
      (x.st = .draining → cfgOk cls (unitCfg s k) = false → Answers (.unitEnable lvl v) s (is · { x with refused := true })) ∧
      (x.st = .active → exec (.unitEnable lvl v) s = .next s) ∧
      (x.st = .active → NoWaiters s k → Answers (.unitDisable lvl v) s fun u => count u (cntFlush cls) (x.tx.filter fun r => decide (discards r)).length ∧ is u
        { x with st := .draining, enPend := false, rxStop := false, drainAt := s.time.now, tx := x.tx.filter fun r => !decide (discards r) }) ∧
      (x.st = .draining → Answers (.unitDisable lvl v) s (is · { x with enPend := false }))) ∧
    (clk → x.st = .draining → x.tx = [] → x.armed = [] → NoWaiters s k → Answers (.unitDrainEnd v) s fun u => OnlyUnit s u k ∧ (unitOf u k).rx = [] ∧
      (x.enPend = false → (unitOf u k).st = .disabled ∧ (unitOf u k).applied = [] ∧ (unitOf u k).link = 0 ∧
        ((act s (aUnit k 0)).getLsbD 2 = true → Fired s u (0x400 + k) ((portSts u k).setWidth 32)) ∧
        ((act s (aUnit k 0)).getLsbD 2 = false → ∀ m, evSrc u m = evSrc s m) ∧
        (cls = 7 → pinLevel u k = match ((unitCfg s k 0).extractLsb' 12 2).toNat with | 0 => false | 1 => true | _ => x.level)) ∧
      (x.enPend = true → reopened u)) ∧
    (let t := ((act s aDPT).extractLsb' 0 20).toNat; x.st = .draining → t ≠ 0 → NoWaiters s k → Answers (.drainTmo v) s fun u =>
        (unitOf u k).tx = [] ∧ (unitOf u k).armed = [] ∧ (unitOf u k).rx = [] ∧ count u (cntFlush cls) (x.tx.length + x.armed.length) ∧
          (x.drainAt + BitVec.ofNat 64 (1000 * t)).toNat ≤ u.time.now.toNat ∧ OtherUnits s u k ∧ SameMemory s u ∧
          (x.enPend = false → (unitOf u k).st = .disabled ∧ (unitOf u k).code = 0x11 ∧ (unitOf u k).attn = true) ∧ (x.enPend = true → reopened u)) ∧
    (Answers (.ackAttn v) s fun u => Signals s u k ∧ is u { x with attn := false, code := 0 }) ∧
    (Answers (.flushRx v) s fun u => (∀ m, evSrc u m = evSrc s m) ∧ is u { x with rx := [] }) ∧
    (canSend cls = true → NoWaiters s k → Answers (.flushTx v) s fun u => Signals s u k ∧ is u { x with tx := [], armed := [], code := 0x13 } ∧
      count u (cntFlush cls) (x.tx.length + x.armed.length)) ∧
    (canSend cls = false → ignored (.flushTx v)) ∧
    (cls = 0 → x.canSt = 2 → Answers (.recover v) s (is · { x with recovering := true })) ∧
    (cls = 0 → x.canSt ≠ 2 → exec (.recover v) s = .next s) ∧ (cls ≠ 0 → ignored (.recover v)) ∧
    (clk → cls = 0 → x.canSt = 2 → x.recovering = true → Answers (.busOffRecovery v) s (is · { x with canSt := 0, tec := 0, rec_ := 0, recovering := false })) ∧
    (cls = 1 ∨ cls = 2 → Answers (.mdioRd v) s (is · { x with mdio := some (false, x.arg1.extractLsb' 16 16), mdioDone := false })) ∧
    (cls = 1 ∨ cls = 2 → Answers (.mdioWr v) s (is · { x with mdio := some (true, x.arg1.extractLsb' 16 16), mdioDone := false })) ∧
    (cls ≠ 1 → cls ≠ 2 → ignored (.mdioRd v) ∧ ignored (.mdioWr v)) ∧
    (∀ d, clk → x.mdio = some (true, d) → Answers (.mdioDone v phy) s (is · { x with mdio := none, mdioData := d, mdioDone := true })) ∧
    (∀ d e, clk → x.mdio = some (false, d) → phy = some e → Answers (.mdioDone v phy) s (is · { x with mdio := none, mdioData := e, mdioDone := true })) ∧
    (∀ d, clk → x.mdio = some (false, d) → phy = none → Answers (.mdioDone v phy) s fun u => Signals s u k ∧
      is u { x with mdio := none, mdioData := 0xFFFF, mdioDone := true, code := 0x12 }) ∧
    (let us := (x.arg0.extractLsb' 0 13).toNat; (cls = 6 → 250 ≤ us → us ≤ 5000 → Answers (.wakeCmd v) s (is · { x with linSt := 0 })) ∧ (cls ≠ 6 ∨ us < 250 ∨ 5000 < us → ignored (.wakeCmd v))) ∧
    (cls = 7 → mode = 1 ∨ mode = 3 → x.st ≠ .disabled → Answers (.setLevel v) s (is · { x with level := x.arg0.getLsbD 0 })) ∧
    (cls = 7 → mode = 1 ∨ mode = 3 → x.st = .disabled → exec (.setLevel v) s = .next s) ∧
    (cls ≠ 7 ∨ mode = 0 ∨ mode = 2 → ignored (.setLevel v)) ∧
    (follows → x.recovering = false → Answers (.plcaLost v) s fun u => Signals s u k ∧ count u 5 1 ∧
      is u { x with beacons := false, recovering := true, code := 7, attn := true }) ∧
    (follows → Answers (.plcaBeaconReturn v n) s (is · { x with beacons := true, nodeCnt := n, recovering := false })) ∧
    (clk → cls = 2 → x.st ≠ .disabled → x.link = 0 → up = true → Answers (.mgLinkChange v up rate) s
      (is · { x with link := if mode = 0 then rate else (unitSet s k 0).extractLsb' 0 2 })) ∧
    (clk → cls = 2 → x.st ≠ .disabled → x.link ≠ 0 → up = false → Answers (.mgLinkChange v up rate) s fun u => Signals s u k ∧ count u 4 1 ∧
      is u { x with link := 0, code := 8, attn := true }) ∧
    (unitClk s k = false → ∀ c ∈ [Instr.unitDrainEnd v, .busOffRecovery v, .mdioDone v phy, .plcaLost v, .plcaBeaconReturn v n, .mgLinkChange v up rate, .launchTime v,
      .recordTransmit v ⟨up, 0⟩, .compareEdge v, .captureEdge v { level := up }], exec c s = .next s) ∧
    (unitClk s k = false → ∀ r e (pid : BitVec 6), exec (.recordReceive v r e) s = .next s ∧ exec (.noResp v r) s = .next s ∧ exec (.linHeader v pid r e) s = .next s)

/-- Records of device ports (R374 to R377, R385 to R398): a unit of transfer that ends goes into the receive FIFO, or is lost with OVERRUN when it is full; a record whose launch time has come is eligible; the next
eligible record is sent and leaves the buffer. A CSI unit is built of the packets that its receiver accepts, a SENT message passes its sync and CRC tests, and a unit of transfer that began before a landing is
judged by the settings before it. The CRC-4 of SENT, the LIN checksum and REC above 127 are those of their standards (logs 30, 34 and 137). Stated where no context waits for the unit and its class clock runs. -/
def Obligations.RecordsArriveAndLeave : Prop :=
  ∀ (s : State) (v : BitVec 7) (b : List Byte) (e : RxEnd) (m : CsiUnit) (sm : SentMsg) (pid : BitVec 6) (r : TxRec) (level : Bool) (d : TxDone), clocksOn s = true →
    unitOk v.toNat = true → unitClk s v.toNat = true → NoWaiters s v.toNat →
    let k := v.toNat
    let x := unitOf s k
    let cls := unitClass k
    let rec_ := Instr.recordReceive v { bytes := b, csi := m, sent := sm } e
    let good := d.good
    let ended : DUnit := if x.st = .draining then { x with rxStop := true } else x
    let counts := fun (u : State) (i n : Nat) => imr u (aUnit k (0x20 + 4 * i)) = satAdd (imr s (aUnit k (0x20 + 4 * i))) n
    let packets := (unitSet s k 0).getLsbD 2 = true
    let held := m.pkts.filter (csiHolds s k)
    let pay := held.flatMap fun p => padTo 64 p.pay
    let codes := (m.pkts.map (csiCode s k)).filter (· ≠ 0)
    let csi : RxEnd := { crcBad := !codes.isEmpty, portErr := m.seq, code := if m.seq then 0x14 else BitVec.ofNat 5 (codes.getLast?.getD 0) }
    let pulse := sm.sync.toNat
    let tick := 560000 * ((unitSet s k 0).extractLsb' 0 14).toNat
    let away := fun a : Nat => (pulse - a) + (a - pulse)
    let unsynced := tick < 4 * away tick ∨ ∃ q, x.syncPs = some q ∧ q.toNat < 64 * away q.toNat
    let nib := ((unitSet s k 0).extractLsb' 14 3).toNat
    let data := (sm.nibs.drop 1).take nib
    let crcBad := decide (data.length < nib ∨ (sm.nibs[nib + 1]?).map (·.toNat) ≠ some (sentCrc ((unitSet s k 0).getLsbD 17) data))
    let fast : RxRec :=
      { bytes := padTo 16 (slice b 0 8 ++ [1, (sm.nibs.headD 0).setWidth 8, BitVec.ofNat 8 ((if crcBad then 1 else 0) + if sm.pause then 2 else 0), BitVec.ofNat 8 nib] ++
          leBytes 4 (data.foldl (fun a k => 16 * a + k.toNat) 0))
        fin := { crcBad := crcBad, portErr := false, code := if crcBad then 0xD else 0 } }
    let gets := fun (u : State) (n : Nat) (bytes : List Byte) (f : RxEnd) => (unitOf u k).rx = x.rx ++ [{ bytes := padTo n bytes, fin := f }] ∧ OtherUnits s u k ∧ SameMemory s u
    let count := fun (u : State) (i : Nat) => imr u (aUnit k (0x20 + 4 * i)) = satAdd (imr s (aUnit k (0x20 + 4 * i))) 1
    let fine : RxEnd := { crcBad := false, portErr := false, code := 0 }
    let bad := e.crcBad = true ∨ e.portErr = true
    let id := rFld b 8 4
    let fmt := (byteAt b 0xC).toNat % 4
    let hit := canMatch s k id fmt ((byteAt b 0xC).getLsbD 2)
    let frame := b.drop 8
    let group := (byteAt frame 0).getLsbD 0
    let bcast := decide (slice frame 0 6 = List.replicate 6 0xFF)
    let own := beBytes 2 ((unitSet s k 3).toNat % 0x10000) ++ beBytes 4 (unitSet s k 2).toNat
    let w := if cls = 2 then unitSet s k 0 else unitSet s k 1
    let top := if cls = 2 then ((unitSet s k 0).extractLsb' 2 14).toNat else if slice frame 12 2 = [0x81, 0x00] then 1518 else 1514
    let passes := slice frame 0 6 = own ∨ bcast = true ∨ (group = true ∧ w.getLsbD 17 = true) ∨ w.getLsbD 16 = true
    let lin := fun (u : State) (y : List Byte) =>
      let pd := byteAt y 8
      let bits := byteAt y 0xA &&& 7
      let octets := slice y 0x10 (Nat.min 8 (rFld y 9 1))
      let sumBad := decide (byteAt y 0x18 ≠ linSum (bits.getLsbD 2) pd octets)
      let parBad := decide (pd ≠ linPidOf (pd.toNat % 64))
      gets u 16 (padTo 32 (slice y 0 8 ++ [pd, BitVec.ofNat 8 (Nat.min 8 (rFld y 9 1)), bits, BitVec.ofNat 8 ((if sumBad then 1 else 0) + if parBad then 4 else 0), 0, 0, 0, 0] ++
          octets)) { crcBad := sumBad || parBad, portErr := false, code := if sumBad || parBad then 0xE else 0 } ∧ count u 1
    let next := nextTx x = some r
    let sent := fun (c : Instr) (i : Nat) => Answers c s fun u => (unitOf u k).tx = x.tx.erase r ∧ count u i ∧ OtherUnits s u k ∧ SameMemory s u
    let failed := fun (c : Instr) (i : Nat) => Answers c s fun u => (unitOf u k).tx = x.tx.erase r ∧ (unitOf u k).code = 4 ∧ count u i ∧ OtherUnits s u k ∧ SameMemory s u
    let pin := s.flt.safestate
    (receives s k = false → exec rec_ s = .next s) ∧
    (receives s k = true →
      (cls = 7 ∨ (cls = 4 ∧ x.spiRx = []) ∨ (cls = 6 ∧ x.linSub = false) ∨ (cls = 0 ∧ x.canSt = 2) → Answers rec_ s fun u => unitOf u k = ended ∧ OnlyUnit s u k) ∧
      (∀ h t, cls = 4 → x.spiRx = h :: t → let y := spiRec h b
        (x.rx.length < 8 → Answers rec_ s fun u => (unitOf u k).spiRx = t ∧
          gets u 4 y.1 { crcBad := y.2, portErr := false, code := if y.2 then 0x10 else 0 } ∧ (y.2 = true → count u 2)) ∧
        (8 ≤ x.rx.length → Answers rec_ s fun u => (unitOf u k).rx = x.rx ∧ (unitOf u k).spiRx = t ∧ (unitOf u k).code = 1 ∧ (unitOf u k).attn = true ∧ count u 1 ∧
          Signals s u k ∧ OtherUnits s u k ∧ SameMemory s u)) ∧
      (cls = 0 → x.canSt ≠ 2 → ¬bad → x.rx.length < 32 →
        (∀ f g, hit = some (f, g) → g.getLsbD 30 = false → Answers rec_ s fun u => gets u 16 (canRec b f) fine ∧ count u 0) ∧
        (∀ f g, hit = some (f, g) → g.getLsbD 30 = true → Answers rec_ s fun u => (unitOf u k).rx = x.rx ∧ count u 2) ∧
        (hit = none → (unitSet s k 3).getLsbD 7 = true → Answers rec_ s fun u => gets u 16 (canRec b 0xFF) fine ∧ count u 0) ∧
        (hit = none → (unitSet s k 3).getLsbD 7 = false → Answers rec_ s fun u => (unitOf u k).rx = x.rx ∧ count u 2)) ∧
      (cls = 0 → x.canSt ≠ 2 → ¬bad → x.rx.length < 32 → Answers rec_ s fun u =>
        (x.rec_.toNat ≤ 127 → (unitOf u k).rec_.toNat = x.rec_.toNat - 1) ∧ (127 < x.rec_.toNat → 119 ≤ (unitOf u k).rec_.toNat ∧ (unitOf u k).rec_.toNat ≤ 127)) ∧
      (∀ a t, cls = 0 → x.canSt ≠ 2 → ¬bad → x.was = some (a, t) → (∀ f, f < 16 → (t.getD f (tabA s .canFilter (16 * k + f) 0)).getLsbD 31 = false) →
        (a.getD 3 (unitCfg s k 3)).getLsbD 7 = false → Answers (.recordReceive v { bytes := b, old := true } e) s fun u =>
          (unitOf u k).rx = x.rx ∧ (unitOf u k).applied = x.applied ∧ count u 2) ∧
      (cls = 0 → x.canSt ≠ 2 → bad → Answers rec_ s fun u => (unitOf u k).rx = x.rx ∧ count u 4 ∧ (x.rec_ ≠ 255 → (unitOf u k).rec_ = x.rec_ + 1)) ∧
      (cls = 1 ∨ cls = 2 → ¬bad → 60 ≤ frame.length → frame.length ≤ top → passes → slice frame 12 4 ≠ [0x88, 0x08, 0x00, 0x01] → x.rx.length < rxDepth cls →
        Answers rec_ s fun u => count u 0 ∧
          gets u 16 (slice b 0 8 ++ leBytes 2 frame.length ++ [if bcast then 2 else if group then 1 else 0, 0, 0, 0, 0, 0] ++ frame) fine) ∧
      (cls = 1 ∨ cls = 2 → bad ∨ frame.length < 60 ∨ top < frame.length ∨ ¬passes → bad ∨ slice frame 12 4 ≠ [0x88, 0x08, 0x00, 0x01] →
        Answers rec_ s fun u => unitOf u k = ended ∧ count u 2) ∧
      (cls = 1 ∨ cls = 2 → ¬bad → slice frame 12 4 = [0x88, 0x08, 0x00, 0x01] → Answers rec_ s fun u => unitOf u k = ended ∧ OnlyUnit s u k) ∧
      (cls = 3 → ¬packets → Answers rec_ s fun u => count u 0 ∧ counts u 1 held.length ∧ counts u 2 (m.pkts.filter fun p => !p.unc && !csiTakes s k p).length ∧
        counts u 3 (m.pkts.filter fun p => !p.unc && p.cor).length ∧ counts u 4 (m.pkts.filter (·.unc)).length ∧ counts u 5 (held.filter (·.bad)).length ∧
        (m.seq = true → count u 7) ∧ (unitOf u k).csiTime = m.start ∧ (unitOf u k).csiNum = m.frame ∧ (unitOf u k).csiPkts = BitVec.ofNat 32 held.length ∧
        (rxBytes x + pay.length ≤ 0x10000 → gets u 64 pay csi ∧ (unitOf u k).csiBytes = BitVec.ofNat 32 pay.length) ∧
        (rxBytes x ≤ 0x10000 → 0x10000 < rxBytes x + pay.length → m.seq = false → count u 6 ∧ (unitOf u k).code = 9 ∧ (unitOf u k).attn = true ∧
          gets u 64 (pay.take ((0x10000 - rxBytes x) / 64 * 64)) { csi with portErr := true, code := 9 })) ∧
      (∀ p, cls = 3 → packets → m.pkts = [p] → m.last = false → m.seq = false →
        (csiHolds s k p = true → rxBytes x + 64 + (padTo 64 p.pay).length ≤ 0x10000 → Answers rec_ s fun u => count u 1 ∧ (p.bad = true → count u 5) ∧
          (p.cor = true → count u 3) ∧ (unitOf u k).csiNum = m.frame ∧
          gets u 64 (csiHead m p ++ padTo 64 p.pay) { crcBad := p.bad, portErr := false, code := if p.bad then 0xB else 0 }) ∧
        (p.unc = true → Answers rec_ s fun u => (unitOf u k).rx = x.rx ∧ (unitOf u k).code = 0xA ∧ count u 4) ∧
        (p.unc = false → csiTakes s k p = false → Answers rec_ s fun u => unitOf u k = ended ∧ count u 2 ∧ (p.cor = true → count u 3))) ∧
      (cls = 5 → unsynced → Answers rec_ s fun u => (unitOf u k).rx = x.rx ∧ (unitOf u k).code = 0xC ∧ (unitOf u k).syncPs = some sm.sync ∧
        (unitOf u k).tick = BitVec.ofNat 32 (pulse / 56) ∧ count u 3 ∧ OtherUnits s u k ∧ SameMemory s u) ∧
      (cls = 5 → ¬unsynced → Answers rec_ s fun u => (unitOf u k).syncPs = some sm.sync ∧ (unitOf u k).tick = BitVec.ofNat 32 (pulse / 56) ∧ count u 0 ∧
        (sm.ser = none → (crcBad = true → count u 2) ∧ (x.rx.length < 32 → (unitOf u k).rx = x.rx ++ [fast])) ∧
        (∀ q, sm.ser = some q → ((unitSet s k 0).extractLsb' 19 2).toNat = (if q.enh then 2 else 1) → x.rx.length < 31 → count u 1 ∧ ∃ y, (unitOf u k).rx = x.rx ++ [fast, y] ∧
          byteAt y.bytes 8 = (if q.enh then 3 else 2) ∧ byteAt y.bytes 9 = q.id ∧ y.fin.crcBad = q.bad ∧ (unitOf u k).serial = q.data.setWidth 32)) ∧
      (cls = 6 → x.linSub = true → x.rx.length < 8 → Answers rec_ s fun u => (unitOf u k).linSub = false ∧ lin u b) ∧
      (cls = 6 → linAwaits s k (rFld b 8 1 % 64) = true → x.rx.length < 8 → Answers (.noResp v { bytes := b }) s fun u => count u 3 ∧ (unitOf u k).code = 0xF ∧
        (unitOf u k).linSub = false ∧ gets u 16 (slice b 0 0xA ++ [byteAt b 0xA &&& 7, BitVec.ofNat 8 (2 + if byteAt b 8 = linPidOf ((byteAt b 8).toNat % 64) then 0 else 4), 0, 0, 0, 0] ++
          slice b 0x10 8 ++ List.replicate 8 0) { crcBad := false, portErr := true, code := 0xF }) ∧
      (cls = 7 → ((unitSet s k 0).extractLsb' 0 2) = 2 → safeLevel s k = none → x.level ≠ level →
        (if level then (unitSet s k 0).getLsbD 2 else (unitSet s k 0).getLsbD 3) = true → x.rx.length < 32 →
        Answers (.captureEdge v { level := level }) s fun u => (unitOf u k).level = level ∧ count u 0 ∧
          gets u 16 (leBytes 8 s.time.now.toNat ++ [if level then 1 else 0, 0, 0, 0, 0, 0, 0, 0]) fine)) ∧
    (cls = 6 → receives s k = false ∨ linAwaits s k (rFld b 8 1 % 64) = false → exec (.noResp v { bytes := b }) s = .next s) ∧
    (cls = 7 → x.level = level ∨ safeLevel s k ≠ none → exec (.captureEdge v { level := level }) s = .next s) ∧
    (cls = 6 → (unitSet s k 0).getLsbD 0 = true → x.st ≠ .disabled →
      (∀ a, (x.armed.find? fun a => a.1 = pid) = some a → Answers (.linHeader v pid { bytes := b } e) s fun u =>
        (unitOf u k).armed = (x.armed.filter fun a => a.1 ≠ pid) ∧ (unitOf u k).linPid = linPidOf pid.toNat ∧
        (if e.code = 4 ∨ pin = true then count u 4 ∧ (unitOf u k).code = 4 else count u 0) ∧ OtherUnits s u k ∧ SameMemory s u) ∧
      ((x.armed.find? fun a => a.1 = pid) = none → receives s k = false ∨ subscribed s k pid.toNat = false → Answers (.linHeader v pid { bytes := b } e) s fun u => unitOf u k = { x with linPid := linPidOf pid.toNat } ∧ OnlyUnit s u k)) ∧
    (cls = 6 → (unitSet s k 0).getLsbD 0 = true → (x.armed.find? fun a => a.1 = pid) = none → receives s k = true → x.rx.length < 8 →
      subscribed s k pid.toNat = true → Answers (.linHeader v pid { bytes := b } e) s fun u =>
        lin u (slice b 0 8 ++ [(byteAt b 8 &&& 0xC0) ||| pid.setWidth 8] ++ b.drop 9)) ∧
    (nextLaunch x = some r → Answers (.launchTime v) s fun u => (r.launch.getD 0).toNat ≤ u.time.now.toNat ∧ OtherUnits s u k ∧ SameMemory s u ∧
      (¬(cls = 6 ∧ rFld r.bytes 0xA 1 % 4 = 2) → (unitOf u k).tx = x.tx.map (fun d => if d = r then { r with eligible := some s.stamp } else d)) ∧
      (cls = 6 → rFld r.bytes 0xA 1 % 4 = 2 → (unitOf u k).tx = x.tx.erase r ∧
        (unitOf u k).armed = (x.armed.filter fun a => a.1 ≠ BitVec.ofNat 6 (rFld r.bytes 8 1)) ++ [(BitVec.ofNat 6 (rFld r.bytes 8 1), r.bytes)])) ∧
    (next → x.st ≠ .disabled →
      (cls = 4 → Answers (.recordTransmit v d) s fun u => (unitOf u k).tx = x.tx.erase r ∧ count u 0 ∧ OtherUnits s u k ∧ SameMemory s u ∧
        (unitOf u k).spiRx = if (byteAt r.bytes 0xA).getLsbD 3 then x.spiRx ++ [r.bytes] else x.spiRx) ∧
      (cls = 2 → x.link ≠ 0 → sent (.recordTransmit v d) 1) ∧
      (cls = 1 → good = true → sent (.recordTransmit v d) 1) ∧ (cls = 1 → good = false → failed (.recordTransmit v d) 6) ∧
      (cls = 1 → Answers (.recordTransmit v d) s fun u => counts u 4 (if good then d.coll.toNat else 16)) ∧
      (cls = 6 → good = true → pin = false → sent (.recordTransmit v d) 0 ∧ Answers (.recordTransmit v d) s fun u =>
        (unitOf u k).linPid = linPidOf (rFld r.bytes 8 1) ∧ ((unitOf u k).linSub = true ↔ rFld r.bytes 0xA 1 % 4 = 1)) ∧
      (cls = 6 → good = false ∨ pin = true → failed (.recordTransmit v d) 4) ∧
      (cls = 0 → x.canSt ≠ 2 → (unitSet s k 3).getLsbD 4 = false → (unitSet s k 3).getLsbD 5 = false → good = true → pin = false → sent (.recordTransmit v d) 1) ∧
      (cls = 0 → x.canSt ≠ 2 → (unitSet s k 3).getLsbD 4 = false → (unitSet s k 3).getLsbD 5 = false → good = false ∨ pin = true → x.tec.toNat < 248 →
        Answers (.recordTransmit v d) s fun u => count u 5 ∧ (unitOf u k).tec = x.tec + 8 ∧
          (unitOf u k).tx = if (unitSet s k 3).getLsbD 3 then x.tx.erase r else x.tx)) ∧
    (cls = 7 → x.st = .active → ((unitSet s k 0).extractLsb' 0 2) = 3 → next ∨ (nextTx x = none ∧ nextLaunch x = some r) → Answers (.compareEdge v) s fun u =>
      (unitOf u k).tx = x.tx.erase r ∧ count u 1 ∧ (unitOf u k).edgeAt = some u.time.now ∧ OtherUnits s u k ∧ SameMemory s u ∧
        (r.launch = none ∨ r.late = true → x.edgeAt = none → u.time = s.time) ∧ (∀ t, r.launch = some t → r.late = false → t.toNat ≤ u.time.now.toNat) ∧
        (∀ t, x.edgeAt = some t → (t + 10).toNat ≤ u.time.now.toNat) ∧
        (∀ t, r.launch = some t → r.late = false → t.toNat < u.time.now.toNat → (unitOf u k).code = 2 ∧ (unitOf u k).attn = true ∧ count u 3) ∧
        (unitOf u k).level = if rFld r.bytes 8 1 / 2 % 2 = 1 then !x.level else decide (rFld r.bytes 8 1 % 2 = 1)) ∧
    (cls = 7 → x.st ≠ .active ∨ ((unitSet s k 0).extractLsb' 0 2) ≠ 3 ∨ (nextTx x = none ∧ nextLaunch x = none) → exec (.compareEdge v) s = .next s)

/-- The event controller (R134, R405 to R415, R418, R420, R421, R424): the selected source's record goes to a target with its 16 bytes in shared SRAM; a claim makes the source ACTIVE, an EOI INACTIVE or PENDING
again; a claim window that ends offers the record to the other eligible targets; a released host target sends its records; HOLD stops delivery; the wake latch. -/
def Obligations.EventsAreRecordedAndClaimed : Prop :=
  ∀ (s : State) (lvl : Lvl) (v : BitVec 11) (t : BitVec 5) (g : BitVec 3) (r : EvRec) (ns : List Nat) (idx : BitVec 7) (info : Half) (w : Word) (slot : BitVec 5),
    clocksOn s = true →
    let n := v.toNat
    let x := evSrc s n
    let prio := ((tabA s .evt n 0).extractLsb' 0 8).toNat
    let grp := prioGroup s prio
    let k := t.toNat
    let q := evQ s k g.toNat
    let deepK := tgtLog2 s k
    let shown : Word := if 0x4D0 ≤ n ∧ n ≤ 0x4D3 then (if x.level then 1 else 0) else x.info
    let set := fun (b : Bool) => exec (.eoi lvl v t) s = .next { s with evt := { s.evt with eoiBad := b } }
    let resumed := fun (a : DWord) => if a.toNat ≤ s.evt.holdAt.toNat then a + (s.time.now - s.evt.holdAt) else s.time.now
    let window := fun (a : DWord) => a + BitVec.ofNat 64 (((act s (aEVT + 4)).extractLsb' 0 16).toNat * 1000)
    (s.evt.hold = true → exec .eventRecordWrite s = .next s) ∧
    (s.evt.hold = false → candidates s = [] → exec .eventRecordWrite s = .next s) ∧
    (s.evt.hold = false → candidates s = n :: ns → pickTarget s n grp = some k → Answers .eventRecordWrite s fun u =>
      let i := (evQ s k grp).wr % 2 ^ deepK
      let a := slotAddr s k grp i
      (match (evQ s k grp).recs with | [] => 0 | d :: _ => (evQ s k grp).num - d.num) < 2 ^ deepK ∧ (evSrc u n).queued = true ∧ (evSrc u n).info = shown ∧ (evSrc u n).st = x.st ∧ (evSrc u n).rrptr = t ∧ (evSrc u n).gen = x.gen + 1 ∧ (evQ u k grp).wr = i + 1 ∧
        (∃ d, (evQ u k grp).recs = (evQ s k grp).recs ++ [d] ∧ d.src = v ∧ d.slot = i ∧ d.offered = false ∧ d.gen = x.gen + 1 ∧ d.time = x.time) ∧
        (∀ j, j < 16 → memGet u (a + j) = (recBytes n false x.more prio k shown x.time).getD j 0) ∧ SameMemoryBut s u a 16) ∧
    (s.evt.hold = false → candidates s = [n] → pickTarget s n grp = none → Answers .eventRecordWrite s fun u =>
      u.evt = s.evt ∧ SameMemory s u ∧ (maskTargets s n ≠ [] → (∀ j ∈ maskTargets s n, tgtEn s j = true ∧ hasRoom s j grp = false) →
        imr u (aEVT + 0x58) = satAdd (imr s (aEVT + 0x58)) 1)) ∧
    (Reaches lvl 1 → 20 ≤ k → exec (.claim lvl t g) s = .next s ∧ (x.owner ≠ t →
      exec (.eoi lvl v t) s = .next { s with reg := { s.reg with rsvd := true }, evt := { s.evt with eoiBad := true } })) ∧
    (Reaches lvl 1 → k < 20 →
      ((q.recs.find? fun d => decide (k < 4) || d.offered) = none → exec (.claim lvl t g) s = .next s) ∧
      ((q.recs.find? fun d => decide (k < 4) || d.offered) = some r → (evSrc s r.src.toNat).claimed < r.gen → Answers (.claim lvl t g) s fun u =>
        (evQ u k g.toNat).recs = q.recs.erase r ∧ (evSrc u r.src.toNat).st = .active ∧ (evSrc u r.src.toNat).owner = t ∧ (evSrc u r.src.toNat).runprio = r.prio ∧
          (evSrc u r.src.toNat).queued = false ∧ (∀ m, m ≠ r.src.toNat → (evSrc u m).st = (evSrc s m).st) ∧ SameMemory s u) ∧
      ((q.recs.find? fun d => decide (k < 4) || d.offered) = some r → r.gen ≤ (evSrc s r.src.toNat).claimed → Answers (.claim lvl t g) s fun u =>
        (evQ u k g.toNat).recs = q.recs.erase r ∧ (∀ m, (evSrc u m).st = (evSrc s m).st) ∧ imr u (aEVT + 0x54) = satAdd (imr s (aEVT + 0x54)) 1 ∧ SameMemory s u) ∧
      (x.owner ≠ t → set true) ∧
      (x.owner = t → x.st = .pending ∨ x.st = .inactive → set true) ∧
      (x.owner = t → x.st = .active → Answers (.eoi lvl v t) s fun u => u.evt.eoiBad = false ∧ (∀ m, m ≠ n → evSrc u m = evSrc s m) ∧ SameMemory s u ∧
        evSrc u n = if levelHolds s n then { x with st := .pending, queued := false, info := levelInfo s n, time := s.time.now, more := false } else { x with st := .inactive }) ∧
      (x.owner = t → x.st = .activePending → Answers (.eoi lvl v t) s fun u => u.evt.eoiBad = false ∧ (∀ m, m ≠ n → evSrc u m = evSrc s m) ∧ SameMemory s u ∧
        evSrc u n = { x with st := .pending, queued := false })) ∧
    (∀ a, x.window = some a → (act s (aEVT + 4)).extractLsb' 0 16 ≠ 0 → s.evt.hold = false → x.st = .pending → x.queued = true → findRecord s n = some (k, r) →
      Answers (.claimWindowEnd v) s fun u => (window a).toNat ≤ u.time.now.toNat ∧ imr u (aEVT + 0x50) = satAdd (imr s (aEVT + 0x50)) 1 ∧
        ∀ j, j ∈ maskTargets s n → j ≠ k → eligible s j (prioGroup s r.prio.toNat) = true →
          ∃ d, (evQ u j (prioGroup s r.prio.toNat)).recs = (evQ s j (prioGroup s r.prio.toNat)).recs ++ [d] ∧ d.src = v ∧ d.offered = true) ∧
    (∀ a, (tgtOf s k).holdoff = some a → (tgtMod s k).extractLsb' 16 16 ≠ 0 → s.evt.hold = false → k < 20 → Answers (.modTimeExpiry t) s fun u =>
      (tgtOf u k).released = true ∧ (tgtOf u k).holdoff = none ∧ (∀ j, j ≠ k → tgtOf u j = tgtOf s j) ∧ SameMemory s u ∧
        (a + BitVec.ofNat 64 (64 * ((tgtMod s k).extractLsb' 16 16).toNat)).toNat ≤ u.time.now.toNat) ∧
    (4 ≤ k → k < 20 → s.evt.hold = false → isOpen s (tgtSess s k) = false → Answers (.eventSend t) s fun u => (∀ j, j < 8 → (evQ u k j).recs = []) ∧ SameMemory s u) ∧
    (4 ≤ k → k < 20 → s.evt.hold = false → (tgtOf s k).released = true → unsent s k ≠ [] →
      (CanSend s (tgtSess s k) → Answers (.eventSend t) s fun u =>
        let l := (unsent s k).take (if (sessOf s (tgtSess s k)).ver.toNat < 0x21 then 1 else 32)
        Sent s u (tgtSess s k) 0x18 ([BitVec.ofNat 8 (k - 4), BitVec.ofNat 8 l.length, 0, 0] ++ l.flatMap fun e => recMem s k e.1 e.2.slot) ∧
          (tgtOf u k).idle = false ∧ SameMemory s u)) ∧
    (Reaches lvl 1 →
      (s.evt.hold = false → exec (.hold lvl) s = .next { s with evt := { s.evt with hold := true, holdAt := s.time.now } }) ∧
      (s.evt.hold = true → exec (.hold lvl) s = .next s) ∧
      (s.evt.hold = true → Answers (.releaseHold lvl) s fun u => u.evt.hold = false ∧ SameMemory s u ∧
        (∀ m, evSrc u m = { evSrc s m with window := (evSrc s m).window.map resumed }) ∧ u.evt.q = s.evt.q) ∧
      (s.evt.hold = false → exec (.releaseHold lvl) s = .next s) ∧
      (Answers (.evtSwset lvl idx info) s fun u => Fired s u (0x680 + idx.toNat) (info.setWidth 32) ∧ { u with evt := { u.evt with src := s.evt.src } } = s) ∧
      (4 ≤ k → k < 20 → Answers (.evtTIdle lvl t) s fun u => (tgtOf u k).idle = true ∧ (tgtLoad s k ≠ 0 → (tgtOf u k).released = true) ∧ SameMemory s u) ∧
      (w >>> 6 = 0 → w.getLsbD 5 = true → exec (.evtWkStsClear lvl w) s = .next { s with evt := { s.evt with wkValid := false, wkSlot := 0 } }) ∧
      (w >>> 6 = 0 → w.getLsbD 5 = false → exec (.evtWkStsClear lvl w) s = .next s) ∧
      (w >>> 6 ≠ 0 → Answers (.evtWkStsClear lvl w) s fun u => u.reg.rsvd = true ∧ u.evt.wkValid = (s.evt.wkValid && !w.getLsbD 5))) ∧
    ∀ z : State, z.evt.wkArmed = true →
      let c := act z (aEVT + 0x800 + 4 * slot.toNat)
      let kind := (c.extractLsb' 0 4).toNat
      let pin := (c.extractLsb' 4 4).toNat
      let sensed := match (c.extractLsb' 8 3).toNat with
        | 0 => z.boot.wakeIn.getLsbD pin = true | 1 => z.boot.wakeIn.getLsbD pin = false
        | 2 => z.evt.wkRose.getLsbD pin = true | 3 => z.evt.wkFell.getLsbD pin = true
        | 4 => z.evt.wkRose.getLsbD pin = true ∨ z.evt.wkFell.getLsbD pin = true | _ => False
      let latched := fun (m : Nat) => { z.evt with wkValid := true, wkSlot := BitVec.ofNat 5 m, wkArmed := false }
      let ends := fun (m : Nat) =>
        (z.boot.st = .standby → exec (.wakeMatch slot) z = .next { z with evt := latched m, boot := { z.boot with st := .resume } }) ∧
        (z.boot.st = .off → exec (.wakeMatch slot) z = .next { z with evt := latched m, boot := { z.boot with inh := true } })
      c.getLsbD 11 = true → 1 ≤ kind → kind ≤ 4 →
        (kind ≠ 2 ∨ sensed →
          ((∀ j, slot.toNat < j → j < 32 → wakeWith z slot.toNat j = false) → ends slot.toNat) ∧
          (∀ j, slot.toNat < j → j < 32 → wakeWith z slot.toNat j = true → (∀ i, j < i → i < 32 → wakeWith z slot.toNat i = false) → ends j)) ∧
        (kind = 2 → ¬sensed → exec (.wakeMatch slot) z = .next z)

/-- The staircase arbiters (R428, R430, R431, R433, R434, R436): of the connected requests that no quota masks, the highest slot wins, of equal slots the higher input; the winner is parked and counts against the
quota, or withdraws; a DRAM interface whose command queue is full is granted nothing (R439); ARB_DUP and ARB_k_STS show a decision by input number; the slot, quota and duplicate registers. -/
def Obligations.ArbitersGrantTheHighestSlot : Prop :=
  ∀ (s : State) (lvl : Lvl) (set : BitVec 4) (bank : BitVec 6) (req : BitVec 48) (j : BitVec 4) (v : Word) (w t : Nat), clocksOn s = true →
    let k := set.toNat
    let b := bank.toNat
    let x := arbOf s k b
    let a := aARB + 0x80 * k
    let asks := fun i => i < 48 ∧ req.getLsbD i = true ∧ arbConn k i = true
    let runs := fun i => asks i ∧ arbMasked s k x i = false
    let wins := runs w ∧ ∀ i, runs i → i ≠ w → arbSlot s k i < arbSlot s k w ∨ (arbSlot s k i = arbSlot s k w ∧ i < w)
    let masks := fun (u : State) => ((∃ i, asks i ∧ arbMasked s k x i = true) → imr u (a + 0x40) = satAdd (imr s (a + 0x40)) 1) ∧
      ((∀ i, asks i → arbMasked s k x i = false) → imr u (a + 0x40) = imr s (a + 0x40))
    let room := k ≤ 1 → (memIf s (k == 1)).cmds < 64
    let keeps := fun (u : State) => (∀ c d, 64 * c + d ≠ 64 * k + b → arbOf u c d = arbOf s c d) ∧ SameMemory s u
    (b < arbCount k → room → wins → Answers (.arbitrationPhase set bank req false) s fun u => keeps u ∧ masks u ∧ (arbOf u k b).parked = some (BitVec.ofNat 6 w) ∧
      (k ≤ 1 → (memIf u (k == 1)).cmds = (memIf s (k == 1)).cmds + 1) ∧
      (∀ i, sget 0 (arbOf u k b).cnt i = sget 0 x.cnt i + if i = w ∧ ((imr s (a + 0x30)).extractLsb' 0 6).toNat ≤ arbSlot s k w then 1 else 0)) ∧
    (b < arbCount k → room → wins → Answers (.arbitrationPhase set bank req true) s fun u => keeps u ∧ masks u ∧ (arbOf u k b).cnt = x.cnt ∧ imr u (a + 0x3C) = satAdd (imr s (a + 0x3C)) 1 ∧
      (arbOf u k b).parked = if x.parked = some (BitVec.ofNat 6 w) then none else x.parked) ∧
    (b < arbCount k → room → wins → runs t → t ≠ w → arbSlot s k t = arbSlot s k w → (∀ i, runs i → i ≠ w → arbSlot s k i = arbSlot s k w → i ≤ t) →
      Answers (.arbitrationPhase set bank req false) s fun u => u.arb.dup = s.arb.dup ||| BitVec.ofNat 9 (2 ^ k) ∧ sget 0 u.arb.sts k = BitVec.ofNat 32 (w + 64 * t + 4096 * b)) ∧
    (b < arbCount k → room → (∀ i, ¬runs i) → Answers (.arbitrationPhase set bank req false) s fun u => u.arb = s.arb ∧ masks u ∧
      SameMemory s u) ∧
    (k ≤ 1 → 64 ≤ (memIf s (k == 1)).cmds → ∀ y, exec (.arbitrationPhase set bank req y) s = .next s) ∧
    (arbCount k ≤ b → exec (.arbitrationPhase set bank req false) s = .next s) ∧
    (k < 9 → Answers (.quotaWindowEnd set) s fun u => SameMemory s u ∧ u.arb.dup = s.arb.dup ∧ ∀ d, d < arbCount k → (arbOf u k d).cnt = [] ∧ (arbOf u k d).parked = (arbOf s k d).parked) ∧
    (Reaches lvl 2 → k < 9 →
      (j.toNat < 12 → Answers (.arbSlotWrite lvl set j v) s fun u => OtherIm s u (a + 4 * j.toNat) ∧ u.arb = s.arb ∧
        (∀ i, i < 4 → arbSlot u k (4 * j.toNat + i) = ((v.extractLsb' (8 * i) 6)).toNat) ∧ (u.reg.rsvd = true ↔ s.reg.rsvd = true ∨ v &&& 0xC0C0C0C0 ≠ 0)) ∧
      (Answers (.arbQuotaWrite lvl set v) s fun u => OtherIm s u (a + 0x30) ∧ (imr u (a + 0x30)).extractLsb' 0 6 = v.extractLsb' 0 6 ∧
        (imr u (a + 0x30)).extractLsb' 8 8 = v.extractLsb' 8 8 ∧
        (imr u (a + 0x30)).extractLsb' 16 16 = (if v.extractLsb' 16 16 = 0 then (imr s (a + 0x30)).extractLsb' 16 16 else v.extractLsb' 16 16) ∧
        (v.extractLsb' 16 16 ≠ 0 → v.extractLsb' 16 16 ≠ (imr s (a + 0x30)).extractLsb' 16 16 → ∀ d, d < arbCount k → (arbOf u k d).cnt = []) ∧
        (v.extractLsb' 16 16 = (imr s (a + 0x30)).extractLsb' 16 16 → u.arb = s.arb)) ∧
      exec (.arbDupClear lvl v) s = .next { s with arb := { s.arb with dup := s.arb.dup &&& ~~~(v.setWidth 9) },
                                                   reg := { s.reg with rsvd := s.reg.rsvd || decide (v >>> 9 ≠ 0) } })

/-- Memory errors (R439 to R447): a correctable error is counted, logged and, on a read, queued for its write-back; an uncorrectable one marks its word and raises MEM_UE; a link error is logged by its lanes; the
scrubber moves on line by line and times its lap. -/
def Obligations.MemoryErrorsAreLoggedAndCorrected : Prop :=
  ∀ (s : State) (addr : BitVec 48) (wr : Bool) (m : BitVec 4) (syn : Byte) (e : Ecc) (w : BitVec 3) (found : WordEcc 3), clocksOn s = true →
    let a := addr.toNat
    let i := if a / 4096 % 2 = 1 then 1 else 0
    let word := a / 8 * 8
    let k := m.toNat
    let line := sget 0 s.memc.scrub k
    let place := scrubAddr s k line w.toNat
    let dram := 0x10_0000_0000 ≤ a ∧ a < 0x18_0000_0000 ∧ dramOk s (a - 0x10_0000_0000) = true ∧ (memIf s (i == 1)).retraining = false
    let logged := fun (u : State) (mem typ : Nat) (b : Byte) (x : Nat) => u.memc.widx = s.memc.widx + 1 ∧
      sget {} u.memc.log (s.memc.widx.toNat % 256) = { addr := BitVec.ofNat 48 x, memid := BitVec.ofNat 4 mem, typ := BitVec.ofNat 4 typ, syn := b, time := s.time.now } ∧
      evSrc u 0x4C0 = firedSrc (evSrc s 0x4C0) ((tabA s .evt 0x4C0 0).getLsbD 11) (BitVec.ofNat 32 (s.memc.widx.toNat % 256)) s.time.now ∧ SameMemory s u ∧
      (((s.memc.widx - (imr s (aMEM + 0x34)).setWidth 16).toNat = 256) → imr u (aMEM + 0x38) = satAdd (imr s (aMEM + 0x38)) 1)
    let bad := fun (u : State) => (k ≠ 9 → k ≠ 5 → isUpset u place.2 = true) ∧
      (k = 9 → u.reg.tabA = s.reg.tabA.filter fun x => x.1 / 16 ≠ place.1 / 0x1_0000 * 0x10_0000 + place.1 % 0x1_0000)
    let lost := fun (u : State) => imr u (aMEM + 0x2C) = satAdd (imr s (aMEM + 0x2C)) 1
    (dram → Answers (.dramAccessDone addr wr .good) s fun u => memIf u (i == 1) = { memIf s (i == 1) with cmds := (memIf s (i == 1)).cmds - 1 } ∧
      { u with memc := { u.memc with i0 := s.memc.i0, i1 := s.memc.i1 } } = s) ∧
    (dram → Answers (.dramAccessDone addr wr (.ce syn)) s fun u => logged u i 0 syn word ∧ imr u (aMEM + 0x20 + 4 * i) = satAdd (imr s (aMEM + 0x20 + 4 * i)) 1 ∧
      (memIf u (i == 1)).ceCnt = (memIf s (i == 1)).ceCnt + 1 ∧ u.flt.det = s.flt.det ∧
      sget [] u.memc.corr i = (if wr = false ∧ (sget [] s.memc.corr i).length < 8 then sget [] s.memc.corr i ++ [word] else sget [] s.memc.corr i)) ∧
    (dram → Answers (.dramAccessDone addr wr (.ue syn)) s fun u => logged u i 1 syn word ∧ lost u ∧ isUpset u a = true ∧ u.flt.det = s.flt.det ++ [(0x060, 0)]) ∧
    (dram → Answers (.dramAccessDone addr wr (.addr syn)) s fun u => logged u i 2 syn word ∧ lost u ∧ isUpset u a = true ∧ u.flt.det = s.flt.det ++ [(0x060, 0)]) ∧
    (dram → Answers (.dramAccessDone addr wr (.link syn)) s fun u => logged u i 3 syn word ∧ imr u (aMEM + 0x20 + 4 * i) = satAdd (imr s (aMEM + 0x20 + 4 * i)) 1 ∧
      u.memc.corr = s.memc.corr ∧ u.flt.det = s.flt.det) ∧
    (dram → Answers (.dramAccessDone addr wr (.chkmis syn)) s fun u => logged u i 5 syn word ∧ lost u ∧ u.flt.det = s.flt.det ++ [(0x060, 0), (0x061, 0)]) ∧
    (¬dram → exec (.dramAccessDone addr wr e) s = .next s) ∧
    (Answers (.correctionWriteback m) s fun u => sget [] u.memc.corr k = (sget [] s.memc.corr k).drop 1 ∧ (∀ j, j ≠ k → sget [] u.memc.corr j = sget [] s.memc.corr j) ∧
      { u with memc := { u.memc with corr := s.memc.corr } } = s) ∧
    (scrubOn s k = true → (∀ h ∈ found, h.2 = .good) ∨ scrubSkips s k line = true →
      (line + 1 < scrubLines s k → Answers (.scrubRead m found) s fun u => sget 0 u.memc.scrub k = line + 1 ∧ (∀ j, j ≠ k → sget 0 u.memc.scrub j = sget 0 s.memc.scrub j) ∧
        sget 0 u.memc.lapAt k = (if line = 0 then s.time.now else sget 0 s.memc.lapAt k) ∧ u.reg = s.reg ∧ SameMemory s u) ∧
      (0 < line → scrubLines s k ≤ line + 1 → Answers (.scrubRead m found) s fun u => sget 0 u.memc.scrub k = 0 ∧
        imr u (aMEM + 0x100 + 4 * k) = BitVec.ofNat 32 (Nat.min ((s.time.now - sget 0 s.memc.lapAt k).toNat / 1000) 0xFFFFFFFF) ∧ SameMemory s u)) ∧
    (scrubOn s k = true → scrubSkips s k line = false → Answers (.scrubRead m [(w, .ce syn)]) s fun u => logged u k 6 syn place.1 ∧
      sget [] u.memc.corr k = (if (sget [] s.memc.corr k).length < 8 then sget [] s.memc.corr k ++ [place.2 / 8 * 8] else sget [] s.memc.corr k) ∧
      sget 0 u.memc.scrub k = if scrubLines s k ≤ line + 1 then 0 else line + 1) ∧
    (scrubOn s k = true → scrubSkips s k line = false → e = .ue syn ∨ e = .addr syn → Answers (.scrubRead m [(w, e)]) s fun u => logged u k 7 syn place.1 ∧ lost u ∧ bad u ∧
      u.flt.det = s.flt.det ++ [(0x060, 0)]) ∧
    (scrubOn s k = true → scrubSkips s k line = false → Answers (.scrubRead m [(w, .link syn)]) s fun u => logged u k 3 syn place.1 ∧ u.flt.det = s.flt.det) ∧
    (scrubOn s k = true → scrubSkips s k line = false → Answers (.scrubRead m [(w, .chkmis syn)]) s fun u => logged u k 5 syn place.1 ∧ lost u ∧ u.memc.upset = s.memc.upset ∧
      u.flt.det = s.flt.det ++ [(0x060, 0), (0x061, 0)]) ∧
    (scrubOn s k = true → scrubSkips s k line = false → (∀ h ∈ found, h.2 ≠ .good) → found.length ≤ 8 → Answers (.scrubRead m found) s fun u =>
      u.memc.widx = s.memc.widx + BitVec.ofNat 16 found.length ∧ imr u (aMEM + 0x3C) = imr s (aMEM + 0x3C)) ∧
    (scrubOn s k = false → exec (.scrubRead m found) s = .next s)

/-- Memory management (R446, R448, R449, R451 to R453, R455): the selectors; a page is retired, counted and given back with contents that the manual leaves undefined; a Gallery row moves to a spare, with what is uncorrectable as 0; of the findings of one command
nine are logged and the rest lost, the model's reading (log 131); an interface
that drifts is STALE and retrained, one at a time. -/
def Obligations.MemoryIsRetiredAndRetrained : Prop :=
  ∀ (s : State) (lvl : Lvl) (v : Word) (page : BitVec 23) (c : CtxId) (i good : Bool) (temp syn : Byte) (w : BitVec 5) (found : WordEcc 5), clocksOn s = true →
    let p := page.toNat
    let pi := pageIf p
    let l := (memIf s pi).ret
    let x := memIf s i
    let y := memIf s (!i)
    let bank := c.toNat % 64
    let used := sget 0 s.memc.spares bank
    let memc := fun (c : Instr) (f : Memc → Memc) => exec c s = .next { s with memc := f s.memc }
    let drift := 20 < (temp.toInt - x.ttrain.toInt).natAbs ∨ (let th := ((act s (aMEM + 4)).extractLsb' 0 16).toNat; th ≠ 0 ∧ th ≤ x.ceCnt)
    let other := fun (u : State) => memIf u (!i) = y ∧ SameMemory s u
    (Reaches lvl 2 →
      (Answers (.memLogSelWrite lvl v) s fun u => (imr u (aMEM + 0x40)).extractLsb' 0 8 = v.extractLsb' 0 8 ∧ OtherIm s u (aMEM + 0x40) ∧
        (u.reg.rsvd = true ↔ s.reg.rsvd = true ∨ v.extractLsb' 8 24 ≠ 0) ∧ u.memc = s.memc) ∧
      (Answers (.memLogRidxWrite lvl v) s fun u => (imr u (aMEM + 0x34)).extractLsb' 0 16 = v.extractLsb' 0 16 ∧ OtherIm s u (aMEM + 0x34) ∧ u.memc = s.memc) ∧
      (Answers (.memRetSelWrite lvl v) s fun u => (imr u (aMEM + 0x68)).extractLsb' 0 11 = v.extractLsb' 0 11 ∧ OtherIm s u (aMEM + 0x68) ∧ u.memc = s.memc) ∧
      (s.memc.retBusy ≠ none ∨ dramSize s ≤ p * 4096 ∨ (1024 ≤ l.length ∧ p ∉ l) → memc (.memRetCmdAdd lvl page) ({ · with retRefused := true })) ∧
      (s.memc.retBusy = none → p * 4096 < dramSize s → p ∈ l → memc (.memRetCmdAdd lvl page) ({ · with retRefused := false })) ∧
      (s.memc.retBusy = none → p * 4096 < dramSize s → p ∉ l → l.length < 1024 → memc (.memRetCmdAdd lvl page) ({ · with retBusy := some p, retRefused := false })) ∧
      (p ∈ l → Answers (.remove lvl page) s fun u => u.memc.retRefused = false ∧ (memIf u pi).ret = (l.filter fun q => q ≠ p) ∧ memIf u (!pi) = memIf s (!pi) ∧
        (∀ j, j < 4096 → memGet u (0x10_0000_0000 + p * 4096 + j) = Config.freeByte (s.free + j)) ∧ SameMemoryBut s u (0x10_0000_0000 + p * 4096) 4096) ∧
      (p ∉ l → memc (.remove lvl page) ({ · with retRefused := false })) ∧
      (s.memc.growBusy ≠ none ∨ recWritable s c = false ∨ accBusy s .gal = true → memc (.memGrowCmdGo lvl c) ({ · with growRefused := true, growBank := BitVec.ofNat 6 bank })) ∧
      (s.memc.growBusy = none → recWritable s c = true → accBusy s .gal = false → 64 ≤ used →
        memc (.memGrowCmdGo lvl c) ({ · with growRefused := true, growOut := true, growBank := BitVec.ofNat 6 bank })) ∧
      (s.memc.growBusy = none → recWritable s c = true → accBusy s .gal = false → used < 64 →
        memc (.memGrowCmdGo lvl c) ({ · with growBusy := some c, growRefused := false, growOut := false, growLoss := false, growBank := BitVec.ofNat 6 bank }))) ∧
    (s.memc.retBusy = some p → Answers .retireDone s fun u => u.memc.retBusy = none ∧ (∀ q, q ∈ (memIf u pi).ret ↔ q = p ∨ q ∈ l) ∧ memIf u (!pi) = memIf s (!pi) ∧
      SameMemory s u ∧ { u with memc := s.memc } = s) ∧
    (s.memc.growBusy = some c → recUpset s c = false → (∀ h ∈ found, h.2 = .good) → Answers (.rowRetireDone found) s fun u => u.memc.growBusy = none ∧ u.memc.growLoss = false ∧
      sget 0 u.memc.spares bank = used + 1 ∧ sget 0 u.memc.rows c.toNat = used + 1 ∧ { u with memc := s.memc } = s) ∧
    (s.memc.growBusy = some c → recUpset s c = true → Answers (.rowRetireDone found) s fun u => u.memc.growBusy = none ∧ u.memc.growLoss = true ∧
      sget 0 u.memc.spares bank = used + 1 ∧ recUpset u c = false ∧ SameMemory s u) ∧
    (s.memc.growBusy = some c → recUpset s c = false → Answers (.rowRetireDone [(w, .ue syn)]) s fun u => u.memc.growBusy = none ∧ u.memc.growLoss = true ∧
      recOf u c = recPut (recOf s c) w.toNat 0 ∧ recUpset u c = false ∧ (∀ d, d ≠ c → recOf u d = recOf s d) ∧ u.memc.widx = s.memc.widx + 1 ∧
      imr u (aMEM + 0x2C) = satAdd (imr s (aMEM + 0x2C)) 1 ∧ u.flt.det = s.flt.det ++ [(0x060, 0)] ∧ SameMemory s u) ∧
    (s.memc.growBusy = some c → (∀ i, i < 32 → s.memc.upset.contains (recKey c i) = false) → (∀ h ∈ found, h.2 ≠ .good) → Answers (.rowRetireDone found) s fun u =>
      u.memc.widx = s.memc.widx + BitVec.ofNat 16 (Nat.min 9 found.length) ∧ imr u (aMEM + 0x3C) = satAdd (imr s (aMEM + 0x3C)) (found.length - 9)) ∧
    (x.trained = true → (¬drift ∨ x.stale = true → Answers (.trackingStep i temp) s fun u => memIf u i = { x with temp := temp, ceCnt := 0 } ∧ other u ∧ u.evt = s.evt) ∧
      (drift → x.stale = false → Answers (.trackingStep i temp) s fun u => memIf u i = { x with temp := temp, ceCnt := 0, stale := true, due := true } ∧ other u ∧
        (evSrc u 0x4C1).level = true ∧ (y.stale = false → u.memc.firstStale = i))) ∧
    (x.trained = false → exec (.trackingStep i temp) s = .next s) ∧
    (let c := if i then Instr.retrain1 lvl else Instr.retrain0 lvl; Reaches lvl 2 →
      (x.trained = true → x.retraining = false → x.wait = false → y.retraining = false → Answers c s fun u => memIf u i = { x with retraining := true, due := false } ∧ other u) ∧
      (x.trained = true → x.retraining = false → x.wait = false → y.retraining = true → Answers c s fun u => memIf u i = { x with wait := true, due := false } ∧ other u) ∧
      (x.trained = false ∨ x.retraining = true ∨ x.wait = true → exec c s = .next s)) ∧
    (x.retraining = true → Answers (.retrainDone i good) s fun u => SameMemory s u ∧ memIf u (!i) = (if y.wait then { y with wait := false, retraining := true } else y) ∧
      (good = true → memIf u i = { x with retraining := false, stale := false, due := false, ttrain := x.temp, ceCnt := 0 } ∧ (evSrc u 0x4C1).level = y.stale ∧
        u.flt.det = s.flt.det) ∧
      (good = false → memIf u i = { x with retraining := false } ∧ u.flt.det = s.flt.det ++ [(0x062, 0)])) ∧
    (x.retraining = false → exec (.retrainDone i good) s = .next s)

/-- The fault collector (R4, R195, R197, R456 to R462, R464 to R466, R469, R473): a latch sets the sticky bit, the class and the count, and brings about its fixed action and its reactions; a chip reset records its
cause; the acknowledgement, the lock, the sticky bits and the watchdogs answer their commands; SAFESTATE_N latches its source. -/
def Obligations.FaultsLatchAndReact : Prop :=
  ∀ (s : State) (src : BitVec 9) (info v : Word) (lvl : Lvl) (p : BitVec 2) (w : BitVec 4) (cls dflt : Nat),
    s.boot.st ≠ .off → s.boot.st ≠ .lost → Settled s → s.flt.f4 = false →
    let n := src.toNat
    let kind := faultSrc n
    let r := (act s (aFLT + 0x1000 + 4 * n)).extractLsb' 0 5
    let clear := s.flt.sticky.getLsbD n = false
    let set := fun (u : State) (x : Nat) => u.flt.sticky = s.flt.sticky ||| BitVec.ofNat 384 (2 ^ x) ∧ imr u (aFLT + 0x18) = satAdd (imr s (aFLT + 0x18)) 1
    let awake := s.boot.st ≠ .boot ∨ 0x50 < n
    let fd : FaultDet := { info := info }
    let calm := clear ∧ awake ∧ kind = some (cls, dflt) ∧ cls ≠ 4 ∧ r.getLsbD 3 = false
    let quiet := calm ∧ (n < 0x40 ∨ 0x43 < n) ∧ ((nmtPair s).isSome = true ∨ r.getLsbD 1 = false)
    let latched := fun (c : Instr) => Answers c s fun u => set u n ∧ u.flt.maxclass.toNat = Nat.max s.flt.maxclass.toNat cls ∧ SameMemory s u ∧
      (r.getLsbD 0 = true → (evSrc u (0x500 + n)).level = true) ∧ u.flt.nmtPend = (s.flt.nmtPend || r.getLsbD 1)
    let reach := Reaches lvl 2
    let flt := fun (c : Instr) (f : Flt → Flt) => exec c s = .next { s with flt := f s.flt, reg := { s.reg with rsvd := s.reg.rsvd || decide (v >>> 1 ≠ 0) } }
    let wd := sget {} s.flt.wd p.toNat
    let late := ((act s (aFLT + 0x20 + 8 * p.toNat)).extractLsb' 0 16).toNat * 10000
    let early := wdOpen s p
    let d := (s.time.now - wd.kick).toNat
    let dog := 0x4C + p.toNat
    let bites := s.boot.st ≠ .boot ∧ s.flt.sticky.getLsbD dog = false ∧ (act s (aFLT + 0x1000 + 4 * dog)).getLsbD 3 = false ∧
      ((nmtPair s).isSome = true ∨ (act s (aFLT + 0x1000 + 4 * dog)).getLsbD 1 = false)
    let restarts := (act s (aFLT + 0x1000 + 4 * dog)).getLsbD 2 = true
    (s.flt.det = [] → quiet → n ≠ 0xA7 → n ≠ 0xA8 → latched (.faultLatch src fd)) ∧
    (s.flt.det = [] → n ≠ 0xA7 → n ≠ 0xA8 → kind = none ∨ ¬clear ∨ ¬awake → exec (.faultLatch src fd) s = .next { s with flt := { s.flt with held := [] } }) ∧
    (s.flt.det = [] → clear → awake → kind = some (4, dflt) → Answers (.faultLatch src fd) s fun u => set u n ∧ u.flt.f4 = true ∧ SameMemory s u ∧ u.gal = s.gal ∧ u.eng = s.eng) ∧
    (s.flt.det = [] → quiet → n < 32 → (clOf s n).mode ≠ .fenced → s.eng.spareInUse = false → s.eng.sparePending = false → s.eng.spareUnavail = false →
      Answers (.faultLatch src fd) s fun u => set u n ∧ (clOf u n).mode = .fenced ∧ u.eng.sparePending = true ∧ u.eng.spareFor = BitVec.ofNat 6 n) ∧
    (s.flt.det = [] → calm → n = 0x40 + p.toNat → (mpOf s p).fenced = false → (r.getLsbD 1 = false ∨ ∃ q, q ≠ p ∧ (mpOf s q).fenced = false) → Answers (.faultLatch src fd) s fun u =>
      set u n ∧ (mpOf u p).fenced = true ∧ (mpOf u p).stopped = true) ∧
    (s.flt.det = [] → clear → awake → kind = some (cls, dflt) → cls ≠ 4 → r.getLsbD 3 = true → 0x44 ≤ n → n ≠ 0xA7 → n ≠ 0xA8 → s.boot.straps.getLsbD 3 = false →
      Answers (.faultLatch src fd) s fun u => u.flt.cause = 3 ∧ u.flt.causeSrc = src ∧ u.flt.sticky = s.flt.sticky ||| BitVec.ofNat 384 (2 ^ n) ∧ u.boot.st = .maint) ∧
    (∀ (m : BitVec 9) (c2 d2 : Nat), s.flt.det = [] → quiet → n ≠ 0xA7 → n ≠ 0xA8 → m ≠ src → m.toNat ≠ 0xA7 → m.toNat ≠ 0xA8 → faultSrc m.toNat = some (c2, d2) → c2 ≠ 4 →
      s.flt.sticky.getLsbD m.toNat = false → (s.boot.st ≠ .boot ∨ 0x50 < m.toNat) → m.toNat < 0x40 ∨ 0x43 < m.toNat →
      (act s (aFLT + 0x1000 + 4 * m.toNat)).getLsbD 3 = false → ((nmtPair s).isSome = true ∨ (act s (aFLT + 0x1000 + 4 * m.toNat)).getLsbD 1 = false) →
      Answers (.faultLatch src { info := info, also := [m] }) s fun u => u.flt.sticky = s.flt.sticky ||| BitVec.ofNat 384 (2 ^ n) ||| BitVec.ofNat 384 (2 ^ m.toNat) ∧
        u.flt.maxclass.toNat = Nat.max (Nat.max s.flt.maxclass.toNat cls) c2 ∧ imr u (aFLT + 0x18) = satAdd (imr s (aFLT + 0x18)) 2) ∧
    (reach → quiet → latched (.fltForce lvl src)) ∧
    (reach → kind = none → exec (.fltForce lvl src) s = .next { s with reg := { s.reg with rsvd := true } }) ∧
    (reach → kind = some (4, dflt) → (act s aFLT).getLsbD 8 = false → exec (.fltForce lvl src) s = .next s) ∧
    (reach → kind = some (4, dflt) → (act s aFLT).getLsbD 8 = true → clear → awake → Answers (.fltForce lvl src) s fun u => set u n ∧ u.flt.f4 = true ∧ SameMemory s u) ∧
    (reach → v.getLsbD 0 = true → flt (.fltNmtAck lvl v) ({ · with nmtPend := false }) ∧ flt (.fltLock lvl v) ({ · with lock := true })) ∧
    (reach → v.getLsbD 0 = false → flt (.fltNmtAck lvl v) id ∧ flt (.fltLock lvl v) id) ∧
    (reach → w.toNat < 12 → Answers (.fltStkClear lvl w v) s fun u =>
      (∀ i, u.flt.sticky.getLsbD i = (s.flt.sticky.getLsbD i && !(decide (i / 32 = w.toNat) && v.getLsbD (i % 32)))) ∧
        u.flt.maxclass = (if u.flt.sticky = 0 then 0 else s.flt.maxclass) ∧ SameMemory s u ∧
        ∀ i, i / 32 = w.toNat → v.getLsbD (i % 32) = true → s.flt.sticky.getLsbD i = true → (evSrc u (0x500 + i)).level = false) ∧
    (reach → 12 ≤ w.toNat → exec (.fltStkClear lvl w v) s = .next s) ∧
    (reach →
      (late = 0 → exec (.fltWdKick lvl p) s = .next s) ∧
      (late ≠ 0 → wd.on = false → Answers (.fltWdKick lvl p) s fun u => sget {} u.flt.wd p.toNat = { on := true, kick := s.time.now } ∧ u.flt.sticky = s.flt.sticky ∧ SameMemory s u) ∧
      (late ≠ 0 → wd.on = true → early < d → d ≤ late → Answers (.fltWdKick lvl p) s fun u =>
        sget {} u.flt.wd p.toNat = { on := true, kick := s.time.now } ∧ u.flt.sticky = s.flt.sticky ∧ SameMemory s u) ∧
      (late ≠ 0 → wd.on = true → d = early → exec (.fltWdKick lvl p) s = .next s) ∧
      (late ≠ 0 → wd.on = true → d < early ∨ (late < d ∧ d ≠ early) → bites → Answers (.fltWdKick lvl p) s fun u => set u dog)) ∧
    (late ≠ 0 → wd.on = true → bites → Answers (.watchdogTimeout p) s fun u => set u dog ∧ (wd.kick + BitVec.ofNat 64 late).toNat ≤ u.time.now.toNat ∧
      (restarts → (regsOf u (.mp p)).pc = 0x30000000 ∧ sget {} u.flt.wd p.toNat = {} ∧
        (mpOf u p).stopped = !(s.boot.tcmWritten.getLsbD p.toNat && decide (s.boot.st = .run) && !(mpOf s p).fenced))) ∧
    (late = 0 ∨ wd.on = false → exec (.watchdogTimeout p) s = .next s) ∧
    (s.flt.safestate = true → exec .safestateAssert s = .next s) ∧
    (s.flt.safestate = false → s.flt.sticky.getLsbD 0xF0 = false → (act s (aFLT + 0x1000 + 4 * 0xF0)).getLsbD 3 = false →
      ((nmtPair s).isSome = true ∨ (act s (aFLT + 0x1000 + 4 * 0xF0)).getLsbD 1 = false) → Answers .safestateAssert s fun u => u.flt.safestate = true ∧ set u 0xF0) ∧
    exec .safestateRelease s = .next { s with flt := { s.flt with safestate := false } }

/-- Resets and start-up (R422, R437, R450, R464, R472, R474, R478, R490, R496, R503, R506): VDD_CORE lost clears the collector and the F4 latch; while the latch is set no reset acts; PORST_N, SYSRST_N and
GLB_RST_CMD clear what each clears and boot again (here with the strap that selects MAINTENANCE); boot done starts the processors and the contexts; references. -/
def Obligations.ResetsClearAndStartTheDevice : Prop :=
  ∀ (s : State) (lvl : Lvl) (straps : BitVec 4) (key : Word) (i : BitVec 2) (level b : Bool) (p : BitVec 2),
    let flash := fun (k : Nat) => 0x20_0000_0000 ≤ k ∧ k < 0x21_0000_0000
    let dram := fun (k : Nat) => 0x10_0000_0000 ≤ k ∧ k < 0x18_0000_0000
    let maint := fun (u : State) => u.boot.st = .maint ∧ u.boot.maint = true ∧ u.gal.recs = [] ∧ u.gal.live = [] ∧ u.sct.sess = [] ∧ u.mov.chans = [] ∧
      (u.memc.i0.trained = !s.memc.i0.bad) ∧ (u.memc.i1.trained = !s.memc.i1.bad) ∧ u.memc.i0.failed = s.memc.i0.bad ∧ (∀ q, (mpOf u q).stopped = true) ∧
      u.boot.uid = s.boot.uid ∧ u.boot.keys = s.boot.keys ∧ u.pending = s.pending ∧ (s.boot.upd = none → MemCanonical s → ∀ k, flash k → memGet u k = memGet s k)
    let warm := fun (u : State) (cause : BitVec 3) => maint u ∧ u.flt.cause = cause ∧ u.flt.sticky = s.flt.sticky ∧ u.flt.maxclass = s.flt.maxclass ∧ u.flt.lock = s.flt.lock ∧
      (MemCanonical s → ∀ k, dram k → memGet u k = memGet s k) ∧ u.memc.i0.ret = s.memc.i0.ret ∧ u.memc.log = s.memc.log
    let up := s.boot.st ≠ .off ∧ s.boot.st ≠ .lost
    let pick := fun (pref a c : Bool) => if (if pref then c else a) then pref else if (if pref then a else c) then !pref else s.time.ref
    (Answers .vddCorePowerLoss s fun u => u.boot.st = .lost ∧ u.flt = { safestate := s.flt.safestate } ∧ imr u (aFLT + 0x18) = 0 ∧
      (∀ a, fltLocked a = true → act u a = resetOf a ∧ stg u a = resetOf a) ∧ SameMemory s u ∧ u.gal = s.gal ∧
      { u with boot := s.boot, flt := s.flt, reg := s.reg } = s) ∧
    (s.flt.f4 = true → exec (.porstN straps) s = .next s ∧ exec .sysrstN s = .next s ∧ exec .bootDone s = .next s ∧ exec .supplyValid s = .next s ∧
      exec .resumeFromStandby s = .next s) ∧
    (s.flt.f4 = false → straps.getLsbD 3 = false → Answers (.porstN straps) s fun u => maint u ∧ u.boot.straps = straps ∧ u.flt.sticky = 0 ∧ u.flt.lock = false ∧
      u.flt.cause = (if s.boot.st = .lost then 0 else 1) ∧ u.memc.i0.ret = [] ∧ u.memc.log = [] ∧ u.memc.por = s.memc.por + 1) ∧
    (s.flt.f4 = false → up → s.boot.straps.getLsbD 3 = false → Answers .sysrstN s fun u => warm u 2 ∧ u.boot.swrst = false) ∧
    (¬up → exec .sysrstN s = .next s) ∧
    (clocksOn s = true → Reaches lvl 2 → Settled s → s.boot.straps.getLsbD 3 = false → Answers (.glbRstCmd lvl 0x52595354) s fun u => warm u 2 ∧ u.boot.swrst = true) ∧
    (clocksOn s = true → Reaches lvl 2 → Settled s → key ≠ 0x52595354 → exec (.glbRstCmd lvl key) s = .next s) ∧
    (s.flt.f4 = false → s.boot.st = .boot → s.boot.loaded = true →
      (Answers .bootDone s fun u => u.boot.st = .run ∧ u.boot.loaded = false ∧ (s.boot.first = true → u.boot.failmask = 0) ∧ u.lnd.num = flightOf s s.time.now ∧
        u.boot.tdone = BitVec.ofNat 32 (s.time.now.toNat / 1000) ∧ u.boot.profile = (act s aPROFILE).extractLsb' 0 3) ∧
      (s.boot.modes = [] → Answers .bootDone s fun u => Fired s u 0x490 ((flightOf s s.time.now).setWidth 32) ∧ SameMemory s u ∧
        (regsOf u (.mp p)).pc = 0x30000000 ∧ (mpOf u p).stopped = !(s.boot.tcmWritten.getLsbD p.toNat && !(mpOf s p).fenced)) ∧
      (∀ c, s.boot.modes = [(c, true)] → stOf s c = .idle → inSlot s c = false → (srPL (recOf s c)).toNat ≤ (ceilOf (recOf s c)).toNat →
        Answers .bootDone s fun u => stOf u c = .ready ∧ (thrOf u (.ctx c)).phase = .code)) ∧
    (s.boot.st = .off → s.boot.inh = true → s.flt.f4 = false → s.boot.straps.getLsbD 3 = false → Answers .supplyValid s fun u => maint u ∧ u.flt.cause = 1 ∧
      u.evt.wkValid = s.evt.wkValid ∧ u.evt.wkSlot = s.evt.wkSlot ∧ u.flt.sticky = 0) ∧
    (s.boot.st ≠ .off ∨ s.boot.inh = false → exec .supplyValid s = .next s ∧ exec .supplyTimeout s = .next s) ∧
    (s.boot.st = .off → s.boot.inh = true → exec .supplyTimeout s = .next { s with boot := { s.boot with inh := false }, evt := { s.evt with wkArmed := true } }) ∧
    (Answers (.wakeInLevelChange i level) s fun u => u.boot.wakeIn.getLsbD i.toNat = level ∧ (∀ j, j ≠ i.toNat → u.boot.wakeIn.getLsbD j = s.boot.wakeIn.getLsbD j) ∧
      (clocksOn s = true → (evSrc u (0x4D0 + i.toNat)).level = level) ∧ (clocksOn s = false → u.evt = s.evt) ∧ SameMemory s u) ∧
    (up → exec (.referenceClockReturn b) s = .next
      { s with boot := (if b then { s.boot with refB := true } else { s.boot with refA := true }),
               time := { s.time with ref := pick ((act s aTIMECFG).getLsbD 1) (s.boot.refA || !b) (s.boot.refB || b) } })

/-- Power, updates and keys (R279, R338, R421, R422, R489, R491 to R494): OP STANDBY and OP OFF turn the device down and arm the wake watcher, a wake match brings it back; an update is checked
before anything changes in flash and programs its slot; key slots are programmed, revoked and fused once. -/
def Obligations.PowerImagesAndKeysFollowTheirCommands : Prop :=
  ∀ (s : State) (lvl : Lvl) (slotB recovery : Bool) (k : BitVec 2) (u0 : Upd), clocksOn s = true →
    let n := (if recovery then 2 else 0) + if slotB then 1 else 0
    let go := Instr.bootUpdCmdGo lvl slotB recovery
    let src := (imr s 0x010010).toNat + (imr s 0x010014).toNat * 2 ^ 32
    let len := (imr s 0x010018).toNat
    let result := fun (r : BitVec 3) => exec go s = .next { s with boot := { s.boot with updRes := r } }
    let down := fun (c : Instr) (off : Bool) => Answers c s fun u => u.boot.st = (if off then .off else .standby) ∧ u.boot.inh = !off ∧ u.boot.pwrCmd = 0 ∧ u.evt.wkArmed = true ∧
      (∀ m, (evSrc u m).st = .inactive) ∧ u.ring.a.link = 0 ∧ u.ring.b.link = 0 ∧ u.ring.a.q = [] ∧ u.ring.b.q = [] ∧ clocksOn u = false
    let key := fun (c : Instr) (f : Boot → Boot) => exec c s = .next { s with boot := f s.boot }
    let bit4 := BitVec.ofNat 4 (2 ^ k.toNat)
    let left := s.boot.prog &&& ~~~s.boot.revoked
    (Reaches lvl 2 → Settled s → s.boot.upd = none →
      (s.boot.st = .run → down (.standby lvl) false ∧ down (.off lvl) true) ∧
      (s.boot.st ≠ .run → exec (.standby lvl) s = .next s ∧ exec (.off lvl) s = .next s)) ∧
    (Reaches lvl 2 → Settled s → s.boot.upd ≠ none → exec (.standby lvl) s = .next s ∧ exec (.off lvl) s = .next s) ∧
    (Reaches lvl 2 →
      (s.boot.upd ≠ none → result 5) ∧
      (s.boot.upd = none → s.boot.maint = false → s.boot.slot.toNat = n → result 3) ∧
      (s.boot.upd = none → s.boot.maint = true ∨ s.boot.slot.toNat ≠ n →
        (rdBytes s .sct src len = none → result 1) ∧
        (∀ d, rdBytes s .sct src len = some d →
          (imgValid s (byteAt d) = false ∨ len < imgLen (byteAt d) → result 1) ∧
          (imgValid s (byteAt d) = true → imgLen (byteAt d) ≤ len →
            (s.boot.maint = false → imgSeq (byteAt d) ≠ s.boot.seq + 1 → result 2) ∧
            (s.boot.maint = true ∨ imgSeq (byteAt d) = s.boot.seq + 1 →
              exec go s = .next { s with boot := { s.boot with upd := some { slot := BitVec.ofNat 2 n, img := d.take (imgLen (byteAt d)) } } }))))) ∧
    (s.boot.upd = some u0 → MemCanonical s → 256 ≤ u0.img.length → u0.img.length ≤ slotSize s →
      let base := slotBase s u0.slot.toNat
      (Answers (.updateDone true) s fun u => u.boot.upd = none ∧ (∀ j, j < u0.img.length → memGet u (base + j) = u0.img.getD j 0) ∧
        (∀ j, u0.img.length ≤ j → j < slotSize s → memGet u (base + j) = 0xFF) ∧ SameMemoryBut s u base (slotSize s) ∧ (u.boot.updRes = 0 ∨ u.boot.updRes = 4)) ∧
      (Answers (.updateDone false) s fun u => u.boot.upd = none ∧ u.boot.updRes = 4 ∧ (∀ j, j < 256 → memGet u (base + j) = 0xFF) ∧ SameMemoryBut s u base (slotSize s))) ∧
    (s.boot.upd = none → ∀ good, exec (.updateDone good) s = .next s) ∧
    (Reaches lvl 2 →
      (s.boot.prog.getLsbD k.toNat = true → key (.program lvl k) ({ · with keyRefused := true })) ∧
      (s.boot.prog.getLsbD k.toNat = false → key (.program lvl k) fun b =>
        { b with keyRefused := false, prog := b.prog ||| bit4, keys := sset 0 b.keys k.toNat (keyData s) }) ∧
      (s.boot.prog &&& ~~~(s.boot.revoked ||| bit4) = 0 → key (.revoke lvl k) ({ · with keyRefused := true })) ∧
      (s.boot.prog &&& ~~~(s.boot.revoked ||| bit4) ≠ 0 → key (.revoke lvl k) fun b => { b with keyRefused := false, revoked := b.revoked ||| bit4 }) ∧
      (left = 0 → key (.fuseSecure lvl) ({ · with keyRefused := true })) ∧
      (left ≠ 0 → key (.fuseSecure lvl) ({ · with keyRefused := false, secure := true }))) ∧
    ∀ z : State, z.boot.st = .resume → z.flt.f4 = false → Answers .resumeFromStandby z fun u => u.boot.st = .run ∧ u.time.now = Config.freeDWord z.free ∧ u.free = z.free + 1 ∧
      evSrc u 0x4D4 = firedSrc (evSrc z 0x4D4) ((tabA z .evt 0x4D4 0).getLsbD 11) (BitVec.ofNat 32 z.evt.wkSlot.toNat) (Config.freeDWord z.free) ∧ SameMemory z u

/-- A step takes the command at the front of the queue and runs it on the machine with the rest of the queue, and every command answers a next state; with an empty queue the block idles, which is the model's own
choice (assumption log 2). -/
def Obligations.StepTakesTheFrontCommand : Prop :=
  (∀ (s : State) (c : Instr) (rest : List Instr), step { s with pending := c :: rest } = exec c { s with pending := rest }) ∧
  (∀ s : State, s.pending = [] → step s = .next s) ∧ ∀ (c : Instr) (s : State), ∃ u, exec c s = .next u

/-- The F4 latch (R464, R472): once it is set, every command but the loss of VDD_CORE, whatever resets, forces and power commands are among them, leaves it set and leaves all that the latch stops as it was; so does
every sequence of such commands. -/
def Obligations.F4LatchHoldsUntilCorePowerIsLost : Prop :=
  ∀ s : State, F4Latched s →
    (∀ c : Instr, c ≠ .vddCorePowerLoss → ∃ u, exec c s = .next u ∧ F4Latched u ∧ Frozen s u ∧ u.pending = s.pending) ∧
    (∀ u, s.pending.head? ≠ some .vddCorePowerLoss → step s = .next u → F4Latched u ∧ Frozen s u) ∧
    (∀ l r : List Instr, s.pending = l ++ r → .vddCorePowerLoss ∉ l → ∃ u, steps l.length s = .next u ∧ F4Latched u ∧ Frozen s u ∧ u.pending = r) ∧
    ∃ u, exec .vddCorePowerLoss s = .next u ∧ u.flt.f4 = false

/-- Memory keeps its canonical form through every operation that writes it: one byte, the bytes of an agent, a store with its effects on ECC, undefined contents, the programming and the erasing of flash, and every
reset. -/
def Obligations.MemoryOperationsKeepTheCanonicalForm : Prop :=
  ∀ (s : State), MemCanonical s →
    (∀ k b, MemCanonical (memSet s k b)) ∧ (∀ ag lvl a bs, MemCanonical (wrBytes s ag lvl a bs)) ∧ (∀ ag lvl a bs, MemCanonical (storeBytes s ag lvl a bs)) ∧
    (∀ n k, MemCanonical (undefBytes n k s)) ∧ (∀ a bs, MemCanonical (programFlash a bs s)) ∧ (∀ n, MemCanonical (eraseSlot s n)) ∧
    ∀ por aon, MemCanonical (resetState por aon s)

/-- The machine right after reset (R6, R24, R172, R204, R258, R305, R378, R423, R424, R464): an empty queue, canonical memory with erased flash, every register at its reset value in both banks, contexts FREE with nothing pending,
cluster 32 as the spare, ring time in FREERUN with nothing committed, sources INACTIVE, sessions CLOSED, units DISABLED, no latch. What the manual does not give is in the log. -/
def Obligations.ResetLeavesTheMachine : Prop :=
  State.reset.pending = [] ∧ MemCanonical State.reset ∧ (∀ k, 0x20_0000_0000 ≤ k → k < 0x21_0000_0000 → memGet State.reset k = 0xFF) ∧
    (∀ a, act State.reset a = resetOf a ∧ stg State.reset a = resetOf a ∧ imr State.reset a = resetOf a) ∧
    (∀ c : CtxId, stOf State.reset c = .free ∧ (liveOf State.reset c).pend = 0 ∧ inSlot State.reset c = false) ∧
    (∀ n, n < 32 → (clOf State.reset n).mode = .active ∧ (clOf State.reset n).serves = BitVec.ofNat 6 n) ∧ (clOf State.reset 32).mode = .standby ∧
    State.reset.time.st = .freerun ∧ State.reset.time.now = 0 ∧ State.reset.lnd.pend = none ∧ State.reset.lnd.num = 0 ∧
    (∀ n, evSrc State.reset n = {}) ∧ (∀ k, (sessOf State.reset k).st = .closed) ∧ (∀ k, (unitOf State.reset k).st = .disabled) ∧
    (∀ b, (portOf State.reset b).link = 0) ∧ State.reset.flt.f4 = false ∧ State.reset.flt.sticky = 0 ∧ clocksOn State.reset = true
end

