-- ==== Sys2Proof/Laws/Sparse.lean ====
section
/-! SUPPORT. The laws of sparse tables: a read after a write, and the canonical form. -/
namespace Sys2Proof.Machine

/-- Nothing is read below the first key. -/
theorem sget_lt {α : Type} (d : α) (j : Nat) (w : α) (m : Sparse α) (k : Nat) (h : k < j) : sget d ((j, w) :: m) k = d := by
  simp [sget, h]

/-- Dropping the keys up to k leaves the reads above k. -/
theorem sget_sdrop {α : Type} (d : α) (k i : Nat) (m : Sparse α) (h : k < i) : sget d (sdrop k m) i = sget d m i := by
  induction m with
  | nil => rfl
  | cons e m ih =>
    obtain ⟨j, w⟩ := e
    by_cases hj : j ≤ k
    · have h1 : ¬ i < j := by omega
      have h2 : i ≠ j := by omega
      simp [sdrop, hj, sget, h1, h2, ih]
    · simp [sdrop, hj]

/-- After dropping the keys up to k nothing is read at or below k. -/
theorem sget_sdrop_le {α : Type} (d : α) (k i : Nat) (m : Sparse α) (h : i ≤ k) : sget d (sdrop k m) i = d := by
  induction m with
  | nil => rfl
  | cons e m ih =>
    obtain ⟨j, w⟩ := e
    by_cases hj : j ≤ k
    · simp [sdrop, hj, ih]
    · have : i < j := by omega
      simp [sdrop, hj, sget, this]

/-- A read of the key just written gives the value written. -/
@[simp] theorem sget_sset_same {α : Type} [DecidableEq α] (d : α) (m : Sparse α) (k : Nat) (v : α) : sget d (sset d m k v) k = v := by
  induction m with
  | nil => by_cases hv : v = d <;> simp [sset, sget, hv]
  | cons e m ih =>
    obtain ⟨j, w⟩ := e
    by_cases hlt : k < j
    · by_cases hv : v = d <;> simp [sset, sget, hlt, hv]
    · by_cases heq : k = j
      · subst heq
        by_cases hv : v = d
        · simp [sset, hv, sget_sdrop_le]
        · simp [sset, hv, sget]
      · simp [sset, hlt, heq, sget, ih]

/-- A write leaves every other key alone. -/
theorem sget_sset_other {α : Type} [DecidableEq α] (d d' : α) (m : Sparse α) (k i : Nat) (v : α) (h : i ≠ k) :
    sget d' (sset d m k v) i = sget d' m i := by
  induction m with
  | nil =>
    by_cases hv : v = d
    · simp [sset, hv]
    · by_cases hi : i < k <;> simp [sset, hv, sget, hi, h]
  | cons e m ih =>
    obtain ⟨j, w⟩ := e
    by_cases hlt : k < j
    · by_cases hv : v = d
      · simp [sset, hlt, hv]
      · by_cases hi : i < k
        · have : i < j := by omega
          simp [sset, hlt, hv, sget, hi, this]
        · simp [sset, hlt, hv, sget, hi, h]
    · by_cases heq : k = j
      · subst heq
        by_cases hv : v = d
        · by_cases hi : i < k
          · have : i ≤ k := by omega
            simp [sset, hv, sget, hi, sget_sdrop_le d' k i m this]
          · have : k < i := by omega
            simp [sset, hv, sget, hi, h, sget_sdrop d' k i m this]
        · simp [sset, hv, sget, h]
      · by_cases hi : i < j
        · simp [sset, hlt, heq, sget, hi]
        · simp [sset, hlt, heq, sget, hi, ih]

/-- The canonical form above a bound holds above every lower bound. -/
theorem swfFrom_mono {α : Type} [DecidableEq α] (d : Nat → α) (a b : Nat) (m : Sparse α) (h : a ≤ b) (hm : swfFrom d b m = true) :
    swfFrom d a m = true := by
  cases m with
  | nil => rfl
  | cons e m =>
    obtain ⟨j, w⟩ := e
    simp only [swfFrom, Bool.and_eq_true, decide_eq_true_eq] at hm ⊢
    exact ⟨⟨by omega, hm.1.2⟩, hm.2⟩

/-- Dropping keys keeps the canonical form, above the keys dropped. -/
theorem swfFrom_sdrop {α : Type} [DecidableEq α] (d : Nat → α) (a k : Nat) (m : Sparse α) (hm : swfFrom d a m = true) :
    swfFrom d (Nat.max a (k + 1)) (sdrop k m) = true := by
  induction m generalizing a with
  | nil => rfl
  | cons e m ih =>
    obtain ⟨j, w⟩ := e
    simp only [swfFrom, Bool.and_eq_true, decide_eq_true_eq] at hm
    by_cases hj : j ≤ k
    · simp only [sdrop, hj, if_true]
      exact swfFrom_mono d _ _ _ (by simp only [Nat.max_def]; split <;> split <;> omega) (ih (j + 1) hm.2)
    · simp only [sdrop, hj, if_false, swfFrom, Bool.and_eq_true, decide_eq_true_eq]
      exact ⟨⟨by simp only [Nat.max_def]; split <;> omega, hm.1.2⟩, hm.2⟩

/-- A write at or above the bound keeps the canonical form. -/
theorem swfFrom_sset {α : Type} [DecidableEq α] (d : Nat → α) (a k : Nat) (m : Sparse α) (v : α) (ha : a ≤ k)
    (hm : swfFrom d a m = true) : swfFrom d a (sset (d k) m k v) = true := by
  induction m generalizing a with
  | nil => by_cases hv : v = d k <;> simp [sset, hv, swfFrom, ha]
  | cons e m ih =>
    obtain ⟨j, w⟩ := e
    have hm' := hm
    simp only [swfFrom, Bool.and_eq_true, decide_eq_true_eq] at hm
    by_cases hlt : k < j
    · by_cases hv : v = d k
      · simpa [sset, hlt, hv] using hm'
      · simp only [sset, hlt, hv, if_true, if_false, swfFrom, Bool.and_eq_true, decide_eq_true_eq]
        exact ⟨⟨ha, hv⟩, ⟨by omega, hm.1.2⟩, hm.2⟩
    · by_cases heq : k = j
      · subst heq
        by_cases hv : v = d k
        · simp only [sset, lt_irrefl, if_false, hv, if_true]
          exact swfFrom_mono d _ _ _ (by simp only [Nat.max_def]; split <;> omega) (swfFrom_sdrop d (k + 1) k m hm.2)
        · simp only [sset, lt_irrefl, if_false, hv, if_true, swfFrom, Bool.and_eq_true, decide_eq_true_eq]
          exact ⟨⟨ha, hv⟩, hm.2⟩
      · simp only [sset, hlt, heq, if_false, swfFrom, Bool.and_eq_true, decide_eq_true_eq]
        exact ⟨hm.1, ih (j + 1) (by omega) hm.2⟩

/-- A write keeps the canonical form. -/
theorem swf_sset {α : Type} [DecidableEq α] (d : Nat → α) (m : Sparse α) (k : Nat) (v : α) (hm : swf d m = true) :
    swf d (sset (d k) m k v) = true := swfFrom_sset d 0 k m v (Nat.zero_le k) hm

/-- A filter keeps the canonical form. -/
theorem swfFrom_filter {α : Type} [DecidableEq α] (d : Nat → α) (p : Nat × α → Bool) (a : Nat) (m : Sparse α) (hm : swfFrom d a m = true) :
    swfFrom d a (m.filter p) = true := by
  induction m generalizing a with
  | nil => rfl
  | cons e m ih =>
    obtain ⟨j, w⟩ := e
    simp only [swfFrom, Bool.and_eq_true, decide_eq_true_eq] at hm
    by_cases hp : p (j, w) = true
    · simp only [List.filter_cons, hp, if_true, swfFrom, Bool.and_eq_true, decide_eq_true_eq]
      exact ⟨hm.1, ih (j + 1) hm.2⟩
    · simp only [List.filter_cons, hp]
      exact swfFrom_mono d a (j + 1) _ (by omega) (ih (j + 1) hm.2)

end Sys2Proof.Machine
end

