-- ==== Sys2Proof/Laws/State.lean ====
section
/-! SUPPORT. What each named update of the state leaves alone, and what a read after it gives. -/
namespace Sys2Proof.Machine

@[simp] theorem setStg_pending (s : State) (a : Nat) (v : Word) : (setStg s a v).pending = s.pending := rfl
@[simp] theorem setStg_mem (s : State) (a : Nat) (v : Word) : (setStg s a v).mem = s.mem := rfl
@[simp] theorem setStg_gal (s : State) (a : Nat) (v : Word) : (setStg s a v).gal = s.gal := rfl
@[simp] theorem setStg_eng (s : State) (a : Nat) (v : Word) : (setStg s a v).eng = s.eng := rfl
@[simp] theorem setStg_mov (s : State) (a : Nat) (v : Word) : (setStg s a v).mov = s.mov := rfl
@[simp] theorem setStg_wq (s : State) (a : Nat) (v : Word) : (setStg s a v).wq = s.wq := rfl
@[simp] theorem setStg_lnd (s : State) (a : Nat) (v : Word) : (setStg s a v).lnd = s.lnd := rfl
@[simp] theorem setStg_time (s : State) (a : Nat) (v : Word) : (setStg s a v).time = s.time := rfl
@[simp] theorem setStg_evt (s : State) (a : Nat) (v : Word) : (setStg s a v).evt = s.evt := rfl
@[simp] theorem setStg_flt (s : State) (a : Nat) (v : Word) : (setStg s a v).flt = s.flt := rfl
@[simp] theorem setStg_sct (s : State) (a : Nat) (v : Word) : (setStg s a v).sct = s.sct := rfl
@[simp] theorem setStg_ring (s : State) (a : Nat) (v : Word) : (setStg s a v).ring = s.ring := rfl
@[simp] theorem setStg_rm (s : State) (a : Nat) (v : Word) : (setStg s a v).rm = s.rm := rfl
@[simp] theorem setStg_dpt (s : State) (a : Nat) (v : Word) : (setStg s a v).dpt = s.dpt := rfl
@[simp] theorem setStg_arb (s : State) (a : Nat) (v : Word) : (setStg s a v).arb = s.arb := rfl
@[simp] theorem setStg_memc (s : State) (a : Nat) (v : Word) : (setStg s a v).memc = s.memc := rfl
@[simp] theorem setStg_boot (s : State) (a : Nat) (v : Word) : (setStg s a v).boot = s.boot := rfl
@[simp] theorem setStg_stamp (s : State) (a : Nat) (v : Word) : (setStg s a v).stamp = s.stamp := rfl
@[simp] theorem setStg_free (s : State) (a : Nat) (v : Word) : (setStg s a v).free = s.free := rfl
@[simp] theorem setStg_reg_act (s : State) (a : Nat) (v : Word) : (setStg s a v).reg.act = s.reg.act := rfl
@[simp] theorem setStg_reg_im (s : State) (a : Nat) (v : Word) : (setStg s a v).reg.im = s.reg.im := rfl
@[simp] theorem setStg_reg_tabA (s : State) (a : Nat) (v : Word) : (setStg s a v).reg.tabA = s.reg.tabA := rfl
@[simp] theorem setStg_reg_tabS (s : State) (a : Nat) (v : Word) : (setStg s a v).reg.tabS = s.reg.tabS := rfl
@[simp] theorem setStg_reg_rsvd (s : State) (a : Nat) (v : Word) : (setStg s a v).reg.rsvd = s.reg.rsvd := rfl
@[simp] theorem setStg_reg_acc (s : State) (a : Nat) (v : Word) : (setStg s a v).reg.acc = s.reg.acc := rfl
@[simp] theorem setStg_reg_accRef (s : State) (a : Nat) (v : Word) : (setStg s a v).reg.accRef = s.reg.accRef := rfl
@[simp] theorem setStg_reg_accEcc (s : State) (a : Nat) (v : Word) : (setStg s a v).reg.accEcc = s.reg.accEcc := rfl
@[simp] theorem setAct_pending (s : State) (a : Nat) (v : Word) : (setAct s a v).pending = s.pending := rfl
@[simp] theorem setAct_mem (s : State) (a : Nat) (v : Word) : (setAct s a v).mem = s.mem := rfl
@[simp] theorem setAct_gal (s : State) (a : Nat) (v : Word) : (setAct s a v).gal = s.gal := rfl
@[simp] theorem setAct_eng (s : State) (a : Nat) (v : Word) : (setAct s a v).eng = s.eng := rfl
@[simp] theorem setAct_mov (s : State) (a : Nat) (v : Word) : (setAct s a v).mov = s.mov := rfl
@[simp] theorem setAct_wq (s : State) (a : Nat) (v : Word) : (setAct s a v).wq = s.wq := rfl
@[simp] theorem setAct_lnd (s : State) (a : Nat) (v : Word) : (setAct s a v).lnd = s.lnd := rfl
@[simp] theorem setAct_time (s : State) (a : Nat) (v : Word) : (setAct s a v).time = s.time := rfl
@[simp] theorem setAct_evt (s : State) (a : Nat) (v : Word) : (setAct s a v).evt = s.evt := rfl
@[simp] theorem setAct_flt (s : State) (a : Nat) (v : Word) : (setAct s a v).flt = s.flt := rfl
@[simp] theorem setAct_sct (s : State) (a : Nat) (v : Word) : (setAct s a v).sct = s.sct := rfl
@[simp] theorem setAct_ring (s : State) (a : Nat) (v : Word) : (setAct s a v).ring = s.ring := rfl
@[simp] theorem setAct_rm (s : State) (a : Nat) (v : Word) : (setAct s a v).rm = s.rm := rfl
@[simp] theorem setAct_dpt (s : State) (a : Nat) (v : Word) : (setAct s a v).dpt = s.dpt := rfl
@[simp] theorem setAct_arb (s : State) (a : Nat) (v : Word) : (setAct s a v).arb = s.arb := rfl
@[simp] theorem setAct_memc (s : State) (a : Nat) (v : Word) : (setAct s a v).memc = s.memc := rfl
@[simp] theorem setAct_boot (s : State) (a : Nat) (v : Word) : (setAct s a v).boot = s.boot := rfl
@[simp] theorem setAct_stamp (s : State) (a : Nat) (v : Word) : (setAct s a v).stamp = s.stamp := rfl
@[simp] theorem setAct_free (s : State) (a : Nat) (v : Word) : (setAct s a v).free = s.free := rfl
@[simp] theorem setAct_reg_stg (s : State) (a : Nat) (v : Word) : (setAct s a v).reg.stg = s.reg.stg := rfl
@[simp] theorem setAct_reg_im (s : State) (a : Nat) (v : Word) : (setAct s a v).reg.im = s.reg.im := rfl
@[simp] theorem setAct_reg_tabA (s : State) (a : Nat) (v : Word) : (setAct s a v).reg.tabA = s.reg.tabA := rfl
@[simp] theorem setAct_reg_tabS (s : State) (a : Nat) (v : Word) : (setAct s a v).reg.tabS = s.reg.tabS := rfl
@[simp] theorem setAct_reg_rsvd (s : State) (a : Nat) (v : Word) : (setAct s a v).reg.rsvd = s.reg.rsvd := rfl
@[simp] theorem setAct_reg_acc (s : State) (a : Nat) (v : Word) : (setAct s a v).reg.acc = s.reg.acc := rfl
@[simp] theorem setAct_reg_accRef (s : State) (a : Nat) (v : Word) : (setAct s a v).reg.accRef = s.reg.accRef := rfl
@[simp] theorem setAct_reg_accEcc (s : State) (a : Nat) (v : Word) : (setAct s a v).reg.accEcc = s.reg.accEcc := rfl
@[simp] theorem setIm_pending (s : State) (a : Nat) (v : Word) : (setIm s a v).pending = s.pending := rfl
@[simp] theorem setIm_mem (s : State) (a : Nat) (v : Word) : (setIm s a v).mem = s.mem := rfl
@[simp] theorem setIm_gal (s : State) (a : Nat) (v : Word) : (setIm s a v).gal = s.gal := rfl
@[simp] theorem setIm_eng (s : State) (a : Nat) (v : Word) : (setIm s a v).eng = s.eng := rfl
@[simp] theorem setIm_mov (s : State) (a : Nat) (v : Word) : (setIm s a v).mov = s.mov := rfl
@[simp] theorem setIm_wq (s : State) (a : Nat) (v : Word) : (setIm s a v).wq = s.wq := rfl
@[simp] theorem setIm_lnd (s : State) (a : Nat) (v : Word) : (setIm s a v).lnd = s.lnd := rfl
@[simp] theorem setIm_time (s : State) (a : Nat) (v : Word) : (setIm s a v).time = s.time := rfl
@[simp] theorem setIm_evt (s : State) (a : Nat) (v : Word) : (setIm s a v).evt = s.evt := rfl
@[simp] theorem setIm_flt (s : State) (a : Nat) (v : Word) : (setIm s a v).flt = s.flt := rfl
@[simp] theorem setIm_sct (s : State) (a : Nat) (v : Word) : (setIm s a v).sct = s.sct := rfl
@[simp] theorem setIm_ring (s : State) (a : Nat) (v : Word) : (setIm s a v).ring = s.ring := rfl
@[simp] theorem setIm_rm (s : State) (a : Nat) (v : Word) : (setIm s a v).rm = s.rm := rfl
@[simp] theorem setIm_dpt (s : State) (a : Nat) (v : Word) : (setIm s a v).dpt = s.dpt := rfl
@[simp] theorem setIm_arb (s : State) (a : Nat) (v : Word) : (setIm s a v).arb = s.arb := rfl
@[simp] theorem setIm_memc (s : State) (a : Nat) (v : Word) : (setIm s a v).memc = s.memc := rfl
@[simp] theorem setIm_boot (s : State) (a : Nat) (v : Word) : (setIm s a v).boot = s.boot := rfl
@[simp] theorem setIm_stamp (s : State) (a : Nat) (v : Word) : (setIm s a v).stamp = s.stamp := rfl
@[simp] theorem setIm_free (s : State) (a : Nat) (v : Word) : (setIm s a v).free = s.free := rfl
@[simp] theorem setIm_reg_act (s : State) (a : Nat) (v : Word) : (setIm s a v).reg.act = s.reg.act := rfl
@[simp] theorem setIm_reg_stg (s : State) (a : Nat) (v : Word) : (setIm s a v).reg.stg = s.reg.stg := rfl
@[simp] theorem setIm_reg_tabA (s : State) (a : Nat) (v : Word) : (setIm s a v).reg.tabA = s.reg.tabA := rfl
@[simp] theorem setIm_reg_tabS (s : State) (a : Nat) (v : Word) : (setIm s a v).reg.tabS = s.reg.tabS := rfl
@[simp] theorem setIm_reg_rsvd (s : State) (a : Nat) (v : Word) : (setIm s a v).reg.rsvd = s.reg.rsvd := rfl
@[simp] theorem setIm_reg_acc (s : State) (a : Nat) (v : Word) : (setIm s a v).reg.acc = s.reg.acc := rfl
@[simp] theorem setIm_reg_accRef (s : State) (a : Nat) (v : Word) : (setIm s a v).reg.accRef = s.reg.accRef := rfl
@[simp] theorem setIm_reg_accEcc (s : State) (a : Nat) (v : Word) : (setIm s a v).reg.accEcc = s.reg.accEcc := rfl
@[simp] theorem setRsvd_pending (s : State) : (setRsvd s).pending = s.pending := rfl
@[simp] theorem setRsvd_mem (s : State) : (setRsvd s).mem = s.mem := rfl
@[simp] theorem setRsvd_gal (s : State) : (setRsvd s).gal = s.gal := rfl
@[simp] theorem setRsvd_eng (s : State) : (setRsvd s).eng = s.eng := rfl
@[simp] theorem setRsvd_mov (s : State) : (setRsvd s).mov = s.mov := rfl
@[simp] theorem setRsvd_wq (s : State) : (setRsvd s).wq = s.wq := rfl
@[simp] theorem setRsvd_lnd (s : State) : (setRsvd s).lnd = s.lnd := rfl
@[simp] theorem setRsvd_time (s : State) : (setRsvd s).time = s.time := rfl
@[simp] theorem setRsvd_evt (s : State) : (setRsvd s).evt = s.evt := rfl
@[simp] theorem setRsvd_flt (s : State) : (setRsvd s).flt = s.flt := rfl
@[simp] theorem setRsvd_sct (s : State) : (setRsvd s).sct = s.sct := rfl
@[simp] theorem setRsvd_ring (s : State) : (setRsvd s).ring = s.ring := rfl
@[simp] theorem setRsvd_rm (s : State) : (setRsvd s).rm = s.rm := rfl
@[simp] theorem setRsvd_dpt (s : State) : (setRsvd s).dpt = s.dpt := rfl
@[simp] theorem setRsvd_arb (s : State) : (setRsvd s).arb = s.arb := rfl
@[simp] theorem setRsvd_memc (s : State) : (setRsvd s).memc = s.memc := rfl
@[simp] theorem setRsvd_boot (s : State) : (setRsvd s).boot = s.boot := rfl
@[simp] theorem setRsvd_stamp (s : State) : (setRsvd s).stamp = s.stamp := rfl
@[simp] theorem setRsvd_free (s : State) : (setRsvd s).free = s.free := rfl
@[simp] theorem setRsvd_reg_act (s : State) : (setRsvd s).reg.act = s.reg.act := rfl
@[simp] theorem setRsvd_reg_stg (s : State) : (setRsvd s).reg.stg = s.reg.stg := rfl
@[simp] theorem setRsvd_reg_im (s : State) : (setRsvd s).reg.im = s.reg.im := rfl
@[simp] theorem setRsvd_reg_tabA (s : State) : (setRsvd s).reg.tabA = s.reg.tabA := rfl
@[simp] theorem setRsvd_reg_tabS (s : State) : (setRsvd s).reg.tabS = s.reg.tabS := rfl
@[simp] theorem setRsvd_reg_acc (s : State) : (setRsvd s).reg.acc = s.reg.acc := rfl
@[simp] theorem setRsvd_reg_accRef (s : State) : (setRsvd s).reg.accRef = s.reg.accRef := rfl
@[simp] theorem setRsvd_reg_accEcc (s : State) : (setRsvd s).reg.accEcc = s.reg.accEcc := rfl
@[simp] theorem setTabS_pending (s : State) (k : Nat) (v : DWord) : (setTabS s k v).pending = s.pending := rfl
@[simp] theorem setTabS_mem (s : State) (k : Nat) (v : DWord) : (setTabS s k v).mem = s.mem := rfl
@[simp] theorem setTabS_gal (s : State) (k : Nat) (v : DWord) : (setTabS s k v).gal = s.gal := rfl
@[simp] theorem setTabS_eng (s : State) (k : Nat) (v : DWord) : (setTabS s k v).eng = s.eng := rfl
@[simp] theorem setTabS_mov (s : State) (k : Nat) (v : DWord) : (setTabS s k v).mov = s.mov := rfl
@[simp] theorem setTabS_wq (s : State) (k : Nat) (v : DWord) : (setTabS s k v).wq = s.wq := rfl
@[simp] theorem setTabS_lnd (s : State) (k : Nat) (v : DWord) : (setTabS s k v).lnd = s.lnd := rfl
@[simp] theorem setTabS_time (s : State) (k : Nat) (v : DWord) : (setTabS s k v).time = s.time := rfl
@[simp] theorem setTabS_evt (s : State) (k : Nat) (v : DWord) : (setTabS s k v).evt = s.evt := rfl
@[simp] theorem setTabS_flt (s : State) (k : Nat) (v : DWord) : (setTabS s k v).flt = s.flt := rfl
@[simp] theorem setTabS_sct (s : State) (k : Nat) (v : DWord) : (setTabS s k v).sct = s.sct := rfl
@[simp] theorem setTabS_ring (s : State) (k : Nat) (v : DWord) : (setTabS s k v).ring = s.ring := rfl
@[simp] theorem setTabS_rm (s : State) (k : Nat) (v : DWord) : (setTabS s k v).rm = s.rm := rfl
@[simp] theorem setTabS_dpt (s : State) (k : Nat) (v : DWord) : (setTabS s k v).dpt = s.dpt := rfl
@[simp] theorem setTabS_arb (s : State) (k : Nat) (v : DWord) : (setTabS s k v).arb = s.arb := rfl
@[simp] theorem setTabS_memc (s : State) (k : Nat) (v : DWord) : (setTabS s k v).memc = s.memc := rfl
@[simp] theorem setTabS_boot (s : State) (k : Nat) (v : DWord) : (setTabS s k v).boot = s.boot := rfl
@[simp] theorem setTabS_stamp (s : State) (k : Nat) (v : DWord) : (setTabS s k v).stamp = s.stamp := rfl
@[simp] theorem setTabS_free (s : State) (k : Nat) (v : DWord) : (setTabS s k v).free = s.free := rfl
@[simp] theorem setTabS_reg_act (s : State) (k : Nat) (v : DWord) : (setTabS s k v).reg.act = s.reg.act := rfl
@[simp] theorem setTabS_reg_stg (s : State) (k : Nat) (v : DWord) : (setTabS s k v).reg.stg = s.reg.stg := rfl
@[simp] theorem setTabS_reg_im (s : State) (k : Nat) (v : DWord) : (setTabS s k v).reg.im = s.reg.im := rfl
@[simp] theorem setTabS_reg_tabA (s : State) (k : Nat) (v : DWord) : (setTabS s k v).reg.tabA = s.reg.tabA := rfl
@[simp] theorem setTabS_reg_rsvd (s : State) (k : Nat) (v : DWord) : (setTabS s k v).reg.rsvd = s.reg.rsvd := rfl
@[simp] theorem setTabS_reg_acc (s : State) (k : Nat) (v : DWord) : (setTabS s k v).reg.acc = s.reg.acc := rfl
@[simp] theorem setTabS_reg_accRef (s : State) (k : Nat) (v : DWord) : (setTabS s k v).reg.accRef = s.reg.accRef := rfl
@[simp] theorem setTabS_reg_accEcc (s : State) (k : Nat) (v : DWord) : (setTabS s k v).reg.accEcc = s.reg.accEcc := rfl
@[simp] theorem setTabA_pending (s : State) (k : Nat) (v : DWord) : (setTabA s k v).pending = s.pending := rfl
@[simp] theorem setTabA_mem (s : State) (k : Nat) (v : DWord) : (setTabA s k v).mem = s.mem := rfl
@[simp] theorem setTabA_gal (s : State) (k : Nat) (v : DWord) : (setTabA s k v).gal = s.gal := rfl
@[simp] theorem setTabA_eng (s : State) (k : Nat) (v : DWord) : (setTabA s k v).eng = s.eng := rfl
@[simp] theorem setTabA_mov (s : State) (k : Nat) (v : DWord) : (setTabA s k v).mov = s.mov := rfl
@[simp] theorem setTabA_wq (s : State) (k : Nat) (v : DWord) : (setTabA s k v).wq = s.wq := rfl
@[simp] theorem setTabA_lnd (s : State) (k : Nat) (v : DWord) : (setTabA s k v).lnd = s.lnd := rfl
@[simp] theorem setTabA_time (s : State) (k : Nat) (v : DWord) : (setTabA s k v).time = s.time := rfl
@[simp] theorem setTabA_evt (s : State) (k : Nat) (v : DWord) : (setTabA s k v).evt = s.evt := rfl
@[simp] theorem setTabA_flt (s : State) (k : Nat) (v : DWord) : (setTabA s k v).flt = s.flt := rfl
@[simp] theorem setTabA_sct (s : State) (k : Nat) (v : DWord) : (setTabA s k v).sct = s.sct := rfl
@[simp] theorem setTabA_ring (s : State) (k : Nat) (v : DWord) : (setTabA s k v).ring = s.ring := rfl
@[simp] theorem setTabA_rm (s : State) (k : Nat) (v : DWord) : (setTabA s k v).rm = s.rm := rfl
@[simp] theorem setTabA_dpt (s : State) (k : Nat) (v : DWord) : (setTabA s k v).dpt = s.dpt := rfl
@[simp] theorem setTabA_arb (s : State) (k : Nat) (v : DWord) : (setTabA s k v).arb = s.arb := rfl
@[simp] theorem setTabA_memc (s : State) (k : Nat) (v : DWord) : (setTabA s k v).memc = s.memc := rfl
@[simp] theorem setTabA_boot (s : State) (k : Nat) (v : DWord) : (setTabA s k v).boot = s.boot := rfl
@[simp] theorem setTabA_stamp (s : State) (k : Nat) (v : DWord) : (setTabA s k v).stamp = s.stamp := rfl
@[simp] theorem setTabA_free (s : State) (k : Nat) (v : DWord) : (setTabA s k v).free = s.free := rfl
@[simp] theorem setTabA_reg_act (s : State) (k : Nat) (v : DWord) : (setTabA s k v).reg.act = s.reg.act := rfl
@[simp] theorem setTabA_reg_stg (s : State) (k : Nat) (v : DWord) : (setTabA s k v).reg.stg = s.reg.stg := rfl
@[simp] theorem setTabA_reg_im (s : State) (k : Nat) (v : DWord) : (setTabA s k v).reg.im = s.reg.im := rfl
@[simp] theorem setTabA_reg_tabS (s : State) (k : Nat) (v : DWord) : (setTabA s k v).reg.tabS = s.reg.tabS := rfl
@[simp] theorem setTabA_reg_rsvd (s : State) (k : Nat) (v : DWord) : (setTabA s k v).reg.rsvd = s.reg.rsvd := rfl
@[simp] theorem setTabA_reg_acc (s : State) (k : Nat) (v : DWord) : (setTabA s k v).reg.acc = s.reg.acc := rfl
@[simp] theorem setTabA_reg_accRef (s : State) (k : Nat) (v : DWord) : (setTabA s k v).reg.accRef = s.reg.accRef := rfl
@[simp] theorem setTabA_reg_accEcc (s : State) (k : Nat) (v : DWord) : (setTabA s k v).reg.accEcc = s.reg.accEcc := rfl
@[simp] theorem setLive_pending (s : State) (c : CtxId) (l : Live) : (setLive s c l).pending = s.pending := rfl
@[simp] theorem setLive_mem (s : State) (c : CtxId) (l : Live) : (setLive s c l).mem = s.mem := rfl
@[simp] theorem setLive_reg (s : State) (c : CtxId) (l : Live) : (setLive s c l).reg = s.reg := rfl
@[simp] theorem setLive_eng (s : State) (c : CtxId) (l : Live) : (setLive s c l).eng = s.eng := rfl
@[simp] theorem setLive_mov (s : State) (c : CtxId) (l : Live) : (setLive s c l).mov = s.mov := rfl
@[simp] theorem setLive_wq (s : State) (c : CtxId) (l : Live) : (setLive s c l).wq = s.wq := rfl
@[simp] theorem setLive_lnd (s : State) (c : CtxId) (l : Live) : (setLive s c l).lnd = s.lnd := rfl
@[simp] theorem setLive_time (s : State) (c : CtxId) (l : Live) : (setLive s c l).time = s.time := rfl
@[simp] theorem setLive_evt (s : State) (c : CtxId) (l : Live) : (setLive s c l).evt = s.evt := rfl
@[simp] theorem setLive_flt (s : State) (c : CtxId) (l : Live) : (setLive s c l).flt = s.flt := rfl
@[simp] theorem setLive_sct (s : State) (c : CtxId) (l : Live) : (setLive s c l).sct = s.sct := rfl
@[simp] theorem setLive_ring (s : State) (c : CtxId) (l : Live) : (setLive s c l).ring = s.ring := rfl
@[simp] theorem setLive_rm (s : State) (c : CtxId) (l : Live) : (setLive s c l).rm = s.rm := rfl
@[simp] theorem setLive_dpt (s : State) (c : CtxId) (l : Live) : (setLive s c l).dpt = s.dpt := rfl
@[simp] theorem setLive_arb (s : State) (c : CtxId) (l : Live) : (setLive s c l).arb = s.arb := rfl
@[simp] theorem setLive_memc (s : State) (c : CtxId) (l : Live) : (setLive s c l).memc = s.memc := rfl
@[simp] theorem setLive_boot (s : State) (c : CtxId) (l : Live) : (setLive s c l).boot = s.boot := rfl
@[simp] theorem setLive_stamp (s : State) (c : CtxId) (l : Live) : (setLive s c l).stamp = s.stamp := rfl
@[simp] theorem setLive_free (s : State) (c : CtxId) (l : Live) : (setLive s c l).free = s.free := rfl
@[simp] theorem setLive_gal_recs (s : State) (c : CtxId) (l : Live) : (setLive s c l).gal.recs = s.gal.recs := rfl
@[simp] theorem setLive_gal_epoch (s : State) (c : CtxId) (l : Live) : (setLive s c l).gal.epoch = s.gal.epoch := rfl
@[simp] theorem setLive_gal_locks (s : State) (c : CtxId) (l : Live) : (setLive s c l).gal.locks = s.gal.locks := rfl
@[simp] theorem setLive_gal_cmdBusy (s : State) (c : CtxId) (l : Live) : (setLive s c l).gal.cmdBusy = s.gal.cmdBusy := rfl
@[simp] theorem setLive_gal_cctBusy (s : State) (c : CtxId) (l : Live) : (setLive s c l).gal.cctBusy = s.gal.cctBusy := rfl
@[simp] theorem setRec_pending (s : State) (c : CtxId) (r : Regs) : (setRec s c r).pending = s.pending := rfl
@[simp] theorem setRec_mem (s : State) (c : CtxId) (r : Regs) : (setRec s c r).mem = s.mem := rfl
@[simp] theorem setRec_reg (s : State) (c : CtxId) (r : Regs) : (setRec s c r).reg = s.reg := rfl
@[simp] theorem setRec_eng (s : State) (c : CtxId) (r : Regs) : (setRec s c r).eng = s.eng := rfl
@[simp] theorem setRec_mov (s : State) (c : CtxId) (r : Regs) : (setRec s c r).mov = s.mov := rfl
@[simp] theorem setRec_wq (s : State) (c : CtxId) (r : Regs) : (setRec s c r).wq = s.wq := rfl
@[simp] theorem setRec_lnd (s : State) (c : CtxId) (r : Regs) : (setRec s c r).lnd = s.lnd := rfl
@[simp] theorem setRec_time (s : State) (c : CtxId) (r : Regs) : (setRec s c r).time = s.time := rfl
@[simp] theorem setRec_evt (s : State) (c : CtxId) (r : Regs) : (setRec s c r).evt = s.evt := rfl
@[simp] theorem setRec_flt (s : State) (c : CtxId) (r : Regs) : (setRec s c r).flt = s.flt := rfl
@[simp] theorem setRec_sct (s : State) (c : CtxId) (r : Regs) : (setRec s c r).sct = s.sct := rfl
@[simp] theorem setRec_ring (s : State) (c : CtxId) (r : Regs) : (setRec s c r).ring = s.ring := rfl
@[simp] theorem setRec_rm (s : State) (c : CtxId) (r : Regs) : (setRec s c r).rm = s.rm := rfl
@[simp] theorem setRec_dpt (s : State) (c : CtxId) (r : Regs) : (setRec s c r).dpt = s.dpt := rfl
@[simp] theorem setRec_arb (s : State) (c : CtxId) (r : Regs) : (setRec s c r).arb = s.arb := rfl
@[simp] theorem setRec_memc (s : State) (c : CtxId) (r : Regs) : (setRec s c r).memc = s.memc := rfl
@[simp] theorem setRec_boot (s : State) (c : CtxId) (r : Regs) : (setRec s c r).boot = s.boot := rfl
@[simp] theorem setRec_stamp (s : State) (c : CtxId) (r : Regs) : (setRec s c r).stamp = s.stamp := rfl
@[simp] theorem setRec_free (s : State) (c : CtxId) (r : Regs) : (setRec s c r).free = s.free := rfl
@[simp] theorem setRec_gal_live (s : State) (c : CtxId) (r : Regs) : (setRec s c r).gal.live = s.gal.live := rfl
@[simp] theorem setRec_gal_epoch (s : State) (c : CtxId) (r : Regs) : (setRec s c r).gal.epoch = s.gal.epoch := rfl
@[simp] theorem setRec_gal_locks (s : State) (c : CtxId) (r : Regs) : (setRec s c r).gal.locks = s.gal.locks := rfl
@[simp] theorem setRec_gal_cmdBusy (s : State) (c : CtxId) (r : Regs) : (setRec s c r).gal.cmdBusy = s.gal.cmdBusy := rfl
@[simp] theorem setRec_gal_cctBusy (s : State) (c : CtxId) (r : Regs) : (setRec s c r).gal.cctBusy = s.gal.cctBusy := rfl
@[simp] theorem setLock_pending (s : State) (n : Nat) (v : Word) : (setLock s n v).pending = s.pending := rfl
@[simp] theorem setLock_mem (s : State) (n : Nat) (v : Word) : (setLock s n v).mem = s.mem := rfl
@[simp] theorem setLock_reg (s : State) (n : Nat) (v : Word) : (setLock s n v).reg = s.reg := rfl
@[simp] theorem setLock_eng (s : State) (n : Nat) (v : Word) : (setLock s n v).eng = s.eng := rfl
@[simp] theorem setLock_mov (s : State) (n : Nat) (v : Word) : (setLock s n v).mov = s.mov := rfl
@[simp] theorem setLock_wq (s : State) (n : Nat) (v : Word) : (setLock s n v).wq = s.wq := rfl
@[simp] theorem setLock_lnd (s : State) (n : Nat) (v : Word) : (setLock s n v).lnd = s.lnd := rfl
@[simp] theorem setLock_time (s : State) (n : Nat) (v : Word) : (setLock s n v).time = s.time := rfl
@[simp] theorem setLock_evt (s : State) (n : Nat) (v : Word) : (setLock s n v).evt = s.evt := rfl
@[simp] theorem setLock_flt (s : State) (n : Nat) (v : Word) : (setLock s n v).flt = s.flt := rfl
@[simp] theorem setLock_sct (s : State) (n : Nat) (v : Word) : (setLock s n v).sct = s.sct := rfl
@[simp] theorem setLock_ring (s : State) (n : Nat) (v : Word) : (setLock s n v).ring = s.ring := rfl
@[simp] theorem setLock_rm (s : State) (n : Nat) (v : Word) : (setLock s n v).rm = s.rm := rfl
@[simp] theorem setLock_dpt (s : State) (n : Nat) (v : Word) : (setLock s n v).dpt = s.dpt := rfl
@[simp] theorem setLock_arb (s : State) (n : Nat) (v : Word) : (setLock s n v).arb = s.arb := rfl
@[simp] theorem setLock_memc (s : State) (n : Nat) (v : Word) : (setLock s n v).memc = s.memc := rfl
@[simp] theorem setLock_boot (s : State) (n : Nat) (v : Word) : (setLock s n v).boot = s.boot := rfl
@[simp] theorem setLock_stamp (s : State) (n : Nat) (v : Word) : (setLock s n v).stamp = s.stamp := rfl
@[simp] theorem setLock_free (s : State) (n : Nat) (v : Word) : (setLock s n v).free = s.free := rfl
@[simp] theorem setLock_gal_live (s : State) (n : Nat) (v : Word) : (setLock s n v).gal.live = s.gal.live := rfl
@[simp] theorem setLock_gal_recs (s : State) (n : Nat) (v : Word) : (setLock s n v).gal.recs = s.gal.recs := rfl
@[simp] theorem setLock_gal_epoch (s : State) (n : Nat) (v : Word) : (setLock s n v).gal.epoch = s.gal.epoch := rfl
@[simp] theorem setLock_gal_cmdBusy (s : State) (n : Nat) (v : Word) : (setLock s n v).gal.cmdBusy = s.gal.cmdBusy := rfl
@[simp] theorem setLock_gal_cctBusy (s : State) (n : Nat) (v : Word) : (setLock s n v).gal.cctBusy = s.gal.cctBusy := rfl
@[simp] theorem setSlotRegs_pending (s : State) (k : Nat) (r : Option Regs) : (setSlotRegs s k r).pending = s.pending := rfl
@[simp] theorem setSlotRegs_mem (s : State) (k : Nat) (r : Option Regs) : (setSlotRegs s k r).mem = s.mem := rfl
@[simp] theorem setSlotRegs_reg (s : State) (k : Nat) (r : Option Regs) : (setSlotRegs s k r).reg = s.reg := rfl
@[simp] theorem setSlotRegs_gal (s : State) (k : Nat) (r : Option Regs) : (setSlotRegs s k r).gal = s.gal := rfl
@[simp] theorem setSlotRegs_mov (s : State) (k : Nat) (r : Option Regs) : (setSlotRegs s k r).mov = s.mov := rfl
@[simp] theorem setSlotRegs_wq (s : State) (k : Nat) (r : Option Regs) : (setSlotRegs s k r).wq = s.wq := rfl
@[simp] theorem setSlotRegs_lnd (s : State) (k : Nat) (r : Option Regs) : (setSlotRegs s k r).lnd = s.lnd := rfl
@[simp] theorem setSlotRegs_time (s : State) (k : Nat) (r : Option Regs) : (setSlotRegs s k r).time = s.time := rfl
@[simp] theorem setSlotRegs_evt (s : State) (k : Nat) (r : Option Regs) : (setSlotRegs s k r).evt = s.evt := rfl
@[simp] theorem setSlotRegs_flt (s : State) (k : Nat) (r : Option Regs) : (setSlotRegs s k r).flt = s.flt := rfl
@[simp] theorem setSlotRegs_sct (s : State) (k : Nat) (r : Option Regs) : (setSlotRegs s k r).sct = s.sct := rfl
@[simp] theorem setSlotRegs_ring (s : State) (k : Nat) (r : Option Regs) : (setSlotRegs s k r).ring = s.ring := rfl
@[simp] theorem setSlotRegs_rm (s : State) (k : Nat) (r : Option Regs) : (setSlotRegs s k r).rm = s.rm := rfl
@[simp] theorem setSlotRegs_dpt (s : State) (k : Nat) (r : Option Regs) : (setSlotRegs s k r).dpt = s.dpt := rfl
@[simp] theorem setSlotRegs_arb (s : State) (k : Nat) (r : Option Regs) : (setSlotRegs s k r).arb = s.arb := rfl
@[simp] theorem setSlotRegs_memc (s : State) (k : Nat) (r : Option Regs) : (setSlotRegs s k r).memc = s.memc := rfl
@[simp] theorem setSlotRegs_boot (s : State) (k : Nat) (r : Option Regs) : (setSlotRegs s k r).boot = s.boot := rfl
@[simp] theorem setSlotRegs_stamp (s : State) (k : Nat) (r : Option Regs) : (setSlotRegs s k r).stamp = s.stamp := rfl
@[simp] theorem setSlotRegs_free (s : State) (k : Nat) (r : Option Regs) : (setSlotRegs s k r).free = s.free := rfl
@[simp] theorem setSlotRegs_eng_occ (s : State) (k : Nat) (r : Option Regs) : (setSlotRegs s k r).eng.occ = s.eng.occ := rfl
@[simp] theorem setSlotRegs_eng_thr (s : State) (k : Nat) (r : Option Regs) : (setSlotRegs s k r).eng.thr = s.eng.thr := rfl
@[simp] theorem setSlotRegs_eng_mps (s : State) (k : Nat) (r : Option Regs) : (setSlotRegs s k r).eng.mps = s.eng.mps := rfl
@[simp] theorem setSlotRegs_eng_cls (s : State) (k : Nat) (r : Option Regs) : (setSlotRegs s k r).eng.cls = s.eng.cls := rfl
@[simp] theorem setSlotRegs_eng_orch (s : State) (k : Nat) (r : Option Regs) : (setSlotRegs s k r).eng.orch = s.eng.orch := rfl
@[simp] theorem setSlotRegs_eng_invBusy (s : State) (k : Nat) (r : Option Regs) : (setSlotRegs s k r).eng.invBusy = s.eng.invBusy := rfl
@[simp] theorem setSlotRegs_eng_victims (s : State) (k : Nat) (r : Option Regs) : (setSlotRegs s k r).eng.victims = s.eng.victims := rfl
@[simp] theorem setSlotRegs_eng_sparePending (s : State) (k : Nat) (r : Option Regs) : (setSlotRegs s k r).eng.sparePending = s.eng.sparePending := rfl
@[simp] theorem setSlotRegs_eng_spareInUse (s : State) (k : Nat) (r : Option Regs) : (setSlotRegs s k r).eng.spareInUse = s.eng.spareInUse := rfl
@[simp] theorem setSlotRegs_eng_spareUnavail (s : State) (k : Nat) (r : Option Regs) : (setSlotRegs s k r).eng.spareUnavail = s.eng.spareUnavail := rfl
@[simp] theorem setSlotRegs_eng_spareFor (s : State) (k : Nat) (r : Option Regs) : (setSlotRegs s k r).eng.spareFor = s.eng.spareFor := rfl
@[simp] theorem setSlotRegs_eng_noSpareAt (s : State) (k : Nat) (r : Option Regs) : (setSlotRegs s k r).eng.noSpareAt = s.eng.noSpareAt := rfl
@[simp] theorem setThr_pending (s : State) (t : Thread) (x : Thr) : (setThr s t x).pending = s.pending := rfl
@[simp] theorem setThr_mem (s : State) (t : Thread) (x : Thr) : (setThr s t x).mem = s.mem := rfl
@[simp] theorem setThr_reg (s : State) (t : Thread) (x : Thr) : (setThr s t x).reg = s.reg := rfl
@[simp] theorem setThr_gal (s : State) (t : Thread) (x : Thr) : (setThr s t x).gal = s.gal := rfl
@[simp] theorem setThr_mov (s : State) (t : Thread) (x : Thr) : (setThr s t x).mov = s.mov := rfl
@[simp] theorem setThr_wq (s : State) (t : Thread) (x : Thr) : (setThr s t x).wq = s.wq := rfl
@[simp] theorem setThr_lnd (s : State) (t : Thread) (x : Thr) : (setThr s t x).lnd = s.lnd := rfl
@[simp] theorem setThr_time (s : State) (t : Thread) (x : Thr) : (setThr s t x).time = s.time := rfl
@[simp] theorem setThr_evt (s : State) (t : Thread) (x : Thr) : (setThr s t x).evt = s.evt := rfl
@[simp] theorem setThr_flt (s : State) (t : Thread) (x : Thr) : (setThr s t x).flt = s.flt := rfl
@[simp] theorem setThr_sct (s : State) (t : Thread) (x : Thr) : (setThr s t x).sct = s.sct := rfl
@[simp] theorem setThr_ring (s : State) (t : Thread) (x : Thr) : (setThr s t x).ring = s.ring := rfl
@[simp] theorem setThr_rm (s : State) (t : Thread) (x : Thr) : (setThr s t x).rm = s.rm := rfl
@[simp] theorem setThr_dpt (s : State) (t : Thread) (x : Thr) : (setThr s t x).dpt = s.dpt := rfl
@[simp] theorem setThr_arb (s : State) (t : Thread) (x : Thr) : (setThr s t x).arb = s.arb := rfl
@[simp] theorem setThr_memc (s : State) (t : Thread) (x : Thr) : (setThr s t x).memc = s.memc := rfl
@[simp] theorem setThr_boot (s : State) (t : Thread) (x : Thr) : (setThr s t x).boot = s.boot := rfl
@[simp] theorem setThr_stamp (s : State) (t : Thread) (x : Thr) : (setThr s t x).stamp = s.stamp := rfl
@[simp] theorem setThr_free (s : State) (t : Thread) (x : Thr) : (setThr s t x).free = s.free := rfl
@[simp] theorem setThr_eng_occ (s : State) (t : Thread) (x : Thr) : (setThr s t x).eng.occ = s.eng.occ := rfl
@[simp] theorem setThr_eng_slots (s : State) (t : Thread) (x : Thr) : (setThr s t x).eng.slots = s.eng.slots := rfl
@[simp] theorem setThr_eng_mps (s : State) (t : Thread) (x : Thr) : (setThr s t x).eng.mps = s.eng.mps := rfl
@[simp] theorem setThr_eng_cls (s : State) (t : Thread) (x : Thr) : (setThr s t x).eng.cls = s.eng.cls := rfl
@[simp] theorem setThr_eng_orch (s : State) (t : Thread) (x : Thr) : (setThr s t x).eng.orch = s.eng.orch := rfl
@[simp] theorem setThr_eng_invBusy (s : State) (t : Thread) (x : Thr) : (setThr s t x).eng.invBusy = s.eng.invBusy := rfl
@[simp] theorem setThr_eng_victims (s : State) (t : Thread) (x : Thr) : (setThr s t x).eng.victims = s.eng.victims := rfl
@[simp] theorem setThr_eng_sparePending (s : State) (t : Thread) (x : Thr) : (setThr s t x).eng.sparePending = s.eng.sparePending := rfl
@[simp] theorem setThr_eng_spareInUse (s : State) (t : Thread) (x : Thr) : (setThr s t x).eng.spareInUse = s.eng.spareInUse := rfl
@[simp] theorem setThr_eng_spareUnavail (s : State) (t : Thread) (x : Thr) : (setThr s t x).eng.spareUnavail = s.eng.spareUnavail := rfl
@[simp] theorem setThr_eng_spareFor (s : State) (t : Thread) (x : Thr) : (setThr s t x).eng.spareFor = s.eng.spareFor := rfl
@[simp] theorem setThr_eng_noSpareAt (s : State) (t : Thread) (x : Thr) : (setThr s t x).eng.noSpareAt = s.eng.noSpareAt := rfl
@[simp] theorem setMp_pending (s : State) (n : BitVec 2) (m : Mp) : (setMp s n m).pending = s.pending := rfl
@[simp] theorem setMp_mem (s : State) (n : BitVec 2) (m : Mp) : (setMp s n m).mem = s.mem := rfl
@[simp] theorem setMp_reg (s : State) (n : BitVec 2) (m : Mp) : (setMp s n m).reg = s.reg := rfl
@[simp] theorem setMp_gal (s : State) (n : BitVec 2) (m : Mp) : (setMp s n m).gal = s.gal := rfl
@[simp] theorem setMp_mov (s : State) (n : BitVec 2) (m : Mp) : (setMp s n m).mov = s.mov := rfl
@[simp] theorem setMp_wq (s : State) (n : BitVec 2) (m : Mp) : (setMp s n m).wq = s.wq := rfl
@[simp] theorem setMp_lnd (s : State) (n : BitVec 2) (m : Mp) : (setMp s n m).lnd = s.lnd := rfl
@[simp] theorem setMp_time (s : State) (n : BitVec 2) (m : Mp) : (setMp s n m).time = s.time := rfl
@[simp] theorem setMp_evt (s : State) (n : BitVec 2) (m : Mp) : (setMp s n m).evt = s.evt := rfl
@[simp] theorem setMp_flt (s : State) (n : BitVec 2) (m : Mp) : (setMp s n m).flt = s.flt := rfl
@[simp] theorem setMp_sct (s : State) (n : BitVec 2) (m : Mp) : (setMp s n m).sct = s.sct := rfl
@[simp] theorem setMp_ring (s : State) (n : BitVec 2) (m : Mp) : (setMp s n m).ring = s.ring := rfl
@[simp] theorem setMp_rm (s : State) (n : BitVec 2) (m : Mp) : (setMp s n m).rm = s.rm := rfl
@[simp] theorem setMp_dpt (s : State) (n : BitVec 2) (m : Mp) : (setMp s n m).dpt = s.dpt := rfl
@[simp] theorem setMp_arb (s : State) (n : BitVec 2) (m : Mp) : (setMp s n m).arb = s.arb := rfl
@[simp] theorem setMp_memc (s : State) (n : BitVec 2) (m : Mp) : (setMp s n m).memc = s.memc := rfl
@[simp] theorem setMp_boot (s : State) (n : BitVec 2) (m : Mp) : (setMp s n m).boot = s.boot := rfl
@[simp] theorem setMp_stamp (s : State) (n : BitVec 2) (m : Mp) : (setMp s n m).stamp = s.stamp := rfl
@[simp] theorem setMp_free (s : State) (n : BitVec 2) (m : Mp) : (setMp s n m).free = s.free := rfl
@[simp] theorem setMp_eng_occ (s : State) (n : BitVec 2) (m : Mp) : (setMp s n m).eng.occ = s.eng.occ := rfl
@[simp] theorem setMp_eng_slots (s : State) (n : BitVec 2) (m : Mp) : (setMp s n m).eng.slots = s.eng.slots := rfl
@[simp] theorem setMp_eng_thr (s : State) (n : BitVec 2) (m : Mp) : (setMp s n m).eng.thr = s.eng.thr := rfl
@[simp] theorem setMp_eng_cls (s : State) (n : BitVec 2) (m : Mp) : (setMp s n m).eng.cls = s.eng.cls := rfl
@[simp] theorem setMp_eng_orch (s : State) (n : BitVec 2) (m : Mp) : (setMp s n m).eng.orch = s.eng.orch := rfl
@[simp] theorem setMp_eng_invBusy (s : State) (n : BitVec 2) (m : Mp) : (setMp s n m).eng.invBusy = s.eng.invBusy := rfl
@[simp] theorem setMp_eng_victims (s : State) (n : BitVec 2) (m : Mp) : (setMp s n m).eng.victims = s.eng.victims := rfl
@[simp] theorem setMp_eng_sparePending (s : State) (n : BitVec 2) (m : Mp) : (setMp s n m).eng.sparePending = s.eng.sparePending := rfl
@[simp] theorem setMp_eng_spareInUse (s : State) (n : BitVec 2) (m : Mp) : (setMp s n m).eng.spareInUse = s.eng.spareInUse := rfl
@[simp] theorem setMp_eng_spareUnavail (s : State) (n : BitVec 2) (m : Mp) : (setMp s n m).eng.spareUnavail = s.eng.spareUnavail := rfl
@[simp] theorem setMp_eng_spareFor (s : State) (n : BitVec 2) (m : Mp) : (setMp s n m).eng.spareFor = s.eng.spareFor := rfl
@[simp] theorem setMp_eng_noSpareAt (s : State) (n : BitVec 2) (m : Mp) : (setMp s n m).eng.noSpareAt = s.eng.noSpareAt := rfl
@[simp] theorem setCl_pending (s : State) (c : Nat) (x : Cluster) : (setCl s c x).pending = s.pending := rfl
@[simp] theorem setCl_mem (s : State) (c : Nat) (x : Cluster) : (setCl s c x).mem = s.mem := rfl
@[simp] theorem setCl_reg (s : State) (c : Nat) (x : Cluster) : (setCl s c x).reg = s.reg := rfl
@[simp] theorem setCl_gal (s : State) (c : Nat) (x : Cluster) : (setCl s c x).gal = s.gal := rfl
@[simp] theorem setCl_mov (s : State) (c : Nat) (x : Cluster) : (setCl s c x).mov = s.mov := rfl
@[simp] theorem setCl_wq (s : State) (c : Nat) (x : Cluster) : (setCl s c x).wq = s.wq := rfl
@[simp] theorem setCl_lnd (s : State) (c : Nat) (x : Cluster) : (setCl s c x).lnd = s.lnd := rfl
@[simp] theorem setCl_time (s : State) (c : Nat) (x : Cluster) : (setCl s c x).time = s.time := rfl
@[simp] theorem setCl_evt (s : State) (c : Nat) (x : Cluster) : (setCl s c x).evt = s.evt := rfl
@[simp] theorem setCl_flt (s : State) (c : Nat) (x : Cluster) : (setCl s c x).flt = s.flt := rfl
@[simp] theorem setCl_sct (s : State) (c : Nat) (x : Cluster) : (setCl s c x).sct = s.sct := rfl
@[simp] theorem setCl_ring (s : State) (c : Nat) (x : Cluster) : (setCl s c x).ring = s.ring := rfl
@[simp] theorem setCl_rm (s : State) (c : Nat) (x : Cluster) : (setCl s c x).rm = s.rm := rfl
@[simp] theorem setCl_dpt (s : State) (c : Nat) (x : Cluster) : (setCl s c x).dpt = s.dpt := rfl
@[simp] theorem setCl_arb (s : State) (c : Nat) (x : Cluster) : (setCl s c x).arb = s.arb := rfl
@[simp] theorem setCl_memc (s : State) (c : Nat) (x : Cluster) : (setCl s c x).memc = s.memc := rfl
@[simp] theorem setCl_boot (s : State) (c : Nat) (x : Cluster) : (setCl s c x).boot = s.boot := rfl
@[simp] theorem setCl_stamp (s : State) (c : Nat) (x : Cluster) : (setCl s c x).stamp = s.stamp := rfl
@[simp] theorem setCl_free (s : State) (c : Nat) (x : Cluster) : (setCl s c x).free = s.free := rfl
@[simp] theorem setCl_eng_occ (s : State) (c : Nat) (x : Cluster) : (setCl s c x).eng.occ = s.eng.occ := rfl
@[simp] theorem setCl_eng_slots (s : State) (c : Nat) (x : Cluster) : (setCl s c x).eng.slots = s.eng.slots := rfl
@[simp] theorem setCl_eng_thr (s : State) (c : Nat) (x : Cluster) : (setCl s c x).eng.thr = s.eng.thr := rfl
@[simp] theorem setCl_eng_mps (s : State) (c : Nat) (x : Cluster) : (setCl s c x).eng.mps = s.eng.mps := rfl
@[simp] theorem setCl_eng_orch (s : State) (c : Nat) (x : Cluster) : (setCl s c x).eng.orch = s.eng.orch := rfl
@[simp] theorem setCl_eng_invBusy (s : State) (c : Nat) (x : Cluster) : (setCl s c x).eng.invBusy = s.eng.invBusy := rfl
@[simp] theorem setCl_eng_victims (s : State) (c : Nat) (x : Cluster) : (setCl s c x).eng.victims = s.eng.victims := rfl
@[simp] theorem setCl_eng_sparePending (s : State) (c : Nat) (x : Cluster) : (setCl s c x).eng.sparePending = s.eng.sparePending := rfl
@[simp] theorem setCl_eng_spareInUse (s : State) (c : Nat) (x : Cluster) : (setCl s c x).eng.spareInUse = s.eng.spareInUse := rfl
@[simp] theorem setCl_eng_spareUnavail (s : State) (c : Nat) (x : Cluster) : (setCl s c x).eng.spareUnavail = s.eng.spareUnavail := rfl
@[simp] theorem setCl_eng_spareFor (s : State) (c : Nat) (x : Cluster) : (setCl s c x).eng.spareFor = s.eng.spareFor := rfl
@[simp] theorem setCl_eng_noSpareAt (s : State) (c : Nat) (x : Cluster) : (setCl s c x).eng.noSpareAt = s.eng.noSpareAt := rfl
@[simp] theorem memSet_pending (s : State) (k : Nat) (b : Byte) : (memSet s k b).pending = s.pending := rfl
@[simp] theorem memSet_reg (s : State) (k : Nat) (b : Byte) : (memSet s k b).reg = s.reg := rfl
@[simp] theorem memSet_gal (s : State) (k : Nat) (b : Byte) : (memSet s k b).gal = s.gal := rfl
@[simp] theorem memSet_eng (s : State) (k : Nat) (b : Byte) : (memSet s k b).eng = s.eng := rfl
@[simp] theorem memSet_mov (s : State) (k : Nat) (b : Byte) : (memSet s k b).mov = s.mov := rfl
@[simp] theorem memSet_wq (s : State) (k : Nat) (b : Byte) : (memSet s k b).wq = s.wq := rfl
@[simp] theorem memSet_lnd (s : State) (k : Nat) (b : Byte) : (memSet s k b).lnd = s.lnd := rfl
@[simp] theorem memSet_time (s : State) (k : Nat) (b : Byte) : (memSet s k b).time = s.time := rfl
@[simp] theorem memSet_evt (s : State) (k : Nat) (b : Byte) : (memSet s k b).evt = s.evt := rfl
@[simp] theorem memSet_flt (s : State) (k : Nat) (b : Byte) : (memSet s k b).flt = s.flt := rfl
@[simp] theorem memSet_sct (s : State) (k : Nat) (b : Byte) : (memSet s k b).sct = s.sct := rfl
@[simp] theorem memSet_ring (s : State) (k : Nat) (b : Byte) : (memSet s k b).ring = s.ring := rfl
@[simp] theorem memSet_rm (s : State) (k : Nat) (b : Byte) : (memSet s k b).rm = s.rm := rfl
@[simp] theorem memSet_dpt (s : State) (k : Nat) (b : Byte) : (memSet s k b).dpt = s.dpt := rfl
@[simp] theorem memSet_arb (s : State) (k : Nat) (b : Byte) : (memSet s k b).arb = s.arb := rfl
@[simp] theorem memSet_memc (s : State) (k : Nat) (b : Byte) : (memSet s k b).memc = s.memc := rfl
@[simp] theorem memSet_boot (s : State) (k : Nat) (b : Byte) : (memSet s k b).boot = s.boot := rfl
@[simp] theorem memSet_stamp (s : State) (k : Nat) (b : Byte) : (memSet s k b).stamp = s.stamp := rfl
@[simp] theorem memSet_free (s : State) (k : Nat) (b : Byte) : (memSet s k b).free = s.free := rfl
@[simp] theorem raise_pending (s : State) (n : Nat) (i : Word) : (raise s n i).pending = s.pending := rfl
@[simp] theorem raise_mem (s : State) (n : Nat) (i : Word) : (raise s n i).mem = s.mem := rfl
@[simp] theorem raise_reg (s : State) (n : Nat) (i : Word) : (raise s n i).reg = s.reg := rfl
@[simp] theorem raise_gal (s : State) (n : Nat) (i : Word) : (raise s n i).gal = s.gal := rfl
@[simp] theorem raise_eng (s : State) (n : Nat) (i : Word) : (raise s n i).eng = s.eng := rfl
@[simp] theorem raise_mov (s : State) (n : Nat) (i : Word) : (raise s n i).mov = s.mov := rfl
@[simp] theorem raise_wq (s : State) (n : Nat) (i : Word) : (raise s n i).wq = s.wq := rfl
@[simp] theorem raise_lnd (s : State) (n : Nat) (i : Word) : (raise s n i).lnd = s.lnd := rfl
@[simp] theorem raise_time (s : State) (n : Nat) (i : Word) : (raise s n i).time = s.time := rfl
@[simp] theorem raise_evt (s : State) (n : Nat) (i : Word) : (raise s n i).evt = s.evt := rfl
@[simp] theorem raise_sct (s : State) (n : Nat) (i : Word) : (raise s n i).sct = s.sct := rfl
@[simp] theorem raise_ring (s : State) (n : Nat) (i : Word) : (raise s n i).ring = s.ring := rfl
@[simp] theorem raise_rm (s : State) (n : Nat) (i : Word) : (raise s n i).rm = s.rm := rfl
@[simp] theorem raise_dpt (s : State) (n : Nat) (i : Word) : (raise s n i).dpt = s.dpt := rfl
@[simp] theorem raise_arb (s : State) (n : Nat) (i : Word) : (raise s n i).arb = s.arb := rfl
@[simp] theorem raise_memc (s : State) (n : Nat) (i : Word) : (raise s n i).memc = s.memc := rfl
@[simp] theorem raise_boot (s : State) (n : Nat) (i : Word) : (raise s n i).boot = s.boot := rfl
@[simp] theorem raise_stamp (s : State) (n : Nat) (i : Word) : (raise s n i).stamp = s.stamp := rfl
@[simp] theorem raise_free (s : State) (n : Nat) (i : Word) : (raise s n i).free = s.free := rfl
@[simp] theorem raise_flt_sticky (s : State) (n : Nat) (i : Word) : (raise s n i).flt.sticky = s.flt.sticky := rfl
@[simp] theorem raise_flt_f4 (s : State) (n : Nat) (i : Word) : (raise s n i).flt.f4 = s.flt.f4 := rfl
@[simp] theorem raise_flt_nmtPend (s : State) (n : Nat) (i : Word) : (raise s n i).flt.nmtPend = s.flt.nmtPend := rfl
@[simp] theorem raise_flt_maxclass (s : State) (n : Nat) (i : Word) : (raise s n i).flt.maxclass = s.flt.maxclass := rfl
@[simp] theorem raise_flt_safestate (s : State) (n : Nat) (i : Word) : (raise s n i).flt.safestate = s.flt.safestate := rfl
@[simp] theorem raise_flt_lock (s : State) (n : Nat) (i : Word) : (raise s n i).flt.lock = s.flt.lock := rfl
@[simp] theorem raise_flt_lockwr (s : State) (n : Nat) (i : Word) : (raise s n i).flt.lockwr = s.flt.lockwr := rfl
@[simp] theorem raise_flt_cause (s : State) (n : Nat) (i : Word) : (raise s n i).flt.cause = s.flt.cause := rfl
@[simp] theorem raise_flt_causeSrc (s : State) (n : Nat) (i : Word) : (raise s n i).flt.causeSrc = s.flt.causeSrc := rfl
@[simp] theorem raise_flt_wd (s : State) (n : Nat) (i : Word) : (raise s n i).flt.wd = s.flt.wd := rfl
@[simp] theorem raise_flt_held (s : State) (n : Nat) (i : Word) : (raise s n i).flt.held = s.flt.held := rfl
@[simp] theorem raise_flt_rstPend (s : State) (n : Nat) (i : Word) : (raise s n i).flt.rstPend = s.flt.rstPend := rfl
@[simp] theorem setEvSrc_pending (s : State) (n : Nat) (x : EvSrc) : (setEvSrc s n x).pending = s.pending := rfl
@[simp] theorem setEvSrc_mem (s : State) (n : Nat) (x : EvSrc) : (setEvSrc s n x).mem = s.mem := rfl
@[simp] theorem setEvSrc_reg (s : State) (n : Nat) (x : EvSrc) : (setEvSrc s n x).reg = s.reg := rfl
@[simp] theorem setEvSrc_gal (s : State) (n : Nat) (x : EvSrc) : (setEvSrc s n x).gal = s.gal := rfl
@[simp] theorem setEvSrc_eng (s : State) (n : Nat) (x : EvSrc) : (setEvSrc s n x).eng = s.eng := rfl
@[simp] theorem setEvSrc_mov (s : State) (n : Nat) (x : EvSrc) : (setEvSrc s n x).mov = s.mov := rfl
@[simp] theorem setEvSrc_wq (s : State) (n : Nat) (x : EvSrc) : (setEvSrc s n x).wq = s.wq := rfl
@[simp] theorem setEvSrc_lnd (s : State) (n : Nat) (x : EvSrc) : (setEvSrc s n x).lnd = s.lnd := rfl
@[simp] theorem setEvSrc_time (s : State) (n : Nat) (x : EvSrc) : (setEvSrc s n x).time = s.time := rfl
@[simp] theorem setEvSrc_flt (s : State) (n : Nat) (x : EvSrc) : (setEvSrc s n x).flt = s.flt := rfl
@[simp] theorem setEvSrc_sct (s : State) (n : Nat) (x : EvSrc) : (setEvSrc s n x).sct = s.sct := rfl
@[simp] theorem setEvSrc_ring (s : State) (n : Nat) (x : EvSrc) : (setEvSrc s n x).ring = s.ring := rfl
@[simp] theorem setEvSrc_rm (s : State) (n : Nat) (x : EvSrc) : (setEvSrc s n x).rm = s.rm := rfl
@[simp] theorem setEvSrc_dpt (s : State) (n : Nat) (x : EvSrc) : (setEvSrc s n x).dpt = s.dpt := rfl
@[simp] theorem setEvSrc_arb (s : State) (n : Nat) (x : EvSrc) : (setEvSrc s n x).arb = s.arb := rfl
@[simp] theorem setEvSrc_memc (s : State) (n : Nat) (x : EvSrc) : (setEvSrc s n x).memc = s.memc := rfl
@[simp] theorem setEvSrc_boot (s : State) (n : Nat) (x : EvSrc) : (setEvSrc s n x).boot = s.boot := rfl
@[simp] theorem setEvSrc_stamp (s : State) (n : Nat) (x : EvSrc) : (setEvSrc s n x).stamp = s.stamp := rfl
@[simp] theorem setEvSrc_free (s : State) (n : Nat) (x : EvSrc) : (setEvSrc s n x).free = s.free := rfl
@[simp] theorem setEvSrc_evt_q (s : State) (n : Nat) (x : EvSrc) : (setEvSrc s n x).evt.q = s.evt.q := rfl
@[simp] theorem setEvSrc_evt_tgt (s : State) (n : Nat) (x : EvSrc) : (setEvSrc s n x).evt.tgt = s.evt.tgt := rfl
@[simp] theorem setEvSrc_evt_hold (s : State) (n : Nat) (x : EvSrc) : (setEvSrc s n x).evt.hold = s.evt.hold := rfl
@[simp] theorem setEvSrc_evt_holdAt (s : State) (n : Nat) (x : EvSrc) : (setEvSrc s n x).evt.holdAt = s.evt.holdAt := rfl
@[simp] theorem setEvSrc_evt_eoiBad (s : State) (n : Nat) (x : EvSrc) : (setEvSrc s n x).evt.eoiBad = s.evt.eoiBad := rfl
@[simp] theorem setEvSrc_evt_wkValid (s : State) (n : Nat) (x : EvSrc) : (setEvSrc s n x).evt.wkValid = s.evt.wkValid := rfl
@[simp] theorem setEvSrc_evt_wkSlot (s : State) (n : Nat) (x : EvSrc) : (setEvSrc s n x).evt.wkSlot = s.evt.wkSlot := rfl
@[simp] theorem setEvSrc_evt_wkArmed (s : State) (n : Nat) (x : EvSrc) : (setEvSrc s n x).evt.wkArmed = s.evt.wkArmed := rfl
@[simp] theorem setEvSrc_evt_wkRose (s : State) (n : Nat) (x : EvSrc) : (setEvSrc s n x).evt.wkRose = s.evt.wkRose := rfl
@[simp] theorem setEvSrc_evt_wkFell (s : State) (n : Nat) (x : EvSrc) : (setEvSrc s n x).evt.wkFell = s.evt.wkFell := rfl
@[simp] theorem setTgt_pending (s : State) (t : Nat) (x : EvTgt) : (setTgt s t x).pending = s.pending := rfl
@[simp] theorem setTgt_mem (s : State) (t : Nat) (x : EvTgt) : (setTgt s t x).mem = s.mem := rfl
@[simp] theorem setTgt_reg (s : State) (t : Nat) (x : EvTgt) : (setTgt s t x).reg = s.reg := rfl
@[simp] theorem setTgt_gal (s : State) (t : Nat) (x : EvTgt) : (setTgt s t x).gal = s.gal := rfl
@[simp] theorem setTgt_eng (s : State) (t : Nat) (x : EvTgt) : (setTgt s t x).eng = s.eng := rfl
@[simp] theorem setTgt_mov (s : State) (t : Nat) (x : EvTgt) : (setTgt s t x).mov = s.mov := rfl
@[simp] theorem setTgt_wq (s : State) (t : Nat) (x : EvTgt) : (setTgt s t x).wq = s.wq := rfl
@[simp] theorem setTgt_lnd (s : State) (t : Nat) (x : EvTgt) : (setTgt s t x).lnd = s.lnd := rfl
@[simp] theorem setTgt_time (s : State) (t : Nat) (x : EvTgt) : (setTgt s t x).time = s.time := rfl
@[simp] theorem setTgt_flt (s : State) (t : Nat) (x : EvTgt) : (setTgt s t x).flt = s.flt := rfl
@[simp] theorem setTgt_sct (s : State) (t : Nat) (x : EvTgt) : (setTgt s t x).sct = s.sct := rfl
@[simp] theorem setTgt_ring (s : State) (t : Nat) (x : EvTgt) : (setTgt s t x).ring = s.ring := rfl
@[simp] theorem setTgt_rm (s : State) (t : Nat) (x : EvTgt) : (setTgt s t x).rm = s.rm := rfl
@[simp] theorem setTgt_dpt (s : State) (t : Nat) (x : EvTgt) : (setTgt s t x).dpt = s.dpt := rfl
@[simp] theorem setTgt_arb (s : State) (t : Nat) (x : EvTgt) : (setTgt s t x).arb = s.arb := rfl
@[simp] theorem setTgt_memc (s : State) (t : Nat) (x : EvTgt) : (setTgt s t x).memc = s.memc := rfl
@[simp] theorem setTgt_boot (s : State) (t : Nat) (x : EvTgt) : (setTgt s t x).boot = s.boot := rfl
@[simp] theorem setTgt_stamp (s : State) (t : Nat) (x : EvTgt) : (setTgt s t x).stamp = s.stamp := rfl
@[simp] theorem setTgt_free (s : State) (t : Nat) (x : EvTgt) : (setTgt s t x).free = s.free := rfl
@[simp] theorem setTgt_evt_src (s : State) (t : Nat) (x : EvTgt) : (setTgt s t x).evt.src = s.evt.src := rfl
@[simp] theorem setTgt_evt_q (s : State) (t : Nat) (x : EvTgt) : (setTgt s t x).evt.q = s.evt.q := rfl
@[simp] theorem setTgt_evt_hold (s : State) (t : Nat) (x : EvTgt) : (setTgt s t x).evt.hold = s.evt.hold := rfl
@[simp] theorem setTgt_evt_holdAt (s : State) (t : Nat) (x : EvTgt) : (setTgt s t x).evt.holdAt = s.evt.holdAt := rfl
@[simp] theorem setTgt_evt_eoiBad (s : State) (t : Nat) (x : EvTgt) : (setTgt s t x).evt.eoiBad = s.evt.eoiBad := rfl
@[simp] theorem setTgt_evt_wkValid (s : State) (t : Nat) (x : EvTgt) : (setTgt s t x).evt.wkValid = s.evt.wkValid := rfl
@[simp] theorem setTgt_evt_wkSlot (s : State) (t : Nat) (x : EvTgt) : (setTgt s t x).evt.wkSlot = s.evt.wkSlot := rfl
@[simp] theorem setTgt_evt_wkArmed (s : State) (t : Nat) (x : EvTgt) : (setTgt s t x).evt.wkArmed = s.evt.wkArmed := rfl
@[simp] theorem setTgt_evt_wkRose (s : State) (t : Nat) (x : EvTgt) : (setTgt s t x).evt.wkRose = s.evt.wkRose := rfl
@[simp] theorem setTgt_evt_wkFell (s : State) (t : Nat) (x : EvTgt) : (setTgt s t x).evt.wkFell = s.evt.wkFell := rfl
@[simp] theorem setChan_pending (s : State) (k : Nat) (x : Xfer) : (setChan s k x).pending = s.pending := rfl
@[simp] theorem setChan_mem (s : State) (k : Nat) (x : Xfer) : (setChan s k x).mem = s.mem := rfl
@[simp] theorem setChan_reg (s : State) (k : Nat) (x : Xfer) : (setChan s k x).reg = s.reg := rfl
@[simp] theorem setChan_gal (s : State) (k : Nat) (x : Xfer) : (setChan s k x).gal = s.gal := rfl
@[simp] theorem setChan_eng (s : State) (k : Nat) (x : Xfer) : (setChan s k x).eng = s.eng := rfl
@[simp] theorem setChan_wq (s : State) (k : Nat) (x : Xfer) : (setChan s k x).wq = s.wq := rfl
@[simp] theorem setChan_lnd (s : State) (k : Nat) (x : Xfer) : (setChan s k x).lnd = s.lnd := rfl
@[simp] theorem setChan_time (s : State) (k : Nat) (x : Xfer) : (setChan s k x).time = s.time := rfl
@[simp] theorem setChan_evt (s : State) (k : Nat) (x : Xfer) : (setChan s k x).evt = s.evt := rfl
@[simp] theorem setChan_flt (s : State) (k : Nat) (x : Xfer) : (setChan s k x).flt = s.flt := rfl
@[simp] theorem setChan_sct (s : State) (k : Nat) (x : Xfer) : (setChan s k x).sct = s.sct := rfl
@[simp] theorem setChan_ring (s : State) (k : Nat) (x : Xfer) : (setChan s k x).ring = s.ring := rfl
@[simp] theorem setChan_rm (s : State) (k : Nat) (x : Xfer) : (setChan s k x).rm = s.rm := rfl
@[simp] theorem setChan_dpt (s : State) (k : Nat) (x : Xfer) : (setChan s k x).dpt = s.dpt := rfl
@[simp] theorem setChan_arb (s : State) (k : Nat) (x : Xfer) : (setChan s k x).arb = s.arb := rfl
@[simp] theorem setChan_memc (s : State) (k : Nat) (x : Xfer) : (setChan s k x).memc = s.memc := rfl
@[simp] theorem setChan_boot (s : State) (k : Nat) (x : Xfer) : (setChan s k x).boot = s.boot := rfl
@[simp] theorem setChan_stamp (s : State) (k : Nat) (x : Xfer) : (setChan s k x).stamp = s.stamp := rfl
@[simp] theorem setChan_free (s : State) (k : Nat) (x : Xfer) : (setChan s k x).free = s.free := rfl
@[simp] theorem setChan_mov_chst (s : State) (k : Nat) (x : Xfer) : (setChan s k x).mov.chst = s.mov.chst := rfl
@[simp] theorem setChan_mov_cred (s : State) (k : Nat) (x : Xfer) : (setChan s k x).mov.cred = s.mov.cred := rfl
@[simp] theorem setChan_mov_bulkPaused (s : State) (k : Nat) (x : Xfer) : (setChan s k x).mov.bulkPaused = s.mov.bulkPaused := rfl
@[simp] theorem setChan_mov_cmdCtx (s : State) (k : Nat) (x : Xfer) : (setChan s k x).mov.cmdCtx = s.mov.cmdCtx := rfl
@[simp] theorem setChan_mov_cmdBusy (s : State) (k : Nat) (x : Xfer) : (setChan s k x).mov.cmdBusy = s.mov.cmdBusy := rfl
@[simp] theorem setChan_mov_cmdRes (s : State) (k : Nat) (x : Xfer) : (setChan s k x).mov.cmdRes = s.mov.cmdRes := rfl
@[simp] theorem freeChan_pending (s : State) (k : Nat) : (freeChan s k).pending = s.pending := rfl
@[simp] theorem freeChan_mem (s : State) (k : Nat) : (freeChan s k).mem = s.mem := rfl
@[simp] theorem freeChan_reg (s : State) (k : Nat) : (freeChan s k).reg = s.reg := rfl
@[simp] theorem freeChan_gal (s : State) (k : Nat) : (freeChan s k).gal = s.gal := rfl
@[simp] theorem freeChan_eng (s : State) (k : Nat) : (freeChan s k).eng = s.eng := rfl
@[simp] theorem freeChan_wq (s : State) (k : Nat) : (freeChan s k).wq = s.wq := rfl
@[simp] theorem freeChan_lnd (s : State) (k : Nat) : (freeChan s k).lnd = s.lnd := rfl
@[simp] theorem freeChan_time (s : State) (k : Nat) : (freeChan s k).time = s.time := rfl
@[simp] theorem freeChan_evt (s : State) (k : Nat) : (freeChan s k).evt = s.evt := rfl
@[simp] theorem freeChan_flt (s : State) (k : Nat) : (freeChan s k).flt = s.flt := rfl
@[simp] theorem freeChan_sct (s : State) (k : Nat) : (freeChan s k).sct = s.sct := rfl
@[simp] theorem freeChan_ring (s : State) (k : Nat) : (freeChan s k).ring = s.ring := rfl
@[simp] theorem freeChan_rm (s : State) (k : Nat) : (freeChan s k).rm = s.rm := rfl
@[simp] theorem freeChan_dpt (s : State) (k : Nat) : (freeChan s k).dpt = s.dpt := rfl
@[simp] theorem freeChan_arb (s : State) (k : Nat) : (freeChan s k).arb = s.arb := rfl
@[simp] theorem freeChan_memc (s : State) (k : Nat) : (freeChan s k).memc = s.memc := rfl
@[simp] theorem freeChan_boot (s : State) (k : Nat) : (freeChan s k).boot = s.boot := rfl
@[simp] theorem freeChan_stamp (s : State) (k : Nat) : (freeChan s k).stamp = s.stamp := rfl
@[simp] theorem freeChan_free (s : State) (k : Nat) : (freeChan s k).free = s.free := rfl
@[simp] theorem freeChan_mov_chst (s : State) (k : Nat) : (freeChan s k).mov.chst = s.mov.chst := rfl
@[simp] theorem freeChan_mov_cred (s : State) (k : Nat) : (freeChan s k).mov.cred = s.mov.cred := rfl
@[simp] theorem freeChan_mov_bulkPaused (s : State) (k : Nat) : (freeChan s k).mov.bulkPaused = s.mov.bulkPaused := rfl
@[simp] theorem freeChan_mov_cmdCtx (s : State) (k : Nat) : (freeChan s k).mov.cmdCtx = s.mov.cmdCtx := rfl
@[simp] theorem freeChan_mov_cmdRes (s : State) (k : Nat) : (freeChan s k).mov.cmdRes = s.mov.cmdRes := rfl
@[simp] theorem setChst_pending (s : State) (c : CtxId) (x : ChSt) : (setChst s c x).pending = s.pending := rfl
@[simp] theorem setChst_mem (s : State) (c : CtxId) (x : ChSt) : (setChst s c x).mem = s.mem := rfl
@[simp] theorem setChst_reg (s : State) (c : CtxId) (x : ChSt) : (setChst s c x).reg = s.reg := rfl
@[simp] theorem setChst_gal (s : State) (c : CtxId) (x : ChSt) : (setChst s c x).gal = s.gal := rfl
@[simp] theorem setChst_eng (s : State) (c : CtxId) (x : ChSt) : (setChst s c x).eng = s.eng := rfl
@[simp] theorem setChst_wq (s : State) (c : CtxId) (x : ChSt) : (setChst s c x).wq = s.wq := rfl
@[simp] theorem setChst_lnd (s : State) (c : CtxId) (x : ChSt) : (setChst s c x).lnd = s.lnd := rfl
@[simp] theorem setChst_time (s : State) (c : CtxId) (x : ChSt) : (setChst s c x).time = s.time := rfl
@[simp] theorem setChst_evt (s : State) (c : CtxId) (x : ChSt) : (setChst s c x).evt = s.evt := rfl
@[simp] theorem setChst_flt (s : State) (c : CtxId) (x : ChSt) : (setChst s c x).flt = s.flt := rfl
@[simp] theorem setChst_sct (s : State) (c : CtxId) (x : ChSt) : (setChst s c x).sct = s.sct := rfl
@[simp] theorem setChst_ring (s : State) (c : CtxId) (x : ChSt) : (setChst s c x).ring = s.ring := rfl
@[simp] theorem setChst_rm (s : State) (c : CtxId) (x : ChSt) : (setChst s c x).rm = s.rm := rfl
@[simp] theorem setChst_dpt (s : State) (c : CtxId) (x : ChSt) : (setChst s c x).dpt = s.dpt := rfl
@[simp] theorem setChst_arb (s : State) (c : CtxId) (x : ChSt) : (setChst s c x).arb = s.arb := rfl
@[simp] theorem setChst_memc (s : State) (c : CtxId) (x : ChSt) : (setChst s c x).memc = s.memc := rfl
@[simp] theorem setChst_boot (s : State) (c : CtxId) (x : ChSt) : (setChst s c x).boot = s.boot := rfl
@[simp] theorem setChst_stamp (s : State) (c : CtxId) (x : ChSt) : (setChst s c x).stamp = s.stamp := rfl
@[simp] theorem setChst_free (s : State) (c : CtxId) (x : ChSt) : (setChst s c x).free = s.free := rfl
@[simp] theorem setChst_mov_chans (s : State) (c : CtxId) (x : ChSt) : (setChst s c x).mov.chans = s.mov.chans := rfl
@[simp] theorem setChst_mov_cred (s : State) (c : CtxId) (x : ChSt) : (setChst s c x).mov.cred = s.mov.cred := rfl
@[simp] theorem setChst_mov_bulkPaused (s : State) (c : CtxId) (x : ChSt) : (setChst s c x).mov.bulkPaused = s.mov.bulkPaused := rfl
@[simp] theorem setChst_mov_cmdCtx (s : State) (c : CtxId) (x : ChSt) : (setChst s c x).mov.cmdCtx = s.mov.cmdCtx := rfl
@[simp] theorem setChst_mov_cmdBusy (s : State) (c : CtxId) (x : ChSt) : (setChst s c x).mov.cmdBusy = s.mov.cmdBusy := rfl
@[simp] theorem setChst_mov_cmdRes (s : State) (c : CtxId) (x : ChSt) : (setChst s c x).mov.cmdRes = s.mov.cmdRes := rfl
@[simp] theorem setWq_pending (s : State) (q : QId) (x : WqLive) : (setWq s q x).pending = s.pending := rfl
@[simp] theorem setWq_mem (s : State) (q : QId) (x : WqLive) : (setWq s q x).mem = s.mem := rfl
@[simp] theorem setWq_reg (s : State) (q : QId) (x : WqLive) : (setWq s q x).reg = s.reg := rfl
@[simp] theorem setWq_gal (s : State) (q : QId) (x : WqLive) : (setWq s q x).gal = s.gal := rfl
@[simp] theorem setWq_eng (s : State) (q : QId) (x : WqLive) : (setWq s q x).eng = s.eng := rfl
@[simp] theorem setWq_mov (s : State) (q : QId) (x : WqLive) : (setWq s q x).mov = s.mov := rfl
@[simp] theorem setWq_lnd (s : State) (q : QId) (x : WqLive) : (setWq s q x).lnd = s.lnd := rfl
@[simp] theorem setWq_time (s : State) (q : QId) (x : WqLive) : (setWq s q x).time = s.time := rfl
@[simp] theorem setWq_evt (s : State) (q : QId) (x : WqLive) : (setWq s q x).evt = s.evt := rfl
@[simp] theorem setWq_flt (s : State) (q : QId) (x : WqLive) : (setWq s q x).flt = s.flt := rfl
@[simp] theorem setWq_sct (s : State) (q : QId) (x : WqLive) : (setWq s q x).sct = s.sct := rfl
@[simp] theorem setWq_ring (s : State) (q : QId) (x : WqLive) : (setWq s q x).ring = s.ring := rfl
@[simp] theorem setWq_rm (s : State) (q : QId) (x : WqLive) : (setWq s q x).rm = s.rm := rfl
@[simp] theorem setWq_dpt (s : State) (q : QId) (x : WqLive) : (setWq s q x).dpt = s.dpt := rfl
@[simp] theorem setWq_arb (s : State) (q : QId) (x : WqLive) : (setWq s q x).arb = s.arb := rfl
@[simp] theorem setWq_memc (s : State) (q : QId) (x : WqLive) : (setWq s q x).memc = s.memc := rfl
@[simp] theorem setWq_boot (s : State) (q : QId) (x : WqLive) : (setWq s q x).boot = s.boot := rfl
@[simp] theorem setWq_stamp (s : State) (q : QId) (x : WqLive) : (setWq s q x).stamp = s.stamp := rfl
@[simp] theorem setWq_free (s : State) (q : QId) (x : WqLive) : (setWq s q x).free = s.free := rfl
@[simp] theorem setWq_wq_cmdQ (s : State) (q : QId) (x : WqLive) : (setWq s q x).wq.cmdQ = s.wq.cmdQ := rfl
@[simp] theorem setWq_wq_cmdRefused (s : State) (q : QId) (x : WqLive) : (setWq s q x).wq.cmdRefused = s.wq.cmdRefused := rfl
@[simp] theorem setWq_wq_copyBusy (s : State) (q : QId) (x : WqLive) : (setWq s q x).wq.copyBusy = s.wq.copyBusy := rfl
@[simp] theorem setWq_wq_visit (s : State) (q : QId) (x : WqLive) : (setWq s q x).wq.visit = s.wq.visit := rfl
@[simp] theorem setSess_pending (s : State) (k : Nat) (x : Sess) : (setSess s k x).pending = s.pending := rfl
@[simp] theorem setSess_mem (s : State) (k : Nat) (x : Sess) : (setSess s k x).mem = s.mem := rfl
@[simp] theorem setSess_reg (s : State) (k : Nat) (x : Sess) : (setSess s k x).reg = s.reg := rfl
@[simp] theorem setSess_gal (s : State) (k : Nat) (x : Sess) : (setSess s k x).gal = s.gal := rfl
@[simp] theorem setSess_eng (s : State) (k : Nat) (x : Sess) : (setSess s k x).eng = s.eng := rfl
@[simp] theorem setSess_mov (s : State) (k : Nat) (x : Sess) : (setSess s k x).mov = s.mov := rfl
@[simp] theorem setSess_wq (s : State) (k : Nat) (x : Sess) : (setSess s k x).wq = s.wq := rfl
@[simp] theorem setSess_lnd (s : State) (k : Nat) (x : Sess) : (setSess s k x).lnd = s.lnd := rfl
@[simp] theorem setSess_time (s : State) (k : Nat) (x : Sess) : (setSess s k x).time = s.time := rfl
@[simp] theorem setSess_evt (s : State) (k : Nat) (x : Sess) : (setSess s k x).evt = s.evt := rfl
@[simp] theorem setSess_flt (s : State) (k : Nat) (x : Sess) : (setSess s k x).flt = s.flt := rfl
@[simp] theorem setSess_ring (s : State) (k : Nat) (x : Sess) : (setSess s k x).ring = s.ring := rfl
@[simp] theorem setSess_rm (s : State) (k : Nat) (x : Sess) : (setSess s k x).rm = s.rm := rfl
@[simp] theorem setSess_dpt (s : State) (k : Nat) (x : Sess) : (setSess s k x).dpt = s.dpt := rfl
@[simp] theorem setSess_arb (s : State) (k : Nat) (x : Sess) : (setSess s k x).arb = s.arb := rfl
@[simp] theorem setSess_memc (s : State) (k : Nat) (x : Sess) : (setSess s k x).memc = s.memc := rfl
@[simp] theorem setSess_boot (s : State) (k : Nat) (x : Sess) : (setSess s k x).boot = s.boot := rfl
@[simp] theorem setSess_stamp (s : State) (k : Nat) (x : Sess) : (setSess s k x).stamp = s.stamp := rfl
@[simp] theorem setSess_free (s : State) (k : Nat) (x : Sess) : (setSess s k x).free = s.free := rfl
@[simp] theorem setSess_sct_inbox (s : State) (k : Nat) (x : Sess) : (setSess s k x).sct.inbox = s.sct.inbox := rfl
@[simp] theorem setSess_sct_rtag (s : State) (k : Nat) (x : Sess) : (setSess s k x).sct.rtag = s.sct.rtag := rfl
@[simp] theorem setSess_sct_mbox (s : State) (k : Nat) (x : Sess) : (setSess s k x).sct.mbox = s.sct.mbox := rfl
@[simp] theorem setSess_sct_cmdSess (s : State) (k : Nat) (x : Sess) : (setSess s k x).sct.cmdSess = s.sct.cmdSess := rfl
@[simp] theorem setMbox_pending (s : State) (k : Nat) (x : Mbox) : (setMbox s k x).pending = s.pending := rfl
@[simp] theorem setMbox_mem (s : State) (k : Nat) (x : Mbox) : (setMbox s k x).mem = s.mem := rfl
@[simp] theorem setMbox_reg (s : State) (k : Nat) (x : Mbox) : (setMbox s k x).reg = s.reg := rfl
@[simp] theorem setMbox_gal (s : State) (k : Nat) (x : Mbox) : (setMbox s k x).gal = s.gal := rfl
@[simp] theorem setMbox_eng (s : State) (k : Nat) (x : Mbox) : (setMbox s k x).eng = s.eng := rfl
@[simp] theorem setMbox_mov (s : State) (k : Nat) (x : Mbox) : (setMbox s k x).mov = s.mov := rfl
@[simp] theorem setMbox_wq (s : State) (k : Nat) (x : Mbox) : (setMbox s k x).wq = s.wq := rfl
@[simp] theorem setMbox_lnd (s : State) (k : Nat) (x : Mbox) : (setMbox s k x).lnd = s.lnd := rfl
@[simp] theorem setMbox_time (s : State) (k : Nat) (x : Mbox) : (setMbox s k x).time = s.time := rfl
@[simp] theorem setMbox_evt (s : State) (k : Nat) (x : Mbox) : (setMbox s k x).evt = s.evt := rfl
@[simp] theorem setMbox_flt (s : State) (k : Nat) (x : Mbox) : (setMbox s k x).flt = s.flt := rfl
@[simp] theorem setMbox_ring (s : State) (k : Nat) (x : Mbox) : (setMbox s k x).ring = s.ring := rfl
@[simp] theorem setMbox_rm (s : State) (k : Nat) (x : Mbox) : (setMbox s k x).rm = s.rm := rfl
@[simp] theorem setMbox_dpt (s : State) (k : Nat) (x : Mbox) : (setMbox s k x).dpt = s.dpt := rfl
@[simp] theorem setMbox_arb (s : State) (k : Nat) (x : Mbox) : (setMbox s k x).arb = s.arb := rfl
@[simp] theorem setMbox_memc (s : State) (k : Nat) (x : Mbox) : (setMbox s k x).memc = s.memc := rfl
@[simp] theorem setMbox_boot (s : State) (k : Nat) (x : Mbox) : (setMbox s k x).boot = s.boot := rfl
@[simp] theorem setMbox_stamp (s : State) (k : Nat) (x : Mbox) : (setMbox s k x).stamp = s.stamp := rfl
@[simp] theorem setMbox_free (s : State) (k : Nat) (x : Mbox) : (setMbox s k x).free = s.free := rfl
@[simp] theorem setMbox_sct_sess (s : State) (k : Nat) (x : Mbox) : (setMbox s k x).sct.sess = s.sct.sess := rfl
@[simp] theorem setMbox_sct_inbox (s : State) (k : Nat) (x : Mbox) : (setMbox s k x).sct.inbox = s.sct.inbox := rfl
@[simp] theorem setMbox_sct_rtag (s : State) (k : Nat) (x : Mbox) : (setMbox s k x).sct.rtag = s.sct.rtag := rfl
@[simp] theorem setMbox_sct_cmdSess (s : State) (k : Nat) (x : Mbox) : (setMbox s k x).sct.cmdSess = s.sct.cmdSess := rfl
@[simp] theorem setUnit_pending (s : State) (u : Nat) (x : DUnit) : (setUnit s u x).pending = s.pending := rfl
@[simp] theorem setUnit_mem (s : State) (u : Nat) (x : DUnit) : (setUnit s u x).mem = s.mem := rfl
@[simp] theorem setUnit_reg (s : State) (u : Nat) (x : DUnit) : (setUnit s u x).reg = s.reg := rfl
@[simp] theorem setUnit_gal (s : State) (u : Nat) (x : DUnit) : (setUnit s u x).gal = s.gal := rfl
@[simp] theorem setUnit_eng (s : State) (u : Nat) (x : DUnit) : (setUnit s u x).eng = s.eng := rfl
@[simp] theorem setUnit_mov (s : State) (u : Nat) (x : DUnit) : (setUnit s u x).mov = s.mov := rfl
@[simp] theorem setUnit_wq (s : State) (u : Nat) (x : DUnit) : (setUnit s u x).wq = s.wq := rfl
@[simp] theorem setUnit_lnd (s : State) (u : Nat) (x : DUnit) : (setUnit s u x).lnd = s.lnd := rfl
@[simp] theorem setUnit_time (s : State) (u : Nat) (x : DUnit) : (setUnit s u x).time = s.time := rfl
@[simp] theorem setUnit_evt (s : State) (u : Nat) (x : DUnit) : (setUnit s u x).evt = s.evt := rfl
@[simp] theorem setUnit_flt (s : State) (u : Nat) (x : DUnit) : (setUnit s u x).flt = s.flt := rfl
@[simp] theorem setUnit_sct (s : State) (u : Nat) (x : DUnit) : (setUnit s u x).sct = s.sct := rfl
@[simp] theorem setUnit_ring (s : State) (u : Nat) (x : DUnit) : (setUnit s u x).ring = s.ring := rfl
@[simp] theorem setUnit_rm (s : State) (u : Nat) (x : DUnit) : (setUnit s u x).rm = s.rm := rfl
@[simp] theorem setUnit_arb (s : State) (u : Nat) (x : DUnit) : (setUnit s u x).arb = s.arb := rfl
@[simp] theorem setUnit_memc (s : State) (u : Nat) (x : DUnit) : (setUnit s u x).memc = s.memc := rfl
@[simp] theorem setUnit_boot (s : State) (u : Nat) (x : DUnit) : (setUnit s u x).boot = s.boot := rfl
@[simp] theorem setUnit_stamp (s : State) (u : Nat) (x : DUnit) : (setUnit s u x).stamp = s.stamp := rfl
@[simp] theorem setUnit_free (s : State) (u : Nat) (x : DUnit) : (setUnit s u x).free = s.free := rfl
@[simp] theorem setPair_pending (s : State) (e : Nat) (x : PairL) : (setPair s e x).pending = s.pending := rfl
@[simp] theorem setPair_mem (s : State) (e : Nat) (x : PairL) : (setPair s e x).mem = s.mem := rfl
@[simp] theorem setPair_reg (s : State) (e : Nat) (x : PairL) : (setPair s e x).reg = s.reg := rfl
@[simp] theorem setPair_gal (s : State) (e : Nat) (x : PairL) : (setPair s e x).gal = s.gal := rfl
@[simp] theorem setPair_eng (s : State) (e : Nat) (x : PairL) : (setPair s e x).eng = s.eng := rfl
@[simp] theorem setPair_mov (s : State) (e : Nat) (x : PairL) : (setPair s e x).mov = s.mov := rfl
@[simp] theorem setPair_wq (s : State) (e : Nat) (x : PairL) : (setPair s e x).wq = s.wq := rfl
@[simp] theorem setPair_lnd (s : State) (e : Nat) (x : PairL) : (setPair s e x).lnd = s.lnd := rfl
@[simp] theorem setPair_time (s : State) (e : Nat) (x : PairL) : (setPair s e x).time = s.time := rfl
@[simp] theorem setPair_evt (s : State) (e : Nat) (x : PairL) : (setPair s e x).evt = s.evt := rfl
@[simp] theorem setPair_flt (s : State) (e : Nat) (x : PairL) : (setPair s e x).flt = s.flt := rfl
@[simp] theorem setPair_sct (s : State) (e : Nat) (x : PairL) : (setPair s e x).sct = s.sct := rfl
@[simp] theorem setPair_ring (s : State) (e : Nat) (x : PairL) : (setPair s e x).ring = s.ring := rfl
@[simp] theorem setPair_dpt (s : State) (e : Nat) (x : PairL) : (setPair s e x).dpt = s.dpt := rfl
@[simp] theorem setPair_arb (s : State) (e : Nat) (x : PairL) : (setPair s e x).arb = s.arb := rfl
@[simp] theorem setPair_memc (s : State) (e : Nat) (x : PairL) : (setPair s e x).memc = s.memc := rfl
@[simp] theorem setPair_boot (s : State) (e : Nat) (x : PairL) : (setPair s e x).boot = s.boot := rfl
@[simp] theorem setPair_stamp (s : State) (e : Nat) (x : PairL) : (setPair s e x).stamp = s.stamp := rfl
@[simp] theorem setPair_free (s : State) (e : Nat) (x : PairL) : (setPair s e x).free = s.free := rfl
@[simp] theorem setPair_rm_addr (s : State) (e : Nat) (x : PairL) : (setPair s e x).rm.addr = s.rm.addr := rfl
@[simp] theorem setPair_rm_role (s : State) (e : Nat) (x : PairL) : (setPair s e x).rm.role = s.rm.role := rfl
@[simp] theorem setPair_rm_auth (s : State) (e : Nat) (x : PairL) : (setPair s e x).rm.auth = s.rm.auth := rfl
@[simp] theorem setPair_rm_straps (s : State) (e : Nat) (x : PairL) : (setPair s e x).rm.straps = s.rm.straps := rfl
@[simp] theorem setPair_rm_term (s : State) (e : Nat) (x : PairL) : (setPair s e x).rm.term = s.rm.term := rfl
@[simp] theorem setPair_rm_termSeen (s : State) (e : Nat) (x : PairL) : (setPair s e x).rm.termSeen = s.rm.termSeen := rfl
@[simp] theorem setPair_rm_mseq (s : State) (e : Nat) (x : PairL) : (setPair s e x).rm.mseq = s.rm.mseq := rfl
@[simp] theorem setPair_rm_mgr (s : State) (e : Nat) (x : PairL) : (setPair s e x).rm.mgr = s.rm.mgr := rfl
@[simp] theorem setPair_rm_table (s : State) (e : Nat) (x : PairL) : (setPair s e x).rm.table = s.rm.table := rfl
@[simp] theorem setPair_rm_enumOn (s : State) (e : Nat) (x : PairL) : (setPair s e x).rm.enumOn = s.rm.enumOn := rfl
@[simp] theorem setPair_rm_enumPhase (s : State) (e : Nat) (x : PairL) : (setPair s e x).rm.enumPhase = s.rm.enumPhase := rfl
@[simp] theorem setPair_rm_enumAddr (s : State) (e : Nat) (x : PairL) : (setPair s e x).rm.enumAddr = s.rm.enumAddr := rfl
@[simp] theorem setPair_rm_directed (s : State) (e : Nat) (x : PairL) : (setPair s e x).rm.directed = s.rm.directed := rfl
@[simp] theorem setPair_rm_annq (s : State) (e : Nat) (x : PairL) : (setPair s e x).rm.annq = s.rm.annq := rfl
@[simp] theorem setPair_rm_ofsErr (s : State) (e : Nat) (x : PairL) : (setPair s e x).rm.ofsErr = s.rm.ofsErr := rfl
@[simp] theorem setPair_rm_tagref (s : State) (e : Nat) (x : PairL) : (setPair s e x).rm.tagref = s.rm.tagref := rfl
@[simp] theorem setPair_rm_ptDup (s : State) (e : Nat) (x : PairL) : (setPair s e x).rm.ptDup = s.rm.ptDup := rfl
@[simp] theorem setPair_rm_ptVer (s : State) (e : Nat) (x : PairL) : (setPair s e x).rm.ptVer = s.rm.ptVer := rfl
@[simp] theorem setPair_rm_noMgr (s : State) (e : Nat) (x : PairL) : (setPair s e x).rm.noMgr = s.rm.noMgr := rfl
@[simp] theorem setPair_rm_noWorker (s : State) (e : Nat) (x : PairL) : (setPair s e x).rm.noWorker = s.rm.noWorker := rfl
@[simp] theorem setPair_rm_authKa (s : State) (e : Nat) (x : PairL) : (setPair s e x).rm.authKa = s.rm.authKa := rfl
@[simp] theorem setPair_rm_links (s : State) (e : Nat) (x : PairL) : (setPair s e x).rm.links = s.rm.links := rfl
@[simp] theorem setPair_rm_heardMgr (s : State) (e : Nat) (x : PairL) : (setPair s e x).rm.heardMgr = s.rm.heardMgr := rfl
@[simp] theorem setPair_rm_restore (s : State) (e : Nat) (x : PairL) : (setPair s e x).rm.restore = s.rm.restore := rfl
@[simp] theorem setArb_pending (s : State) (k b : Nat) (x : Arb) : (setArb s k b x).pending = s.pending := rfl
@[simp] theorem setArb_mem (s : State) (k b : Nat) (x : Arb) : (setArb s k b x).mem = s.mem := rfl
@[simp] theorem setArb_reg (s : State) (k b : Nat) (x : Arb) : (setArb s k b x).reg = s.reg := rfl
@[simp] theorem setArb_gal (s : State) (k b : Nat) (x : Arb) : (setArb s k b x).gal = s.gal := rfl
@[simp] theorem setArb_eng (s : State) (k b : Nat) (x : Arb) : (setArb s k b x).eng = s.eng := rfl
@[simp] theorem setArb_mov (s : State) (k b : Nat) (x : Arb) : (setArb s k b x).mov = s.mov := rfl
@[simp] theorem setArb_wq (s : State) (k b : Nat) (x : Arb) : (setArb s k b x).wq = s.wq := rfl
@[simp] theorem setArb_lnd (s : State) (k b : Nat) (x : Arb) : (setArb s k b x).lnd = s.lnd := rfl
@[simp] theorem setArb_time (s : State) (k b : Nat) (x : Arb) : (setArb s k b x).time = s.time := rfl
@[simp] theorem setArb_evt (s : State) (k b : Nat) (x : Arb) : (setArb s k b x).evt = s.evt := rfl
@[simp] theorem setArb_flt (s : State) (k b : Nat) (x : Arb) : (setArb s k b x).flt = s.flt := rfl
@[simp] theorem setArb_sct (s : State) (k b : Nat) (x : Arb) : (setArb s k b x).sct = s.sct := rfl
@[simp] theorem setArb_ring (s : State) (k b : Nat) (x : Arb) : (setArb s k b x).ring = s.ring := rfl
@[simp] theorem setArb_rm (s : State) (k b : Nat) (x : Arb) : (setArb s k b x).rm = s.rm := rfl
@[simp] theorem setArb_dpt (s : State) (k b : Nat) (x : Arb) : (setArb s k b x).dpt = s.dpt := rfl
@[simp] theorem setArb_memc (s : State) (k b : Nat) (x : Arb) : (setArb s k b x).memc = s.memc := rfl
@[simp] theorem setArb_boot (s : State) (k b : Nat) (x : Arb) : (setArb s k b x).boot = s.boot := rfl
@[simp] theorem setArb_stamp (s : State) (k b : Nat) (x : Arb) : (setArb s k b x).stamp = s.stamp := rfl
@[simp] theorem setArb_free (s : State) (k b : Nat) (x : Arb) : (setArb s k b x).free = s.free := rfl
@[simp] theorem setArb_arb_dup (s : State) (k b : Nat) (x : Arb) : (setArb s k b x).arb.dup = s.arb.dup := rfl
@[simp] theorem setArb_arb_sts (s : State) (k b : Nat) (x : Arb) : (setArb s k b x).arb.sts = s.arb.sts := rfl
@[simp] theorem freeChan_mov_cmdBusy (s : State) (k : Nat) : (freeChan s k).mov.cmdBusy = (s.mov.cmdBusy && decide (s.mov.cmdCtx.toNat ≠ k)) := rfl

@[simp] theorem stg_setStg_same (s : State) (a : Nat) (v : Word) : stg (setStg s a v) a = v := by simp [stg, setStg]
theorem stg_setStg_other (s : State) (a : Nat) (v : Word) (b : Nat) (h : b ≠ a) : stg (setStg s a v) b = stg s b := by simp [stg, setStg, sget_sset_other, h]
@[simp] theorem act_setAct_same (s : State) (a : Nat) (v : Word) : act (setAct s a v) a = v := by simp [act, setAct]
theorem act_setAct_other (s : State) (a : Nat) (v : Word) (b : Nat) (h : b ≠ a) : act (setAct s a v) b = act s b := by simp [act, setAct, sget_sset_other, h]
@[simp] theorem imr_setIm_same (s : State) (a : Nat) (v : Word) : imr (setIm s a v) a = v := by simp [imr, setIm]
theorem imr_setIm_other (s : State) (a : Nat) (v : Word) (b : Nat) (h : b ≠ a) : imr (setIm s a v) b = imr s b := by simp [imr, setIm, sget_sset_other, h]
@[simp] theorem liveOf_setLive_same (s : State) (c : CtxId) (v : Live) : liveOf (setLive s c v) c = v := by simp [liveOf, setLive]
theorem liveOf_setLive_other (s : State) (c : CtxId) (v : Live) (b : CtxId) (h : b ≠ c) : liveOf (setLive s c v) b = liveOf s b := by
  have h1 : b.toNat ≠ c.toNat := fun e => h (BitVec.eq_of_toNat_eq e)
  simp [liveOf, setLive, sget_sset_other, h1]
@[simp] theorem recOf_setRec_same (s : State) (c : CtxId) (v : Regs) : recOf (setRec s c v) c = v := by simp [recOf, setRec]
theorem recOf_setRec_other (s : State) (c : CtxId) (v : Regs) (b : CtxId) (h : b ≠ c) : recOf (setRec s c v) b = recOf s b := by
  have h1 : b.toNat ≠ c.toNat := fun e => h (BitVec.eq_of_toNat_eq e)
  simp [recOf, setRec, sget_sset_other, h1]
@[simp] theorem slotRegs_setSlotRegs_same (s : State) (k : Nat) (v : Option Regs) : slotRegs (setSlotRegs s k v) k = v := by simp [slotRegs, setSlotRegs]
theorem slotRegs_setSlotRegs_other (s : State) (k : Nat) (v : Option Regs) (b : Nat) (h : b ≠ k) : slotRegs (setSlotRegs s k v) b = slotRegs s b := by simp [slotRegs, setSlotRegs, sget_sset_other, h]
@[simp] theorem clOf_setCl_same (s : State) (c : Nat) (v : Cluster) : clOf (setCl s c v) c = v := by simp [clOf, setCl]
theorem clOf_setCl_other (s : State) (c : Nat) (v : Cluster) (b : Nat) (h : b ≠ c) : clOf (setCl s c v) b = clOf s b := by simp [clOf, setCl, sget_sset_other, h]
@[simp] theorem mpOf_setMp_same (s : State) (n : BitVec 2) (v : Mp) : mpOf (setMp s n v) n = v := by simp [mpOf, setMp]
theorem mpOf_setMp_other (s : State) (n : BitVec 2) (v : Mp) (b : BitVec 2) (h : b ≠ n) : mpOf (setMp s n v) b = mpOf s b := by
  have h1 : b.toNat ≠ n.toNat := fun e => h (BitVec.eq_of_toNat_eq e)
  simp [mpOf, setMp, sget_sset_other, h1]
@[simp] theorem evSrc_setEvSrc_same (s : State) (n : Nat) (v : EvSrc) : evSrc (setEvSrc s n v) n = v := by simp [evSrc, setEvSrc]
theorem evSrc_setEvSrc_other (s : State) (n : Nat) (v : EvSrc) (b : Nat) (h : b ≠ n) : evSrc (setEvSrc s n v) b = evSrc s b := by simp [evSrc, setEvSrc, sget_sset_other, h]
@[simp] theorem tgtOf_setTgt_same (s : State) (n : Nat) (v : EvTgt) : tgtOf (setTgt s n v) n = v := by simp [tgtOf, setTgt]
theorem tgtOf_setTgt_other (s : State) (n : Nat) (v : EvTgt) (b : Nat) (h : b ≠ n) : tgtOf (setTgt s n v) b = tgtOf s b := by simp [tgtOf, setTgt, sget_sset_other, h]
@[simp] theorem chstOf_setChst_same (s : State) (c : CtxId) (v : ChSt) : chstOf (setChst s c v) c = v := by simp [chstOf, setChst]
theorem chstOf_setChst_other (s : State) (c : CtxId) (v : ChSt) (b : CtxId) (h : b ≠ c) : chstOf (setChst s c v) b = chstOf s b := by
  have h1 : b.toNat ≠ c.toNat := fun e => h (BitVec.eq_of_toNat_eq e)
  simp [chstOf, setChst, sget_sset_other, h1]
@[simp] theorem wqOf_setWq_same (s : State) (q : QId) (v : WqLive) : wqOf (setWq s q v) q = v := by simp [wqOf, setWq]
theorem wqOf_setWq_other (s : State) (q : QId) (v : WqLive) (b : QId) (h : b ≠ q) : wqOf (setWq s q v) b = wqOf s b := by
  have h1 : b.toNat ≠ q.toNat := fun e => h (BitVec.eq_of_toNat_eq e)
  simp [wqOf, setWq, sget_sset_other, h1]
@[simp] theorem sessOf_setSess_same (s : State) (k : Nat) (v : Sess) : sessOf (setSess s k v) k = v := by simp [sessOf, setSess]
theorem sessOf_setSess_other (s : State) (k : Nat) (v : Sess) (b : Nat) (h : b ≠ k) : sessOf (setSess s k v) b = sessOf s b := by simp [sessOf, setSess, sget_sset_other, h]
@[simp] theorem mboxOf_setMbox_same (s : State) (k : Nat) (v : Mbox) : mboxOf (setMbox s k v) k = v := by simp [mboxOf, setMbox]
theorem mboxOf_setMbox_other (s : State) (k : Nat) (v : Mbox) (b : Nat) (h : b ≠ k) : mboxOf (setMbox s k v) b = mboxOf s b := by simp [mboxOf, setMbox, sget_sset_other, h]
@[simp] theorem unitOf_setUnit_same (s : State) (u : Nat) (v : DUnit) : unitOf (setUnit s u v) u = v := by simp [unitOf, setUnit]
theorem unitOf_setUnit_other (s : State) (u : Nat) (v : DUnit) (b : Nat) (h : b ≠ u) : unitOf (setUnit s u v) b = unitOf s b := by simp [unitOf, setUnit, sget_sset_other, h]
@[simp] theorem lockOf_setLock_same (s : State) (n : Nat) (v : Word) : lockOf (setLock s n v) n = v := by simp [lockOf, setLock]
theorem lockOf_setLock_other (s : State) (n : Nat) (v : Word) (b : Nat) (h : b ≠ n) : lockOf (setLock s n v) b = lockOf s b := by simp [lockOf, setLock, sget_sset_other, h]
@[simp] theorem pairL_setPair_same (s : State) (e : Nat) (v : PairL) : pairL (setPair s e v) e = v := by simp [pairL, setPair]
theorem pairL_setPair_other (s : State) (e : Nat) (v : PairL) (b : Nat) (h : b ≠ e) : pairL (setPair s e v) b = pairL s b := by simp [pairL, setPair, sget_sset_other, h]
@[simp] theorem memGet_memSet_same (s : State) (k : Nat) (v : Byte) : memGet (memSet s k v) k = v := by simp [memGet, memSet, memDef]
theorem memGet_memSet_other (s : State) (k : Nat) (v : Byte) (b : Nat) (h : b ≠ k) : memGet (memSet s k v) b = memGet s b := by simp [memGet, memSet, sget_sset_other, memDef, h]

@[simp] theorem thrOf_setThr_same (s : State) (t : Thread) (x : Thr) : thrOf (setThr s t x) t = x := by simp [thrOf, setThr]
/-- Threads have keys of their own. -/
theorem tkey_inj (t u : Thread) (h : tkey t = tkey u) : t = u := by
  cases t with
  | ctx c =>
    cases u with
    | ctx d => exact congrArg _ (BitVec.eq_of_toNat_eq h)
    | mp n => simp only [tkey] at h; omega
  | mp n =>
    cases u with
    | ctx d => simp only [tkey] at h; omega
    | mp m => simp only [tkey] at h; exact congrArg _ (BitVec.eq_of_toNat_eq (by omega))
theorem thrOf_setThr_other (s : State) (t u : Thread) (x : Thr) (h : u ≠ t) : thrOf (setThr s t x) u = thrOf s u := by
  have h1 : tkey u ≠ tkey t := fun e => h (tkey_inj u t e)
  simp [thrOf, setThr, sget_sset_other, h1]
@[simp] theorem gr_setG_same (r : Regs) (i : Reg) (v : DWord) : (r.setG i v).gr i = v := by simp [Regs.gr, Regs.setG]
theorem gr_setG_other (r : Regs) (i j : Reg) (v : DWord) (h : j ≠ i) : (r.setG i v).gr j = r.gr j := by
  have h1 : j.toNat ≠ i.toNat := fun e => h (BitVec.eq_of_toNat_eq e)
  simp [Regs.gr, Regs.setG, sget_sset_other, h1]
/-- A write of memory keeps the canonical form. -/
theorem memWf_memSet (s : State) (k : Nat) (b : Byte) (h : memWf s = true) : memWf (memSet s k b) = true :=
  swf_sset (memDef s) s.mem k b h

end Sys2Proof.Machine
end

