-- ==== Sys2Proof/Laws/Clana.lean ====
section
/-! SUPPORT. What issuing one Clana instruction does, once for every instruction. -/
namespace Sys2Proof.Machine

/-! Register sets and what the device keeps for a thread. -/
@[simp] theorem regsOf_setThr (s : State) (t v : Thread) (x : Thr) : regsOf (setThr s t x) v = regsOf s v := by
  cases v <;> rfl
theorem slotRegs_setSlotRegs_ne (s : State) (k i : Nat) (r : Option Regs) (h : i ≠ k) : slotRegs (setSlotRegs s k r) i = slotRegs s i :=
  sget_sset_other _ _ _ _ _ _ h
@[simp] theorem regsOf_putRegs_same (s : State) (t : Thread) (r : Regs) : regsOf (putRegs s t r) t = r := by
  cases t with
  | mp n => simp [putRegs, regsOf, slotRegs, setSlotRegs]
  | ctx c => simp only [putRegs]; split <;> simp [regsOf, slotRegs, setSlotRegs, setRec, recOf]
theorem regsOf_putRegs_other (s : State) (t v : Thread) (r : Regs) (h : v ≠ t) : regsOf (putRegs s t r) v = regsOf s v := by
  have hk : tkey v ≠ tkey t := fun e => h (tkey_inj _ _ e)
  have hs : ∀ x, slotRegs (setSlotRegs s (tkey t) x) (tkey v) = slotRegs s (tkey v) := fun x => slotRegs_setSlotRegs_ne _ _ _ _ hk
  cases t with
  | mp n => cases v <;> simp only [putRegs, regsOf] <;> erw [hs] <;> try rfl
  | ctx c =>
    cases v with
    | mp m => simp only [putRegs, regsOf]; split <;> erw [hs]
    | ctx d =>
      simp only [putRegs, regsOf]
      split
      · erw [hs]; rfl
      · have h1 : recOf (setRec (setSlotRegs s c.toNat none) c r) d = recOf s d := sget_sset_other _ _ _ _ _ _ hk
        have h2 : slotRegs (setRec (setSlotRegs s c.toNat none) c r) d.toNat = slotRegs s d.toNat := slotRegs_setSlotRegs_ne _ _ _ _ hk
        rw [h1, h2]
@[simp] theorem thrOf_putRegs (s : State) (t v : Thread) (r : Regs) : thrOf (putRegs s t r) v = thrOf s v := by
  cases t with
  | mp n => rfl
  | ctx c => simp only [putRegs]; split <;> rfl
@[simp] theorem stOf_putRegs (s : State) (t : Thread) (r : Regs) (c : CtxId) : stOf (putRegs s t r) c = stOf s c := by
  cases t with
  | mp n => rfl
  | ctx d => simp only [putRegs]; split <;> rfl
@[simp] theorem threadsBack_putRegs (s u : State) (t : Thread) (r : Regs) : threadsBack s (putRegs u t r) = threadsBack s u := by
  cases t with
  | mp n => rfl
  | ctx c => simp only [putRegs]; split <;> rfl
/-- Keeping what the last save left writes at most what the device keeps for that context. -/
theorem keepSaved_cases (s : State) (c : CtxId) : keepSaved s c = s ∨ ∃ x, keepSaved s c = setThr s (.ctx c) x := by
  unfold keepSaved
  split
  all_goals first | exact .inl rfl | (dsimp only; split; exact .inr ⟨_, rfl⟩; exact .inl rfl)
/-- Writing the register set of a thread writes it in place, after what the last save left may have been kept. -/
theorem setRegs_cases (s : State) (t : Thread) (r : Regs) : setRegs s t r = putRegs s t r ∨ ∃ x, setRegs s t r = putRegs (setThr s t x) t r := by
  cases t with
  | mp n => exact .inl rfl
  | ctx c =>
    simp only [setRegs]
    split
    · exact .inl rfl
    · obtain h | ⟨x, h⟩ := keepSaved_cases s c
      · exact .inl (by rw [h])
      · exact .inr ⟨x, by rw [h]⟩
@[simp] theorem regsOf_setRegs_same (s : State) (t : Thread) (r : Regs) : regsOf (setRegs s t r) t = r := by
  obtain h | ⟨x, h⟩ := setRegs_cases s t r <;> simp [h]
theorem regsOf_setRegs_other (s : State) (t v : Thread) (r : Regs) (h : v ≠ t) : regsOf (setRegs s t r) v = regsOf s v := by
  obtain e | ⟨x, e⟩ := setRegs_cases s t r <;> simp [e, regsOf_putRegs_other _ _ _ _ h]
/-- A thread with something to save no more than once: a processor, or a context that is neither READY nor WAITING. -/
def NoSaved (s : State) (t : Thread) : Prop := ∀ c, t = .ctx c → stOf s c ≠ .ready ∧ stOf s c ≠ .waiting
theorem keepSaved_same {s : State} {c : CtxId} (h : NoSaved s (.ctx c)) : keepSaved s c = s := by
  have h := h c rfl
  unfold keepSaved
  split
  · exact absurd ‹_› h.1
  · exact absurd ‹_› h.2
  · rfl
theorem setRegs_eq {s : State} {t : Thread} (h : NoSaved s t) (r : Regs) : setRegs s t r = putRegs s t r := by
  cases t with
  | mp n => rfl
  | ctx c => simp [setRegs, keepSaved_same h]
theorem stOf_setRegs (s : State) (t : Thread) (r : Regs) (c : CtxId) : stOf (setRegs s t r) c = stOf s c := by
  obtain h | ⟨x, h⟩ := setRegs_cases s t r <;> rw [h, stOf_putRegs]; rfl
theorem noSaved_setRegs {s : State} {t v : Thread} {r : Regs} (h : NoSaved s t) : NoSaved (setRegs s v r) t := fun c hc => by
  rw [stOf_setRegs]; exact h c hc
theorem noSaved_setThr {s : State} {t v : Thread} {x : Thr} (h : NoSaved s t) : NoSaved (setThr s v x) t := h
/-- What the device keeps for a thread whose registers are written: the same, unless a wake moves on the record of a context. -/
theorem thrOf_setRegs {s : State} {t : Thread} (h : NoSaved s t) (v : Thread) (r : Regs) : thrOf (setRegs s t r) v = thrOf s v := by
  rw [setRegs_eq h, thrOf_putRegs]
theorem thrOf_setRegs_other (s : State) (t v : Thread) (r : Regs) (h : v ≠ t) : thrOf (setRegs s t r) v = thrOf s v := by
  obtain e | ⟨x, e⟩ := setRegs_cases s t r <;> rw [e, thrOf_putRegs]
  exact thrOf_setThr_other _ _ _ _ h
/-- Writing a register set changes register sets, records and what is kept of a save, nothing else. -/
@[simp] theorem threadsBack_setRegs (s u : State) (t : Thread) (r : Regs) : threadsBack s (setRegs u t r) = threadsBack s u := by
  obtain h | ⟨x, h⟩ := setRegs_cases u t r <;> rw [h, threadsBack_putRegs]; rfl
@[simp] theorem threadsBack_setThr (s u : State) (t : Thread) (x : Thr) : threadsBack s (setThr u t x) = threadsBack s u := rfl
theorem otherThreads_setRegs (s u : State) (t : Thread) (r : Regs) (h : OtherThreads s u t) : OtherThreads s (setRegs u t r) t :=
  fun v hv => ⟨(regsOf_setRegs_other _ _ _ _ hv).trans (h v hv).1, (thrOf_setRegs_other _ _ _ _ hv).trans (h v hv).2⟩
theorem otherThreads_setThr (s u : State) (t : Thread) (x : Thr) (h : OtherThreads s u t) : OtherThreads s (setThr u t x) t :=
  fun v hv => ⟨(regsOf_setThr _ _ _ _).trans (h v hv).1, (thrOf_setThr_other _ _ _ _ hv).trans (h v hv).2⟩
theorem onlyThread_refl (s : State) (t : Thread) : OnlyThread s s t := ⟨fun _ _ => ⟨rfl, rfl⟩, rfl⟩
theorem onlyThread_setRegs (s u : State) (t : Thread) (r : Regs) (h : OnlyThread s u t) : OnlyThread s (setRegs u t r) t :=
  ⟨otherThreads_setRegs _ _ _ _ h.1, (threadsBack_setRegs _ _ _ _).trans h.2⟩
theorem onlyThread_setThr (s u : State) (t : Thread) (x : Thr) (h : OnlyThread s u t) : OnlyThread s (setThr u t x) t :=
  ⟨otherThreads_setThr _ _ _ _ h.1, (threadsBack_setThr _ _ _ _).trans h.2⟩
theorem noSaved_of_only {s u : State} {t : Thread} (h : NoSaved s t) (o : OnlyThread s u t) : NoSaved u t := fun c hc => by
  have e : stOf u c = stOf s c := by
    have e : stOf (threadsBack s u) c = stOf s c := by rw [o.2]
    exact e
  rw [e]; exact h c hc

/-! One instruction. -/
theorem canIssue_clocks {s : State} {t : Thread} (h : canIssue s t = true) : clocksOn s = true := by
  simp [canIssue, inRun] at h; exact h.1.1.1.1.1.1
theorem canIssue_noSaved {s : State} {t : Thread} (h : canIssue s t = true) : NoSaved s t := by
  rintro c rfl
  simp [canIssue] at h; simp [h]
theorem canIssue_awake {s : State} {t : Thread} (h : canIssue s t = true) : thrWake s t = s := by
  cases t with
  | ctx c => rfl
  | mp n => simp [canIssue] at h; simp [thrWake, mpWake, h.2]
theorem canIssue_calm {s : State} {t : Thread} (h : canIssue s t = true) : asyncNow s t = false := by
  cases t with
  | ctx c => simp [canIssue] at h; simp [asyncNow, h.2]
  | mp n => rfl
/-- A ready thread issues: the instruction executes. -/
theorem issue_ready {s : State} {t : Thread} {p : Pfx} {regs : List Reg} (h : Ready s t p regs) (d : Dec) (body : State → Eff) :
    onCore (issue t p d body) s = .next (executeIns t p d body s) := by
  obtain ⟨hi, hf, hw, -, -⟩ := h
  simp [onCore, canIssue_clocks hi, issue, canIssue_awake hi, hi, hf, hw, canIssue_calm hi]
/-- A legal instruction of a ready thread does what its body says. -/
theorem executeIns_ready {s : State} {t : Thread} {p : Pfx} (d : Dec) (h : Ready s t p d.regs) (hl : illegal p d = false) (body : State → Eff) :
    executeIns t p d body s = match body s with
      | .done s1 => unitDone s1 t p
      | .jump s1 pc => setRegs s1 t { regsOf s1 t with pc := pc }
      | .stay s1 => s1
      | .exc s1 cause v => raiseExc s1 t cause v (p.rep || p.ext.isSome) := by
  obtain ⟨-, -, -, hs, hc⟩ := h
  have h1 : ¬(p.rep = true ∧ (regsOf s t).rc = 0) := fun e => hc e.1 e.2
  have h2 : (d.regs.any fun g => (thrOf s t).loads.any fun l => decide (l.1 = g)) = false := by
    rw [List.any_eq_false]; intro g hg
    simp only [List.any_eq_true, not_exists, not_and, decide_eq_true_eq]
    intro l hl' e; exact hs l hl' (e ▸ hg)
  rw [executeIns]
  simp only [hl, Bool.false_eq_true, if_false, h1, h2]
  try rfl
theorem unitBytes_eq (p : Pfx) : BitVec.ofNat 64 (pfxSize p) = unitBytes p := by
  obtain ⟨r, e⟩ := p
  cases r <;> cases e <;> rfl
/-- The end of a unit writes the registers past it and counts an iteration of REP. -/
theorem unitDone_eq {s : State} {t : Thread} (hn : NoSaved s t) (p : Pfx) :
    regsOf (unitDone s t p) t = pastUnit p (regsOf s t) ∧ thrOf (unitDone s t p) t = afterUnit p (regsOf s t) (thrOf s t) := by
  unfold unitDone pastUnit afterUnit
  by_cases h : p.rep = true <;> simp [h, unitBytes_eq, thrOf_setRegs hn]
theorem onlyThread_unitDone (s u : State) (t : Thread) (p : Pfx) (h : OnlyThread s u t) : OnlyThread s (unitDone u t p) t := by
  unfold unitDone
  by_cases hp : p.rep = true <;> simp only [hp, if_true]
  · exact onlyThread_setThr _ _ _ _ (onlyThread_setRegs _ _ _ _ h)
  · exact onlyThread_setRegs _ _ _ _ h
/-- An instruction that writes registers and completes. -/
theorem gives_of_done {c : Instr} {s : State} {t : Thread} {p : Pfx} (d : Dec) (body : State → Eff) (r : Regs)
    (hx : exec c s = onCore (issue t p d body) s) (h : Ready s t p d.regs) (hl : illegal p d = false)
    (hb : body s = .done (setRegs s t r)) : Gives c s t p r := by
  have hn := canIssue_noSaved h.1
  refine ⟨unitDone (setRegs s t r) t p, ?_, ?_, ?_, ?_⟩
  · rw [hx, issue_ready h, executeIns_ready d h hl, hb]
  · simpa using (unitDone_eq (noSaved_setRegs (v := t) (r := r) hn) p).1
  · simpa [thrOf_setRegs hn] using (unitDone_eq (noSaved_setRegs (v := t) (r := r) hn) p).2
  · exact onlyThread_unitDone _ _ _ _ (onlyThread_setRegs _ _ _ _ (onlyThread_refl s t))
/-- An instruction that jumps. -/
theorem leaves_of_jump {c : Instr} {s : State} {t : Thread} {p : Pfx} (d : Dec) (body : State → Eff) (s1 : State) (pc : DWord)
    (hx : exec c s = onCore (issue t p d body) s) (h : Ready s t p d.regs) (hl : illegal p d = false) (hb : body s = .jump s1 pc)
    (ho : OnlyThread s s1 t) : Leaves c s t { regsOf s1 t with pc := pc } (thrOf s1 t) := by
  refine ⟨setRegs s1 t { regsOf s1 t with pc := pc }, ?_, by simp, thrOf_setRegs (noSaved_of_only (canIssue_noSaved h.1) ho) _ _, onlyThread_setRegs _ _ _ _ ho⟩
  rw [hx, issue_ready h, executeIns_ready d h hl, hb]
/-- An instruction that completes after changes to its own thread. -/
theorem leaves_of_done {c : Instr} {s : State} {t : Thread} {p : Pfx} (d : Dec) (body : State → Eff) (s1 : State)
    (hx : exec c s = onCore (issue t p d body) s) (h : Ready s t p d.regs) (hl : illegal p d = false) (hb : body s = .done s1)
    (ho : OnlyThread s s1 t) : Leaves c s t (pastUnit p (regsOf s1 t)) (afterUnit p (regsOf s1 t) (thrOf s1 t)) := by
  have hn := noSaved_of_only (canIssue_noSaved h.1) ho
  refine ⟨unitDone s1 t p, ?_, (unitDone_eq hn _).1, (unitDone_eq hn _).2, onlyThread_unitDone _ _ _ _ ho⟩
  rw [hx, issue_ready h, executeIns_ready d h hl, hb]
/-- A synchronous exception of a thread that can take one is entered. -/
theorem raiseExc_enters (s : State) (t : Thread) (cause : Nat) (eval : DWord) (pfx : Bool) (h : CanEnter s t) :
    raiseExc s t cause eval pfx = setRegs (setThr s t { thrOf s t with inRep := false }) t
      (enterRegs (regsOf s t) (entryLvl (regsOf s t) t) cause eval pfx false) := by
  obtain ⟨h1, h2⟩ := h
  have he : srEM (regsOf s t) = false := h1
  have hn : ¬(srEM (regsOf s t) = true ∨ (regsOf s t).exv = 0) := by rw [he]; rintro (h | h) <;> [simp at h; exact h2 h]
  cases t <;> simp only [raiseExc] <;> rw [if_neg hn] <;> rfl
theorem enterRegs_eq (r : Regs) (lvl : Lvl) (cause : Nat) (eval : DWord) (pfx inrep : Bool) (hc : cause < 256) :
    enterRegs r lvl cause eval pfx inrep = entered r lvl cause eval pfx inrep := by
  have h1 : ecauseOf cause pfx inrep = BitVec.ofNat 16 cause ||| (if pfx then 0x100 else 0) ||| (if inrep then 0x200 else 0) := by
    interval_cases cause <;> cases pfx <;> cases inrep <;> rfl
  have h2 : setFld (setFld (setFld r.sr 8 2 lvl.toNat) 10 1 1) 11 1 0 = (r.sr &&& ~~~0xF00#32) ||| (lvl.setWidth 32 <<< 8) ||| 0x400 := by
    apply BitVec.eq_of_getLsbD_eq
    intro i hi
    obtain ⟨n, hn⟩ := lvl
    simp only [setFld, BitVec.getLsbD_and, BitVec.getLsbD_or, BitVec.getLsbD_not]
    interval_cases i <;> interval_cases n <;> simp
  have h3 : r.exv + BitVec.ofNat 64 (vecOf cause) = r.exv + vectorAt cause := by
    simp only [vecOf, vectorAt]; split_ifs <;> rfl
  simp only [enterRegs, entered, h1, h2, h3]
/-- An instruction that raises an exception. -/
theorem raises_of_exc {c : Instr} {s : State} {t : Thread} {p : Pfx} (d : Dec) (body : State → Eff) (cause : Nat) (eval : DWord)
    (hx : exec c s = onCore (issue t p d body) s) (h : Ready s t p d.regs) (hl : illegal p d = false) (hb : body s = .exc s cause eval)
    (hc : cause < 256) (he : CanEnter s t) : Raises c s t p cause eval := by
  refine ⟨raiseExc s t cause eval (p.rep || p.ext.isSome), ?_, ?_, ?_, ?_⟩
  · rw [hx, issue_ready h, executeIns_ready d h hl, hb]
  · rw [raiseExc_enters _ _ _ _ _ he, regsOf_setRegs_same, enterRegs_eq _ _ _ _ _ _ hc]
  · rw [raiseExc_enters _ _ _ _ _ he, thrOf_setRegs (noSaved_setThr (canIssue_noSaved h.1))]; simp
  · rw [raiseExc_enters _ _ _ _ _ he]; exact onlyThread_setRegs _ _ _ _ (onlyThread_setThr _ _ _ _ (onlyThread_refl _ _))

end Sys2Proof.Machine
end

