-- ==== Sys2Proof/Laws/Flags.lean ====
section
/-! SUPPORT. The results and flags of the Clana operations in terms of bit-vector operations. -/
namespace Sys2Proof.Machine

theorem bitVec_ofNat_b2n (b : Bool) : (BitVec.ofNat 32 (b2n b)) = if b then 1#32 else 0#32 := by cases b <;> rfl
theorem bit_63 (x : DWord) : bit x 63 = x.msb := by simp [bit, BitVec.msb_eq_getLsbD_last]
theorem setFld_zero (sr : Word) (b : Bool) : setFld sr 0 1 (b2n b) = (sr &&& ~~~0x1#32) ||| (if b then 1 else 0) := by
  cases b <;> simp [setFld, b2n]
theorem setFld_one (sr : Word) (b : Bool) : setFld sr 1 1 (b2n b) = (sr &&& ~~~0x2#32) ||| (if b then 2 else 0) := by
  cases b <;> simp [setFld, b2n]
theorem setFld_two (sr : Word) (b : Bool) : setFld sr 2 1 (b2n b) = srC sr b := by
  cases b <;> simp [setFld, b2n, srC]
theorem setFld_three (sr : Word) (b : Bool) : setFld sr 3 1 (b2n b) = srV sr b := by
  cases b <;> simp [setFld, b2n, srV]
theorem flagsNZ_eq (sr : Word) (x : DWord) : flagsNZ sr x = srNZ sr x := by
  unfold flagsNZ srNZ
  rw [setFld_zero, setFld_one, bit_63]
  apply BitVec.eq_of_getLsbD_eq
  intro i hi
  simp only [BitVec.getLsbD_and, BitVec.getLsbD_or, BitVec.getLsbD_not]
  by_cases hx : x.msb <;> by_cases hz : x = 0 <;> simp [hx, hz] <;> interval_cases i <;> simp
/-- The result of a form. -/
theorem resOf_wide (n : Nat) : resOf false n = BitVec.ofNat 64 n := rfl
theorem resOf_narrow (n : Nat) : resOf true n = (BitVec.ofNat 32 n).signExtend 64 := rfl
theorem opS_wide (a : DWord) : opS false a = a.toInt := rfl
theorem opS_narrow (a : DWord) : opS true a = (a.setWidth 32).toInt := rfl
theorem opU_wide (a : DWord) : opU false a = a.toNat := Nat.mod_eq_of_lt a.isLt
theorem opU_narrow (a : DWord) : opU true a = (a.setWidth 32).toNat := by simp [opU, wid]
theorem setWidth_signExtend (x : Word) : (x.signExtend 64).setWidth 32 = x := by
  apply BitVec.eq_of_getLsbD_eq; intro i hi
  rw [BitVec.getLsbD_setWidth, BitVec.getLsbD_signExtend]
  simp [hi, show i < 64 by omega]
theorem aluAdd_res (w : Bool) (a b : DWord) : (aluAdd w a b).res = formed w (fun _ x y => x + y) a b := by
  cases w
  · simp [aluAdd, resOf, opU_wide, formed, BitVec.ofNat_add]
  · simp [aluAdd, resOf, opU_narrow, formed, BitVec.ofNat_add, -BitVec.toNat_setWidth]
theorem aluAdd_c (w : Bool) (a b : DWord) : (aluAdd w a b).c = some (tested w (fun _ x y => BitVec.uaddOverflow x y) a b) := by
  cases w <;> simp [aluAdd, tested, BitVec.uaddOverflow, opU_wide, opU_narrow, wid]
/-- A sum or difference of two signed numbers does not fit exactly when it leaves their range. -/
theorem bmod_ne_iff {n : Nat} (hn : 0 < n) (z : Int) (_h1 : -(2 * 2 ^ (n - 1)) ≤ z) (_h2 : z < 2 * 2 ^ (n - 1)) :
    z ≠ z.bmod (2 ^ n) ↔ z < -2 ^ (n - 1) ∨ 2 ^ (n - 1) ≤ z := by
  have hq : ((2 ^ n : Nat) : Int) = 2 * 2 ^ (n - 1) := by
    push_cast; conv => lhs; rw [← Nat.sub_add_cancel hn, pow_succ, mul_comm]
  rw [ne_comm, ne_eq, Int.bmod_eq_iff (by positivity), hq]
  constructor
  · intro h
    by_contra hc
    exact h ⟨by omega, by omega, by simp⟩
  · rintro h ⟨ha, hb, -⟩
    omega
theorem add_overflows {n : Nat} (x y : BitVec n) : decide (x.toInt + y.toInt ≠ (x + y).toInt) = BitVec.saddOverflow x y := by
  rw [Bool.eq_iff_iff, decide_eq_true_iff, BitVec.toInt_add]
  simp only [BitVec.saddOverflow, Bool.or_eq_true, decide_eq_true_eq]
  rcases Nat.eq_zero_or_pos n with rfl | hn
  · simp [BitVec.toInt_zero_length]
  have h1 := BitVec.le_toInt x; have h2 := BitVec.toInt_lt (x := x)
  have h3 := BitVec.le_toInt y; have h4 := BitVec.toInt_lt (x := y)
  rw [bmod_ne_iff hn _ (by omega) (by omega)]
  exact or_comm
theorem sub_overflows {n : Nat} (x y : BitVec n) : decide (x.toInt - y.toInt ≠ (x - y).toInt) = BitVec.ssubOverflow x y := by
  rw [Bool.eq_iff_iff, decide_eq_true_iff, BitVec.toInt_sub]
  simp only [BitVec.ssubOverflow, Bool.or_eq_true, decide_eq_true_eq]
  rcases Nat.eq_zero_or_pos n with rfl | hn
  · simp [BitVec.toInt_zero_length]
  have h1 := BitVec.le_toInt x; have h2 := BitVec.toInt_lt (x := x)
  have h3 := BitVec.le_toInt y; have h4 := BitVec.toInt_lt (x := y)
  rw [bmod_ne_iff hn _ (by omega) (by omega)]
  exact or_comm
theorem aluAdd_v (w : Bool) (a b : DWord) : (aluAdd w a b).v = some (tested w (fun _ x y => BitVec.saddOverflow x y) a b) := by
  have h := aluAdd_res w a b
  simp only [aluAdd] at h ⊢
  rw [h]
  cases w
  · simp only [opS_wide, formed, tested]; exact congrArg some (add_overflows a b)
  · simp only [opS_narrow, formed, tested, if_true, setWidth_signExtend]; exact congrArg some (add_overflows _ _)
theorem ofNat_borrow (n : Nat) (x y : BitVec n) : BitVec.ofNat n (2 ^ n + x.toNat - y.toNat) = x - y := by
  apply BitVec.eq_of_toNat_eq
  rw [BitVec.toNat_ofNat, BitVec.toNat_sub]
  congr 1; have := y.isLt; omega
theorem aluSub_res (w : Bool) (a b : DWord) : (aluSub w a b).res = formed w (fun _ x y => x - y) a b := by
  cases w
  · simp only [aluSub, opU_wide, wid, formed]; exact ofNat_borrow 64 a b
  · simp only [aluSub, opU_narrow, wid, formed, if_true, resOf_narrow]; exact congrArg (BitVec.signExtend 64) (ofNat_borrow 32 _ _)
theorem aluSub_c (w : Bool) (a b : DWord) : (aluSub w a b).c = some (tested w (fun _ x y => BitVec.usubOverflow x y) a b) := by
  cases w <;> simp [aluSub, tested, BitVec.usubOverflow, opU_wide, opU_narrow]
theorem aluSub_v (w : Bool) (a b : DWord) : (aluSub w a b).v = some (tested w (fun _ x y => BitVec.ssubOverflow x y) a b) := by
  have h := aluSub_res w a b
  simp only [aluSub] at h ⊢
  rw [h]
  cases w
  · simp only [opS_wide, formed, tested]; exact congrArg some (sub_overflows a b)
  · simp only [opS_narrow, formed, tested, if_true, setWidth_signExtend]; exact congrArg some (sub_overflows _ _)
/-- An operation on bits that commutes with truncation. -/
theorem aluLogic_res (f : DWord → DWord → DWord) (g : (n : Nat) → BitVec n → BitVec n → BitVec n) (hw : ∀ x y, f x y = g 64 x y)
    (hn : ∀ x y, (f x y).setWidth 32 = g 32 (x.setWidth 32) (y.setWidth 32)) (w : Bool) (a b : DWord) :
    (aluLogic f w a b).res = formed w g a b := by
  cases w
  · simp [aluLogic, aluBits, resOf, formed, hw]
  · simp [aluLogic, aluBits, resOf, formed, ← hn, BitVec.ofNat_toNat]
/-- A flag that an operation sets, and one that it leaves. -/
theorem flagsCV_both (sr : Word) (x : AluRes) (c v : Bool) (hc : x.c = some c) (hv : x.v = some v) : flagsCV sr x = srV (srC sr c) v := by
  simp [flagsCV, hc, hv, setFld_two, setFld_three]
theorem flagsCV_carry (sr : Word) (x : AluRes) (c : Bool) (hc : x.c = some c) (hv : x.v = none) : flagsCV sr x = srC sr c := by
  simp [flagsCV, hc, hv, setFld_two]
theorem flagsCV_none (sr : Word) (x : AluRes) (hc : x.c = none) (hv : x.v = none) : flagsCV sr x = sr := by simp [flagsCV, hc, hv]

end Sys2Proof.Machine
end

