-- ==== Sys2Proof/Laws/Memory.lean ====
section
/-! SUPPORT. What each operation that writes memory does to the canonical form and to the bytes beside those it writes. -/
namespace Sys2Proof.Machine

/-- Where an access may write does not depend on what memory holds. -/
theorem wrKey_memSet (s : State) (k : Nat) (b : Byte) (ag : Agent) (lvl : Lvl) (a : Nat) : wrKey (memSet s k b) ag lvl a = wrKey s ag lvl a := rfl
theorem memWf_wrBytes (ag : Agent) (lvl : Lvl) (bs : List Byte) (s : State) (a : Nat) (h : memWf s = true) : memWf (wrBytes s ag lvl a bs) = true := by
  induction bs generalizing s a with
  | nil => exact h
  | cons b bs ih =>
    unfold wrBytes
    split
    · exact ih _ _ (memWf_memSet s _ b h)
    · exact ih _ _ h
/-- A key that no byte written goes to reads as before. -/
theorem memGet_wrBytes_other (ag : Agent) (lvl : Lvl) (k : Nat) (bs : List Byte) (s : State) (a : Nat)
    (h : ∀ i, i < bs.length → wrKey s ag lvl (a + i) ≠ some k) : memGet (wrBytes s ag lvl a bs) k = memGet s k := by
  induction bs generalizing s a with
  | nil => rfl
  | cons b bs ih =>
    have h0 : wrKey s ag lvl a ≠ some k := h 0 (by simp)
    have h1 : ∀ i, i < bs.length → wrKey s ag lvl (a + 1 + i) ≠ some k := fun i hi => by
      have := h (i + 1) (by simpa using hi)
      rwa [show a + 1 + i = a + (i + 1) by omega]
    unfold wrBytes
    split
    · next j hj =>
      rw [ih (memSet s j b) (a + 1) h1]
      exact memGet_memSet_other s j b k (fun e => h0 (e ▸ hj))
    · exact ih s (a + 1) h1
theorem memWf_freshByte (s : State) (h : memWf s = true) : memWf (freshByte s).2 = true := h
theorem memWf_undefBytes (n : Nat) : ∀ (k : Nat) (s : State), memWf s = true → memWf (undefBytes n k s) = true := by
  induction n with
  | zero => exact fun _ _ h => h
  | succ n ih => exact fun k s h => ih (k + 1) _ (memWf_memSet _ k _ (memWf_freshByte s h))
theorem memWf_programFlash (bs : List Byte) : ∀ (a : Nat) (s : State), memWf s = true → memWf (programFlash a bs s) = true := by
  induction bs with
  | nil => exact fun _ _ h => h
  | cons b bs ih => exact fun a s h => ih (a + 1) _ (memWf_memSet s a b h)
/-- Programming flash leaves every byte outside the programmed ones. -/
theorem memGet_programFlash_other (k : Nat) (bs : List Byte) : ∀ (a : Nat) (s : State), ¬(a ≤ k ∧ k < a + bs.length) →
    memGet (programFlash a bs s) k = memGet s k := by
  induction bs with
  | nil => exact fun _ _ _ => rfl
  | cons b bs ih =>
    intro a s h
    simp only [List.length_cons] at h
    unfold programFlash
    rw [ih (a + 1) (memSet s a b) (by omega)]
    exact memGet_memSet_other s a b k (by omega)

end Sys2Proof.Machine
end

