-- ==== Sys2Proof/Laws/Ops.lean ====
section
/-! SUPPORT. What the shared forms of a command answer: on the clocks of the core, at a level, in the domains that stay on, at a unit. -/
namespace Sys2Proof.Machine

/-! A command on the clocks of the core (R464, R493). -/
theorem onCore_on (f : State → State) {s : State} (h : clocksOn s = true) : onCore f s = .next (f s) := by simp [onCore, h]
theorem onCore_off (f : State → State) {s : State} (h : clocksOn s = false) : onCore f s = .next s := by simp [onCore, h]
/-- Whatever holds of the state before and of what f makes of it holds after the command. -/
theorem onCore_cases {f : State → State} {s t : State} (h : onCore f s = .next t) : (clocksOn s = true ∧ t = f s) ∨ (clocksOn s = false ∧ t = s) := by
  unfold onCore at h
  cases hc : clocksOn s <;> simp [hc] at h
  · exact .inr ⟨rfl, h.symm⟩
  · exact .inl ⟨rfl, h.symm⟩

/-! The write of a command register (R134). -/
theorem mayLvl_iff (lvl : Lvl) (lo : Nat) : mayLvl lvl lo = true ↔ Reaches lvl lo := by simp [mayLvl, Reaches]
theorem onReg_reaches (f : State → State) {s : State} {lvl : Lvl} {lo : Nat} (h : clocksOn s = true) (hl : Reaches lvl lo) :
    onReg lvl lo f s = .next (f s) := by
  unfold onReg
  rw [onCore_on _ h, if_pos ((mayLvl_iff lvl lo).mpr hl)]
theorem onReg_below (f : State → State) (s : State) {lvl : Lvl} {lo : Nat} (hl : ¬Reaches lvl lo) : onReg lvl lo f s = .next s := by
  have hm : mayLvl lvl lo ≠ true := fun e => hl ((mayLvl_iff lvl lo).mp e)
  unfold onReg onCore
  simp [hm]

/-! The domains that stay on, and the commands of a unit (R378, R507). -/
theorem onSafe_on (f : State → State) {s : State} (h : ¬(s.boot.st = .off ∨ s.boot.st = .lost)) : onSafe f s = .next (f s) := by simp [onSafe, h]
theorem onUnit_ok (f : Nat → State → State) {u : BitVec 7} {s : State} (h : clocksOn s = true) (hu : unitOk u.toNat = true) :
    onUnit u f s = .next (f u.toNat s) := by simp [onUnit, onCore, h, hu]
theorem onUnit_absent (f : Nat → State → State) {u : BitVec 7} (s : State) (hu : unitOk u.toNat = false) : onUnit u f s = .next s := by
  simp [onUnit, onCore, hu]
/-- A command at a unit whose class clock runs, and at one whose class clock is gated (R498). -/
theorem onClass_runs (f : State → State) {u : Nat} {s : State} (h : clocksOn s = true) (hc : unitClk s u = true) : onClass u f s = .next (f s) := by
  simp [onClass, onCore, h, hc]
theorem onClass_gated (f : State → State) {u : Nat} (s : State) (hc : unitClk s u = false) : onClass u f s = .next s := by
  simp [onClass, onCore, hc]
theorem onUnitClk_runs (f : Nat → State → State) {u : BitVec 7} {s : State} (h : clocksOn s = true) (hu : unitOk u.toNat = true) (hc : unitClk s u.toNat = true) :
    onUnitClk u f s = .next (f u.toNat s) := by simp [onUnitClk, onUnit, onCore, h, hu, hc]
theorem onUnitClk_gated (f : Nat → State → State) {u : BitVec 7} (s : State) (hc : unitClk s u.toNat = false) : onUnitClk u f s = .next s := by
  simp [onUnitClk, onUnit, onCore, hc]

/-! Reserved bits of a command or acknowledgement register (R4, R5). -/
/-- Whether v writes a reserved 1 to the register at an address. -/
abbrev rsvdAt (a : Nat) (v : Word) : Bool := match regAt a with | some (r, i) => (mergeReg 0 v (r.flds i)).2 | none => true
theorem withRsvd_clean (f : State → State) (s : State) {a : Nat} {v : Word} (h : rsvdAt a v = false) : withRsvd a v f s = f s := by
  change rsvdIf (rsvdAt a v) (f s) = _; rw [h]; rfl
theorem withRsvd_reserved (f : State → State) (s : State) {a : Nat} {v : Word} (h : rsvdAt a v = true) : withRsvd a v f s = setRsvd (f s) := by
  change rsvdIf (rsvdAt a v) (f s) = _; rw [h]; rfl

/-! Counters and ring time. -/
theorem satAdd_toNat (x : Word) (k : Nat) : (satAdd x k).toNat = Nat.min (x.toNat + k) 0xFFFF_FFFF := by
  unfold satAdd
  rw [BitVec.toNat_ofNat]
  exact Nat.mod_eq_of_lt (Nat.lt_of_le_of_lt (Nat.min_le_right _ _) (by decide))
theorem imr_bump_same (s : State) (a : Nat) : imr (bump s a) a = satAdd (imr s a) 1 := by simp [bump]
theorem imr_bump_other (s : State) (a b : Nat) (h : b ≠ a) : imr (bump s a) b = imr s b := by
  simp only [bump, imr, setIm]
  exact sget_sset_other _ _ _ _ _ _ h
/-- A command that a deadline brings about happens at that time or later. -/
theorem atTime_now (s : State) (t : DWord) : (atTime s t).time.now.toNat = Nat.max s.time.now.toNat t.toNat := by
  unfold atTime
  split
  · next h => exact (Nat.max_eq_right (Nat.le_of_lt h)).symm
  · next h => exact (Nat.max_eq_left (Nat.not_lt.mp h)).symm

/-! A full set of lines gives one up to a new one. -/
theorem setStays_length {α : Type} (w k : Nat) (l : List α) (hw : 0 < w) : (setStays w k l).length ≤ w - 1 := by
  unfold setStays
  split
  · omega
  · simp only [List.length_take]; omega

end Sys2Proof.Machine
end

