-- ==== Sys2Proof/WellFormed.lean ====
section
/-! DEFINITION. Which commands are well formed: their operands lie in the ranges that the manual gives. The meanings are total; an ill-formed
command is one that no sender of the manual can form. -/
namespace Sys2Proof
open Sys2Proof.Machine

/-- The levels P0, P1 and P2; 0b11 is reserved (R134). -/
def lvlOk (l : Lvl) : Bool := l != 3
/-- Physical clusters 0 to 32 (R188). -/
def clusterOk (c : BitVec 6) : Bool := decide (c.toNat ≤ 32)
/-- A device port unit of one of some classes (R373). -/
def unitIn (u : BitVec 7) (cls : List Nat) : Bool := unitOk u.toNat && cls.contains (unitClass u.toNat)
/-- A device port unit (R373). -/
def unitIs (u : BitVec 7) : Bool := unitOk u.toNat
/-- The ring address of a device (R343). -/
def addrOk (a : Byte) : Bool := decide (1 ≤ a.toNat ∧ a.toNat ≤ 0x30)
/-- A session with a host, or with another device (R284). -/
def sessOk : SessKey → Bool
  | .host _ => true
  | .peer a => addrOk a
/-- An event target (R411). -/
def targetOk (t : BitVec 5) : Bool := decide (t.toNat < 20)
/-- An arbiter set (R425). -/
def setOk (k : BitVec 4) : Bool := decide (k.toNat < 9)
/-- A fault source number (R456). -/
def faultNo (n : BitVec 9) : Bool := decide (n.toNat < 384)
/-- A memory that is scrubbed (R445). -/
def memOk (m : BitVec 4) : Bool := decide (m.toNat < 10)

/-- Whether the operands of a command lie in their ranges. -/
def Instr.wellFormed : Instr → Bool
  | .registerWrite lvl _ _ | .rcRead lvl _ | .glbRsvdWrClear lvl _ | .timeNowNsLoRead lvl | .timeLndNumLoRead lvl => lvlOk lvl
  | .preemption cl | .slotFill cl | .contextSwitch cl | .gallerySaveDone cl | .expressStatusWrite cl _ _ => clusterOk cl
  | .instructionCacheFill cl _ => clusterOk cl
  | .galAccRead lvl | .galAccWrite lvl | .alloc lvl _ | .release lvl _ | .reset lvl _ | .halt lvl _ | .galCctSyncGo lvl => lvlOk lvl
  | .galLockCmdBreak lvl _ | .engCodeInvGo lvl | .queryChannel lvl _ | .enableChannel lvl _ | .disableChannel lvl _ => lvlOk lvl
  | .stop lvl _ | .unpause lvl _ | .pauseBulk lvl | .unpauseBulk lvl | .wqDoorbell lvl _ | .queryQueue lvl _ => lvlOk lvl
  | .enableQueue lvl _ | .disableQueue lvl _ | .wqAccRead lvl | .wqAccWrite lvl | .wqDsyncGo lvl => lvlOk lvl
  | .commit lvl _ | .cancel lvl | .lndSyncRegs lvl | .lndSyncAll lvl => lvlOk lvl
  | .landstage a | .landcommit a | .landack a | .landrevert a | .ballot a | .takeover a | .peerSessionOpen a | .stationAbsent a => addrOk a
  | .read k | .readData k | .write k | .writeAck k | .post k | .doorbell k | .sctResume k | .sctSignal k | .sctFault k | .nak k => sessOk k
  | .rtoExpiry k | .ackHoldoff k | .sessionIdle k => sessOk k
  | .sessionQuery lvl _ | .sessionClose lvl _ => lvlOk lvl
  | .portEnable lvl _ | .portDisable lvl _ | .retrain lvl _ | .paMrxDoneWrite lvl _ _ | .paMtxSend lvl _ _ _ => lvlOk lvl
  | .paTacRead lvl _ | .paTacWrite lvl _ | .announceCmd lvl | .detach lvl | .rmTagsetWrite lvl _ | .rmPtRead lvl | .rmPtWrite lvl => lvlOk lvl
  | .unitEnable lvl u | .unitDisable lvl u => lvlOk lvl && unitIs u
  | .unitDrainEnd u | .drainTmo u | .ackAttn u | .flushRx u | .flushTx u | .recordReceive u _ _ | .launchTime u | .recordTransmit u _ => unitIs u
  | .recover u | .busOffRecovery u => unitIn u [0]
  | .plcaLost u | .plcaBeaconReturn u _ => unitIn u [1]
  | .mdioRd u | .mdioWr u | .mdioDone u _ => unitIn u [1, 2]
  | .mgLinkChange u _ _ => unitIn u [2]
  | .wakeCmd u => unitIn u [6]
  | .linHeader u _ _ _ | .noResp u _ => unitIn u [6]
  | .setLevel u | .captureEdge u _ | .compareEdge u => unitIn u [7]
  | .dptTacRead lvl | .dptTacWrite lvl => lvlOk lvl
  | .claim lvl t _ | .evtTIdle lvl t | .eoi lvl _ t => lvlOk lvl && targetOk t
  | .modTimeExpiry t | .eventSend t => targetOk t
  | .hold lvl | .releaseHold lvl | .evtSwset lvl _ _ | .evtAccRead lvl | .evtAccWrite lvl | .evtWkStsClear lvl _ => lvlOk lvl
  | .arbitrationPhase k _ _ _ | .quotaWindowEnd k => setOk k
  | .arbSlotWrite lvl k j _ => lvlOk lvl && setOk k && decide (j.toNat < 12)
  | .arbQuotaWrite lvl k _ => lvlOk lvl && setOk k
  | .arbDupClear lvl _ => lvlOk lvl
  | .correctionWriteback m | .scrubRead m _ => memOk m
  | .memLogSelWrite lvl _ | .memLogRidxWrite lvl _ | .memRetSelWrite lvl _ | .remove lvl _ | .memRetCmdAdd lvl _ | .memGrowCmdGo lvl _ => lvlOk lvl
  | .retrain0 lvl | .retrain1 lvl => lvlOk lvl
  | .faultLatch n d => faultNo n && d.also.all faultNo && d.held.all faultNo
  | .fltForce lvl n => lvlOk lvl && faultNo n
  | .fltNmtAck lvl _ | .fltLock lvl _ | .fltWdKick lvl _ | .glbRstCmd lvl _ | .bootUpdCmdGo lvl _ _ | .program lvl _ | .revoke lvl _ => lvlOk lvl
  | .fltStkClear lvl w _ => lvlOk lvl && decide (w.toNat < 12)
  | .fuseSecure lvl | .standby lvl | .off lvl => lvlOk lvl
  | .stbyPllLock | .stepFetch _ | .nopStep _ | .jump _ | .waitStep _ | .signalStep _ | .reportStep _ | .endStep _ | .moveIn _ | .moveOut _ => true
  | .moveMem _ | .controlStep _ | .senseStep _ | .routineStep _ | .timeWaitEnd _ => true
  | .add .. | .sub .. | .and .. | .or .. | .xor .. | .andn .. | .mov .. | .not .. | .neg .. | .cmp .. | .tst .. | .shl .. | .shr .. => true
  | .sar .. | .rol .. | .ror .. | .min .. | .max .. | .minu .. | .maxu .. | .clz .. | .ctz .. | .popc .. | .bswap .. => true
  | .addi .. | .cmpi .. | .andi .. | .ori .. | .xori .. | .movi .. | .ins .. | .shi .. => true
  | .ld .. | .lds .. | .st .. | .ldP .. | .ldsP .. | .stP .. | .loadDataArrival .. => true
  | .bc .. | .bl .. | .b .. | .cbz .. | .cbnz .. | .br .. | .blr .. | .ret .. | .mul .. | .mulu .. | .div .. | .divu .. | .muldivResult _ => true
  | .move .. | .chain .. | .sdone .. | .sfail .. | .pwr .. | .prd .. | .psend .. | .psendAt .. | .precv .. | .waite .. | .waitt .. => true
  | .signal .. | .resume .. | .yield .. | .susp .. | .wfi .. | .sys .. | .retx .. | .brk .. | .mfs .. | .mts .. | .bar .. | .ibar .. => true
  | .nop .. | .lck .. | .ulk .. | .asyncEntry .. | .runLimit _ | .quantumExpiry _ | .recordLoad .. | .interruptEntry _ => true
  | .indirectAccessDone _ | .cctCopyDone | .codeInvDone | .moverComplete _ | .channelPreempt .. | .channelDrainEnd _ | .stopDone .. => true
  | .queueDrainEnd _ | .wqCopyDone | .entryFetch _ | .pollWaitEnd _ | .wqStart _ | .wqResume _ | .wqSignal _ | .wqMove _ | .wqHalt _ => true
  | .queueError _ | .coalTimeExpiry _ | .landingJudgement | .landing _ _ | .lndCopyDone | .landackDeadline => true
  | .frameReceive .. | .frerReset _ | .hello | .helloAck | .enum | .enumReply | .announce | .keepalive | .sessionKeepalive => true
  | .expressDispatch .. | .sendWordStore .. | .releaseWordStore .. => true
  | .portDrainEnd _ | .signalDetect _ | .linkUp _ | .signalLoss _ | .linkRetry _ | .portFrameTransmit _ | .qbvGateEntry _ => true
  | .streamGateEntry _ | .verifyRetry .. | .syncReceive .. | .syncSend _ | .syncLoss .. | .pdelayReqSend _ | .pdelayResponse .. => true
  | .pdelayMiss _ | .mtxDone _ | .electionClaim | .enumTmo | .announceRepeat | .keepaliveSend | .managerLoss | .authLoss | .pairSilent _ => true
  | .eventRecordWrite | .claimWindowEnd _ | .wakeMatch _ | .dramAccessDone .. | .retireDone | .rowRetireDone _ | .trackingStep .. => true
  | .retrainDone .. | .watchdogTimeout _ | .safestateAssert | .safestateRelease | .vddCorePowerLoss | .porstN _ | .sysrstN | .bootDone => true
  | .updateDone _ | .resumeFromStandby | .supplyValid | .supplyTimeout | .illegalInstruction .. | .instructionFetchFault .. => true
  | .devicePortBusDone _ | .storeBufferDrain .. | .wakeInLevelChange .. | .slewComplete | .referenceClockReturn _ => true

end Sys2Proof
end

