-- ==== Sys2Proof/Tests/Slice0.lean ====
section
/-! SUPPORT. Tests of the model by the manual, and for every statement with hypotheses a state and operands that meet them. -/
namespace Sys2Proof.Tests
open Sys2Proof Sys2Proof.Machine
/- One test after another: elaborating them all at once asks for a thread each. -/
set_option Elab.async false

/-- The device in RUN. -/
def run : State := { boot := { st := .run } }
/-- Processor 0 in RUN with registers r, and what the device keeps beside them. -/
def mp0 (r : Regs) (x : Thr := {}) : State := { run with eng := { slots := [(0x40000, some r)], thr := [(0x40000, x)] } }
/-- Context 5 in RUN, RESIDENT in slot 0 of cluster 0 or in another state, with registers r, and what the device keeps beside them. -/
def ctx5 (r : Regs) (x : Thr := {}) (l : Live := { st := .resident }) : State :=
  { run with gal := { live := [(5, l)] }, eng := { occ := [(0, some 5)], slots := [(5, some r)], thr := [(5, x)] } }
/-- Registers at the first word of shared SRAM. -/
def at0 : Regs := { pc := 0x100000000 }
/-- No prefix. -/
def np : Pfx := { rep := false, ext := none }
/-- REP and EXT. -/
def re : Pfx := { rep := true, ext := some 0x2AAAAAA }
/-- A thread is ready to issue. -/
theorem ready_of {s : State} {t : Thread} {p : Pfx} {regs : List Reg}
    (h : (canIssue s t && fetchOk s t (pfxSize p) && (match t with | .ctx c => !watchHit s c 21 (regsOf s t).pc.toNat (pfxSize p) | .mp _ => true) &&
      ((thrOf s t).loads.all fun l => !regs.contains l.1) && (!p.rep || (regsOf s t).rc != 0)) = true) : Ready s t p regs := by
  simp only [Bool.and_eq_true, List.all_eq_true, Bool.or_eq_true, Bool.not_eq_true', bne_iff_ne] at h
  obtain ⟨⟨⟨⟨h1, h2⟩, h3⟩, h4⟩, h5⟩ := h
  refine ⟨h1, h2, ?_, fun l hl => by simpa using h4 l hl, fun hp => by simpa [hp] using h5⟩
  cases t with
  | ctx c => simp only [Bool.not_eq_true'] at h3; simp [watchOn, h3]
  | mp n => rfl
/-- A step in progress whose first word is lo and second word hi. -/
def step5 (lo hi : DWord) (x : Thr := {}) (r : Regs := {}) : State := ctx5 { r with stpa := 0x100000000 } { x with phase := .step, cur := { lo := lo, hi := hi } }
/-- A unit 0x28 (SPI) of a context, ACTIVE with what it has received. -/
def with28 (s : State) (rx : List RxRec) (st : EnState := .active) : State := { s with dpt := [(0x28, { st := st, rx := rx })] }
/-- A run of one step. -/
def run0 : Run := {}

/-! The operand checks: an ill-formed command for each. -/
theorem wf_level : Instr.wellFormed (.hold 3) = false := by decide
theorem wf_cluster : Instr.wellFormed (.slotFill 33) = false := by decide
theorem wf_address : Instr.wellFormed (.landstage 0x31) = false := by decide
theorem wf_session : Instr.wellFormed (.read (.peer 0)) = false := by decide
theorem wf_unit : Instr.wellFormed (.flushRx 127) = false := by decide
theorem wf_class : Instr.wellFormed (.recover 26) = false := by decide
theorem wf_target : Instr.wellFormed (.eventSend 20) = false := by decide
theorem wf_set : Instr.wellFormed (.quotaWindowEnd 9) = false := by decide
theorem wf_fault : Instr.wellFormed (.faultLatch 384 { info := 0 }) = false := by decide
theorem wf_faults : Instr.wellFormed (.faultLatch 0 { info := 0, also := [384] }) = false := by decide
theorem wf_held : Instr.wellFormed (.faultLatch 0 { info := 0, held := [384] }) = false := by decide
theorem wf_memory : Instr.wellFormed (.correctionWriteback 10) = false := by decide
theorem wf_slot_word : Instr.wellFormed (.arbSlotWrite 2 0 12 0) = false := by decide
theorem wf_sticky_word : Instr.wellFormed (.fltStkClear 2 12 0) = false := by decide
theorem wf_accepts : [Instr.hold 2, .slotFill 32, .landstage 0x30, .read (.peer 1), .recover 7, .eventSend 19, .quotaWindowEnd 8, .faultLatch 383 { info := 0, also := [0] },
    .correctionWriteback 9, .arbSlotWrite 2 8 11 0, .fltStkClear 2 11 0].all Instr.wellFormed = true := by decide
/-- The table gives no row bits, so no word spells a command. -/
theorem test_no_word : decodeTableWord 32 0x60000000 = none := rfl

/-! Witnesses: threads. -/
theorem wit_AdditionAndSubtractionSetEveryFlag :
    Ready (mp0 at0) (.mp 0) np [1, 2, 3] ∧ np.ext = none ∧ Ready (mp0 { at0 with rc := 1 }) (.mp 0) re [1, 2] ∧ Ready (ctx5 at0) (.ctx 5) np [15, 15, 0] := by
  (with_reducible repeat' apply And.intro) <;> first | exact ready_of (by decide +kernel) | decide +kernel
theorem wit_BitOperationsSetNAndZ : Ready (mp0 at0) (.mp 0) np [0, 15, 15] ∧ Ready (mp0 { at0 with rc := 2 }) (.mp 0) re [1, 2] := by
  (with_reducible repeat' apply And.intro) <;> exact ready_of (by decide +kernel)
theorem wit_ShiftsFollowTheirCount : Ready (ctx5 { at0 with g := [(3, 65)] }) (.ctx 5) np [1, 2, 3] ∧ Ready (ctx5 at0) (.ctx 5) np [1, 2] := by
  (with_reducible repeat' apply And.intro) <;> exact ready_of (by decide +kernel)
theorem wit_SelectionsAndMovesLeaveTheFlags : Ready (ctx5 at0 { loads := [(4, 9)] }) (.ctx 5) np [1, 2, 3] ∧ Ready (mp0 at0) (.mp 0) np [15] := by
  (with_reducible repeat' apply And.intro) <;> exact ready_of (by decide +kernel)
theorem wit_MultiplyAndDivideIssue :
    let d : Regs := { at0 with g := [(1, 7)], exv := 0x100000100 }
    Ready (mp0 d) (.mp 0) np [1, 2] ∧ (regsOf (mp0 d) (.mp 0)).gr 1 ≠ 0 ∧ (regsOf (mp0 d) (.mp 0)).gr 2 = 0 ∧ d.sr.getLsbD 5 = false ∧
      Ready (mp0 { d with sr := 0x20 }) (.mp 0) np [1, 2] ∧ ({ d with sr := 0x20 } : Regs).sr.getLsbD 10 = false ∧ d.exv ≠ 0 ∧
      clocksOn (mp0 d { md := some (1, 2) }) = true ∧ (thrOf (mp0 d { md := some (1, 2) }) (.mp 0)).md = some (1, 2) ∧
      (thrOf (mp0 d { mdFrame := [(1, 2, 0x3FFF0)] }) (.mp 0)).mdFrame = [(1, 2, 0x3FFF0)] ∧ 0x3FFF0 + 16 ≤ 0x40000 := by
  (with_reducible repeat' apply And.intro) <;> first | exact ready_of (by decide +kernel) | decide +kernel
theorem wit_LoadsReadMemoryAndArrive :
    let s := mp0 { at0 with g := [(2, 0x100000FF8)] } { sb := [{ addr := 0x100001000, bytes := [1, 2], lvl := 2 }] }
    let s2 := mp0 at0 { loads := [(4, 9)] }
    Ready s (.mp 0) np [1, 2] ∧ (0x100000FF8 + immS np 8).toNat % 8 = 0 ∧ [1, 2, 0, 0, 0, 0, 0, (0 : Byte)].length = 2 ^ (3 : BitVec 2).toNat ∧
      (∀ i, i < 8 → rdKey s (thrAgent s (.mp 0)) (0x100001000 + i) = some (0x100001000 + i) ∧ ([1, 2, 0, 0, 0, 0, 0, (0 : Byte)].getD i 0) =
        (sbByte (thrOf s (.mp 0)).sb (physAddr (thrAgent s (.mp 0)) 0x100001000 + i)).getD (memGet s (0x100001000 + i))) ∧
      clocksOn s2 = true ∧ (thrOf s2 (.mp 0)).loads.find? (fun l => l.1 = 4) = some (4, 9) := by
  (with_reducible repeat' apply And.intro) <;> first | exact ready_of (by decide +kernel) | decide +kernel
theorem wit_unwatched : Unwatched (ctx5 at0) (.ctx 5) 19 0x100001000 8 ∧ Unwatched (ctx5 at0) (.ctx 5) 20 0x100001000 8 := by
  constructor <;> intro c h <;> cases h <;> decide +kernel
theorem wit_StoresEnterTheStoreBuffer :
    let s := mp0 { at0 with g := [(2, 0x100001000)] } { sb := List.replicate 7 { addr := 0x100001000, bytes := [1], lvl := 2 } }
    Ready s (.mp 0) np [1, 2] ∧ (0x100001000 + immS np 0).toNat % 8 = 0 ∧ storeMay s (thrAgent s (.mp 0)) (thrLvl s (.mp 0)) 0x100001000 8 = true ∧
      (thrOf s (.mp 0)).sb.length < 8 := by
  (with_reducible repeat' apply And.intro) <;> first | exact ready_of (by decide +kernel) | decide +kernel
theorem wit_FaultingLoadsAndStoresRaise :
    let s := fun (g : DWord) => mp0 { at0 with g := [(2, g)], exv := 0x100000100 }
    Ready (s 0x100000001) (.mp 0) np [1, 2] ∧ CanEnter (s 1) (.mp 0) ∧ (0x100000001 : DWord).toNat % 2 ≠ 0 ∧
      storeMay (s 0) (thrAgent (s 0) (.mp 0)) (thrLvl (s 0) (.mp 0)) 0xFFFFFFFFFFF8 8 = false ∧ rdKey (s 0) (thrAgent (s 0) (.mp 0)) 0xFFFFFFFFFFF8 = none := by
  delta CanEnter; (with_reducible repeat' apply And.intro) <;> first | exact ready_of (by decide +kernel) | decide +kernel
/-- A state in which interface 0 of the DRAM is retrained. -/
def behind (s : State) : State := { s with memc := { i0 := { trained := true, retraining := true }, i1 := { trained := true } }, reg := { act := [(aMEM + 8, 0x3FF)] } }
theorem wit_retrained :
    let s := behind (mp0 { at0 with g := [(2, 0x1000000000)] })
    let f := behind (ctx5 { stpa := 0x1000000030 } { phase := .fetch })
    let q : WqLive := { st := .active, base := 0x1000000000 }
    Ready s (.mp 0) np [1, 2] ∧ 0x1000000000 % 8 = 0 ∧ stalledIn s (thrAgent s (.mp 0)) 0x1000000000 8 = true ∧ engineOn f 5 = true ∧
      stalled f (ctxAgent f 5) 0x1000000030 = true ∧ stalledIn (behind run) .sct (entryAddr q q.tail) 64 = true := by
  (with_reducible repeat' apply And.intro) <;> first | exact ready_of (by decide +kernel) | decide +kernel
theorem wit_upset :
    let s := { mp0 { at0 with g := [(2, 0x100001000)], exv := 0x100000100 } with memc := { upset := [0x100001000, recKey 5 26] } }
    Ready s (.mp 0) np [1, 2] ∧ CanEnter s (.mp 0) ∧ locate s (thrAgent s (.mp 0)) 0x100001000 = some (.sram, 0x100001000) ∧ isUpset s 0x100001000 = true ∧
      (accRead s .gal (5 * 2 ^ 32 + 8 * 26)).2 = true ∧ (accRead s .gal (5 * 2 ^ 32 + 8 * 25)).2 = false := by
  delta CanEnter; (with_reducible repeat' apply And.intro) <;> first | exact ready_of (by decide +kernel) | decide +kernel
theorem wit_no_upset : NoUpset run (.mp 0) 0xFFFFFFFFFFF8 8 := by
  have h : ∀ i, i < 8 → locate run (.mp 0) (0xFFFFFFFFFFF8 + i) = none := by decide +kernel
  intro i hi kd k e
  rw [h i hi] at e
  cases e
theorem wit_BranchesGoToTheirTargets :
    let s := mp0 { at0 with g := [(2, 0x100000040), (3, 0x100000042)], exv := 0x100000100 }
    np.rep = false ∧ Ready s (.mp 0) np [] ∧ condition 14 0 = true ∧ condition 0 0 = false ∧ (14 : BitVec 4) ≠ 15 ∧ Ready s (.mp 0) np [2] ∧
      (regsOf s (.mp 0)).gr 1 = 0 ∧ (regsOf s (.mp 0)).gr 2 ≠ 0 ∧ ((regsOf s (.mp 0)).gr 2).toNat % 4 = 0 ∧ ¬Token s (.mp 0) 0x100000040 ∧
      Ready s (.mp 0) np [3] ∧ ((regsOf s (.mp 0)).gr 3).toNat % 4 ≠ 0 ∧ CanEnter s (.mp 0) := by
  delta CanEnter Token; (with_reducible repeat' apply And.intro) <;> first | exact ready_of (by decide +kernel) | decide +kernel
theorem wit_CallsLinkAndReturn :
    let g : Regs := { at0 with g := [(2, 0x100000040)], lr := 0x100000044, exv := 0x100000100 }
    let r : Regs := { g with sr := 0x800, rsp := (1 : BitVec 12) ++ (2 : BitVec 12) ++ 0x0100001008#40 }
    let s := mp0 r
    Ready (mp0 g) (.mp 0) np [2] ∧ g.sr.getLsbD 11 = false ∧ g.lr.toNat % 4 = 0 ∧ ¬Token (mp0 g) (.mp 0) g.lr ∧ ¬Token (mp0 g) (.mp 0) 0x100000040 ∧
      r.sr.getLsbD 11 = true ∧ r.rsp.extractLsb' 52 12 ≠ r.rsp.extractLsb' 40 12 ∧ r.rsp.extractLsb' 52 12 ≠ 0 ∧ Ready s (.mp 0) np [2] ∧
      storeMay s (thrAgent s (.mp 0)) (thrLvl s (.mp 0)) 0x100001008 8 = true ∧
      (∀ i, i < 8 → rdKey s (thrAgent s (.mp 0)) (0x100001000 + i) = some (0x100001000 + i) ∧ memGet s (0x100001000 + i) = 0) ∧ ¬Token s (.mp 0) 0 ∧
      CanEnter s (.mp 0) ∧ Ready (mp0 { r with rsp := 0 }) (.mp 0) np [] ∧ (0 : DWord).extractLsb' 52 12 = (0 : DWord).extractLsb' 40 12 ∧ r.rsp.extractLsb' 40 12 ≠ 0 ∧
      0x110000 ≤ ((r.rsp - 8).extractLsb' 0 40 &&& ~~~0x7#40).toNat ∧ CanEnter (mp0 { r with rsp := 0 }) (.mp 0) ∧
      Ready (mp0 { r with rsp := 0x0030000000000000 }) (.mp 0) np [] ∧ CanEnter (mp0 { r with rsp := 0x0030000000000000 }) (.mp 0) ∧ (0x0030000000000000 : DWord).extractLsb' 40 12 = 0 := by
  delta CanEnter Token; (with_reducible repeat' apply And.intro) <;> first | exact ready_of (by decide +kernel) | decide +kernel
theorem wit_zero_bytes_load : loadedAs false (List.replicate 8 0) 0 := ⟨by decide +kernel, by intros; simp⟩
theorem wit_ExceptionsEnterAndReturn :
    let g : Regs := { at0 with exv := 0x100000100, sr := 0x200, esr := 0x100 }
    CanEnter (mp0 g) (.mp 0) ∧ Ready (mp0 g) (.mp 0) np [] ∧ wordOk true false 0xFFFFFFFF = none ∧
      canIssue (mp0 { g with pc := 0x100000002 }) (.mp 0) = true ∧ ({ g with pc := 0x100000002 } : Regs).pc.toNat % 4 ≠ 0 ∧
      rdBytes (mp0 g) (thrAgent (mp0 g) (.mp 0)) 0xFFFFFFFFFFF8 4 = none ∧
      (g.esr.extractLsb' 8 2 ≠ 3 ∧ (g.esr.extractLsb' 8 2).toNat ≤ (g.sr.extractLsb' 8 2).toNat ∧ (g.esr.extractLsb' 8 2).toNat ≤ (entryLvl g (.mp 0)).toNat) ∧
      ({ g with esr := 0x300 } : Regs).esr.extractLsb' 8 2 = 3 := by
  delta CanEnter; (with_reducible repeat' apply And.intro) <;> first | exact ready_of (by decide +kernel) | decide +kernel
theorem wit_SpecialRegistersReadAndWrite :
    let g : Regs := { at0 with exv := 0x100000100, g := [(2, 0x400)] }
    Ready (mp0 { g with sr := 0x200 }) (.mp 0) np [1] ∧ Ready (ctx5 g) (.ctx 5) np [2] ∧ (g.sr.extractLsb' 8 2).toNat = 0 ∧ CanEnter (ctx5 g) (.ctx 5) ∧
      ((regsOf (ctx5 g) (.ctx 5)).gr 2).getLsbD 10 ≠ g.sr.getLsbD 10 ∧ 1 ≤ ((0x100 : Word).extractLsb' 8 2).toNat ∧
      Ready (ctx5 { g with sr := 0x100, ceil := 1 }) (.ctx 5) np [1] ∧ Ready (ctx5 { g with sr := 0x100, ceil := 1 }) (.ctx 5) np [2] ∧ Ready (ctx5 g) (.ctx 5) np [1] ∧ CanEnter (mp0 g) (.mp 0) := by
  delta CanEnter; (with_reducible repeat' apply And.intro) <;> first | exact ready_of (by decide +kernel) | decide +kernel
theorem wit_BarriersWaitForStores :
    Ready (ctx5 at0) (.ctx 5) np [2] ∧ (thrOf (ctx5 at0) (.ctx 5)).sb = [] ∧ Ready (mp0 at0) (.mp 0) np [2] ∧
      Ready (mp0 at0 { sb := [{ addr := 0x100001000, bytes := [1], lvl := 2 }] }) (.mp 0) np [2] := by
  (with_reducible repeat' apply And.intro) <;> first | exact ready_of (by decide +kernel) | decide +kernel
theorem wit_LocksAreAcquiredAndReleased :
    let s := mp0 { at0 with g := [(2, 4095), (3, 4096)] }
    let h := fun (w : Word) => { s with gal := { locks := [(4095, w)] } }
    Ready s (.mp 0) np [1, 2] ∧ Ready s (.mp 0) np [1, 3] ∧ 4096 ≤ ((regsOf s (.mp 0)).gr 3).toNat ∧ ((regsOf s (.mp 0)).gr 2).toNat < 4096 ∧
      (lockOf s 4095).getLsbD 19 = false ∧ (lockOf (h 0xC0000) 4095).getLsbD 19 = true ∧ (lockOf (h 0xC0000) 4095).extractLsb' 0 19 = 0x40000 ∧
      (lockOf (h 0x80005) 4095).extractLsb' 0 19 ≠ 0x40000 ∧ Ready (h 0x80005) (.mp 0) np [1, 2] := by
  (with_reducible repeat' apply And.intro) <;> first | exact ready_of (by decide +kernel) | decide +kernel
theorem wit_StepsWithoutDataEnd :
    let w := step5 0x0000000300000202 0 { wait := some { mask := 3 } }
    let v := step5 0x202 0 { wait := some { till := some 9 } }
    let g := step5 0x0000000300000203 7
    AtStep (step5 0x200 0) 5 0 ∧ HasNextOnly (thrOf (step5 0x200 0) (.ctx 5)) ∧ AtStep (step5 0x201 0) 5 1 ∧ HasNextOnly (thrOf (step5 0x201 0) (.ctx 5)) ∧
      AtStep w 5 2 ∧ HasNextOnly (thrOf w (.ctx 5)) ∧ (thrOf w (.ctx 5)).wait = some { mask := ((thrOf w (.ctx 5)).cur.lo.extractLsb' 32 32) } ∧
      (liveOf w 5).pend &&& 3 = 0 ∧ AtStep v 5 2 ∧ HasNextOnly (thrOf v (.ctx 5)) ∧ (thrOf v (.ctx 5)).wait = some { till := some 9 } ∧ v.time.now.toNat < 9 ∧
      AtStep g 5 3 ∧ HasNextOnly (thrOf g (.ctx 5)) ∧ (7 : DWord).extractLsb' 18 8 = 0 ∧ (7 : DWord).extractLsb' 0 18 ≠ (5 : CtxId) ∧
      stOf { g with gal := { live := [(5, { st := .resident }), (7, { st := .held })] } } 7 = .held ∧ AtStep (step5 5 0) 5 5 ∧ (thrOf (step5 5 0) (.ctx 5)).cur.lo.getLsbD 8 = false ∧
      (thrOf (step5 5 0) (.ctx 5)).sb = [] ∧ (regsOf (step5 5 0) (.ctx 5)).repa = 0 ∧ (thrOf (step5 5 0) (.ctx 5)).callPc = none ∧
      (thrOf (step5 5 0) (.ctx 5)).cur.lo.getLsbD 12 = false ∧ (thrOf (step5 5 0) (.ctx 5)).origin = none ∧ (thrOf (step5 5 0) (.ctx 5)).haltEnt = [] ∧ pinOf (step5 5 0) 5 = false ∧
      slotOf (step5 5 0) 5 = some 0 ∧ ((3 : Nat) : Word) ≠ 0 ∧ (9 : DWord).toNat ≤ ({ v with time := { now := 9 } } : State).time.now.toNat ∧ AtStep { v with time := { now := 9 } } 5 2 := by
  delta AtStep HasNextOnly; (with_reducible repeat' apply And.intro) <;> decide +kernel
theorem wit_waiting_signals : let w : State := { step5 0x0000000300000202 0 { wait := some { mask := 3 } } with gal := { live := [(5, { st := .resident, pend := 2 })] } }
    AtStep w 5 2 ∧ (liveOf w 5).pend &&& 3 ≠ 0 := by
  delta AtStep; (with_reducible repeat' apply And.intro) <;> decide +kernel
theorem wit_ReportIsWrittenToTheRing :
    let s := step5 0x0000000300000204 0 {} { repa := 0x100008006 }
    AtStep s 5 4 ∧ HasNextOnly (thrOf s (.ctx 5)) ∧ (regsOf s (.ctx 5)).repa ≠ 0 ∧
      (List.range 32).all (fun i => wrKey s (ctxAgent s 5) 0 (0x100008000 + i) == some (0x100008000 + i)) = true := by
  delta AtStep HasNextOnly; (with_reducible repeat' apply And.intro) <;> decide +kernel
theorem wit_StepFetchReadsTheStep :
    let s := ctx5 { stpa := 0x100000030 } { phase := .fetch }
    engineOn s 5 = true ∧ (thrOf s (.ctx 5)).phase = .fetch ∧ (thrOf s (.ctx 5)).line = none ∧ 0x100000030 % 16 = 0 ∧
      rdBytes s (ctxAgent s 5) 0x100000000 64 = some (List.replicate 64 0) ∧ (thrOf s (.ctx 5)).skip = false ∧ (thrOf s (.ctx 5)).holdPass = false ∧
      (stepIn (0x100000000, List.replicate 64 0) 0x100000030).lo = 0 ∧
      checkStep (stepIn (0x100000000, List.replicate 64 0) 0x100000030) {} false none = none := by
  (with_reducible repeat' apply And.intro) <;> decide +kernel
theorem wit_RoutineDispatchSetsTheRegisters :
    let s := { step5 0x280240 0 with reg := { act := [(aENG + 0x120, 1)] } }
    let u := { s with eng := { s.eng with cls := [(0, { dcache := [(768, 0x100001001)] })] } }
    AtStep u 5 0x40 ∧ 0x40 ≤ (0x40 : Byte).toNat ∧ (routineCheck u 5 (thrOf u (.ctx 5)).cur).isRight = true := by
  delta AtStep; (with_reducible repeat' apply And.intro) <;> decide +kernel
theorem wit_RoutinesEndTheirStep :
    let r : Regs := { at0 with stpa := 0x100001000, g := [(2, 0x1000), (3, 0)] }
    let s := ctx5 r { cur := { lo := 0x240, hi := 0 } }
    np.rep = false ∧ np.ext = none ∧ Ready s (.ctx 5) np [2] ∧ (regsOf s (.ctx 5)).stpa ≠ 0 ∧ 0x40 ≤ ((thrOf s (.ctx 5)).cur.lo.extractLsb' 0 8).toNat ∧
      HasNextOnly (thrOf s (.ctx 5)) ∧ (thrOf s (.ctx 5)).wqMove = none ∧ ((regsOf s (.ctx 5)).gr 2).extractLsb' 0 14 = 0x1000 ∧
      ((regsOf s (.ctx 5)).gr 3).extractLsb' 0 32 = 0 ∧ (regsOf s (.ctx 5)).repa = 0 ∧ Ready (ctx5 at0) (.ctx 5) np [2] ∧ (regsOf (ctx5 at0) (.ctx 5)).stpa = 0 := by
  delta HasNextOnly; (with_reducible repeat' apply And.intro) <;> first | exact ready_of (by decide +kernel) | decide +kernel
theorem wit_ChainInARoutineIsIllegal :
    let s := ctx5 { at0 with stpa := 0x100001000, exv := 0x100000100 }
    Ready s (.ctx 5) np [] ∧ CanEnter s (.ctx 5) ∧ (regsOf s (.ctx 5)).stpa ≠ 0 := by
  delta CanEnter; (with_reducible repeat' apply And.intro) <;> first | exact ready_of (by decide +kernel) | decide +kernel
theorem wit_DataStepsRequestTheirChannel :
    let pair := fun (a : DWord) => step5 0x420A a { run := some run0, src := { lo := 0xB } }
    let s := fun (lo : DWord) => step5 lo 0x100001000 { run := some run0 }
    let rx : List RxRec := [{ bytes := [1, 2, 3, 4], fin := { crcBad := false, portErr := false, code := 0 } }]
    AtStep (s 0x209) 5 9 ∧ misaligned (thrOf (s 0x209) (.ctx 5)).cur = false ∧ AtStep (s 0x20A) 5 0xA ∧ (thrOf (s 0x20A) (.ctx 5)).run = some run0 ∧
      AtStep (s 0x211) 5 0x11 ∧ AtStep (with28 (s 0x400280208) rx) 5 8 ∧ misaligned (thrOf (s 0x400280208) (.ctx 5)).cur = false ∧ run0.inEnd = none ∧
      notCapture (with28 (s 0x400280208) rx) 0x28 = false ∧ (unitOf (with28 (s 0x400280208) rx) 0x28).rx = rx ∧
      (unitOf (with28 (s 0x400280208) []) 0x28).rx = [] ∧ (unitOf (with28 (s 0x400280208) []) 0x28).st ≠ .disabled ∧ AtStep (s 0x210) 5 0x10 ∧
      suppressed (s 0x210) 5 = false ∧ AtStep (pair 0x100001008) 5 0xA ∧ (0x100001008 : DWord).toNat % 16 ≠ 0 ∧ AtStep (pair 0x100001010) 5 0xA ∧
      (0x100001010 : DWord).toNat % 16 = 0 ∧ (0x420A : DWord).getLsbD 14 = true ∧ HasNextOnly (thrOf (pair 0x100001008) (.ctx 5)) ∧
      chanOf (pair 0x100001008) 5 = none ∧ (regsOf (pair 0x100001008) (.ctx 5)).repa = 0 := by
  delta AtStep HasNextOnly; (with_reducible repeat' apply And.intro) <;> decide +kernel
theorem wit_MovesAndPortInstructionsIssue :
    let r : Regs := { at0 with g := [(2, 0x100001000), (3, 4)], exv := 0x100000100 }
    let rx : List RxRec := [{ bytes := [1, 2, 3, 4], fin := { crcBad := false, portErr := false, code := 0 } }]
    let s := with28 (ctx5 r) rx
    let b := with28 (ctx5 r { bus := some { unit := 0x28, off := 4, val := none, gd := 1 } }) []
    Ready s (.ctx 5) np [1, 2, 3] ∧ (1 : Reg) ≠ 2 ∧ (1 : Reg) ≠ 3 ∧ (2 : Reg) ≠ 3 ∧ (4 : BitVec 3).toNat ≤ 4 ∧ ((regsOf s (.ctx 5)).gr 3).toNat ≠ 0 ∧
      ((regsOf s (.ctx 5)).gr 4).toNat = 0 ∧ (thrOf s (.ctx 5)).md = none ∧ unitOk 0x28 = true ∧ unitAcc s 0x28 ≤ (thrLvl s (.ctx 5)).toNat ∧
      ((regsOf s (.ctx 5)).gr 2).toNat % elemSize (unitClass 0x28) = 0 ∧ 4 % elemSize (unitClass 0x28) = 0 ∧ canSend (unitClass 0x28) = true ∧
      (unitOf s 0x28).st = .active ∧ notCapture s 0x28 = false ∧ (unitOf s 0x28).rx = rx ∧ ((regsOf s (.ctx 5)).gr 2).extractLsb' 0 2 = 0 ∧
      suppressed s 5 = false ∧ Ready (with28 (ctx5 r) [] .disabled) (.ctx 5) np [1, 2] ∧ (unitOf (with28 (ctx5 r) [] .disabled) 0x28).st = .disabled ∧ CanEnter s (.ctx 5) ∧
      clocksOn b = true ∧ stOf b 5 = .resident ∧ ctxFenced b 5 = false ∧ (thrOf b (.ctx 5)).bus = some { unit := 0x28, off := 4, val := none, gd := 1 } ∧ (thrOf b (.ctx 5)).phase = .code ∧
      (unitOf b 0x28).st ≠ .disabled := by
  delta CanEnter; (with_reducible repeat' apply And.intro) <;> first | exact ready_of (by decide +kernel) | decide +kernel
/-- With context 5 pinned. -/
def pinned (s : State) : State := { s with reg := { s.reg with tabA := [(tkeyOf .cct 5 0, 0x400)] } }
theorem wit_WaitsBeginAndEnd :
    let r : Regs := { at0 with g := [(2, 3), (3, 9)] }
    let s := ctx5 r
    let w := ctx5 r { wait := some { till := some 9 } } { st := .waiting, waitk := 2 }
    Ready s (.ctx 5) np [1, 2, 3] ∧ (ctx5 r {} { st := .resident, pend := 2 }).gal.live.length = 1 ∧ (liveOf (ctx5 r {} { st := .resident, pend := 2 }) 5).pend &&& 3 ≠ 0 ∧
      (liveOf s 5).pend &&& 3 = 0 ∧ (regsOf s (.ctx 5)).gr 2 ≠ 0 ∧ (regsOf s (.ctx 5)).gr 4 = 0 ∧ s.time.now.toNat < ((regsOf s (.ctx 5)).gr 3).toNat ∧
      ((regsOf s (.ctx 5)).gr 3).toNat ≤ ({ s with time := { now := 9 } } : State).time.now.toNat ∧ Ready { s with time := { now := 9 } } (.ctx 5) np [1, 2, 3] ∧
      inRun w = true ∧ stOf w 5 = .waiting ∧ ctxFenced w 5 = false ∧ (thrOf w (.ctx 5)).wait = some { till := some 9 } ∧ (thrOf w (.ctx 5)).phase = .code ∧
      pinOf s 5 = false ∧ pinOf (pinned s) 5 = true ∧ Ready (pinned s) (.ctx 5) np [] ∧ Ready (mp0 at0) (.mp 0) np [] ∧
      mpRequests { mp0 at0 with flt := { nmtPend := true }, reg := { act := [(aMPC + 8, 0x00020000)] } } 0 ≠ [] ∧ mpRequests (mp0 at0) 0 = [] := by
  (with_reducible repeat' apply And.intro) <;> first | exact ready_of (by decide +kernel) | decide +kernel
theorem wit_SignalsAndResumesReachContexts :
    let r : Regs := { at0 with g := [(2, 7), (3, 2), (4, 0x4000000), (5, 0x40000)] }
    let s := fun (st : CtxState) => { ctx5 r with gal := { live := [(5, { st := .resident }), (7, { st := st })] } }
    Ready (s .held) (.ctx 5) np [1, 2, 3] ∧ ((regsOf (s .held) (.ctx 5)).gr 4).extractLsb' 26 38 ≠ 0 ∧ ((regsOf (s .held) (.ctx 5)).gr 2).extractLsb' 18 46 = 0 ∧
      stOf (s .free) 7 = .free ∧ stOf (s .halted) 7 = .halted ∧ stOf (s .held) 7 = .held ∧ stOf (s .waiting) 7 = .waiting ∧ (regsOf (s .held) (.ctx 5)).gr 3 ≠ 0 ∧
      (regsOf (s .held) (.ctx 5)).gr 6 = 0 ∧ ctxFenced (s .held) 7 = false ∧ ((regsOf (s .held) (.ctx 5)).gr 5).extractLsb' 18 8 ≠ 0 ∧
      ((regsOf (s .held) (.ctx 5)).gr 5).extractLsb' 18 8 ≠ (s .held).rm.addr ∧ presentDev (s .held) 1 = false ∧ thrSuppressed (s .held) (.ctx 5) = false ∧ inSlot (s .held) 7 = false ∧
      (thrOf (s .held) (.ctx 7)).heldAt = 0 := by
  (with_reducible repeat' apply And.intro) <;> first | exact ready_of (by decide +kernel) | decide +kernel
/-- A small store of context 5 in its store buffer. -/
def stored (a : DWord) (bs : List Byte) : State := { ctx5 at0 { sb := [{ addr := a, bytes := bs, lvl := 2 }] } with reg := { act := [(aSCT + 0x28, 1)] } }
theorem wit_StoresReachMemory :
    let p := mp0 at0 { sb := [{ addr := 0x110000000, bytes := [1, 2], lvl := 2 }, { addr := 0x100001000, bytes := [3], lvl := 2 }] }
    let send := fun (n : Byte) => stored 0x1000FC0C [n, 0, 0, 0]
    let rel := { stored 0x1000FC1C [1, 0, 0, 0] with sct := { mbox := [(3, { full := true })] } }
    Settled p ∧ clocksOn p = true ∧ (thrOf p (.mp 0)).sb[1]? = some { addr := 0x100001000, bytes := [3], lvl := 2 } ∧ mayDrain (thrOf p (.mp 0)).sb 1 = true ∧
      expressWord 0x100001000 = false ∧ wrKey p (thrAgent p (.mp 0)) 2 0x100001000 = some 0x100001000 ∧ partialUpset p (thrAgent p (.mp 0)) 2 0x100001000 1 = false ∧ stalled p (thrAgent p (.mp 0)) 0x100001000 = false ∧
      Settled (send 16) ∧ clocksOn (send 16) = true ∧ homeOf (send 16) 5 = 0 ∧ expressOn (send 16) = true ∧
      (∀ j, j < 4 → wrKey (send 16) (thrAgent (send 16) (.ctx 5)) 2 (0x1000FC0C + j) = some (0x1000FC0C + j)) ∧ leNat [16, 0, 0, 0] = 16 ∧ leNat [128, 0, 0, 0] = 128 ∧
      leNat [15, 0, 0, 0] < 16 ∧ 128 < leNat [129, 0, 0, 0] ∧ beNat (slice ((List.range 16).map fun o => memGet (send 16) (0x1000FA00 + 128 * 3 + o)) 6 2) = 0 ∧
      Settled rel ∧ (mboxOf rel 3).full = true ∧ (mboxOf rel 3).complete = true ∧
      (∀ j, j < 4 → wrKey rel (thrAgent rel (.ctx 5)) 2 (0x1000FC1C + j) = some (0x1000FC1C + j)) := by
  delta Settled; (with_reducible repeat' apply And.intro) <;> decide +kernel
theorem wit_AsynchronousCausesAreEntered :
    let r : Regs := { at0 with exv := 0x100000100, siga := 6, rlen := true }
    let s := ctx5 r {} { st := .resident, pend := 3 }
    let y := { ctx5 r with reg := { act := [(aENG + 0x200, 1)] } }
    inRun s = true ∧ stOf s 5 = .resident ∧ (thrOf s (.ctx 5)).phase = .code ∧ ctxFenced s 5 = false ∧ (thrOf s (.ctx 5)).bus = none ∧ (thrOf s (.ctx 5)).egress = none ∧ chanOf s 5 = none ∧
      CanEnter s (.ctx 5) ∧ (liveOf s 5).pend &&& (regsOf s (.ctx 5)).siga ≠ 0 ∧ inRun y = true ∧ (regsOf y (.ctx 5)).rlen = true ∧ act y (aENG + 0x200) ≠ 0 ∧
      (thrOf y (.ctx 5)).limit = none ∧ (thrOf (ctx5 r { watch := some 1, limit := some 2 }) (.ctx 5)).watch = some 1 ∧
      (thrOf (ctx5 r { limit := some 2 }) (.ctx 5)).limit = some 2 := by
  delta CanEnter; (with_reducible repeat' apply And.intro) <;> decide +kernel
theorem wit_InterruptPushesItsFrame :
    let s := { mp0 at0 with flt := { nmtPend := true }, reg := { act := [(aMPC + 8, 0x00020000)] } }
    let w := { mp0 at0 { loads := [(4, 9)], md := some (1, 2) } with
      flt := { nmtPend := true }, reg := { act := [(aMPC + 8, 0x00020000)] }, eng := { (mp0 at0 { loads := [(4, 9)], md := some (1, 2) }).eng with mps := [(0, { wfi := true })] } }
    inRun s = true ∧ (mpOf s 0).stopped = false ∧ (mpOf s 0).fenced = false ∧ (thrOf s (.mp 0)).egress = none ∧ (mpOf w 0).wfi = true ∧ (thrOf w (.mp 0)).md = some (1, 2) ∧
      (thrOf w (.mp 0)).loads = [(4, 9)] ∧ qualifies w 0 (mpOf w 0).lvl.toNat ((regsOf w (.mp 0)).sr.getLsbD 10) = some 9 ∧
      chanOf s (tkey (.mp 0)) = none ∧ qualifies s 0 (mpOf s 0).lvl.toNat ((regsOf s (.mp 0)).sr.getLsbD 10) = some 9 ∧
      (mpOf s 0).isp.toNat + 128 ≤ ((act s (aMPC + 8)).extractLsb' 7 11).toNat * 128 := by
  (with_reducible repeat' apply And.intro) <;> decide +kernel
/-- Cluster 0 with context 5 RESIDENT and context 7 READY, PRIO 3, and every slot taken or not. -/
def sched (k : Cluster) (full : Bool) : State :=
  { run with
    gal := { live := [(5, { st := .resident }), (7, { st := .ready })] }
    reg := { act := [(aENG + 0xA0, 1)], tabA := [(tkeyOf .cct 7 0, 3)] }
    eng := { occ := if full then (0, some 5) :: (List.range 15).map (fun i => (i + 1, some 9)) else [(0, some 5)], slots := [(5, some at0)], cls := [(0, k)] } }
theorem wit_SchedulingMovesContexts :
    let f := sched { loadBufs := [(7, {})] } false
    let p := sched {} true
    let c := sched { loadBufs := [(7, {})], switch := some (5, 7) } true
    let g : State := { run with gal := { live := [(5, { st := .ready })] }, eng := { slots := [(5, some at0)], cls := [(0, { saveBufs := [(5, at0)] })] } }
    clOn f 0 = true ∧ (inState f .ready).all (fun c => !pinOf f c) = true ∧ (readyOn f 0).contains 7 = true ∧ (readyOn f 0).all (fun d => d == 7) = true ∧
      isLoaded f 0 7 = true ∧ (freeSlots f 0).head? ≠ none ∧ clOn p 0 = true ∧ freeSlots p 0 = [] ∧ residentOn p 0 = [5] ∧ readyOn p 0 = [7] ∧
      prioOf p 5 < prioOf p 7 ∧ (clOf p 0).switch = none ∧ stOf p 5 = .resident ∧ (thrOf p (.ctx 5)).phase = .code ∧ (thrOf p (.ctx 5)).bus = none ∧ (thrOf p (.ctx 5)).egress = none ∧ chanOf p 5 = none ∧
      (act p (aENG + 0xA0)).extractLsb' 0 24 ≠ 0 ∧ homeOf p 5 = 0 ∧ clOn c 0 = true ∧ (clOf c 0).switch = some (5, 7) ∧ slotOf c 5 = some 0 ∧
      stOf c 7 = .ready ∧ isLoaded c 0 7 = true ∧ (clOf c 0).saveBufs.length < 2 ∧ homeOf p 7 = 0 ∧ isLoaded p 0 7 = false ∧ ranksTop p 0 7 = true ∧
      recUpset p 7 = false ∧ slotRegs p 7 = none ∧ storesDone p 7 = true ∧ clOn g 0 = true ∧ (clOf g 0).saveBufs = [(5, at0)] ∧ slotRegs g 5 = some at0 ∧ inSlot g 5 = false := by
  (with_reducible repeat' apply And.intro) <;> decide +kernel
theorem wit_ContextCommandsMoveTheLifeCycle :
    let s := fun (st : CtxState) => ctx5 at0 {} { st := st }
    let x : Xfer := { kind := .moveMem, count := 64, left := 64 }
    let h := { s .waiting with mov := { chans := [(5, x)] } }
    let b := { s .idle with gal := { cmdBusy := some (3, 4) } }
    let e := ctx5 { at0 with repa := 0x100008006 } {} { st := .held }
    clocksOn (s .free) = true ∧ (s .free).gal.cmdBusy = none ∧ stOf (s .free) 5 = .free ∧ stOf (s .idle) 5 = .idle ∧ stOf (s .halted) 5 = .halted ∧ stOf (s .held) 5 = .held ∧
      chanOf (s .held) 5 = none ∧ (thrOf (s .held) (.ctx 5)).sb = [] ∧ (regsOf (s .held) (.ctx 5)).repa = 0 ∧ (thrOf (s .held) (.ctx 5)).origin = none ∧
      stOf h 5 = .waiting ∧ chanOf h 5 = some x ∧ x.left ≠ 0 ∧ x.granted = true ∧ x.paused = false ∧ clocksOn b = true ∧ b.gal.cmdBusy ≠ none ∧ Reaches 2 2 ∧ (thrOf (s .held) (.ctx 5)).haltEnt = [] ∧
      (List.range 32).all (fun i => wrKey e (ctxAgent e 5) 0 (0x100008000 + i) == some (0x100008000 + i)) = true ∧ (regsOf e (.ctx 5)).repa ≠ 0 := by
  delta Reaches; (with_reducible repeat' apply And.intro) <;> decide +kernel
theorem wit_IndirectAccessesRunToTheirEnd :
    let g := { run with reg := { im := [(aGAL, 5), (aGAL + 4, 0x18)] } }
    let b := fun (a : AccPort) (op : AccOp) => { run with reg := { acc := [(a, op)] } }
    let r : AccOp := { write := false, sel := 0, data := 0 }
    let w : AccOp := { write := true, sel := 5 * 2 ^ 32 + 8 * 26, data := 7 }
    clocksOn g = true ∧ Reaches 2 2 ∧ Reaches 1 1 ∧ accBusy g .gal = false ∧ accRefuse g .gal (accSel g .gal) = false ∧ accRefuse g .wq (2 ^ 31 + 4) = true ∧
      accBusy (b .evt r) .evt = true ∧ ((b .evt r).reg.acc.find? fun e => e.1 == .evt) = some (.evt, r) ∧
      ((b .gal w).reg.acc.find? fun e => e.1 == .gal) = some (.gal, w) ∧ w.sel / 256 % 4 = 0 ∧ w.sel / 8 % 32 < 27 ∧
      ((b .wq w).reg.acc.find? fun e => e.1 == .wq) = some (.wq, w) ∧ (b .wq w).boot.st = .run ∧ (b .wq w).lnd.syncBusy = none := by
  delta Reaches; (with_reducible repeat' apply And.intro) <;> decide +kernel
theorem wit_CopiesAndCachesRunToTheirEnd :
    let j := { run with lnd := { judged := some (1, none) } }
    let l := { run with gal := { locks := [(4095, 0x80005)] } }
    let o := { run with eng := { orch := [(0x4000000, [1])] } }
    clocksOn run = true ∧ Reaches 2 2 ∧ run.gal.cctBusy = false ∧ run.lnd.judged = none ∧ j.lnd.judged ≠ none ∧ j.lnd.heldGo.contains 0 = false ∧
      swf tabReset run.reg.tabA = true ∧ ({ run with gal := { cctBusy := true } } : State).gal.cctBusy = true ∧
      ({ run with lnd := { syncBusy := some true } } : State).lnd.syncBusy = some true ∧ (lockOf l 4095).getLsbD 19 = true ∧ (lockOf run 4095).getLsbD 19 = false ∧
      run.eng.invBusy = false ∧ inRun o = true ∧ (clOf o 32).mode ≠ .fenced ∧ (orchLine o 0 0x100000000).isSome = true := by
  delta Reaches; (with_reducible repeat' apply And.intro) <;> decide +kernel
theorem wit_RegistersAreWrittenAndRead :
    Settled run ∧ clocksOn run = true ∧ 0x010000 % 4 = 0 ∧ ((List.range 0x4000).any fun i => match regAt (4 * i) with | some (r, _) => r.acc == .rw && r.ls | none => false) = true ∧
      regAt 0x10FFFC = none ∧ ((regAt (aMOV + 0x20)).map fun r => r.1.acc) = some .rc ∧ Reaches 2 2 ∧ Reaches 1 1 ∧ (1 : Word).getLsbD 0 = true ∧
      ({ run with boot := { st := .run, stbyBusy := true } } : State).boot.stbyBusy = true := by
  delta Reaches Settled; (with_reducible repeat' apply And.intro) <;> decide +kernel
theorem wit_ChannelCommandsAnswer :
    let x : Xfer := { kind := .moveMem, count := 64, left := 64 }
    let s := fun (y : Xfer) (c : ChSt) (busy : Bool) => { ctx5 at0 {} { st := .waiting, waitk := 6 } with mov := { chans := [(5, y)], chst := [(5, c)], cmdBusy := busy } }
    let n := { ctx5 at0 { wait := some {} } { st := .waiting, waitk := 6 } with mov := { bulkPaused := true, chst := [(5, { paused := true })] } }
    let b := { ctx5 at0 { wait := some {} } { st := .waiting, waitk := 6 } with mov := { bulkPaused := true } }
    clocksOn n = true ∧ Reaches 1 1 ∧ Reaches 2 1 ∧ (s x {} true).mov.cmdBusy = true ∧ (s x {} false).mov.cmdBusy = false ∧ (chstOf (s x { en := .disabled } false) 5).en = .disabled ∧
      (chstOf (s x { en := .draining } false) 5).en = .draining ∧ (chstOf (s x {} false) 5).en = .active ∧ inFlight (s x {} false) 5 = true ∧ inFlight n 5 = false ∧
      chanOf n 5 = none ∧ chanOf (s x {} false) 5 = some x ∧ x.granted = true ∧ x.paused = false ∧ isPortInstr x = false ∧ isPortInstr { x with kind := .precv } = true ∧
      (chstOf n 5).paused = true ∧ stOf n 5 = .waiting ∧ (liveOf n 5).waitk = 6 ∧ n.mov.bulkPaused = true ∧ bulkWaiters b = [5] ∧
      (chstOf { n with mov := { chst := [(5, { en := .draining })] } } 5).en = .draining ∧ inFlight { n with mov := { chst := [(5, { en := .draining })] } } 5 = false := by
  delta Reaches; (with_reducible repeat' apply And.intro) <;> decide +kernel
/-- A channel of 32 bytes from the first words of shared SRAM to 0x1000 above. -/
def xfer32 (k : XKind) : Xfer :=
  { kind := k, src := 0x100000000, dst := 0x100001000, count := 32, left := 32, gd := 1, ga := 2, gb := 3, data := if k = .moveIn then List.replicate 32 7 else [] }
theorem wit_ChannelsCompleteAndStop :
    let on := fun (k : XKind) => { xfer32 k with running := true }
    let m := { ctx5 at0 with mov := { chans := [(5, on .move)] } }
    let fin : RxEnd := { crcBad := false, portErr := false, code := 0 }
    let i := { step5 0x2000000208 0x100001000 { run := some { inData := List.replicate 32 7, inEnd := some fin } } with
      gal := { live := [(5, { st := .waiting, waitk := 6 })] }, mov := { chans := [(5, on .moveIn)] } }
    let w := { ctx5 at0 {} { st := .waiting } with mov := { chans := (5, { on .moveMem with age := 1 }) :: (7, xfer32 .moveMem) :: (List.range 63).map fun i => (100 + i, on .moveMem) }, reg := { tabA := [(tkeyOf .cct 7 0, 9)] } }
    let y : Xfer := { xfer32 .moveMem with stopping := some .timed }
    let z := { ctx5 at0 {} { st := .waiting, waitk := 6 } with mov := { chans := [(5, { y with stopping := some .bulk })], cmdBusy := true, cmdCtx := 5 } }
    let p := fun (t : DWord) => { step5 0x20A 0 { src := { lo := 0xB } } with gal := { live := [(5, { st := .waiting })] }, mov := { chans := [(5, y)], cmdBusy := true, cmdCtx := 5 }, reg := { tabA := [(tkeyOf .cct 5 0, t)] } }
    Settled m ∧ clocksOn m = true ∧ chanOf m 5 = some (on .move) ∧ chanRuns m 5 (on .move) = true ∧ limiters m 5 (on .move) = [] ∧ m.memc.upset = [] ∧
      (∀ i, i < 32 → rdKey m (chanAgent 5 (on .move)) (0x100000000 + i) = some (0x100000000 + i)) ∧
      (∀ i, i < 32 → wrKey m (chanAgent 5 (on .move)) 0 (0x100001000 + i) = some (0x100001000 + i)) ∧ moveWatch m 5 (on .move) 32 = none ∧
      chanOf i 5 = some (on .moveIn) ∧ chanRuns i 5 (on .moveIn) = true ∧ stOf i 5 = .waiting ∧ (thrOf i (.ctx 5)).phase = .step ∧
      (thrOf i (.ctx 5)).cur.lo.extractLsb' 0 8 = 8 ∧ HasNextOnly (thrOf i (.ctx 5)) ∧ (on .moveIn).data.length = 32 ∧
      ((thrOf i (.ctx 5)).cur.lo.extractLsb' 32 32).toNat = 32 ∧ fenceWait i 5 = false ∧ Settled w ∧
      takesMover w 7 5 (xfer32 .moveMem) { on .moveMem with age := 1 } = true ∧ limiters w 5 (xfer32 .moveMem) = [] ∧ written (xfer32 .moveMem) = 0 ∧
      atBeat (srcPlan w 5 (xfer32 .moveMem)).1 0 32 = true ∧ Settled (p 0) ∧ chanOf (p 0) 5 = some y ∧ timedOf (p 0) 5 = false ∧ timedOf (p 0x800) 5 = true ∧
      y.read = written y ∧ stOf (p 0x800) 5 = .waiting ∧ (thrOf (p 0x800) (.ctx 5)).cur.lo.extractLsb' 0 8 = 0xA ∧ HasNextOnly (thrOf (p 0x800) (.ctx 5)) ∧
      (regsOf (p 0x800) (.ctx 5)).repa = 0 ∧ (thrOf (p 0x800) (.ctx 5)).src.lo.extractLsb' 0 8 = 0xB ∧ (memIf m false).retraining = false ∧ (memIf m true).retraining = false ∧
      y.kept = [] ∧ y.left ≤ y.count ∧ (p 0).mov.cmdBusy = true ∧ (p 0).mov.cmdCtx = 5 ∧ stOf z 5 = .waiting ∧ (liveOf z 5).waitk = 6 ∧ chanOf z 5 = some { y with stopping := some .bulk } := by
  delta HasNextOnly Settled; (with_reducible repeat' apply And.intro) <;> decide +kernel
/-- Queue 1 with a live half, at 0x100010000, and its settings. -/
def queue1 (x : WqLive) (s : State := run) (w3 : DWord := 0x410) : State :=
  { s with wq := { q := [(1, { x with base := 0x100010000 })] }, reg := { tabA := [(tkeyOf .wq 1 0, 0x100010000), (tkeyOf .wq 1 1, 0x0000000180010104), (tkeyOf .wq 1 2, 0x100000000), (tkeyOf .wq 1 3, w3)] } }
/-- An entry of a format and opcode for context 7. -/
def entry7 (fmt op : Byte) (err : BitVec 4 := 0) (started : Bool := false) : WqEntry :=
  { cnt := 0, bytes := [fmt, op, 0, 0, 7, 0, 0, 0] ++ List.replicate 56 0, err := err, started := started }
theorem wit_QueuesFollowTheirStates :
    let q := fun (st : EnState) => queue1 { st := st }
    let own := { q .active with mem := [(0x100010000, 0x81)] }
    clocksOn (q .active) = true ∧ Reaches 1 1 ∧ (wqOf (q .active) 1).st = .active ∧ (wqOf (q .disabled) 1).st = .disabled ∧ baseOk (q .disabled) 1 = true ∧
      baseOk run 1 = false ∧ (wqOf (q .draining) 1).st = .draining ∧ (wqOf (q .error) 1).st = .error ∧ (queue1 { ents := [entry7 1 1 0 true] }).wq.q.length = 1 ∧
      (entry7 1 1 0 true).started = true ∧ (entry7 1 1 0 true).done = false ∧ (wqOf (q .active) 1).head = (wqOf (q .active) 1).pubhead ∧ (wqW (q .active) 1 3).getLsbD 10 = true ∧
      mayFetch (q .active) 1 = true ∧ rdBytes (q .active) .sct 0x100010000 64 = some (List.replicate 64 0) ∧ rdBytes own .sct 0x100010000 64 = some (0x81 :: List.replicate 63 0) ∧
      (0x81 : Byte).getLsbD 7 = true ∧ wrKey own .sct 2 0x100010000 = some 0x100010000 ∧
      mayFetch { q .active with memc := { upset := [0x100010000] } } 1 = true ∧ rdBytes { q .active with memc := { upset := [0x100010000] } } .sct 0x100010000 64 = none ∧
      (wqOf (queue1 { st := .active, polling := some 3 }) 1).polling = some 3 ∧ startEntry { ents := [entry7 1 9 2] } = some (entry7 1 9 2) ∧ (entry7 1 9 2).err ≠ 0 ∧
      (wqOf (queue1 { st := .active, coal := some 3, head := 1 }) 1).coal = some 3 ∧ (wqW (q .active) 1 2).extractLsb' 32 24 ≠ 0 ∧ (wqW (q .active) 1 1).getLsbD 31 = true ∧
      baseOk (q .draining) 1 = true ∧ baseOk { run with wq := { q := [(1, { st := .draining })] } } 1 = false ∧ (wqOf (queue1 { st := .active, rung := true }) 1).rung = true ∧
      mayFetch (queue1 { st := .active, rung := true }) 1 = true ∧ (wqOf (queue1 { st := .draining, enPend := true }) 1).enPend = true ∧
      (sessOf run 0).st ≠ .opened ∧ (sessOf { run with sct := { sess := [(0, { st := .opened, ver := 0x20, win := 4 })] } } 0).win.toNat = 4 := by
  delta Reaches; (with_reducible repeat' apply And.intro) <;> decide +kernel
theorem wit_QueueEntriesAreStarted :
    let s := fun (e : WqEntry) (st : CtxState) => queue1 { st := .active, ents := [e], tokens := 1 } (with28 { run with gal := { live := [(7, { st := st })] } } [])
    let good := fun (e : WqEntry) (st : CtxState) => (nextQueue (s e st)).map (·.1) = some 1 ∧ (nextQueue (s e st)).bind (fun p => startable p.2 1) = some e ∧ eCtx e.bytes = 7
    good (entry7 3 1) .idle ∧ good (entry7 1 1) .idle ∧ good (entry7 1 1) .halted ∧ good (entry7 1 4) .idle ∧ good (entry7 1 2) .held ∧ good (entry7 1 3) .idle ∧
      good (entry7 1 5) .free ∧ good (entry7 1 5) .held ∧ clocksOn (s (entry7 3 1) .idle) = true ∧ eFmt (entry7 3 1).bytes = 3 ∧ eOp (entry7 1 4).bytes = 4 ∧
      ((recOf (s (entry7 3 1) .idle) 7).sr.extractLsb' 8 2).toNat ≤ 0 ∧ isLocal (s (entry7 1 2) .held) (eRing (entry7 1 2).bytes) = true ∧
      ctxFenced (s (entry7 1 2) .held) 7 = false ∧ haltable (s (entry7 1 5) .held) 7 = true ∧ chanOf (s (entry7 1 5) .held) 7 = none ∧
      inSlot (s (entry7 3 1) .idle) 7 = false ∧ (thrOf (s (entry7 1 5) .held) (.ctx 7)) = {} ∧ (regsOf (s (entry7 1 5) .held) (.ctx 7)).repa = 0 := by
  (with_reducible repeat' apply And.intro) <;> decide +kernel
/-- Landing settings: a period of 10,000 ns and a guard of 2,000 ns, in both banks. -/
def lnds (l : Lnd) (now : DWord) : State :=
  { run with lnd := l, time := { now := now }, reg := { act := [(aPERIOD, 10000), (aGUARD, 2000)], stg := [(aPERIOD, 10000), (aGUARD, 2000)], im := [(aTGT, 4)] } }
theorem wit_CommitsArePendingThenJudged :
    let c : Commit := { tgt := 2, seq := 1, ring := false, rcv := 0 }
    let s := lnds { num := 1 } 15000
    let b := { s with reg := { s.reg with stg := [(aPROFILE, 1)] } }
    clocksOn s = true ∧ s.boot.st = .run ∧ (imr s aTGT - s.lnd.num.setWidth 32).toNat = 3 ∧ (imr (lnds { num := 4 } 0) aTGT - (4 : Word)).toNat = 0 ∧
      2 ^ 31 ≤ (imr (lnds { num := 5 } 0) aTGT - (5 : Word)).toNat ∧ changesFreq s = false ∧ changesFreq b = true ∧ s.lnd.pend = none ∧
      s.time.now.toNat < (lndTime s 2).toNat ∧ spareDue s (lndTime s 2) = false ∧ s.lnd.judged = none ∧ (lndTime s 4).toNat < (lnds { num := 1 } 39000).time.now.toNat + (act s aGUARD).toNat ∧
      firstFail s c 2 true = 0 ∧ firstFail s { c with seq := 9 } 2 true ≠ 0 ∧ c.tgt.toNat ≤ 2 ∧ 2 < ({ c with tgt := 3 } : Commit).tgt.toNat ∧ c.revert = none := by
  (with_reducible repeat' apply And.intro) <;> decide +kernel
theorem wit_LandingsSwapTheBanks :
    let c : Commit := { tgt := 2, seq := 1, ring := false, rcv := 0 }
    let s := fun (j : Option (Commit × BitVec 4)) => lnds { num := 1, judged := some (2, j) } 19999
    Settled (s none) ∧ clocksOn (s none) = true ∧ (s none).boot.st = .run ∧ (s none).lnd.held = [] ∧ (s none).eng.sparePending = false ∧ (s none).eng.noSpareAt = [] ∧
      period (s none) ≠ 0 ∧ lndAt (s none) (s none).time.now ≤ 2 ∧ (s none).lnd.heldGo = [] ∧ (s none).lnd.pend = none ∧ (2 : DWord) ≠ 0 ∧ (s none).time.now.toNat < (lndTime (s none) 3).toNat ∧
      (s (some (c, 0))).lnd.judged = some (2, some (c, 0)) ∧ c.revert = none ∧ (s (some (c, 3))).lnd.judged = some (2, some (c, 3)) ∧ (3 : BitVec 4) ≠ 0 := by
  delta Settled; (with_reducible repeat' apply And.intro) <;> decide +kernel
/-- Address 2 with manager 1 and one message in the receive buffer of a session. -/
def sess (k : Nat) (m : RxMsg) (x : Sess := {}) : State :=
  { run with
    rm := { addr := 2, role := .worker, mgr := 1 }
    sct := { sess := [(k, { x with st := .opened, ver := 0x22, win := 4, rxq := [m] })] } }
/-- Session k has the message, it is good, and nothing is in the way. -/
def heads (s : State) (k : Nat) (m : RxMsg) : Bool := ((sessOf s k).rxq == [m]) && (badReason s k m).isNone && !sctWriting s k && clocksOn s
/-- Room to send on session k. -/
def room (s : State) (k : Nat) : Bool := ((sessOf s k).st == .opened) && (sessOf s k).waitq.isEmpty && decide ((sessOf s k).unacked.length < (sessOf s k).win.toNat)
/-- A message of peer 1. -/
def peer1 (typ : Byte) (body : List Byte) : RxMsg := { typ := typ, src := 1, dst := 2, session := 0x8000, seq := 1, body := body }
/-- Its state. -/
def at1 (typ : Byte) (body : List Byte) : State := sess 0x41 (peer1 typ body)
/-- A message is at the head of session 0x41, and may be acted on. -/
def head1 (s : State) (typ : Byte) (body : List Byte) : Bool := heads s 0x41 (peer1 typ body) && room s 0x41
theorem heads_of {s : State} {k : Nat} {m : RxMsg} (h : heads s k m = true) : Heads s k m := by
  simp only [heads, Bool.and_eq_true, beq_iff_eq, Option.isNone_iff_eq_none, Bool.not_eq_true'] at h
  exact ⟨h.1.1.1, h.1.1.2, h.1.2⟩
theorem can_send_of {s : State} {k : Nat} (h : room s k = true) : CanSend s k := by
  simp only [room, Bool.and_eq_true, beq_iff_eq, List.isEmpty_iff, decide_eq_true_eq] at h
  exact ⟨h.1.1, h.1.2, h.2⟩
/-- The big-endian 8 bytes of a small number. -/
def b8 (n : Byte) : List Byte := [0, 0, 0, 0, 0, 0, 0, n]
theorem wit_RingLandingsAreStagedAndReverted :
    let st := b8 3 ++ [0, 1, 0, 1] ++ [0, 0x01, 0x00, 0x00] ++ [0, 0, 0, 1]
    let mgr := fun (t : Byte) (b : List Byte) (l : Lnd) => { at1 t b with lnd := l, rm := { addr := 2, role := .manager, mgr := 2, table := [{ addr := 1 }] } }
    let ack : List Byte := b8 3 ++ [0, 6, 1, 0, 0, 0, 0, 0]
    head1 (at1 0x20 st) 0x20 st = true ∧ (at1 0x20 st).lnd.stage = [] ∧ st.length = 20 ∧ bFld st 12 4 % 4 = 0 ∧
      head1 (at1 0x21 (b8 3 ++ [0, 6, 1, 0])) 0x21 (b8 3 ++ [0, 6, 1, 0]) = true ∧ ((3 : Word) - (at1 0x21 []).lnd.num.setWidth 32).toNat = 3 ∧
      head1 (at1 0x23 (b8 3 ++ [0, 5, 0, 7])) 0x23 (b8 3 ++ [0, 5, 0, 7]) = true ∧ head1 (mgr 0x22 ack {}) 0x22 ack = true ∧ (mgr 0x22 ack {}).lnd.ring = [] ∧
      head1 (mgr 0x22 ack { ring := [{ l := 3, prior := 5 }] }) 0x22 ack = true ∧ (mgr 0x22 ack { ring := [{ l := 3, prior := 5 }] }).lnd.pend = none ∧
      (mgr 0x22 ack { ring := [{ l := 3, prior := 5 }] }).rm.role = .manager ∧ ack.getD 10 0 = 1 ∧ BitVec.ofNat 16 (bFld ack 8 2) = (5 : Half) + 1 ∧
      head1 (mgr 0x22 ack { ring := [{ l := 2, prior := 4, rev := some [1] }] }) 0x22 ack = true ∧ [(1 : Byte)].contains 1 = true ∧ BitVec.ofNat 16 (bFld ack 8 2) = (4 : Half) + 2 ∧
      (workers (mgr 0x22 ack { ring := [{ l := 3, prior := 5, acks := [1] }] })).all (fun a => [(1 : Byte)].contains a) = true ∧ workers (mgr 0x22 ack {}) = [1] ∧
      (workers (mgr 0x22 ack { ring := [{ l := 3, prior := 5 }] })).all (fun a => ([] : List Byte).contains a) = false ∧
      (mgr 0x22 ack { pend := some { tgt := 3, seq := 1, ring := true, rcv := 0 } }).lnd.ring = [] ∧ (0 : DWord).toNat < (3 : DWord).toNat := by
  (with_reducible repeat' apply And.intro) <;> decide +kernel
/-- A frame of the SCT for address dst from 1. -/
def sctFrame (dst flags : Byte) (rtag : Option Half) : Frame :=
  { da := groupAddr run, sa := 0, ctag := none, rtag := rtag, etype := (act run aSCT).setWidth 16, body := hdr16 (hdr14 0x22 0x16 flags dst 1 9 0x8000 1 12) ++ List.replicate 12 0 }
/-- The device at address 2 with both links UP and session 0x41 OPEN. -/
def linked (x : Sct := {}) (r : Ring := {}) : State :=
  { run with
    rm := { addr := 2, role := .worker, mgr := 1 }
    ring := { r with a := { link := 2 }, b := { link := 2 } }
    sct := { x with sess := [(0x41, { st := .opened, ver := 0x22, win := 4 })] } }
/-- The same in the profile SWIFT. -/
def swift : State := { linked with boot := { st := .run, profile := 1 } }
theorem wit_FramesAreJudgedAndTaken :
    let f := sctFrame 2 0 none
    let g := sctFrame 3 0 none
    let h := sctFrame 2 2 none
    let m := (parseSct f false).1
    let e := { linked with
      reg := { act := [(aSCT + 0x28, 1), (aSCT + 0x100, 0x80000000 + 0x160000 + 0x8000), (aSCT + 0x104, 5)], tabA := [(tkeyOf .cct 5 0, 0x400)] }
      gal := { live := [(5, { st := .idle })] } }
    let b := { linked with sct := { mbox := [(3, { full := true, complete := false })] } }
    clocksOn linked = true ∧ linked.boot.st = .run ∧ (portOf linked false).st = .active ∧ (portOf linked false).link = 2 ∧ frameLen f ≤ maxLen linked false ∧
      maxLen linked false < frameLen { f with body := List.replicate 10000 0 } ∧ badCut linked false .none { f with body := List.replicate 10000 0 } = false ∧
      badCut linked false .none f = false ∧ (act linked (aPort false + 0x90)).getLsbD 0 = false ∧ f.etype ≠ 0x8808 ∧ isSct linked f = true ∧
      parseSct f false = (m, m.body.length, true) ∧ m.src ≠ linked.rm.addr ∧ srcBad m.src = false ∧ rxKey m = some 0x41 ∧ (sessOf linked 0x41).st = .opened ∧
      m.ver = (sessOf linked 0x41).ver ∧ m.dst = linked.rm.addr ∧ m.seq = (sessOf linked 0x41).e ∧ (sessOf linked 0x41).accCnt + 1 < ((act linked (aSCT + 0x18)).extractLsb' 0 6).toNat ∧
      badReason linked 0x41 m = none ∧ (frerOf (linked {} { frer := [(4097, { hist := [9] })] }) (4096 + (byteAt (sctFrame 2 0 (some 9)).body 4).toNat)).hist.contains 9 = true ∧
      isMine linked 3 = false ∧ (parseSct g false).1.hops ≠ 0 ∧ (portOf linked true).st = .active ∧
      frameLen (hopFrame g) ≤ maxSdu linked true (pcpQueue linked true (pcpOf linked false g)) ∧
      queueBytes (egQ linked true (pcpQueue linked true (pcpOf linked false g))) + frameLen (hopFrame g) ≤
        ((act linked (aPort true + 0x60 + 4 * (pcpQueue linked true (pcpOf linked false g)))).extractLsb' 16 8).toNat * 0x10000 ∧
      portBytes linked false + portBytes linked true + frameLen (hopFrame g) ≤ 28 * 0x100000 ∧ expressHit e 0x41 (parseSct h false).1 = some 0 ∧ expressSlot e 5 = some 0 ∧
      (mboxOf e 0).full = false ∧ scratchOk e 0 = true ∧ stOf e 5 ≠ .waiting ∧ (mboxOf b 3).full = true ∧ (mboxOf b 3).complete = false ∧ scratchOk b 32 = true ∧
      (frerOf (linked {} { frer := [(8191, { hist := [9] })] }) 8191).hist ≠ [] ∧ frerTmo linked 8191 ≠ 0 ∧ (mboxOf b 3).copy = none ∧
      linked.rm.role ≠ .unaddressed ∧ m.session ≠ 0xFFFF ∧ 6 ≤ m.typ.toNat ∧ m.typ ≠ 0x3E ∧ m.typ ≠ 0x3F ∧ m.dst ≠ 0xFF ∧ m.flags = 0 ∧ m.body.length ≤ 9000 ∧
      (sessOf linked 0x41).rxq = [] ∧ (sessOf linked 0x41).win ≠ 0 ∧ (parseSct (sctFrame 3 2 none) false).1.flags.getLsbD 1 = true ∧ swift.boot.profile = 1 ∧
      clocksOn swift = true ∧ (portOf swift true).st = .active ∧ (parseSct h false).1.ver = 0x22 := by
  (with_reducible repeat' apply And.intro) <;> decide +kernel
/-- A sessionless message. -/
def less (typ : Byte) (body : List Byte) (session : Half := 0xFFFF) : RxMsg := { typ := typ, src := 1, dst := 0xFF, session := session, body := body }
/-- A state with a message in the inbox. -/
def inbox (m : RxMsg) (rm : Rm := {}) (l : Sparse Sess := []) : State := { run with rm := rm, sct := { inbox := [m], sess := l } }
theorem wit_SessionsOpenAndEnd :
    let hello := less 0x01 ([0x10, 0x22] ++ [0, 4] ++ [0, 0] ++ [0, 63] ++ b8 1)
    let bad := less 0x01 ([0x30, 0x32] ++ [0, 4] ++ [0, 0] ++ [0, 63] ++ b8 1)
    let t : TxMsg := { typ := 0x16, body := [], seq := 1 }
    let o := fun (n : Nat) => { run with sct := { sess := [(0x41, { st := .opened, unacked := [t], timeouts := n, accAt := some 3 }), (0x42, {})] } }
    let h := { run with sct := { sess := [(1, { st := .opened, unacked := [t], timeouts := 9, accAt := some 3 })] } }
    let w := { run with rm := { addr := 2, role := .worker, table := [{ addr := 1 }] } }
    let nak : RxMsg := { typ := 0x3F, src := 1, session := 0x8000, body := [0, 0, 0, 1, 1] ++ List.replicate 11 0 }
    let sf : RxMsg := { typ := 0x3F, src := 1, session := 0x8000, seq := 1, body := [0, 0, 0, 1, 0x0A] ++ List.replicate 11 0 }
    let g := sess 0x41 sf { sigs := [(1, 7)] }
    clocksOn (inbox hello) = true ∧ bFld hello.body 6 2 = 63 ∧ (sessOf (inbox hello) 63).st ≠ .opened ∧ chooseVer (inbox hello) 0x10 0x22 = some 0x22 ∧
      chooseVer (inbox bad) 0x30 0x32 = none ∧ (less 0x02 [0x22]).body.getD 0 0 ≠ 0 ∧ (sessOf (inbox (less 0x02 [0x22]) {} [(0x41, { helloSent := true })]) 0x41).helloSent = true ∧
      attached w = true ∧ w.rm.table.any (fun t => t.addr == 1 && t.present && !t.host) = true ∧ (1 : Byte).toNat < w.rm.addr.toNat ∧ (sessOf w 0x41).st ≠ .opened ∧
      (sessOf (o 0) 0x41).unacked = [t] ∧ 0 + 1 < ((act (o 0) (aSCT + 0x10)).extractLsb' 8 4).toNat ∧ ((act (o 9) (aSCT + 0x10)).extractLsb' 8 4).toNat ≤ 15 + 1 ∧
      (sessOf (o 0) 0x41).accAt = some 3 ∧ (sessOf (o 0) 0x41).waitq = [] ∧ (List.range 16).all (fun t => tgtSess run (t + 4) != 1) = true ∧ Reaches 2 2 ∧
      rxKey (less 0x3E (b8 0) 0x8000) = some 0x41 ∧
      (sessOf (o 0) 0x41).unacked.filter (fun z => decide (2 ^ 31 ≤ ((1 : Word) - z.seq).toNat)) ≠ (sessOf (o 0) 0x41).unacked ∧ nakKey nak = 0x41 ∧ nak.body.getD 4 0 = 1 ∧
      heads g 0x41 sf = true ∧ g.sct.inbox = [] ∧ ((sessOf g 0x41).sigs.find? fun e => e.1 == 1) = some (1, 7) ∧ (sessOf h 1).unacked = [t] ∧ (sessOf h 1).st = .opened ∧
      (sessOf h 1).waitq = [] ∧ (List.range 16).all (fun t => tgtSess h (t + 4) != 1) = true ∧ (sessOf h 1).accAt = some 3 ∧ t.seq = (1 : Word) := by
  delta Reaches; (with_reducible repeat' apply And.intro) <;> decide +kernel
theorem wit_SessionMessagesAct :
    let rd : List Byte := [2, 0] ++ [0, 1, 0, 0, 0, 0] ++ [0, 0, 0, 16]
    let rdBad : List Byte := [0, 0] ++ [0, 0, 0, 0x11, 0, 0] ++ [0, 0, 0, 16]
    let wr : List Byte := [2, 1] ++ [0, 1, 0, 0, 0, 0] ++ [1, 2, 3, 4]
    let wrBad : List Byte := [4, 1] ++ [0, 0, 0, 1, 0, 0] ++ [1, 2, 3, 4]
    let post := fun (f : Byte) => [0, 0, 0, 7, f, 0, 0, 0] ++ b8 8 ++ List.replicate 32 0
    let with7 := fun (t : Byte) (b : List Byte) (st : CtxState) => { at1 t b with gal := { live := [(7, { st := st })] } }
    let req := fun (t : Byte) (b : List Byte) (w : Bool) => sess 0x41 { peer1 t b with flags := 4 } { reqs := [(9, w)] }
    let full := { at1 0x10 rd with mov := { chans := (List.range 64).map fun i => (0x80000 + i, { kind := .sctRead }) } }
    let rdd : List Byte := List.replicate 8 0 ++ [0, 0, 0, 9, 1]
    let wra : List Byte := [0, 0, 0, 9, 0, 0, 0, 0]
    let qs := { at1 0x15 [0, 1, 0, 0] with wq := { q := [(1, { st := .active, polling := some 3 })] } }
    let bal := b8 3 ++ [0, 0, 0, 1] ++ [0, 4, 0, 5] ++ [0, 8, 0, 7] ++ b8 9
    let tko := [0, 4, 0, 5] ++ [0, 8, 0, 7] ++ b8 3 ++ [1, 0, 0, 0]
    let pair := fun (t : Byte) (b : List Byte) (hsb : DWord) => { at1 t b with
      rm := { addr := 2, role := .worker, mgr := 1, pairs := [(0, { st := .paired })] }, reg := { tabA := [(tkeyOf .pair 0 0, 7 + 1 * 2 ^ 18 + 5 * 2 ^ 26 + hsb)] } }
    let flt := [0, 0x80] ++ List.replicate 14 0
    let mgr := { at1 0x38 flt with rm := { addr := 2, role := .manager, mgr := 2 } }
    let seg := { at1 0x38 flt with
      rm := { addr := 2, role := .manager, mgr := 2, links := [(7, 6)], table := [{ addr := 3, present := false, pos := 1 }, { addr := 7, pos := 2 }, { addr := 6, pos := 3 }] } }
    head1 (at1 0x10 rd) 0x10 rd = true ∧ bFld rd 8 4 = 16 ∧ sctEntry (at1 0x10 rd) = some 0x80000 ∧ accessBad (at1 0x10 rd) 0x41 2 (bFld rd 2 6) 16 false = none ∧
      head1 (at1 0x10 rdBad) 0x10 rdBad = true ∧ accessBad (at1 0x10 rdBad) 0x41 0 (bFld rdBad 2 6) 16 false ≠ none ∧ sctBusy (at1 0x10 rdBad) 0x41 = false ∧
      head1 (at1 0x12 wr) 0x12 wr = true ∧ accessBad (at1 0x12 wr) 0x41 2 (bFld wr 2 6) 4 true = none ∧ head1 (at1 0x12 wrBad) 0x12 wrBad = true ∧
      accessBad (at1 0x12 wrBad) 0x41 4 0x10000 4 true ≠ none ∧ head1 (with7 0x14 (post 3) .idle) 0x14 (post 3) = true ∧ targetCtx (post 1) = 7 ∧
      head1 (with7 0x14 (post 1) .free) 0x14 (post 1) = true ∧ stOf (with7 0x14 (post 1) .free) 7 = .free ∧ stOf (with7 0x14 (post 3) .idle) 7 = .idle ∧
      heads (req 0x11 rdd false) 0x41 { peer1 0x11 rdd with flags := 4 } = true ∧ bFld rdd 2 6 ≠ 0x03006C ∧ heads (req 0x13 wra true) 0x41 { peer1 0x13 wra with flags := 4 } = true ∧
      head1 qs 0x15 [0, 1, 0, 0] = true ∧ (wqOf qs 1).st = .active ∧ head1 (with7 0x16 ([0, 0, 0, 7] ++ b8 0) .held) 0x16 ([0, 0, 0, 7] ++ b8 0) = true ∧
      ctxFenced (with7 0x16 [] .held) 7 = false ∧ head1 (with7 0x19 [0, 0, 0, 7, 0, 0, 0, 1] .held) 0x19 [0, 0, 0, 7, 0, 0, 0, 1] = true ∧
      head1 (pair 0x30 bal 0) 0x30 bal = true ∧ bal.length = 28 ∧ bFld bal 16 4 / 0x40000 = 2 ∧ pairNaming (pair 0x30 bal 0) 7 1 5 = some 0 ∧
      (pairL (pair 0x30 bal 0) 0).st = .paired ∧ head1 (pair 0x31 tko 0x100000000000) 0x31 tko = true ∧ bFld tko 4 4 / 0x40000 = 2 ∧ bFld tko 0 4 / 0x40000 = 1 ∧
      pairHsb (pair 0x31 tko 0x100000000000) 0 = true ∧ pairHsb (pair 0x31 tko 0) 0 = false ∧ head1 mgr 0x38 flt = true ∧ holdsAlias mgr = true ∧ bFld flt 0 2 = 0x080 ∧ segmented mgr = false ∧
      mgr.rm.links = [] ∧ head1 seg 0x38 flt = true ∧ segmented seg = false ∧ segmented { seg with rm := { seg.rm with links := seg.rm.links ++ [(1, 0)] } } = true ∧
      (seg.rm.links.contains (1, 0) || seg.rm.links.contains (0, 1)) = false ∧ chanOf (at1 0x10 rd) (sctWait 0x41) = none ∧ (at1 0x10 rd).mov.chans = [] ∧
      head1 full 0x10 rd = true ∧ accessBad full 0x41 2 (bFld rd 2 6) 16 false = none ∧ chanOf full (sctWait 0x41) = none ∧
      (full.mov.chans.filter fun y => !isCtxKey y.1 && y.2.granted).length = 64 ∧ inSlot (with7 0x14 (post 3) .idle) 7 = false ∧
      (with7 0x14 (post 1) .free).mov.chans = [] ∧ sctBusy (with7 0x14 (post 1) .free) 0x41 = false ∧ (0 : DWord).toNat ≤ (3 : DWord).toNat := by
  (with_reducible repeat' apply And.intro) <;> decide +kernel
theorem wit_EnumerationFormsTheRing :
    let en := less 0x03 ([0x30, 1, 0, 0] ++ b8 1 ++ [0, 0, 0, 0])
    let rp := less 0x04 ([2, 1, 0, 0x22, 0x10, 0, 0, 0] ++ b8 9 ++ List.replicate 16 0)
    let an := less 0x05 ([0, 1, 0, 0x22, 0x10, 0, 0, 0] ++ b8 9 ++ List.replicate 16 0)
    let ka := less 0x3E ([2, 0, 0, 0] ++ b8 1)
    let m : Rm := { addr := 1, role := .manager, mgr := 1 }
    let full := { m with enumOn := true, table := (List.range 47).map fun i => { addr := BitVec.ofNat 8 (i + 2) } }
    let e : State := { run with rm := { straps := 2 }, ring := { b := { link := 2 } } }
    let w : State := { run with rm := { addr := 2, role := .worker, mgr := 1 } }
    (inbox { en with portB := true }).rm.role = .unaddressed ∧ (decide (en.body.getD 2 0 = 1)) ≠ true ∧ 1 ≤ (en.body.getD 0 0).toNat ∧ (en.body.getD 0 0).toNat ≤ 0x30 ∧
      (inbox rp m).rm.role = .manager ∧ (inbox rp m).rm.enumOn = false ∧ freeAddr (inbox an m) = some 2 ∧ (inbox an m).rm.directed = none ∧ (inbox an m).rm.annq = [] ∧
      (inbox ka w.rm).rm.role ≠ .unaddressed ∧ ka.src ≠ w.rm.addr ∧ (ka.body.getD 0 0).toNat < 6 ∧ ka.src = w.rm.mgr ∧ ka.body.getD 0 0 = 2 ∧ ka.session = 0xFFFF ∧
      e.rm.addr = 0 ∧ mgrCapable e = true ∧ e.rm.heardMgr = false ∧ e.ring.b.link = 2 ∧ e.rm.table = [] ∧
      ({ run with rm := { m with enumOn := true, enumPhase := true } } : State).rm.directed = none ∧ ({ run with rm := { m with directed := some (9, 2, false, true) } } : State).rm.annq = [] ∧
      ({ run with rm := { heardMgr := true } } : State).rm.role = .unaddressed ∧ attached w = true ∧ ((act w (aSCT + 0x404)).extractLsb' 0 27).toNat < period w ∧
      period { w with reg := { act := [(aPERIOD, 0)] } } ≤ ((act { w with reg := { act := [(aPERIOD, 0)] } } (aSCT + 0x404)).extractLsb' 0 27).toNat ∧
      (inbox an w.rm).rm.role ≠ .manager ∧ (inbox an { m with enumOn := true }).rm.annq = [] ∧ (inbox an { m with table := [{ addr := 9, uid := 9 }] }).rm.table.any (fun t => t.uid == 9 && !t.host) = true ∧
      (inbox ka).rm.role = .unaddressed ∧ (inbox ka).rm.heardMgr = false ∧ (inbox ka { heardMgr := true }).rm.heardMgr = true ∧ stationOf (inbox ka w.rm) 1 = none ∧ e.rm.role = .unaddressed ∧
      freeAddr { run with rm := { m with enumOn := true } } = some 2 ∧ freeAddr { run with rm := full } = none ∧ full.enumOn = true ∧ full.enumPhase = false ∧
      ({ run with rm := { m with enumOn := true, enumPhase := true, annq := [(9, true)] } } : State).rm.annq = [(9, true)] := by
  (with_reducible repeat' apply And.intro) <;> decide +kernel
theorem wit_RingServiceFollowsPresence :
    let w := fun (r : Rm) => ({ run with rm := r } : State)
    let p := fun (hsb : DWord) => ({ run with rm := { addr := 2, role := .worker, mgr := 1, pairs := [(0, { st := .paired, silent := 2 })] }, reg := { tabA := [(tkeyOf .pair 0 0, hsb)] } } : State)
    let t : Station := { addr := 3, age := 4 }
    stationOf (w { addr := 2, table := [t] }) 3 = some t ∧ t.present = true ∧ 4 ≤ t.age ∧ (3 : Byte) ≠ 2 ∧ topRank (w { addr := 2, role := .standby, straps := 1, mgr := 1, noMgr := 4 }) = true ∧
      ({ addr := 2, role := .standby, straps := 1, mgr := 1, noMgr := 4, table := [t] } : Rm).table.filter (fun z => decide (z.age = 4) && z.addr != 1 && z.addr != 2) ≠ [] ∧
      topRank (w { addr := 2, role := .worker, straps := 1, mgr := 1, noMgr := 4 }) = true ∧ 3 ≤ (w { role := .manager, auth := true, noWorker := 3 }).rm.noWorker ∧ Reaches 2 2 ∧
      (w { role := .detached, heardMgr := true }).rm.heardMgr = true ∧ attached (w { addr := 2, role := .worker }) = true ∧ run.lnd.pend = none ∧ run.lnd.judged = none ∧
      ({ run with lnd := { pend := some { tgt := 1, seq := 1, ring := false, rcv := 0 } } } : State).lnd.pend ≠ none ∧ (pairL (p 0) 0).st = .paired ∧ (pairL (p 0) 0).silent = 2 ∧
      pairHsb (p 0x100000000000) 0 = true ∧ pairAuth (p 0x100000000000) = false ∧ pairHsb (p 0) 0 = false ∧
      (w { role := .detached }).rm.heardMgr = false ∧ (w { role := .unaddressed }).rm.role ≠ .detached ∧ (w { role := .unaddressed }).rm.addr = 0 ∧
      ({ run with lnd := { judged := some (1, some ({ tgt := 1, seq := 1, ring := false, rcv := 0 }, 0)) } } : State).lnd.pend = none := by
  delta Reaches; (with_reducible repeat' apply And.intro) <;> decide +kernel
theorem wit_PortLinksFollowTheirSignals :
    let s := fun (p : Port) => ({ run with ring := { b := p } } : State)
    clocksOn (s {}) = true ∧ Reaches 2 2 ∧ (portOf (s { st := .disabled }) true).st = .disabled ∧ (portOf (s { st := .disabled }) true).link ≠ 1 ∧ (portOf (s {}) true).st = .active ∧
      (portOf (s { st := .draining, enPend := true }) true).st = .draining ∧ (portOf (s { st := .draining }) true).q = [] ∧ (portOf (s { link := 2 }) true).link = 2 ∧
      (portOf (s {}) true).link = 0 ∧ (portOf (s { link := 3 }) true).link = 3 ∧ (portOf (s { st := .disabled, link := 1 }) true).link = 1 ∧ (portOf (s { st := .draining }) true).enPend = false ∧ (s {}).rm.addr = 0 ∧ ({ s { link := 3 } with rm := { addr := 2 } } : State).rm.addr ≠ 0 := by
  delta Reaches; (with_reducible repeat' apply And.intro) <;> decide +kernel
theorem wit_PortsTransmitAndGate :
    let f : EgFrame := { f := sctFrame 2 0 none }
    let s := { linked with ring := { a := { link := 2, q := [(7, [f])] } } }
    let g := { linked with reg := { act := [(aPort false + 0x50, 5)], tabA := [(tkeyOf .gate (16 * 63) 0, 0x100000000)] } }
    let v := { linked with reg := { act := [(aPort false + 0x88, 3)] } }
    let m := { s with reg := { act := [(aPort false + 0x90, 1)] } }
    let y : OnWire := { f := f.f, sec := none, express := false, start := 0, till := 1000000 }
    let x := { linked with reg := { act := [(aPort false + 0x60 + 28, 0x4000), (aPort false + 0x88, 1)] }, ring := { a := { link := 2, q := [(7, [f])], wire := some y } } }
    let z := { linked with reg := { act := [(aPort false + 0x50, 3), (aPort false + 0x54, 1000)] } }
    let h := { linked with reg := { act := [(aPort false + 0x50, 3)] } }
    clocksOn s = true ∧ (portOf s false).link = 2 ∧ (portOf s false).st ≠ .disabled ∧ (act s (aPort false + 0x50)).getLsbD 0 = false ∧ (act s (aPort false + 0x90)).getLsbD 0 = false ∧
      egQ s false 7 = [f] ∧ (act g (aPort false + 0x50)).getLsbD 0 = true ∧ (act g (aPort false + 0x54)).extractLsb' 0 27 = 0 ∧
      (portOf g false).gateIdx + 1 < ((act g (aPort false + 0x50)).extractLsb' 1 11).toNat ∧ (tabA g .gate (16 * 63 + (sget (0, 0) g.ring.gates 63).1) 0).extractLsb' 32 32 ≠ 0 ∧
      (act v (aPort false + 0x88)).getLsbD 0 = true ∧ (act v (aPort false + 0x88)).getLsbD 1 = true ∧ (portOf v false).vstat ≠ 3 ∧ Reaches 2 2 ∧ (59 : BitVec 14).toNat < 60 ∧
      9212 < (9213 : BitVec 14).toNat ∧ 60 ≤ (60 : BitVec 14).toNat ∧ (9212 : BitVec 14).toNat ≤ 9212 ∧ (portOf linked false).mtxBusy = none ∧
      ({ link := 2, mtxBusy := some f.f } : Port).mtxBusy ≠ none ∧ (portOf s false).rest = 0 ∧ (portOf s false).wire = none ∧
      (9 : Nat) > 7 ∧ egQ s false 8 = [] ∧ (act m (aPort false + 0x90)).getLsbD 0 = true ∧ txSa m false = none ∧ egQ m false 7 = [f] ∧
      (portOf x false).wire = some y ∧ y.express = false ∧ isExpressQ x false 7 = true ∧ (act x (aPort false + 0x88)).getLsbD 0 = true ∧ (act x (aPort false + 0x88)).getLsbD 1 = false ∧
      (act x (aPort false + 0x90)).getLsbD 0 = false ∧ egQ x false 7 = [f] ∧ (act x (aPort false + 0x50)).getLsbD 0 = false ∧
      Nat.max x.time.now.toNat (y.start.toNat + byteTime x false ((1 + ((act x (aPort false + 0x88)).extractLsb' 2 2).toNat) * 64)) < y.till.toNat ∧
      (act z (aPort false + 0x50)).getLsbD 0 = true ∧ ((act z (aPort false + 0x54)).extractLsb' 0 27).toNat = 1000 ∧ ((act z (aPort false + 0x50)).extractLsb' 1 11).toNat = 1 ∧
      (lndTime z z.lnd.num.toNat).toNat + (portOf z false).gateCyc + 1000 < 2 ^ 64 ∧ (lndTime g g.lnd.num.toNat).toNat + (portOf g false).gateOff + ((gateEntry g false).extractLsb' 32 32).toNat < 2 ^ 64 ∧
      ((act h (aPort false + 0x54)).extractLsb' 0 27).toNat = 0 ∧ ((act h (aPort false + 0x50)).extractLsb' 1 11).toNat ≤ 1 ∧ (act h (aPort false + 0x50)).getLsbD 0 = true ∧
      (tabA linked .gate (16 * 63) 0).extractLsb' 32 32 = 0 := by
  delta Reaches; (with_reducible repeat' apply And.intro) <;> decide +kernel
theorem wit_RingTimeFollowsItsDomain :
    let s := fun (cfg : Word) (p : Port) (t : RTime) => { run with reg := { act := [(aSTEPTHR, 100), (aPort false + 0x30, cfg)] }, ring := { a := { p with link := 2, ascap := true } }, time := t }
    let g := { run with reg := { act := [(aPERIOD, 100000000), (aPort false + 0x30, 2), (aPort true + 0x30, 2)] } }
    let h := { g with ring := { b := { link := 2, ascap := true } } }
    let r := { s 1 {} {} with ring := {} }
    let l := { s 1 {} {} with reg := { act := [(aSTEPTHR, 100), (aPort false + 0x20, 7), (aPort false + 0x30, 1)] } }
    let y : Port := { link := 2, ascap := true, sync0 := true, syncAge0 := 3 }
    let t := { run with reg := { act := [(aPort false + 0x30, 1), (aPort true + 0x30, 1)] }, ring := { a := y, b := y }, time := { st := .sync } }
    let q := { s 0x10 {} {} with reg := { act := [(aPERIOD, 0), (aPort false + 0x30, 0x10)] } }
    clocksOn (s 1 {} {}) = true ∧ asRole (s 1 {} {}) false false = 1 ∧ asRole (s 1 {} {}) true false ≠ 2 ∧ asRole (s 4 {} {}) false true = 1 ∧ (act (s 1 {} {}) aTIMECFG).getLsbD 0 = false ∧
      (s 1 {} { st := .sync }).time.st = .sync ∧ (100 : DWord).toInt.natAbs ≤ ((act (s 1 {} {}) aSTEPTHR).extractLsb' 0 20).toNat ∧
      ¬((101 : DWord).toInt.natAbs ≤ ((act (s 1 {} {}) aSTEPTHR).extractLsb' 0 20).toNat) ∧ (portOf (s 1 { pdlyValid := true } {}) false).pdlyValid = true ∧ (s 1 {} {}).time.st ≠ .sync ∧
      asRole g false false = 2 ∧ asRole g true false = 2 ∧ ((act g (aPort false + 0x34)).extractLsb' 0 27).toNat < period g ∧
      3 ≤ (portOf (s 1 { sync0 := true, syncAge0 := 3 } {}) false).syncAge0 ∧ (portOf (s 4 { sync1 := true, syncAge1 := 3 } {}) false).sync1 = true ∧
      (act (s 0x10 { pdlyOpen := true } {}) (aPort false + 0x30)).getLsbD 4 = true ∧ ((act (s 0x10 {} {}) (aPort false + 0x34)).extractLsb' 0 27).toNat < period (s 0x10 {} {}) ∧
      (portOf (s 0x10 { pdlyOpen := true } {}) false).pdlyOpen = true ∧ 3 ≤ (portOf (s 0 { pdlyRun := 3 } {}) false).pdlyRun ∧ (portOf (s 1 {} {}) false).link = 2 ∧
      (portOf (s 1 {} {}) false).ascap = true ∧ (portOf r false).link = 0 ∧ ((act l (aPort false + 0x20)).extractLsb' 0 16).toNat = 7 ∧
      ((93 : DWord) + BitVec.ofNat 64 7).toInt.natAbs ≤ ((act l aSTEPTHR).extractLsb' 0 20).toNat ∧ (portOf (s 1 {} {}) false).pdlyValid = false ∧ asRole l true false ≠ 2 ∧
      asRole h false false = 2 ∧ asRole h true false = 2 ∧ (portOf h true).link = 2 ∧ (portOf h true).ascap = true ∧ ((act h (aPort true + 0x34)).extractLsb' 0 27).toNat < period h ∧
      (portOf g false).link = 0 ∧ (portOf g true).link = 0 ∧ asRole t true false = 1 ∧ asRole t false false = 1 ∧ (portOf t true).sync0 = true ∧ t.time.st = .sync ∧
      period q ≤ ((act q (aPort false + 0x34)).extractLsb' 0 27).toNat ∧ (portOf q false).link = 2 ∧ (portOf (s 0x10 {} {}) false).pdlyOpen = false ∧
      (portOf (s 0 {} {}) false).pdlyRun < 3 ∧ (0xFFFFFFFFFFFFFFFF : DWord).toInt < 0 := by
  (with_reducible repeat' apply And.intro) <;> decide +kernel
/-- Device port unit k with a state. -/
def unit (k : Nat) (x : DUnit) : State := { run with dpt := [(k, x)] }
/-- Unit 0x28 of a class whose clock is gated. -/
def gated (x : DUnit) : State := { unit 0x28 x with reg := { act := [(0x020004, 0xFFFFFFFF)] } }
theorem wit_DevicePortUnitsFollowTheirCommands :
    let d := unit 0x28 { st := .draining, enPend := true }
    let m := fun (b : Bool) => unit 0x10 { mdio := some (b, 7), arg1 := 9 }
    let l := fun (us : Word) => unit 0x38 { arg0 := us }
    let o := fun (w : Word) => { unit 0x40 { st := .active } with reg := { act := [(aUnit 0x40 0x10, w)] } }
    let f := { unit 0x10 { st := .active } with reg := { act := [(aUnit 0x10 0x10, 0x101)] } }
    clocksOn run = true ∧ unitOk 0x6F = true ∧ unitOk 0x28 = true ∧ Reaches 2 2 ∧ (unitOf run 0x28).st = .disabled ∧ cfgOk 4 (unitCfg run 0x28) = true ∧
      cfgOk 3 (unitCfg run 0x20) = false ∧ unitClass 0x20 = 3 ∧ (unitOf d 0x28).st = .draining ∧ (unitOf d 0x28).tx = [] ∧ (unitOf d 0x28).armed = [] ∧ NoWaiters d 0x28 ∧
      (unitOf (unit 0x28 { st := .active }) 0x28).st = .active ∧ NoWaiters (unit 0x28 { st := .active }) 0x28 ∧
      ((act { d with reg := { act := [(aDPT, 5)] } } aDPT).extractLsb' 0 20).toNat ≠ 0 ∧ (unitOf (unit 0x28 { st := .draining }) 0x28).enPend = false ∧ canSend 4 = true ∧
      canSend (unitClass 0x20) = false ∧ unitClass 0x0F = 0 ∧ (unitOf (unit 0x0F { canSt := 2, recovering := true }) 0x0F).canSt = 2 ∧ unitClass 0x10 = 1 ∧ unitClass 0x1B = 2 ∧
      (unitOf (m true) 0x10).mdio = some (true, 7) ∧ (unitOf (m false) 0x10).mdio = some (false, 7) ∧ unitClass 0x38 = 6 ∧
      ((unitOf (l 250) 0x38).arg0.extractLsb' 0 13).toNat = 250 ∧ ((unitOf (l 5000) 0x38).arg0.extractLsb' 0 13).toNat = 5000 ∧ ((unitOf (l 249) 0x38).arg0.extractLsb' 0 13).toNat < 250 ∧
      5000 < ((unitOf (l 5001) 0x38).arg0.extractLsb' 0 13).toNat ∧ unitClass 0x40 = 7 ∧ ((unitSet (o 1) 0x40 0).extractLsb' 0 2).toNat = 1 ∧ ((unitSet (o 3) 0x40 0).extractLsb' 0 2).toNat = 3 ∧
      ((unitSet (o 0) 0x40 0).extractLsb' 0 2).toNat = 0 ∧ (unitOf (o 1) 0x40).st ≠ .disabled ∧ (unitSet f 0x10 0).getLsbD 0 = true ∧ (unitSet f 0x10 0).extractLsb' 8 8 ≠ 0 ∧
      (unitOf f 0x10).recovering = false ∧ (unitOf (unit 0x18 { st := .active }) 0x18).link = 0 ∧ (unitOf (unit 0x18 { st := .active, link := 2 }) 0x18).link ≠ 0 ∧
      unitClk run 0x28 = true ∧ unitClk (gated {}) 0x28 = false ∧ (unitOf (gated { st := .draining }) 0x28).st = .draining ∧ (unitOf d 0x28).enPend = true ∧
      (act (unit 0x28 { st := .draining }) (aUnit 0x28 0)).getLsbD 2 = false ∧
      (act { unit 0x28 { st := .draining } with reg := { act := [(aUnit 0x28 0, 4)] } } (aUnit 0x28 0)).getLsbD 2 = true ∧ cfgOk 3 (unitCfg (unit 0x20 { st := .draining }) 0x20) = false := by
  delta Reaches NoWaiters; (with_reducible repeat' apply And.intro) <;> decide +kernel
theorem wit_RecordsArriveAndLeave :
    let rec8 : List RxRec := List.replicate 8 { bytes := [1], fin := { crcBad := false, portErr := false, code := 0 } }
    let act_ := fun (k : Nat) => unit k { st := .active, link := 2 }
    let set := fun (k a : Nat) (v : Word) (x : DUnit) => { unit k { x with st := .active } with reg := { act := [(aUnit k a, v)] } }
    let can := fun (w : DWord) => { act_ 0 with reg := { tabA := [(tkeyOf .canFilter 15 0, w)] } }
    let r : TxRec := { bytes := List.replicate 16 0, eligible := some 3 }
    let q := fun (k : Nat) => unit k { st := .active, link := 2, tx := [r] }
    let late : TxRec := { bytes := List.replicate 16 0, launch := some 9, late := true }
    let bad : List Byte := [0, 0, 0, 0, 0, 0, 0, 0, 4, 0, 0x18, 0, 0, 0, 0, 0]
    let spi := fun (l : List RxRec) => unit 0x28 { st := .active, rx := l, spiRx := [List.replicate 16 0] }
    let resp := { unit 0x38 { st := .active } with reg := { act := [(aUnit 0x38 0x10, 1), (aUnit 0x38 0x14, 0x80000000)] } }
    let bc : List Byte := List.replicate 8 0 ++ List.replicate 6 0xFF ++ List.replicate 54 0
    clocksOn (act_ 0x28) = true ∧ unitOk 0x28 = true ∧ NoWaiters (act_ 0x28) 0x28 ∧ receives (act_ 0x28) 0x28 = true ∧ receives run 0x28 = false ∧ unitClass 0x28 = 4 ∧
      8 ≤ (unitOf (unit 0x28 { st := .active, rx := rec8 }) 0x28).rx.length ∧ NoWaiters (unit 0x28 { st := .active, rx := rec8 }) 0x28 ∧ (unitOf (act_ 0) 0).canSt ≠ 2 ∧
      (canMatch (can 0x80000000) 0 0 0 false).isSome = true ∧ (canMatch (can 0x80000000) 0 0 0 false).any (fun e => !e.2.getLsbD 30) = true ∧
      (canMatch (can 0xC0000000) 0 0 0 false).any (fun e => e.2.getLsbD 30) = true ∧ canMatch (act_ 0) 0 0 0 false = none ∧ (unitSet (set 0 0x1C 0x80 {}) 0 3).getLsbD 7 = true ∧
      (unitSet (act_ 0) 0 3).getLsbD 7 = false ∧ (bc.drop 8).length = 60 ∧ slice (bc.drop 8) 0 6 = List.replicate 6 0xFF ∧ slice (bc.drop 8) 12 4 ≠ [0x88, 0x08, 0x00, 0x01] ∧
      (unitSet (act_ 0x20) 0x20 0).getLsbD 2 = false ∧ rxBytes (unitOf (act_ 0x20) 0x20) + 4 ≤ 0x10000 ∧ unitClass 0x37 = 5 ∧ unitClass 0x3B = 6 ∧
      (unitSet (set 0x38 0x10 0 {}) 0x38 0).getLsbD 0 = false ∧ ((unitSet (set 0x40 0x10 6 {}) 0x40 0).extractLsb' 0 2) = 2 ∧ (unitSet (set 0x40 0x10 6 {}) 0x40 0).getLsbD 2 = true ∧
      (unitOf (set 0x40 0x10 6 {}) 0x40).level ≠ true ∧ (unitSet (set 0x38 0x10 1 { armed := [(63, [1])] }) 0x38 0).getLsbD 0 = true ∧
      ((unitOf (set 0x38 0x10 1 { armed := [(63, [1])] }) 0x38).armed.find? fun a => a.1 = 63) = some (63, [1]) ∧ (unitSet (set 0x38 0x14 0x80000000 {}) 0x38 1).getLsbD 31 = true ∧
      nextLaunch { tx := [{ bytes := [], launch := some 9 }] } = some { bytes := [], launch := some 9 } ∧ nextTx (unitOf (q 0x28) 0x28) = some r ∧ (unitOf (q 0x18) 0x18).link ≠ 0 ∧
      NoWaiters (q 0x28) 0x28 ∧ (q 0).flt.safestate = false ∧ (unitSet (q 0) 0 3).getLsbD 4 = false ∧ (unitSet (q 0) 0 3).getLsbD 5 = false ∧ (unitOf (q 0) 0).tec.toNat < 248 ∧
      ((unitSet (set 0x40 0x10 3 { tx := [r] }) 0x40 0).extractLsb' 0 2) = 3 ∧ r.launch = none ∧ (unitOf (set 0x40 0x10 3 { tx := [r] }) 0x40).edgeAt = none ∧
      unitClk (act_ 0x28) 0x28 = true ∧ unitClk (set 0x40 0x10 6 {}) 0x40 = true ∧ (unitOf (act_ 0x28) 0x28).spiRx = [] ∧ receives (spi []) 0x28 = true ∧ NoWaiters (spi rec8) 0x28 ∧
      (unitOf (spi rec8) 0x28).spiRx = [List.replicate 16 0] ∧ (unitOf (spi []) 0x28).rx = [] ∧ (spiRec (List.replicate 16 0) []).2 = false ∧
      (spiRec bad []).2 = true ∧ (unitOf (act_ 0x38) 0x38).linSub = false ∧ (unitOf (unit 0 { st := .active, canSt := 2 }) 0).canSt = 2 ∧
      unitClass 0x20 = 3 ∧ (unitSet (set 0x20 0x10 4 {}) 0x20 0).getLsbD 2 = true ∧ (unitSet (set 0x20 0x10 4 {}) 0x20 0).getLsbD 8 = false ∧
      ((unitSet (set 0x20 0x10 4 {}) 0x20 0).extractLsb' 4 4).toNat = 0 ∧ (unitSet (set 0x20 0x10 4 {}) 0x20 1).getLsbD 5 = false ∧
      (unitSet { set 0x20 0x10 4 {} with reg := { act := [(aUnit 0x20 0x10, 4), (aUnit 0x20 0x14, 0x20)] } } 0x20 1).getLsbD 5 = true ∧
      csiHolds (set 0x20 0x10 0x100 {}) 0x20 { dt := 0x2A } = false ∧ csiTakes (set 0x20 0x14 0x400 {}) 0x20 { dt := 0x2A } = false ∧
      csiHolds { act_ 0x20 with reg := { act := [(aUnit 0x20 0x10, 0x100), (aUnit 0x20 0x18, 0x400)] } } 0x20 { dt := 0x2A } = true ∧
      csiHolds { act_ 0x20 with reg := { act := [(aUnit 0x20 0x10, 0x104), (aUnit 0x20 0x18, 0x400)] } } 0x20 { dt := 0x2A } = true ∧
      0x10000 < rxBytes { rx := [{ bytes := List.replicate 0xFFE0 0, fin := { crcBad := false, portErr := false, code := 0 } }] } + 64 ∧
      syncBad 300 none 168000000 = false ∧ syncBad 300 none 210000001 = true ∧ syncBad 300 (some 168000000) 170625001 = true ∧ syncBad 300 (some 168000000) 170625000 = false ∧
      ((unitSet (set 0x37 0x10 0x8C12C {}) 0x37 0).extractLsb' 19 2).toNat = 1 ∧ (unitOf (unit 0 { st := .active, was := some ([], []) }) 0).was = some ([], []) ∧
      (([] : List Word).getD 3 (unitCfg (unit 0 {}) 0 3)).getLsbD 7 = false ∧ (unitOf (unit 0x38 { st := .active, linSub := true }) 0x38).linSub = true ∧
      receives (unit 0x38 { st := .active, linSub := true }) 0x38 = true ∧ linAwaits (unit 0x38 { st := .active, linSub := true }) 0x38 5 = true ∧
      linAwaits (act_ 0x38) 0x38 5 = false ∧ safeLevel (set 0x40 0x10 6 {}) 0x40 = none ∧ safeLevel (unit 0x40 {}) 0x40 = some false ∧
      subscribed (set 0x38 0x14 0x80000000 {}) 0x38 31 = true ∧ subscribed (act_ 0x38) 0x38 31 = false ∧ (unitSet resp 0x38 0).getLsbD 0 = true ∧ subscribed resp 0x38 31 = true ∧
      receives resp 0x38 = true ∧ (unitOf resp 0x38).armed = [] ∧ nextTx { tx := [late] } = none ∧ nextLaunch { tx := [late] } = some late ∧
      (unitOf (unit 0x40 { edgeAt := some 3 }) 0x40).edgeAt = some 3 ∧ nextTx {} = none ∧ nextLaunch {} = none ∧ (byteAt bad 0xA).getLsbD 3 = true := by
  delta NoWaiters; (with_reducible repeat' apply And.intro) <;> decide +kernel
/-- A record of source 0x680 at target k, group 0, of the first generation. -/
def evRec (k : Nat) : EvRec := { slot := 0, src := 0x680, offered := decide (4 ≤ k), gen := 1 }
/-- Source 0x680 enabled for targets 3 and 4, which are enabled, and its record at one of them. -/
def events (k : Nat) (x : EvSrc) (recs : List EvRec) (y : Evt := {}) : State :=
  { run with
    reg := { act := [(aEVT + 4, 1), (aEVT + 0x1C0, 1), (aEVT + 0x1C4, 0x10000), (aEVT + 0x200, 1), (aEVT + 0x204, 0x10000)], tabA := [(tkeyOf .evt 0x680 0, 0x18800)] }
    sct := { sess := [(0, { st := .opened, ver := 0x22, win := 4 })] }
    evt := { y with src := [(0x680, x)], q := [(8 * k, { num := recs.length, recs := recs })], tgt := [(k, { released := true })] } }
theorem wit_EventsAreRecordedAndClaimed :
    let p := events 3 { st := .pending } []
    let h := events 3 {} [] { hold := true }
    let c := events 3 { st := .pending, queued := true, gen := 1, window := some 0 } [evRec 3]
    let o := fun (st : SrcState) => events 3 { st := st, owner := 3, claimed := 1 } [evRec 3]
    let u := { p with reg := { p.reg with tabA := [(tkeyOf .evt 0x680 0, 0x800)] } }
    let y := { events 3 { st := .pending } (List.replicate 16 (evRec 3)) with reg := { p.reg with tabA := [(tkeyOf .evt 0x680 0, 0x8800)] } }
    let z : State := { run with boot := { st := .standby }, evt := { wkArmed := true }, reg := { act := [(aEVT + 0x87C, 0x801)] } }
    let v := { z with reg := { act := [(aEVT + 0x87C, 0x812), (aEVT + 0x878, 0x812)] }, boot := { st := .standby, wakeIn := 2 } }
    wakeMet v 31 = true ∧ wakeMet { v with boot := { st := .standby } } 31 = false ∧ wakeWith v 30 31 = true ∧ wakeWith z 31 31 = true ∧ v.evt.wkArmed = true ∧
    clocksOn h = true ∧ h.evt.hold = true ∧ candidates run = [] ∧ run.evt.hold = false ∧ candidates p = [0x680] ∧
      pickTarget p 0x680 (prioGroup p ((tabA p .evt 0x680 0).extractLsb' 0 8).toNat) = some 4 ∧ Reaches 1 1 ∧
      ((evQ p 3 0).recs.find? fun d => decide (3 < 4) || d.offered) = none ∧ ((evQ c 3 0).recs.find? fun d => decide (3 < 4) || d.offered) = some (evRec 3) ∧
      (evSrc c 0x680).claimed < (evRec 3).gen ∧ (evRec 3).gen ≤ (evSrc (o .active) 0x680).claimed ∧ (evSrc c 0x680).owner ≠ 3 ∧ (evSrc (o .active) 0x680).owner = 3 ∧
      (evSrc (o .active) 0x680).st = .active ∧ (evSrc (o .pending) 0x680).st = .pending ∧ (evSrc (o .activePending) 0x680).st = .activePending ∧ (evSrc c 0x680).window = some 0 ∧
      (act c (aEVT + 4)).extractLsb' 0 16 ≠ 0 ∧ findRecord c 0x680 = some (3, evRec 3) ∧ (maskTargets c 0x680).contains 4 = true ∧ eligible c 4 (prioGroup c 0) = true ∧
      (tgtMod c 3).extractLsb' 16 16 ≠ 0 ∧ (tgtOf { c with evt := { tgt := [(3, { holdoff := some 0 })] } } 3).holdoff = some 0 ∧
      (tgtOf (events 4 {} [evRec 4]) 4).released = true ∧ unsent (events 4 {} [evRec 4]) 4 ≠ [] ∧ isOpen (events 4 {} [evRec 4]) (tgtSess (events 4 {} [evRec 4]) 4) = true ∧
      room (events 4 {} [evRec 4]) (tgtSess (events 4 {} [evRec 4]) 4) = true ∧ isOpen { events 4 {} [evRec 4] with sct := {} } 0 = false ∧ (0x20 : Word).getLsbD 5 = true ∧
      z.evt.wkArmed = true ∧ (act z (aEVT + 0x87C)).getLsbD 11 = true ∧ 1 ≤ ((act z (aEVT + 0x87C)).extractLsb' 0 4).toNat ∧ z.boot.st = .standby ∧
      ({ z with boot := { st := .off } } : State).boot.st = .off ∧
      20 ≤ (20 : BitVec 5).toNat ∧ (evSrc c 0x680).owner ≠ 20 ∧ candidates u = [0x680] ∧ pickTarget u 0x680 (prioGroup u ((tabA u .evt 0x680 0).extractLsb' 0 8).toNat) = none ∧
      candidates y = [0x680] ∧ pickTarget y 0x680 0 = none ∧ maskTargets y 0x680 = [3] ∧ tgtEn y 3 = true ∧ hasRoom y 3 0 = false ∧
      (evSrc c 0x680).st = .pending ∧ (evSrc c 0x680).queued = true ∧ c.evt.hold = false ∧ ((tgtMod c 3).extractLsb' 16 16) ≠ 0 ∧ h.evt.holdAt = 0 := by
  delta Reaches; (with_reducible repeat' apply And.intro) <;> decide +kernel
theorem wit_ArbitersGrantTheHighestSlot :
    let s := { run with reg := { im := [(aARB + 0x108, 0x3F3F)] } }
    let req : BitVec 48 := 0x300
    let asks := fun (b : BitVec 48) => (List.range 48).filter fun i => b.getLsbD i && arbConn 2 i && !arbMasked s 2 (arbOf s 2 63) i
    (memIf s true).cmds < 64 ∧ 64 ≤ (memIf ({ run with memc := { i1 := { cmds := 64 } } } : State) true).cmds ∧ 63 < arbCount 2 ∧ asks req = [8, 9] ∧ arbSlot s 2 8 = 63 ∧ arbSlot s 2 9 = 63 ∧ asks 0x800000000000 = [] ∧ arbCount 0 ≤ 1 ∧ Reaches 2 2 ∧ (8 : Nat) < 9 ∧
      (0x10000 : Word).extractLsb' 16 16 ≠ 0 ∧ (0x20000 : Word).extractLsb' 16 16 ≠ (imr s (aARB + 0x130)).extractLsb' 16 16 := by
  delta Reaches; (with_reducible repeat' apply And.intro) <;> decide +kernel
/-- Both interfaces trained. -/
def dram (m : Memc := {}) : State := { run with memc := { m with i0 := { m.i0 with trained := true }, i1 := { m.i1 with trained := true } }, reg := { act := [(aMEM + 8, 0x3FF)] } }
theorem wit_MemoryErrorsAreLoggedAndCorrected :
    clocksOn dram = true ∧ dramOk dram 0x1000 = true ∧ dramOk run 0 = false ∧ dramOk (dram { i0 := { ret := [0] } }) 0xFFF = false ∧ scrubOn dram 1 = true ∧ scrubSkips dram 1 0 = false ∧
      scrubSkips (dram { i0 := { ret := [0] } }) 0 0 = true ∧ 0 + 1 < scrubLines dram 0 ∧ scrubLines dram 9 ≤ 917503 + 1 ∧ scrubOn dram 9 = true ∧ scrubOn run 0 = false ∧ (memIf dram false).retraining = false ∧ (memIf dram true).retraining = false ∧ scrubOn dram 2 = true ∧
      scrubSkips dram 2 0 = false ∧ ((256 : Half) - (imr dram (aMEM + 0x34)).setWidth 16).toNat = 256 := by
  (with_reducible repeat' apply And.intro) <;> decide +kernel
theorem wit_MemoryIsRetiredAndRetrained :
    let g := { dram { growBusy := some 7 } with gal := { live := [(7, { st := .idle })] } }
    let u := { g with memc := { g.memc with upset := [recKey 7 0] } }
    let i := fun (x : MemIf) => dram { i0 := x }
    clocksOn dram = true ∧ Reaches 2 2 ∧ dram.memc.retBusy = none ∧ 0 * 4096 < dramSize dram ∧ dramSize dram ≤ 0x7FFFFF * 4096 ∧ (memIf dram false).ret.length < 1024 ∧
      (memIf (dram { i0 := { ret := [2] } }) (pageIf 2)).ret = [2] ∧ dram.memc.growBusy = none ∧ recWritable dram 7 = true ∧
      recWritable { dram with gal := { live := [(7, { st := .ready })] } } 7 = false ∧ accBusy dram .gal = false ∧ 64 ≤ sget 0 (dram { spares := [(7, 64)] }).memc.spares 7 ∧
      sget 0 dram.memc.spares 7 < 64 ∧ (dram { retBusy := some 2 }).memc.retBusy = some 2 ∧ g.memc.growBusy = some 7 ∧ recUpset g 7 = false ∧ recUpset u 7 = true ∧
      (memIf dram false).trained = true ∧ 20 < ((21 : Byte).toInt - (memIf dram false).ttrain.toInt).natAbs ∧ ¬(20 < ((20 : Byte).toInt - (memIf dram false).ttrain.toInt).natAbs) ∧
      (memIf dram false).ceCnt < ((act dram (aMEM + 4)).extractLsb' 0 16).toNat ∧ (memIf (i { retraining := true }) false).retraining = true ∧ (memIf (i {}) false).wait = false ∧ (memIf run false).trained = false ∧ (memIf (i {}) false).retraining = false ∧
      (memIf (dram { i1 := { retraining := true } }) true).retraining = true ∧ (memIf (i { stale := true }) false).stale = true ∧ 2 ∈ (memIf (dram { i0 := { ret := [2] } }) false).ret := by
  delta Reaches; (with_reducible repeat' apply And.intro) <;> decide +kernel
theorem wit_FaultsLatchAndReact :
    let e := fun (src : Nat) (v : Word) => { run with reg := { act := [(aFLT + 0x1000 + 4 * src, v)] } }
    let t := { run with boot := { st := .run, straps := 0 }, reg := { act := [(aFLT + 0x1000 + 4 * 0x60, 8)] } }
    let w := fun (now : DWord) => { run with reg := { act := [(aFLT + 0x20, 0x10002)] }, flt := { wd := [(0, { on := true, kick := 0 })] }, time := { now := now } }
    run.boot.st ≠ .boot ∧ ({ run with boot := { st := .boot } } : State).boot.st = .boot ∧ (0x50 : Nat) < 0x60 ∧ faultSrc 0x80 = some (1, 1) ∧
      (act run (aFLT + 0x1000 + 4 * 0x80)).getLsbD 3 = false ∧ run.boot.st ≠ .off ∧ run.boot.st ≠ .lost ∧ Settled run ∧ run.flt.f4 = false ∧ run.flt.det = [] ∧ faultSrc 0x60 = some (1, 1) ∧ faultSrc 0x30 = none ∧ faultSrc 0xE2 = some (4, 0) ∧
      run.flt.sticky.getLsbD 0x60 = false ∧ (act run (aFLT + 0x1000 + 4 * 0x60)).getLsbD 3 = false ∧ (nmtPair run).isSome = true ∧ (clOf run 31).mode ≠ .fenced ∧
      (act run (aFLT + 0x1000 + 4 * 31)).getLsbD 3 = false ∧ run.eng.spareInUse = false ∧ run.eng.spareUnavail = false ∧ (mpOf run 3).fenced = false ∧ faultSrc 0x43 = some (2, 2) ∧
      (act run (aFLT + 0x1000 + 4 * 0x43)).getLsbD 3 = false ∧ (mpOf run 0).fenced = false ∧ (act t (aFLT + 0x1000 + 4 * 0x60)).getLsbD 3 = true ∧ t.boot.straps.getLsbD 3 = false ∧ Settled t ∧
      Reaches 2 2 ∧ (act run aFLT).getLsbD 8 = false ∧ (act { run with reg := { act := [(aFLT, 0x100)] } } aFLT).getLsbD 8 = true ∧ (11 : BitVec 4).toNat < 12 ∧ 12 ≤ (12 : BitVec 4).toNat ∧
      ((act run (aFLT + 0x20)).extractLsb' 0 16).toNat * 10000 = 0 ∧ ((act (w 0) (aFLT + 0x20)).extractLsb' 0 16).toNat * 10000 = 20000 ∧ (sget {} (w 0).flt.wd 0).on = true ∧
      wdOpen (w 0) 0 = 10000 ∧ ((w 20000).time.now - 0).toNat = 20000 ∧ (act (w 0) (aFLT + 0x1000 + 4 * 0x4C)).getLsbD 3 = false ∧
      (act (w 0) (aFLT + 0x1000 + 4 * 0x4C)).getLsbD 2 = true ∧ (act (e 0x4C 0) (aFLT + 0x1000 + 4 * 0x4C)).getLsbD 2 = false ∧ run.flt.safestate = false ∧
      (act run (aFLT + 0x1000 + 4 * 0xF0)).getLsbD 3 = false ∧ ({ run with flt := { safestate := true } } : State).flt.safestate = true ∧
      run.eng.sparePending = false ∧ ((10000 : DWord) - 0).toNat = wdOpen (w 0) 0 ∧ (sget {} run.flt.wd 0).on = false ∧ (0x44 : Nat) ≤ 0x60 ∧ (run.flt.sticky.getLsbD 0x4C) = false := by
  delta Reaches Settled; (with_reducible repeat' apply And.intro) <;> decide +kernel
theorem wit_ResetsClearAndStartTheDevice :
    let s : State := { run with boot := { st := .run, straps := 0 } }
    let b := fun (m : List (CtxId × Bool)) => ({ run with boot := { st := .boot, loaded := true, first := true, modes := m }, gal := { live := [(7, { st := .idle })] } } : State)
    ({ run with flt := { f4 := true } } : State).flt.f4 = true ∧ (0 : BitVec 4).getLsbD 3 = false ∧ s.flt.f4 = false ∧ s.boot.st ≠ .off ∧ s.boot.st ≠ .lost ∧ s.boot.straps.getLsbD 3 = false ∧
      clocksOn s = true ∧ Reaches 2 2 ∧ Settled s ∧ (0 : Word) ≠ 0x52595354 ∧ (b []).boot.loaded = true ∧ (b []).boot.modes = [] ∧ stOf (b [(7, true)]) 7 = .idle ∧ inSlot (b [(7, true)]) 7 = false ∧
      (srPL (recOf (b [(7, true)]) 7)).toNat ≤ (ceilOf (recOf (b [(7, true)]) 7)).toNat ∧ ({ run with boot := { st := .off, inh := true, straps := 0 } } : State).boot.inh = true ∧
      ({ run with boot := { st := .off, inh := false } } : State).boot.inh = false ∧ clocksOn { run with boot := { st := .off } } = false ∧ MemCanonical s ∧ s.boot.upd = none := by
  delta Reaches Settled; (with_reducible repeat' apply And.intro) <;> decide +kernel
/-- An image of 260 bytes with one segment; its HCRC is the CRC-32C of the header with a HCRC of 0 (R481). -/
def image : List Byte :=
  [0x54, 0x52, 0x49, 0x54, 1, 0, 0, 0, 1, 0, 0, 0, 4, 1, 0, 0, 0x9D, 0xE7, 0x37, 0x05, 1] ++ List.replicate 11 0 ++ [2, 0, 0, 0, 0, 1, 0, 0, 4, 0, 0, 0] ++ List.replicate 216 0
/-- Its HCRC in four parts of 64 bytes. -/
theorem image_crc : crc32c (hdrForCrc (byteAt image)) = 0x537e79d := by
  have e : hdrForCrc (byteAt image) = (hdrForCrc (byteAt image)).take 64 ++ List.replicate 64 0 ++ List.replicate 64 0 ++ List.replicate 64 0 := by decide +kernel
  have h0 : crcFold 1 (crcInit 1) ((hdrForCrc (byteAt image)).take 64) = 0xcec5e4d := by decide +kernel
  have h1 : crcFold 1 0xcec5e4d (List.replicate 64 0) = 0x45ff76b4 := by decide +kernel
  have h2 : crcFold 1 0x45ff76b4 (List.replicate 64 0) = 0xb0d35dd5 := by decide +kernel
  have h3 : crcFold 1 0xb0d35dd5 (List.replicate 64 0) = 0xfac81862 := by decide +kernel
  have a : ∀ r l m, crcFold 1 r (l ++ m) = crcFold 1 (crcFold 1 r l) m := fun r l m => List.foldl_append
  rw [crc32c, crcOf, e, a, a, a, h0, h1, h2, h3]
  decide +kernel
/-- The image is valid (R481 to R483). -/
theorem image_valid : imgValid run (byteAt image) = true := by
  have h : headerOk run (byteAt image) = true := by
    simp only [headerOk, image_crc]
    decide +kernel
  simp only [imgValid, h]
  decide +kernel
/-- The image in shared SRAM. -/
def update (b : Boot) (len : Word) : State :=
  { run with
    boot := { b with st := .run }
    reg := { im := [(0x010014, 1), (0x010018, len)] }
    mem := ((List.range 260).map fun i => (0x100000000 + i, image.getD i 0)).filter fun e => e.2 ≠ 0 }
theorem wit_PowerImagesAndKeysFollowTheirCommands :
    let s := update {} 260
    let x : Upd := { slot := 1, img := image }
    let u : State := { run with boot := { st := .run, upd := some x } }
    clocksOn s = true ∧ Reaches 2 2 ∧ Settled s ∧ s.boot.upd = none ∧ s.boot.st = .run ∧ ({ run with boot := { st := .maint } } : State).boot.st ≠ .run ∧ u.boot.upd ≠ none ∧ Settled u ∧
      s.boot.maint = false ∧ s.boot.slot.toNat = 0 ∧ (rdBytes s .sct 0x100000000 260).isSome = true ∧ imgLen (byteAt image) = 260 ∧
      259 < imgLen (byteAt image) ∧ imgSeq (byteAt image) = s.boot.seq + 1 ∧ imgSeq (byteAt image) ≠ (update { seq := 5 } 260).boot.seq + 1 ∧ rdBytes run .sct 0xFFFFFFFFFFF8 8 = none ∧
      headerOk s (byteAt (List.replicate 260 0)) = false ∧ MemCanonical u ∧ 256 ≤ x.img.length ∧ x.img.length ≤ slotSize u ∧
      s.boot.prog.getLsbD 3 = false ∧ ({ prog := 8 } : Boot).prog.getLsbD 3 = true ∧ (3 : BitVec 4) &&& ~~~(0 ||| 1) ≠ 0 ∧ (1 : BitVec 4) &&& ~~~(0 ||| 1) = 0 ∧
      ({ run with boot := { st := .resume } } : State).boot.st = .resume := by
  delta Reaches Settled; (with_reducible repeat' apply And.intro) <;> decide +kernel
theorem wit_StepTakesTheFrontCommand : run.pending = [] := rfl
theorem wit_F4LatchHoldsUntilCorePowerIsLost :
    let s : State := { run with flt := { f4 := true }, pending := [.porstN 0, .vddCorePowerLoss] }
    F4Latched s ∧ Instr.porstN 0 ≠ .vddCorePowerLoss ∧ s.pending.head? ≠ some .vddCorePowerLoss ∧ s.pending = [.porstN 0] ++ [.vddCorePowerLoss] ∧
      Instr.vddCorePowerLoss ∉ [Instr.porstN 0] := by
  (with_reducible repeat' apply And.intro) <;> decide +kernel
theorem wit_MemoryOperationsKeepTheCanonicalForm : MemCanonical { run with mem := [(0x100000000, 1), (0x2000000000, 0)] } := by
  decide +kernel

/-! One step of the commands, by the manual. -/
/-- The state after a command. -/
def after (c : Instr) (s : State) : State := match exec c s with | .next u => u | _ => s
/-- The registers of processor 0 after a command. -/
def regs0 (c : Instr) (r : Regs) : Regs := regsOf (after c (mp0 r)) (.mp 0)
/-- Result and N, Z, C, V (as bits 0 to 3 of SR) of an instruction of processor 0 on g2 and g3. -/
def alu (c : Instr) (a b : DWord) (sr : Word := 0) : DWord × Word := let r := regs0 c { at0 with g := [(2, a), (3, b)].filter fun e => e.2 ≠ 0, sr := sr }; (r.gr 1, r.sr)
/-- The outstanding result and SR of a multiplication or division of g2 and g3. -/
def muldiv (c : Instr) (a b : DWord) : Option (DWord × DWord) × Word :=
  let s := after c (mp0 { at0 with g := [(2, a), (3, b)].filter fun e => e.2 ≠ 0 }); ((thrOf s (.mp 0)).md, (regsOf s (.mp 0)).sr)
/-- The words of the worked examples spell their instructions (R97, R98, R100), and a reserved bit or a processor's WFI on a context makes a word that
is none (R97, R133). -/
theorem test_words : clanaDecode (.mp 0) np false 0x04C48000 = some (.add (.mp 0) np false 3 1 2) ∧
    clanaDecode (.ctx 5) np false 0x0BFCFFE0 = some (.addi (.ctx 5) np false 15 15 0xFFE0) ∧
    clanaDecode (.mp 0) np false 0xB0000103 = some (.mfs (.mp 0) np 0 4) ∧
    unitWords [0xF8000001, 0x08442345] = some ({ rep := false, ext := some 1 }, 0x08442345) ∧
    clanaDecode (.mp 0) np false 0x04C48800 = none ∧ clanaDecode (.ctx 5) np false 0xAC000006 = none ∧ (clanaDecode (.mp 0) np false 0xAC000006).isSome = true := by
  (with_reducible repeat' apply And.intro) <;> decide +kernel
/-- The worked examples of R110: addition and negation. -/
theorem test_r110_add : alu (.neg (.mp 0) np false 1 2) 0x8000000000000000 0 = (0x8000000000000000, 0xD) ∧
    alu (.neg (.mp 0) np true 1 2) 0x80000000 0 = (0xFFFFFFFF80000000, 0xD) ∧ alu (.add (.mp 0) np false 1 2 3) 0x7FFFFFFFFFFFFFFF 1 = (0x8000000000000000, 0x9) := by
  (with_reducible repeat' apply And.intro) <;> decide +kernel
/-- The worked examples of R110: shifts and rotates. -/
theorem test_r110_shift : alu (.shl (.mp 0) np false 1 2 3) 1 64 = (0, 0x6) ∧ alu (.sar (.mp 0) np false 1 2 3) 0x8000000000000000 200 = (0xFFFFFFFFFFFFFFFF, 0x5) ∧
    alu (.shr (.mp 0) np false 1 2 3) 9 0x100 4 = (9, 4) ∧ alu (.rol (.mp 0) np false 1 2 3) 1 100 = (0x0000001000000000, 0) ∧
    alu (.shl (.mp 0) np true 1 2 3) 1 31 = (0xFFFFFFFF80000000, 0x1) ∧ (alu (.shr (.mp 0) np true 1 2 3) 1 32).1 = 0 ∧
    (alu (.ror (.mp 0) np true 1 2 3) 1 33).1 = 0xFFFFFFFF80000000 := by
  (with_reducible repeat' apply And.intro) <;> decide +kernel
/-- The worked examples of R110: multiplication and division. -/
theorem test_r110_muldiv : muldiv (.div (.mp 0) np 2 3) 0x8000000000000000 0xFFFFFFFFFFFFFFFF = (some (0x8000000000000000, 0), 0x8) ∧
    muldiv (.div (.mp 0) np 2 3) 0xFFFFFFFFFFFFFFF9 2 = (some (0xFFFFFFFFFFFFFFFD, 0xFFFFFFFFFFFFFFFF), 0) ∧
    muldiv (.divu (.mp 0) np 2 3) 7 0 = (some (0xFFFFFFFFFFFFFFFF, 7), 0x10) ∧ muldiv (.mul (.mp 0) np 2 3) 0xFFFFFFFFFFFFFFFF 0xFFFFFFFFFFFFFFFF = (some (1, 0), 0) ∧
    muldiv (.mulu (.mp 0) np 2 3) 0xFFFFFFFFFFFFFFFF 2 = (some (0xFFFFFFFFFFFFFFFE, 1), 0) := by
  (with_reducible repeat' apply And.intro) <;> decide +kernel
/-- The worked example of R100: EXT 0x0001 and an immediate of 0x2345 make 0x12345. -/
theorem test_ext : (regs0 (.addi (.mp 0) { np with ext := some 1 } false 1 1 0x2345) at0).gr 1 = 0x12345 := by
  decide +kernel
/-- R104: the count of leading zeros of 0 is the width; MIN compares signed values. -/
theorem test_clz_min : (alu (.clz (.mp 0) np true 1 2) 0 0).1 = 32 ∧ (alu (.min (.mp 0) np false 1 2 3) 1 0xFFFFFFFFFFFFFFFF).1 = 0xFFFFFFFFFFFFFFFF := by
  (with_reducible repeat' apply And.intro) <;> decide +kernel
/-- The worked example of R156: SYS 0x21 of a P0 routine enters its handler at P1. -/
theorem test_r156_sys : let r := regsOf (after (.sys (.ctx 5) np 0x21) (ctx5 { pc := 0x100008010, exv := 0x100004000, ceil := 1, stpa := 0x1000500040 })) (.ctx 5)
    r.epc = 0x100008010 ∧ r.esr = 0 ∧ r.ecause = 8 ∧ r.eval = 0x21 ∧ r.sr = 0x500 ∧ r.pc = 0x100004040 ∧ r.stpa = 0x1000500040 := by
  (with_reducible repeat' apply And.intro) <;> decide +kernel
/-- R36: the named algorithms on the digits 1 to 9. -/
theorem test_crc_checks : let d : List Byte := [0x31, 0x32, 0x33, 0x34, 0x35, 0x36, 0x37, 0x38, 0x39]
    crcOf 1 d = 0xE3069283 ∧ crcOf 2 d = 0xCBF43926 ∧ crcOf 3 d = 0x29B1 ∧ crcOf 4 d = 0x4B := by
  (with_reducible repeat' apply And.intro) <;> decide +kernel
/-- R111: LDS of a byte extends its sign, and the value is outstanding. -/
theorem test_lds_byte : (thrOf (after (.lds (.mp 0) np 0 1 2 1) { mp0 { at0 with g := [(2, 0x100001000)] } with mem := [(0x100001001, 0x80)] }) (.mp 0)).loads =
    [(1, 0xFFFFFFFFFFFFFF80)] := by
  decide +kernel
/-- R112: a misaligned store raises cause 3 with its address, at the vector base. -/
theorem test_misaligned_store : let r := regs0 (.st (.mp 0) np 3 1 2 4) { at0 with g := [(2, 0x100001000)], exv := 0x100000100 }
    r.ecause = 3 ∧ r.eval = 0x100001004 ∧ r.epc = 0x100000000 ∧ r.pc = 0x100000100 ∧ r.sr = 0x600 := by
  (with_reducible repeat' apply And.intro) <;> decide +kernel
/-- R101: REP repeats a unit until RC is 0. -/
theorem test_rep_counts : let r := regs0 (.nop (.mp 0) { np with rep := true }) { at0 with rc := 2 }
    r.rc = 1 ∧ r.pc = 0x100000000 := by
  (with_reducible repeat' apply And.intro) <;> decide +kernel
/-- R116: BL sets LR and goes back by a negative offset. -/
theorem test_bl_back : let r := regs0 (.bl (.mp 0) np 0x3FFFFFF) { at0 with pc := 0x100000010 }
    r.lr = 0x100000014 ∧ r.pc = 0x10000000C := by
  (with_reducible repeat' apply And.intro) <;> decide +kernel
/-- R198: LCK of a free cell takes it for processor 0 with the next generation. -/
theorem test_lck : let s := after (.lck (.mp 0) np 1 2) (mp0 { at0 with g := [(2, 5)] })
    lockOf s 5 = 0x2C0000 ∧ (regsOf s (.mp 0)).gr 1 = 0 := by
  (with_reducible repeat' apply And.intro) <;> decide +kernel
/-- R48: END makes the context IDLE. -/
theorem test_end_idles : stOf (after (.endStep 5) (step5 5 0)) 5 = .idle := by
  decide +kernel
/-- R45: SIGNAL of an IDLE context sets its bits and leaves it IDLE. -/
theorem test_signal_step : let s := after (.signalStep 5) { step5 0x0000000300000203 7 with gal := { live := [(5, { st := .resident }), (7, { st := .idle, pend := 4 })] } }
    (liveOf s 7).pend = 7 ∧ stOf s 7 = .idle := by
  (with_reducible repeat' apply And.intro) <;> decide +kernel
/-- R42: MOVE-OUT waits for its channel with WAITK 6. -/
theorem test_move_out_waits : let s := after (.moveOut 5) (step5 0x400280209 0x100001000 { run := some {} })
    stOf s 5 = .waiting ∧ (liveOf s 5).waitk = 6 ∧ (chanOf s 5).isSome = true := by
  (with_reducible repeat' apply And.intro) <;> decide +kernel
/-- R177: ALLOC makes a FREE context IDLE. -/
theorem test_alloc : stOf (after (.alloc 2 5) run) 5 = .idle := by
  decide +kernel
/-- R134: a command below the level of its register does nothing. -/
theorem test_alloc_below_level : stOf (after (.alloc 1 5) run) 5 = .free := by
  decide +kernel
/-- R9: DISABLE of a channel with nothing in flight drains at once. -/
theorem test_disable_channel : (chstOf (after (.disableChannel 2 5) run) 5).en = .disabled := by
  decide +kernel
/-- R250: ENABLE latches BASE. -/
theorem test_enable_queue : (wqOf (after (.enableQueue 1 1) (queue1 { st := .disabled })) 1).st = .active := by
  decide +kernel
/-- R241: an entry that the device owns is fetched, and its OWN bit cleared. -/
theorem test_fetch_clears_own : memGet (after (.entryFetch 1) { queue1 { st := .active } with mem := [(0x100010000, 0x81)] }) 0x100010000 = 1 := by
  decide +kernel
/-- R3: a read of a counter clears it. -/
theorem test_counter_read_clears : imr (after (.rcRead 1 0x090020) { run with reg := { im := [(0x090020, 7)] } }) 0x090020 = 0 := by
  decide +kernel
/-- R267: a COMMIT for the landing in progress misses with TARGET. -/
theorem test_late_commit : (after (.commit 2 1) (lnds { num := 4 } 45000)).lnd.lreason = 1 := by
  decide +kernel
/-- R271: the landing of a commit that passed swaps the banks and takes its tag. -/
theorem test_landing_swaps : let s := after (.landing {} {}) (lnds { num := 1, judged := some (2, some ({ tgt := 2, seq := 1, ring := false, rcv := 0 }, 0)) } 19999)
    s.lnd.num = 2 ∧ s.lnd.tagA = 1 ∧ s.time.now = 20000 := by
  (with_reducible repeat' apply And.intro) <;> decide +kernel
/-- R311: flight 2,000 of the example, with 2,400 symbols corrected of 21,250,000, has SER 112,941 and exceeds the margin. -/
theorem test_fec_margin :
    let s := after (.landing { syms := 21250000, corr := 2400 } {}) { lnds { num := 1, judged := some (2, none) } 19999 with ring := { a := { link := 2 } } }
    imr s (aPort false + 0x14) = 112941 ∧ imr s (aPort false + 0x18) = 2400 ∧ s.ring.a.fecCnt = 1 ∧ s.ring.a.rtrReq = false := by
  (with_reducible repeat' apply And.intro) <;> decide +kernel
/-- R285: a frame for another address is forwarded on the other port with HOPS − 1. -/
theorem test_forward : ((egQ (after (.frameReceive false { frame := sctFrame 3 0 none, frags := some 0 } true .none) linked) true
    (pcpQueue linked true (pcpOf linked false (sctFrame 3 0 none)))).map fun e => byteAt e.f.body 5) = [8] := by
  decide +kernel
/-- R344: ENUM gives an unaddressed device its address. -/
theorem test_enum : (after .enum (inbox { less 0x03 ([0x30, 1, 0, 0] ++ b8 1 ++ [0, 0, 0, 0]) with portB := true })).rm.addr = 0x30 := by
  decide +kernel
/-- R310: a signal at an ACTIVE port with its link DOWN starts training. -/
theorem test_signal_detect : (portOf (after (.signalDetect true) run) true).link = 1 := by
  decide +kernel
/-- R259: an offset over the threshold steps ring time. -/
theorem test_time_steps : (after (.syncReceive false false 101 ⟨0, 0, 0, 0⟩)
    { run with reg := { act := [(aSTEPTHR, 100), (aPort false + 0x30, 1)] }, ring := { a := { link := 2, ascap := true } }, time := { st := .sync, now := 7 } }).time.now = 108 := by
  decide +kernel
/-- R8: DISABLE of an ACTIVE unit drains it. -/
theorem test_unit_disable : (unitOf (after (.unitDisable 2 0x28) (unit 0x28 { st := .active })) 0x28).st = .draining := by
  decide +kernel
/-- R377: a unit of transfer for a full receive buffer is lost with OVERRUN. -/
theorem test_overrun : let x : RxRec := { bytes := [1], fin := { crcBad := false, portErr := false, code := 0 } }
    (unitOf (after (.recordReceive 0x28 { bytes := [2] } x.fin) (unit 0x28 { st := .active, rx := List.replicate 8 x, spiRx := [List.replicate 16 0] })) 0x28).code = 1 := by
  decide +kernel
/-- R396: the CRC of six nibbles 0 is 5 by the recommended method, since 0101 returns after seven nibbles, and what comes one nibble earlier by the legacy one. -/
theorem test_sent_crc : sentCrc false [0, 0, 0, 0, 0, 0] = 5 ∧ sentCrc true [0, 0, 0, 0, 0, 0] = 15 := by
  (with_reducible repeat' apply And.intro) <;> decide +kernel
/-- R393: an accepted packet of 2 bytes in PACKET mode is one unit of 128 bytes, its data type at 0x08. -/
theorem test_csi_packet :
    let x := unitOf (after (.recordReceive 0x20 { bytes := [], csi := { pkts := [{ dt := 0x2A, pay := [1, 2] }] } } { crcBad := false, portErr := false, code := 0 })
      { unit 0x20 { st := .active } with reg := { act := [(aUnit 0x20 0x10, 0x104), (aUnit 0x20 0x18, 0x400)] } }) 0x20
    (x.rx.map fun r => r.bytes.length) = [128] ∧ (x.rx.map fun r => byteAt r.bytes 8) = [0x2A] := by
  (with_reducible repeat' apply And.intro) <;> decide +kernel
/-- R415: EOI by a target that does not own the source is bad. -/
theorem test_eoi_bad : (after (.eoi 1 0x680 2) (events 3 { st := .active, owner := 3 } [])).evt.eoiBad = true := by
  decide +kernel
/-- R428: of equal slots the higher input wins. -/
theorem test_tie : (arbOf (after (.arbitrationPhase 0 0 0x300 false) run) 0 0).parked = some 9 := by
  decide +kernel
/-- R442: a correctable error of a read queues its word. -/
theorem test_ce_queues : (after (.dramAccessDone 0x100000100F false (.ce 3)) dram).memc.corr = [(1, [0x1000001008])] := by
  decide +kernel
/-- R464: a fault of class F4 sets the latch, and then no command of the core acts. -/
theorem test_f4 : (after (.faultLatch 0xE2 { info := 0 }) run).flt.f4 = true ∧ stOf (after (.alloc 2 5) (after (.faultLatch 0xE2 { info := 0 }) run)) 5 = .free := by
  (with_reducible repeat' apply And.intro) <;> decide +kernel
/-- R489: a key slot is programmed once. -/
theorem test_program_once : (after (.program 2 1) (after (.program 2 1) run)).boot.keyRefused = true := by
  decide +kernel
/-- R493: OP STANDBY stops the clocks. -/
theorem test_standby : (after (.standby 2) run).boot.st = .standby := by
  decide +kernel
/-- The worked example of R420: after a record for MP_2 the next goes to MP_1, in the group of PRIO bits 7 and 6. -/
theorem test_next_target : let s := { run with
      reg := { act := [(aEVT, 2), (aEVT + 0x140, 0x31), (aEVT + 0x180, 0x31)], tabA := [(tkeyOf .evt 0x12C 0, 0x68C8)] }, evt := { src := [(0x12C, { st := .pending, rrptr := 2 })] } }
    (evSrc (after .eventRecordWrite s) 0x12C).rrptr = 1 ∧ (evQ (after .eventRecordWrite s) 1 3).wr = 1 := by
  (with_reducible repeat' apply And.intro) <;> decide +kernel
/-- The worked example of R434: with input 20 at slot 40, 20 beats 35 in set 3. -/
theorem test_r434 : (arbOf (after (.arbitrationPhase 3 0 0x800100000 false) (after (.arbSlotWrite 2 3 5 0x17161528) run)) 3 0).parked = some 20 ∧
    (arbOf (after (.arbitrationPhase 3 0 0x800100000 false) run) 3 0).parked = some 35 := by
  (with_reducible repeat' apply And.intro) <;> decide +kernel

end Sys2Proof.Tests
end

section
/-! The step (R3, R134), the machine right after reset (R6, R24, R204) and registers (R3 to R6, R27, R28, R260). -/
namespace Sys2Proof.Machine

/-! One step. -/
/-- No command is refused and none ends in a fault. -/
theorem exec_answers (c : Instr) (s : State) : ∃ u, exec c s = .next u := by
  cases c
  case rcRead lvl addr =>
    change ∃ u, execRcRead lvl addr s = .next u
    unfold execRcRead
    split <;> exact ⟨_, rfl⟩
  all_goals exact ⟨_, rfl⟩
/-- Settles O57: step unfolds to exec on the front of the queue, and every command answers. -/
theorem stepTakesTheFrontCommand : Obligations.StepTakesTheFrontCommand := by
  refine ⟨fun _ _ _ => rfl, fun s h => ?_, exec_answers⟩
  unfold step
  rw [h]
  rfl

/-! The machine right after reset. -/
/-- A byte of the flash windows that nothing has written is erased. -/
theorem memDefault_flash (e p k : Nat) (h : 0x20_0000_0000 ≤ k) (h' : k < 0x21_0000_0000) : memDefault e p k = 0xFF :=
  if_pos ⟨h, h'⟩
/-- Clusters below the spare are ACTIVE and serve themselves. -/
theorem clReset_own {n : Nat} (h : n < 32) : clReset n = { serves := BitVec.ofNat 6 n } := if_neg (by omega)
/-- Settles O60: every table of State.reset is empty, so that each read gives its default. -/
theorem resetLeavesTheMachine : Obligations.ResetLeavesTheMachine := by
  refine ⟨rfl, rfl, memDefault_flash 0 0, fun _ => ⟨rfl, rfl, rfl⟩, fun _ => ⟨rfl, rfl, rfl⟩, fun n hn => ?_, rfl, rfl, rfl, rfl, rfl,
    fun _ => rfl, fun _ => rfl, fun _ => rfl, fun b => ?_, rfl, rfl, rfl⟩
  · have h : clOf State.reset n = { serves := BitVec.ofNat 6 n } := clReset_own hn
    simp [h]
  · cases b <;> rfl

/-! Registers. -/
theorem settle_settled {s : State} (h : Settled s) : settle s = s := by
  obtain ⟨hr, hc, hp⟩ := h
  simp [settle, hr, hc, hp]
theorem mayWriteReg_reaches {lvl : Lvl} (h : Reaches lvl 2) (a : Nat) : mayWriteReg lvl a = true := by
  have hl : lvl = 2 := BitVec.eq_of_toNat_eq (Nat.le_antisymm h.2 h.1)
  simp [mayWriteReg, hl]
/-- A write by P2 at a word of register space has the effect of the register there. -/
theorem exec_registerWrite {s : State} {lvl : Lvl} {addr : BitVec 24} (v : Word) (hc : clocksOn s = true) (hl : Reaches lvl 2)
    (ha : addr.toNat % 4 = 0) (hr : addr.toNat < 0x110000) : exec (.registerWrite lvl addr v) s = .next (settle (writeEffect addr.toNat v s)) := by
  change execRegisterWrite lvl addr v s = _
  simp [execRegisterWrite, onCore_on _ hc, regWrite, mayWriteReg_reaches hl, ha, hr]
/-- The mark of a late write touches nothing but WRDL (R269). -/
theorem markWrdl_eq (s : State) : ∃ b, markWrdl s = { s with lnd := { s.lnd with wrdl := b } } := by
  unfold markWrdl
  split
  · exact ⟨true, rfl⟩
  · exact ⟨s.lnd.wrdl, rfl⟩
theorem rsvdIf_eq (f : Bool) (s : State) : rsvdIf f s = { s with reg := { s.reg with rsvd := s.reg.rsvd || f } } := by
  cases f <;> simp [rsvdIf, setRsvd]
/-- A register write takes effect in the STAGED bank field by field. -/
theorem applyStg_reg {a : Nat} {row : Row} {i : Nat} (s : State) (v : Word) (h : regAt a = some (row, i)) :
    applyStg s { table := false, key := a, val := v.setWidth 64 } =
      rsvdIf (mergeReg (stg s a) v (row.flds i)).2 (setStg s a (mergeReg (stg s a) v (row.flds i)).1) := by
  simp [applyStg, stgVal, h]
/-- A write to a staged setting outside boot, copies and the judgement interval takes effect at once. -/
theorem writeEffect_staged {s : State} {a : Nat} {row : Row} {i : Nat} (v : Word) (h : regAt a = some (row, i)) (hacc : row.acc = .rw) (hls : row.ls = true)
    (hrun : s.boot.st = .run) (hsync : s.lnd.syncBusy = none) (hj : s.lnd.judged = none) (hlock : s.flt.lock = false) :
    writeEffect a v s = applyStg (markWrdl s) { table := false, key := a, val := v.setWidth 64 } := by
  obtain ⟨b, hb⟩ := markWrdl_eq s
  simp [writeEffect, h, hacc, hls, lsWrite, hlock, stgWrite, hrun, hsync, hb, hj]
/-- What a write to a staged setting leaves: its STAGED value, the flag of R5, WRDL, and everything else as it was. -/
theorem applyStg_markWrdl {a : Nat} {row : Row} {i : Nat} (s : State) (v : Word) (h : regAt a = some (row, i)) :
    let m := mergeReg (stg s a) v (row.flds i)
    ∃ b, applyStg (markWrdl s) { table := false, key := a, val := v.setWidth 64 } =
      { s with reg := { s.reg with stg := (setStg s a m.1).reg.stg, rsvd := s.reg.rsvd || m.2 }, lnd := { s.lnd with wrdl := b } } := by
  obtain ⟨b, hb⟩ := markWrdl_eq s
  refine ⟨b, ?_⟩
  rw [applyStg_reg _ v h, rsvdIf_eq, hb]
  rfl
/-- The first claim of O32. -/
theorem registerWrite_staged {s : State} {lvl : Lvl} {addr : BitVec 24} {row : Row} {i : Nat} (v : Word) (hc : clocksOn s = true) (hset : Settled s)
    (hl : Reaches lvl 2) (ha : addr.toNat % 4 = 0) (hr : addr.toNat < 0x110000) (h : regAt addr.toNat = some (row, i)) (hacc : row.acc = .rw)
    (hls : row.ls = true) (hrun : s.boot.st = .run) (hsync : s.lnd.syncBusy = none) (hj : s.lnd.judged = none) (hlock : s.flt.lock = false) :
    let m := mergeReg (stg s addr.toNat) v (row.flds i)
    Answers (.registerWrite lvl addr v) s fun u => stg u addr.toNat = m.1 ∧ (∀ b, b ≠ addr.toNat → stg u b = stg s b) ∧ (∀ b, act u b = act s b) ∧
      u.reg.rsvd = (s.reg.rsvd || m.2) ∧ { u with reg := s.reg, lnd := { u.lnd with wrdl := s.lnd.wrdl } } = s := by
  intro m
  obtain ⟨b, hb⟩ := applyStg_markWrdl s v h
  refine ⟨_, exec_registerWrite v hc hl ha hr, ?_⟩
  rw [writeEffect_staged v h hacc hls hrun hsync hj hlock, hb, settle_settled (by exact hset)]
  exact ⟨stg_setStg_same s _ _, stg_setStg_other s _ _, fun _ => rfl, rfl, rfl⟩

/-! Reads with an effect. -/
/-- A read of a counter clears it (R3). -/
theorem readEffect_counter {s : State} {a : Nat} {row : Row} {i : Nat} (h : regAt a = some (row, i)) (hacc : row.acc = .rc)
    (hn : ¬(0xB0120 ≤ a ∧ a < 0xB0620)) : (readEffect a s).2 = setIm s a 0 := by
  have hb : ¬(a / 0x10000 = 0xB ∧ 0x120 ≤ a % 0x10000 ∧ a % 0x10000 < 0x620) := by omega
  simp [readEffect, h, hacc, hb]
theorem clocksOn_notDown {s : State} (h : clocksOn s = true) : ¬(s.boot.st = .off ∨ s.boot.st = .lost) := by
  simp only [clocksOn, Bool.and_eq_true, bne_iff_ne] at h
  simp [h]
theorem exec_rcRead {s : State} {lvl : Lvl} {addr : BitVec 24} (hc : clocksOn s = true) (hl : Reaches lvl 1) (ha : addr.toNat % 4 = 0)
    (hr : addr.toNat < 0x110000) : exec (.rcRead lvl addr) s = .next (readEffect addr.toNat s).2 := by
  have hm : mayLvl lvl 1 = true := (mayLvl_iff _ _).mpr hl
  change execRcRead lvl addr s = _
  unfold execRcRead
  split
  · rw [onSafe_on _ (clocksOn_notDown hc)]
    simp [regRead, hm, ha, hr]
  · rw [onCore_on _ hc]
    simp [regRead, hm, ha, hr]
theorem imBack_setIm (s : State) (a : Nat) (v : Word) : ImBack s (setIm s a v) = s := rfl
theorem otherIm_setIm (s : State) (a : Nat) (v : Word) : OtherIm s (setIm s a v) a := fun b hb => imr_setIm_other s a v b hb

/-! GLB_RSVD_WR_CLEAR. -/
theorem and_not_one_eq_zero (v : Word) : v &&& 0xFFFFFFFE#32 = 0#32 ↔ v >>> 1 = 0#32 := by
  have h : v &&& 0xFFFFFFFE#32 = (v >>> 1) <<< 1 := by
    apply BitVec.eq_of_getLsbD_eq
    intro i hi
    interval_cases i <;> simp
  rw [h, ← BitVec.toNat_inj, ← BitVec.toNat_inj]
  simp only [BitVec.toNat_shiftLeft, BitVec.toNat_ushiftRight, Nat.shiftLeft_eq, Nat.shiftRight_eq_div_pow, BitVec.toNat_ofNat]
  have := v.isLt
  omega
/-- A write to a register with bit 0 alone defined writes a reserved 1 exactly when a bit above it is set. -/
theorem mergeReg_bit0 (v : Word) : (mergeReg 0 v [F 0 1]).2 = decide (v >>> 1 ≠ 0) := by
  simp [mergeReg, mergeFlds, F, Fld.takes, Fld.valid, and_not_one_eq_zero]
/-- The same for the command and acknowledgement registers of that form. -/
theorem withRsvd_bit0 {a : Nat} {row : Row} {i : Nat} (v : Word) (f : State → State) (s : State) (h : regAt a = some (row, i)) (hf : row.flds i = [F 0 1]) :
    withRsvd a v f s = rsvdIf (decide (v >>> 1 ≠ 0)) (f s) := by
  simp only [withRsvd, h, hf, mergeReg_bit0]
theorem rsvdClear_eq (v : Word) (s : State) : rsvdClear v s = { s with reg := { s.reg with rsvd := s.reg.rsvd && !v.getLsbD 0 } } := by
  unfold rsvdClear bit
  cases v.getLsbD 0
  · simp only [Bool.false_eq_true, if_false, Bool.not_false, Bool.and_true]
  · simp only [if_true, Bool.not_true, Bool.and_false]
theorem exec_glbRsvdWrClear {s : State} {lvl : Lvl} (v : Word) (hc : clocksOn s = true) (hl : Reaches lvl 2) :
    exec (.glbRsvdWrClear lvl v) s = .next { s with reg := { s.reg with rsvd := (s.reg.rsvd && !v.getLsbD 0) || decide (v >>> 1 ≠ 0) } } := by
  change execGlbRsvdWrClear lvl v s = _
  have hr : regAt 0x000030 = some ({ addr := 0x0030, acc := .w1c, ls := false, flds := fun _ => [F 0 1] }, 0) := rfl
  rw [execGlbRsvdWrClear, onReg_reaches _ hc hl, withRsvd_bit0 v _ s hr rfl, rsvdIf_eq, rsvdClear_eq]

/-! Snapshots (R260). -/
theorem imBack_trans {s u w : State} (h : ImBack u w = u) (h' : ImBack s u = s) : ImBack s w = s := by
  have e : ImBack s w = ImBack s (ImBack u w) := rfl
  rw [e, h, h']
theorem imBack_snapNow (s : State) : ImBack s (snapNow s) = s := rfl
theorem imBack_snapLnd (s : State) : ImBack s (snapLnd s) = s := rfl
theorem exec_timeNowNsLoRead {s : State} {lvl : Lvl} (hc : clocksOn s = true) (hl : Reaches lvl 1) :
    exec (.timeNowNsLoRead lvl) s = .next (snapNow s) := by
  change execTimeNowNsLoRead lvl s = _
  rw [execTimeNowNsLoRead, onReg_reaches _ hc hl]
  rfl
theorem exec_timeLndNumLoRead {s : State} {lvl : Lvl} (hc : clocksOn s = true) (hl : Reaches lvl 1) :
    exec (.timeLndNumLoRead lvl) s = .next (snapLnd s) := by
  change execTimeLndNumLoRead lvl s = _
  rw [execTimeLndNumLoRead, onReg_reaches _ hc hl]
  rfl
/-- The words beside TIME_NOW_NS_LO: the high word of the time, its nanoseconds and its seconds. -/
theorem snapNow_words (s : State) : let now := s.time.now.toNat
    (imr (snapNow s) 0x030014).toNat = now / 2 ^ 32 ∧ (imr (snapNow s) 0x030018).toNat = now % 1000000000 ∧
      (imr (snapNow s) 0x03001C).toNat = now / 1000000000 % 2 ^ 32 ∧ (imr (snapNow s) 0x030020).toNat = now / 1000000000 / 2 ^ 32 % 2 ^ 16 := by
  have hlt := s.time.now.isLt
  simp only [snapNow, imr_setIm_same, imr_setIm_other, ne_eq, Nat.reduceEqDiff, not_false_eq_true, BitVec.toNat_ofNat]
  refine ⟨?_, ?_, trivial, ?_⟩ <;> omega
/-- The words beside TIME_LND_NUM_LO: the high word of the landing number, and the time of the next landing. -/
theorem snapLnd_words (s : State) : (imr (snapLnd s) 0x030054).toNat = s.lnd.num.toNat / 2 ^ 32 ∧
    (imr (snapLnd s) 0x030058).toNat + 2 ^ 32 * (imr (snapLnd s) 0x03005C).toNat = lndNext s := by
  have hlt := s.lnd.num.isLt
  have hn : lndNext s < 2 ^ 64 := BitVec.isLt _
  simp only [snapLnd, imr_setIm_same, imr_setIm_other, ne_eq, Nat.reduceEqDiff, not_false_eq_true, BitVec.toNat_ofNat]
  constructor <;> omega

/-- Settles O32: the write and the reads by the lemmas above, one after another. -/
theorem registersAreWrittenAndRead : Obligations.RegistersAreWrittenAndRead := by
  intro s addr v row i lvl hc a now
  refine ⟨fun hset hl ha hr => ⟨?_, ?_, ?_⟩, exec_glbRsvdWrClear v hc, fun hl => ?_, fun hl => ?_, fun hb => ?_⟩
  · exact fun h hacc hls hrun hsync hj _ hlock => registerWrite_staged v hc hset hl ha hr h hacc hls hrun hsync hj hlock
  · intro h
    rw [exec_registerWrite v hc hl ha hr]
    simp only [writeEffect, h, a]
    exact congrArg _ (settle_settled hset)
  · intro hl1 h hacc hn
    refine ⟨_, exec_rcRead hc hl1 ha hr, ?_⟩
    rw [readEffect_counter h hacc hn]
    exact ⟨imr_setIm_same _ _ _, otherIm_setIm _ _ _, imBack_setIm _ _ _⟩
  · obtain ⟨hhi, hns, hs, hs'⟩ := snapNow_words s
    exact ⟨_, exec_timeNowNsLoRead hc hl, hhi, hns, hs, hs', imBack_snapNow s⟩
  · obtain ⟨hnum, hnext⟩ := snapLnd_words s
    exact ⟨_, exec_timeLndNumLoRead hc hl, hnum, hnext, imBack_snapLnd s⟩
  · change execStbyPllLock s = _
    rw [execStbyPllLock, onCore_on _ hc, stbyLocked, if_pos hb]

end Sys2Proof.Machine
end

section
/-! Refutations: a mover channel held by the global pause (R221, R232), and a report that a fenced cluster still writes (R86, R195). -/
namespace Sys2Proof.Machine

/-- A BULK MOVE-OUT waits with its record for room in its unit, held by the global pause (R221), and its context waits with WAITK 6; the context's
channel is not PAUSED. -/
def offeredUnderPause : State :=
  { gal := { live := [(0, { st := .waiting, waitk := 6 })] },
    mov := { chans := [(0, { kind := .moveOut, offered := true })], bulkPaused := true } }
/-- UNPAUSE of a channel that is not PAUSED has no paused transfer to let go on, and still takes the wait of the offered record from 6 to 5. -/
theorem unpause_offeredUnderPause : ∃ u, exec (.unpause 1 0) offeredUnderPause = .next u ∧ (liveOf u 0).waitk = 5 :=
  ⟨_, rfl, by decide +kernel⟩
/-- Refutes O33: an UNPAUSE that answers 0b01 for a channel that is not PAUSED also serves the writer that waits with its record, whose WAITK goes from 6 to 5. -/
theorem not_channelCommandsAnswer : ¬ Obligations.ChannelCommandsAnswer := by
  intro h
  obtain ⟨-, hidle, -⟩ := h offeredUnderPause 0 1 { kind := .moveOut } (by decide) ⟨by decide, by decide⟩
  obtain ⟨-, -, -, -, -, -, -, -, -, -, hun, -⟩ := hidle (by decide)
  obtain ⟨u, hu, hk⟩ := unpause_offeredUnderPause
  have he := hu.symm.trans (hun (by decide))
  cases he
  exact absurd hk (by decide)

/-- Context 0 waits for the end of a step that a STOP of class HALT ends, and its REPA names a report address in SRAM. -/
def haltingStep : State :=
  { boot := { st := .run }, gal := { live := [(0, { st := .waiting })], recs := [(0, { repa := 0x100000000 })] },
    mov := { chans := [(0, { kind := .moveMem, stopping := some .halt })] } }
/-- The fault of cluster 0 fences it, and the step that was to halt its context halts it with a report whose STATUS is ABORT. -/
theorem faultLatch_haltingStep : ∃ u, exec (.faultLatch 0 { info := 0 }) haltingStep = .next u ∧ memGet u 0x10000000D = 0x10 :=
  ⟨_, rfl, by decide +kernel⟩
/-- Refutes O54: a fault that fences a cluster ends the transfers of its contexts, and the report of one that is to HALT is a write of memory, so that the
latch does not leave memory as it was. -/
theorem not_faultsLatchAndReact : ¬ Obligations.FaultsLatchAndReact := by
  intro h
  obtain ⟨hlatch, -⟩ := h haltingStep 0 0 0 0 0 0 2 2 (by decide) (by decide) ⟨rfl, rfl, rfl⟩ rfl
  obtain ⟨u, hu, hm⟩ := faultLatch_haltingStep
  have hquiet := hlatch rfl
    ⟨⟨by simp [haltingStep], .inl (by decide), by decide +kernel, by decide, by decide +kernel⟩, by decide, .inl (by decide +kernel)⟩ (by decide) (by decide)
  obtain ⟨u', hu', -, -, hsame, -⟩ := hquiet
  cases hu.symm.trans hu'
  exact absurd ((hsame _).symm.trans hm) (by decide +kernel)
end Sys2Proof.Machine
end

section
/-! Fields of words, events, ring ports, and what sending may change (R281, R297, R299, R316, R320, R404 to R406). -/
namespace Sys2Proof.Machine

/-! Fields of words. -/
theorem fld_eq_extract {n : Nat} (v : BitVec n) (lo w : Nat) : fld v lo w = (v.extractLsb' lo w).toNat := by
  simp [fld, BitVec.extractLsb'_toNat]
theorem ofNat_fld {n : Nat} (v : BitVec n) (lo w : Nat) : BitVec.ofNat w (fld v lo w) = v.extractLsb' lo w := by
  rw [fld_eq_extract, BitVec.ofNat_toNat, BitVec.setWidth_eq]
theorem fld_eq_zero {n : Nat} (v : BitVec n) (lo w : Nat) : fld v lo w = 0 ↔ v.extractLsb' lo w = 0 := by
  rw [fld_eq_extract, ← BitVec.toNat_inj]
  rfl

/-! Events. -/
/-- What reads nothing of the sources of the event controller is as it was before a firing. -/
theorem evFire_frame {α : Type} (f : State → α) (s : State) (n : Nat) (info : Word)
    (h : ∀ l, f { s with evt := { s.evt with src := l } } = f s) : f (evFire s n info) = f s := by
  unfold evFire
  dsimp only
  split
  · split
    · exact h _
    · rfl
  · exact h _
  · exact h _
  · exact h _
/-- A firing of source n (R406). -/
theorem evFire_fired (s : State) (n : Nat) (info : Word) : Fired s (evFire s n info) n info := by
  unfold Fired firedSrc evFire bit evW0
  dsimp only
  cases (evSrc s n).st with
  | inactive =>
    dsimp only
    split
    · exact ⟨evSrc_setEvSrc_same s n _, evSrc_setEvSrc_other s n _⟩
    · exact ⟨rfl, fun _ _ => rfl⟩
  | pending => exact ⟨evSrc_setEvSrc_same s n _, evSrc_setEvSrc_other s n _⟩
  | active => exact ⟨evSrc_setEvSrc_same s n _, evSrc_setEvSrc_other s n _⟩
  | activePending => exact ⟨evSrc_setEvSrc_same s n _, evSrc_setEvSrc_other s n _⟩
/-- A firing is one in every state with the same sources, settings and time. -/
theorem Fired.congr {s t u v : State} {n : Nat} {info : Word} (h : Fired t u n info) (hs : t.evt.src = s.evt.src) (ha : t.reg.tabA = s.reg.tabA)
    (ht : t.time = s.time) (hu : v.evt.src = u.evt.src) : Fired s v n info := by
  simp only [Fired, evSrc, tabA, hs, ha, ht, hu] at h ⊢
  exact h

/-! Memory. -/
theorem sameMemory_of_eq {s u : State} (hm : u.mem = s.mem) (he : u.gal.epoch = s.gal.epoch) (hp : u.memc.por = s.memc.por) : SameMemory s u :=
  fun k => by simp only [memGet, memDef, hm, he, hp]
theorem SameMemory.trans {s u w : State} (h : SameMemory s u) (h' : SameMemory u w) : SameMemory s w := fun k => (h' k).trans (h k)
theorem evFire_sameMemory (s : State) (n : Nat) (info : Word) : SameMemory s (evFire s n info) :=
  fun k => evFire_frame (memGet · k) s n info fun _ => rfl

/-! Ring ports. -/
@[simp] theorem portOf_setPort_same (s : State) (b : Bool) (p : Port) : portOf (setPort s b p) b = p := by cases b <;> rfl
@[simp] theorem portOf_setPort_not (s : State) (b : Bool) (p : Port) : portOf (setPort s b p) (!b) = portOf s (!b) := by cases b <;> rfl
theorem portOf_setPort_other (s : State) (b c : Bool) (p : Port) (h : c ≠ b) : portOf (setPort s b p) c = portOf s c := by
  rw [Bool.eq_not.mpr h, portOf_setPort_not]
theorem setPort_portOf (s : State) (b : Bool) : setPort s b (portOf s b) = s := by cases b <;> rfl
/-- What reads nothing of the ring ports is as it was before a write of one. -/
theorem setPort_frame {α : Type} (f : State → α) (s : State) (b : Bool) (p : Port) (h : ∀ r, f { s with ring := r } = f s) : f (setPort s b p) = f s := by
  cases b <;> exact h _
theorem portOf_evFire (s : State) (n : Nat) (info : Word) (b : Bool) : portOf (evFire s n info) b = portOf s b :=
  evFire_frame (portOf · b) s n info fun _ => rfl

/-! What sending may change: the sessions and the R-TAG counter, the publications of the queues, the egress queues, and the drop counters. -/
/-- u with what sending may change as in s. -/
def sendBack (s u : State) : State := { u with sct := s.sct, wq := s.wq, ring := s.ring, reg := { u.reg with im := s.reg.im } }
/-- Nothing has changed from s to u but what sending may change; a ring port that is not ACTIVE queues nothing (R314). -/
structure SendsOnly (s u : State) : Prop where
  rest : sendBack s u = s
  port : ∀ b, { portOf u b with q := (portOf s b).q } = portOf s b
  idle : ∀ b, (portOf s b).st ≠ .active → portOf u b = portOf s b
  counts : ∀ a, (∀ b, a ≠ aPCnt b 5 ∧ a ≠ aPCnt b 6) → imr u a = imr s a

theorem SendsOnly.refl (s : State) : SendsOnly s s := ⟨rfl, fun _ => rfl, fun _ _ => rfl, fun _ _ => rfl⟩
theorem SendsOnly.port_st {s u : State} (h : SendsOnly s u) (b : Bool) : (portOf u b).st = (portOf s b).st := (congrArg Port.st (h.port b) :)
theorem SendsOnly.trans {s u w : State} (h : SendsOnly s u) (h' : SendsOnly u w) : SendsOnly s w where
  rest := by
    have e : sendBack s w = sendBack s (sendBack u w) := rfl
    rw [e, h'.rest, h.rest]
  port b := by
    have e : { portOf w b with q := (portOf s b).q } = { ({ portOf w b with q := (portOf u b).q } : Port) with q := (portOf s b).q } := rfl
    rw [e, h'.port b, h.port b]
  idle b hb := by rw [h'.idle b (by rwa [h.port_st b]), h.idle b hb]
  counts a ha := by rw [h'.counts a ha, h.counts a ha]
/-- A change of the sessions, the R-TAG counter and the queues alone. -/
theorem SendsOnly.of_sct_wq (s : State) (c : Sct) (w : Wq) : SendsOnly s { s with sct := c, wq := w } :=
  ⟨rfl, fun _ => rfl, fun _ _ => rfl, fun _ _ => rfl⟩
theorem SendsOnly.portCount (s : State) (b : Bool) {k : Nat} (hk : k = 5 ∨ k = 6) : SendsOnly s (portCount s b k) where
  rest := rfl
  port _ := rfl
  idle _ _ := rfl
  counts a ha := by
    refine imr_bump_other s (aPCnt b k) a ?_
    rcases hk with rfl | rfl
    · exact (ha b).1
    · exact (ha b).2
theorem SendsOnly.setEgQ (s : State) (b : Bool) (q : Nat) (l : List EgFrame) (hst : (portOf s b).st = .active) : SendsOnly s (setEgQ s b q l) where
  rest := by cases b <;> rfl
  port c := by
    by_cases h : c = b
    · subst h
      simp [Machine.setEgQ]
    · simp [Machine.setEgQ, portOf_setPort_other _ _ _ _ h]
  idle c hc := by
    have h : c ≠ b := fun e => hc (e ▸ hst)
    exact portOf_setPort_other _ _ _ _ h
  counts _ _ := by cases b <;> rfl
theorem sendsOnly_enqueueAs (s : State) (b : Bool) (q : Nat) (f : Frame) (c : Bool) (n : Nat) (cut : Bool) : SendsOnly s (enqueueAs s b q f c n cut) := by
  unfold enqueueAs
  split
  · exact .refl s
  · next hst =>
    split
    · exact .portCount s c (.inr rfl)
    · split
      · exact .portCount s c (.inl rfl)
      · exact .setEgQ s b q _ (not_not.mp hst)
theorem sendsOnly_sendOn (s : State) (b : Bool) (f : Frame) (express : Bool) : SendsOnly s (sendOn s b f express) :=
  sendsOnly_enqueueAs s b _ _ b _ false
theorem sendsOnly_sendSct (s : State) (ver typ flags dst : Byte) (session : Half) (seq : Word) (body : List Byte) :
    SendsOnly s (sendSct s ver typ flags dst session seq body) :=
  (SendsOnly.of_sct_wq s { s.sct with rtag := s.sct.rtag + 1 } s.wq).trans ((sendsOnly_sendOn _ false _ _).trans (sendsOnly_sendOn _ true _ _))
theorem sendsOnly_setSess (s : State) (k : Nat) (x : Sess) : SendsOnly s (setSess s k x) := .of_sct_wq s _ s.wq
theorem sendsOnly_pubSent (s : State) (bs : List Byte) : SendsOnly s (pubSent s bs) := by
  induction s, bs using pubSent.induct with
  | case1 s a b c d e f g h r q x ih =>
    rw [pubSent]
    exact (SendsOnly.of_sct_wq s s.sct _).trans ih
  | case2 bs s h =>
    rw [pubSent]
    · exact .refl s
    · exact h
theorem sendsOnly_transmit (s : State) (k : Nat) (m : TxMsg) (ack : Bool) : SendsOnly s (transmit s k m ack) := by
  have hpub : SendsOnly s (if m.typ = 0x17 then pubSent s m.body else s) := by
    split
    · exact sendsOnly_pubSent s m.body
    · exact .refl s
  exact hpub.trans ((sendsOnly_setSess _ k _).trans (sendsOnly_sendSct _ _ _ _ _ _ _ _))
theorem sendsOnly_pumpList (k : Nat) (ms : List TxMsg) (s : State) : SendsOnly s (pumpList s k ms).1 := by
  induction ms generalizing s with
  | nil => exact sendsOnly_setSess s k _
  | cons m ms ih =>
    rw [pumpList]
    split
    · exact (sendsOnly_transmit s k m _).trans (ih _)
    · exact sendsOnly_setSess s k _
theorem sendsOnly_pump (s : State) (k : Nat) : SendsOnly s (pump s k).1 := by
  unfold pump
  split
  · exact sendsOnly_pumpList k _ s
  · exact .refl s
theorem sendsOnly_sessSend (s : State) (k : Nat) (typ : Byte) (body : List Byte) : SendsOnly s (sessSend s k typ body) :=
  (sendsOnly_setSess s k { sessOf s k with waitq := (sessOf s k).waitq ++ [{ typ := typ, body := body }] }).trans (sendsOnly_pump _ k)
theorem sendsOnly_reportFault (s : State) (src cls : Nat) (info : Word) : SendsOnly s (reportFault s src cls info) := by
  unfold reportFault
  dsimp only
  split
  · exact sendsOnly_sessSend s _ _ _
  · exact .refl s
theorem SendsOnly.sameMemory {s u : State} (h : SendsOnly s u) : SameMemory s u :=
  sameMemory_of_eq (congrArg State.mem h.rest :) (congrArg (fun v => v.gal.epoch) h.rest :) (congrArg (fun v => v.memc.por) h.rest :)

end Sys2Proof.Machine
end

section
/-! The links of the ring ports (R8, R9, R310, R311, R314, R325, R352). -/
namespace Sys2Proof.Machine

/-! A lost neighbour (R352). -/
/-- A report changes the links of the ring manager and event source 0x4B0 alone. -/
theorem linkReport_frame {α : Type} (f : State → α) (s : State) (a b : Byte)
    (h : ∀ (m : Rm) (l : Sparse EvSrc), f { s with rm := m, evt := { s.evt with src := l } } = f s) : f (linkReport s a b) = f s := by
  unfold linkReport segmentEv
  dsimp only
  split
  · rfl
  · split
    · refine (evFire_frame f _ _ _ fun l => ?_).trans (h _ s.evt.src)
      exact (h _ l).trans (h _ s.evt.src).symm
    · exact h _ s.evt.src
theorem evSrc_linkReport (s : State) (a b : Byte) {n : Nat} (h : n ≠ 0x4B0) : evSrc (linkReport s a b) n = evSrc s n := by
  unfold linkReport segmentEv
  dsimp only
  split
  · rfl
  · split
    · exact (evFire_fired _ _ _).2 n h
    · rfl
/-- The information of RING_LINK: the port and the lost neighbour (R469). -/
def lostInfo (b : Bool) (lost : Byte) : Word := BitVec.ofNat 32 (b2n b + lost.toNat * 256)
/-- A lost neighbour is raised as the fault RING_LINK and reported by a message, whatever else the ring manager notes of it. -/
theorem linkLost_frame {α : Type} (f : State → α) (s : State) (b : Bool) (lost : Byte)
    (h : ∀ (u : State) (m : Rm) (l : Sparse EvSrc), f { u with rm := m, evt := { u.evt with src := l } } = f u) :
    f (linkLost s b lost) = f (reportFault (raise s 0x80 (lostInfo b lost)) 0x80 1 (lostInfo b lost)) := by
  unfold linkLost
  dsimp only
  split
  · exact linkReport_frame f _ _ _ (h _)
  · rfl
theorem linkLost_evSrc (s : State) (b : Bool) (lost : Byte) {n : Nat} (h : n ≠ 0x4B0) : evSrc (linkLost s b lost) n = evSrc s n := by
  have hr : evSrc (reportFault (raise s 0x80 (lostInfo b lost)) 0x80 1 (lostInfo b lost)) n = evSrc s n :=
    (congrArg (fun v => evSrc v n) (sendsOnly_reportFault _ _ _ _).rest :)
  unfold linkLost
  dsimp only
  split
  · exact (evSrc_linkReport _ _ _ h).trans hr
  · exact hr
theorem linkLost_det (s : State) (b : Bool) (lost : Byte) : (linkLost s b lost).flt.det = s.flt.det ++ [(0x080, lostInfo b lost)] :=
  (linkLost_frame (·.flt.det) s b lost fun _ _ _ => rfl).trans (congrArg (fun v => v.flt.det) (sendsOnly_reportFault _ _ _ _).rest :)
theorem linkLost_sameMemory (s : State) (b : Bool) (lost : Byte) : SameMemory s (linkLost s b lost) := fun k =>
  (linkLost_frame (memGet · k) s b lost fun _ _ _ => rfl).trans ((sendsOnly_reportFault _ _ _ _).sameMemory k)
theorem linkLost_imr (s : State) (b : Bool) (lost : Byte) {a : Nat} (h : ∀ c, a ≠ aPCnt c 5 ∧ a ≠ aPCnt c 6) : imr (linkLost s b lost) a = imr s a :=
  (linkLost_frame (imr · a) s b lost fun _ _ _ => rfl).trans ((sendsOnly_reportFault _ _ _ _).counts a h)
theorem linkLost_port (s : State) (b c : Bool) (lost : Byte) : { portOf (linkLost s b lost) c with q := (portOf s c).q } = portOf s c := by
  rw [linkLost_frame (portOf · c) s b lost fun _ _ _ => rfl]
  exact (sendsOnly_reportFault _ _ _ _).port c
theorem linkLost_port_idle (s : State) (b c : Bool) (lost : Byte) (h : (portOf s c).st ≠ .active) : portOf (linkLost s b lost) c = portOf s c :=
  (linkLost_frame (portOf · c) s b lost fun _ _ _ => rfl).trans ((sendsOnly_reportFault _ _ _ _).idle c h)

/-! LINK takes a value. -/
theorem portEv_lt (b : Bool) (k : Nat) (h : k < 4) : portEv b k ≠ 0x4B0 := by
  cases b <;> simp only [portEv, b2n] <;> simp <;> omega
theorem setLink_same {s : State} {b : Bool} {v : BitVec 3} (h : (portOf s b).link = v) : setLink s b v = s := by simp [setLink, h]
/-- The state in which LINK has taken a value and its event has fired. -/
def linkFired (s : State) (b : Bool) (v : BitVec 3) : State :=
  evFire (setPort s b { portOf s b with link := v, fecCnt := if v = 3 then 0 else (portOf s b).fecCnt }) (portEv b 0) (v.setWidth 32)
theorem fired_evFire_setPort (s : State) (b : Bool) (p : Port) (n : Nat) (info : Word) : Fired s (evFire (setPort s b p) n info) n info :=
  (evFire_fired (setPort s b p) n info).congr (setPort_frame (·.evt.src) s b p fun _ => rfl) (setPort_frame (·.reg.tabA) s b p fun _ => rfl)
    (setPort_frame (·.time) s b p fun _ => rfl) rfl
theorem linkFired_frame {α : Type} (f : State → α) (s : State) (b : Bool) (v : BitVec 3)
    (h : ∀ r l, f { s with ring := r, evt := { s.evt with src := l } } = f s) : f (linkFired s b v) = f s := by
  unfold linkFired
  rw [evFire_frame f]
  · exact setPort_frame f s b _ fun r => h r s.evt.src
  · intro l
    cases b <;> exact (h _ l).trans (h _ s.evt.src).symm
theorem linkFired_port (s : State) (b : Bool) {v : BitVec 3} (hv : v ≠ 3) : portOf (linkFired s b v) b = { portOf s b with link := v } := by
  rw [linkFired, portOf_evFire, portOf_setPort_same, if_neg hv]
theorem linkFired_port_not (s : State) (b : Bool) (v : BitVec 3) : portOf (linkFired s b v) (!b) = portOf s (!b) := by
  simp [linkFired, portOf_evFire]
theorem linkFired_fired (s : State) (b : Bool) (v : BitVec 3) : Fired s (linkFired s b v) (portEv b 0) (v.setWidth 32) := fired_evFire_setPort s b _ _ _

/-- LINK goes to TRAINING or UP: the event fires, and beside the port only the ring manager may have noted something. -/
theorem setLink_up {s : State} {b : Bool} {v : BitVec 3} (h0 : v ≠ 0) (hne : (portOf s b).link ≠ v) : ∃ m, setLink s b v = { linkFired s b v with rm := m } := by
  unfold setLink
  dsimp only
  rw [if_neg hne, if_neg h0]
  split
  · exact ⟨_, rfl⟩
  · exact ⟨(linkFired s b v).rm, rfl⟩
/-- What LINK going to TRAINING or UP leaves. -/
theorem setLink_up_effect {s : State} {b : Bool} {v : BitVec 3} (h0 : v ≠ 0) (h3 : v ≠ 3) (hne : (portOf s b).link ≠ v) :
    portOf (setLink s b v) b = { portOf s b with link := v } ∧ Fired s (setLink s b v) (portEv b 0) (v.setWidth 32) ∧
      portOf (setLink s b v) (!b) = portOf s (!b) ∧ SameMemory s (setLink s b v) := by
  obtain ⟨m, hm⟩ := setLink_up h0 hne
  rw [hm]
  exact ⟨linkFired_port s b h3, (linkFired_fired s b v).congr rfl rfl rfl rfl, linkFired_port_not s b v, fun k => linkFired_frame (memGet · k) s b v fun _ _ => rfl⟩
/-- LINK goes to DOWN: the event, the count of R337, and the lost neighbour of a present device. -/
theorem setLink_down {s : State} {b : Bool} (hne : (portOf s b).link ≠ 0) :
    setLink s b 0 = if s.rm.addr ≠ 0 then linkLost (portCount (linkFired s b 0) b 20) b (neighbour s b) else portCount (linkFired s b 0) b 20 := by
  unfold setLink
  dsimp only
  rw [if_neg hne, if_pos rfl]
  rfl
theorem setLink_down_port (s : State) (b : Bool) : { portOf (setLink s b 0) b with q := (portOf s b).q } = { portOf s b with link := 0 } := by
  by_cases h : (portOf s b).link = 0
  · rw [setLink_same h, ← h]
  · have hp : portOf (portCount (linkFired s b 0) b 20) b = { portOf s b with link := 0 } := linkFired_port s b (by decide)
    rw [setLink_down h]
    split
    · have := linkLost_port (portCount (linkFired s b 0) b 20) b b (neighbour s b)
      rwa [hp] at this
    · rw [hp]
/-- A port that is not ACTIVE queues no report of its own going DOWN. -/
theorem setLink_down_port_idle {s : State} {b : Bool} (hst : (portOf s b).st ≠ .active) : portOf (setLink s b 0) b = { portOf s b with link := 0 } := by
  by_cases h : (portOf s b).link = 0
  · rw [setLink_same h, ← h]
  · have hp : portOf (portCount (linkFired s b 0) b 20) b = { portOf s b with link := 0 } := linkFired_port s b (by decide)
    rw [setLink_down h]
    split
    · rw [linkLost_port_idle _ _ _ _ (by rw [hp]; exact hst), hp]
    · exact hp
theorem setLink_down_port_not {s : State} {b : Bool} (ha : s.rm.addr = 0) : portOf (setLink s b 0) (!b) = portOf s (!b) := by
  by_cases h : (portOf s b).link = 0
  · rw [setLink_same h]
  · rw [setLink_down h, if_neg (not_not.mpr ha)]
    exact linkFired_port_not s b 0
theorem setLink_down_sameMemory (s : State) (b : Bool) : SameMemory s (setLink s b 0) := by
  by_cases h : (portOf s b).link = 0
  · rw [setLink_same h]
    exact fun _ => rfl
  · have hm : SameMemory s (portCount (linkFired s b 0) b 20) := fun k => linkFired_frame (memGet · k) s b 0 fun _ _ => rfl
    rw [setLink_down h]
    split
    · exact hm.trans (linkLost_sameMemory _ _ _)
    · exact hm
theorem linkFired_imr (s : State) (b : Bool) (v : BitVec 3) (a : Nat) : imr (linkFired s b v) a = imr s a := linkFired_frame (imr · a) s b v fun _ _ => rfl
theorem aPCnt_ne {b c : Bool} {j k : Nat} (hj : j < 64) (hk : k < 64) (h : j ≠ k) : aPCnt b j ≠ aPCnt c k := by
  cases b <;> cases c <;> simp only [aPCnt, aPort] <;> simp <;> omega
/-- What a link that goes DOWN leaves beside its port: the count, its event, the fault of a present device. -/
theorem setLink_down_effect {s : State} {b : Bool} (hne : (portOf s b).link ≠ 0) :
    imr (setLink s b 0) (aPCnt b 20) = satAdd (imr s (aPCnt b 20)) 1 ∧
      evSrc (setLink s b 0) (portEv b 0) = firedSrc (evSrc s (portEv b 0)) ((tabA s .evt (portEv b 0) 0).getLsbD 11) 0 s.time.now ∧
      (s.rm.addr ≠ 0 → (setLink s b 0).flt.det = s.flt.det ++ [(0x080, lostInfo b (neighbour s b))]) ∧ (s.rm.addr = 0 → (setLink s b 0).flt.det = s.flt.det) := by
  have hi : imr (portCount (linkFired s b 0) b 20) (aPCnt b 20) = satAdd (imr s (aPCnt b 20)) 1 := by
    rw [portCount, imr_bump_same, linkFired_imr]
  have hev : evSrc (portCount (linkFired s b 0) b 20) (portEv b 0) = _ := (linkFired_fired s b 0).1
  have hdet : (portCount (linkFired s b 0) b 20).flt.det = s.flt.det := linkFired_frame (·.flt.det) s b 0 fun _ _ => rfl
  rw [setLink_down hne]
  split
  · next ha =>
    have hcnt : ∀ c, aPCnt b 20 ≠ aPCnt c 5 ∧ aPCnt b 20 ≠ aPCnt c 6 := fun c =>
      ⟨aPCnt_ne (by omega) (by omega) (by omega), aPCnt_ne (by omega) (by omega) (by omega)⟩
    rw [linkLost_imr _ _ _ hcnt, linkLost_evSrc _ _ _ (portEv_lt b 0 (by omega)), linkLost_det, hdet]
    exact ⟨hi, hev, fun _ => rfl, fun h => absurd h ha⟩
  · next ha => exact ⟨hi, hev, fun h => absurd h ha, fun _ => hdet⟩

/-! The commands and the signals of a port. -/
theorem setPort_sameMemory (s : State) (b : Bool) (p : Port) : SameMemory s (setPort s b p) := fun k => setPort_frame (memGet · k) s b p fun _ => rfl
/-- What LINK going to TRAINING or UP leaves once the port has been written. -/
theorem setLink_setPort_up {s : State} {b : Bool} {p : Port} {v : BitVec 3} (h0 : v ≠ 0) (h3 : v ≠ 3) (hne : p.link ≠ v) :
    let u := setLink (setPort s b p) b v
    portOf u b = { p with link := v } ∧ Fired s u (portEv b 0) (v.setWidth 32) ∧ portOf u (!b) = portOf s (!b) ∧ SameMemory s u := by
  obtain ⟨hp, hf, ho, hm⟩ := setLink_up_effect (s := setPort s b p) (b := b) h0 h3 (by rwa [portOf_setPort_same])
  rw [portOf_setPort_same] at hp
  rw [portOf_setPort_not] at ho
  exact ⟨hp, hf.congr (setPort_frame (·.evt.src) s b p fun _ => rfl) (setPort_frame (·.reg.tabA) s b p fun _ => rfl)
    (setPort_frame (·.time) s b p fun _ => rfl) rfl, ho, (setPort_sameMemory s b p).trans hm⟩
theorem exec_portEnable {s : State} {lvl : Lvl} (b : Bool) (hc : clocksOn s = true) (hl : Reaches lvl 2) :
    exec (.portEnable lvl b) s = .next (portEnable b s) := onReg_reaches _ hc hl
theorem exec_portDisable {s : State} {lvl : Lvl} (b : Bool) (hc : clocksOn s = true) (hl : Reaches lvl 2) :
    exec (.portDisable lvl b) s = .next (portDisable b s) := onReg_reaches _ hc hl
theorem exec_retrain {s : State} {lvl : Lvl} (b : Bool) (hc : clocksOn s = true) (hl : Reaches lvl 2) :
    exec (.retrain lvl b) s = .next (retrainReq s b) := onReg_reaches _ hc hl
/-- ENABLE of a DISABLED port trains its link. -/
theorem portEnable_disabled {s : State} {b : Bool} (hst : (portOf s b).st = .disabled) :
    let u := portEnable b s
    portOf u b = { portOf s b with st := .active, enPend := false, link := 1 } ∧ ((portOf s b).link ≠ 1 → Fired s u (portEv b 0) 1) ∧
      portOf u (!b) = portOf s (!b) ∧ SameMemory s u := by
  have he : portEnable b s = setLink (setPort s b { portOf s b with st := .active, enPend := false }) b 1 := by simp [portEnable, enableSt, hst]
  rw [he]
  by_cases hlk : (portOf s b).link = 1
  · rw [setLink_same (by rwa [portOf_setPort_same])]
    exact ⟨by rw [portOf_setPort_same, ← hlk], fun h => absurd hlk h, portOf_setPort_not s b _, setPort_sameMemory s b _⟩
  · obtain ⟨hp, hf, ho, hm⟩ := setLink_setPort_up (s := s) (b := b) (p := { portOf s b with st := .active, enPend := false }) (v := 1) (by decide) (by decide) hlk
    exact ⟨hp, fun _ => hf, ho, hm⟩
theorem portEnable_active {s : State} {b : Bool} (hst : (portOf s b).st = .active) : portEnable b s = s := by
  have h : { portOf s b with st := .active, enPend := (portOf s b).enPend } = portOf s b := by rw [← hst]
  unfold portEnable
  dsimp only
  rw [hst]
  exact (if_neg (by decide)).trans ((congrArg (setPort s b) h).trans (setPort_portOf s b))
theorem portEnable_draining {s : State} {b : Bool} (hst : (portOf s b).st = .draining) : portEnable b s = setPort s b { portOf s b with enPend := true } := by
  unfold portEnable
  dsimp only
  rw [hst]
  exact if_neg (by decide)
theorem portDisable_active {s : State} {b : Bool} (hst : (portOf s b).st = .active) :
    portDisable b s = setPort s b { portOf s b with st := .draining, enPend := false } := by
  simp only [portDisable, disableSt, hst]
theorem portDisable_draining {s : State} {b : Bool} (hst : (portOf s b).st = .draining) : portDisable b s = setPort s b { portOf s b with enPend := false } := by
  unfold portDisable
  dsimp only
  rw [hst]
  rfl
/-- RETRAIN is noted while the link is UP. -/
theorem retrainReq_up {s : State} {b : Bool} (hlk : (portOf s b).link = 2) :
    portOf (retrainReq s b) b = { portOf s b with rtrReq := true } ∧ Fired s (retrainReq s b) (portEv b 1) 0 ∧ portOf (retrainReq s b) (!b) = portOf s (!b) ∧
      SameMemory s (retrainReq s b) := by
  rw [retrainReq, if_pos hlk, portOf_evFire, portOf_evFire]
  exact ⟨portOf_setPort_same s b _, fired_evFire_setPort s b _ _ _, portOf_setPort_not s b _, (setPort_sameMemory s b _).trans (evFire_sameMemory _ _ _)⟩
/-- The port after the end of its drain, before a pending enable trains its link again. -/
def drainedPort (p : Port) : Port :=
  { p with link := 0, st := if p.enPend then .active else .disabled, enPend := false, rtrReq := false, rtrWait := false, rtrSeen := false }
theorem portDrained_eq {s : State} {b : Bool} (hst : (portOf s b).st = .draining) (hq : (portOf s b).q = []) :
    portDrained b s = if (portOf s b).enPend then setLink (setPort (setLink s b 0) b (drainedPort (portOf s b))) b 1
      else setPort (setLink s b 0) b (drainedPort (portOf s b)) := by
  have hp : portOf (setLink s b 0) b = { portOf s b with link := 0 } := setLink_down_port_idle (by simp [hst])
  unfold portDrained drainSt
  dsimp only
  rw [if_pos ⟨hst, hq⟩, hp]
  cases he : (portOf s b).enPend <;> simp [drainedPort, he]
/-- What the end of a drain leaves: the port and, unless the device reports the lost neighbour, the other one. -/
theorem portDrained_effect {s : State} {b : Bool} (hst : (portOf s b).st = .draining) (hq : (portOf s b).q = []) :
    portOf (portDrained b s) b = { drainedPort (portOf s b) with link := if (portOf s b).enPend then 1 else 0 } ∧ SameMemory s (portDrained b s) ∧
      (s.rm.addr = 0 → portOf (portDrained b s) (!b) = portOf s (!b)) := by
  have hm : SameMemory s (setPort (setLink s b 0) b (drainedPort (portOf s b))) := (setLink_down_sameMemory s b).trans (setPort_sameMemory _ b _)
  rw [portDrained_eq hst hq]
  split
  · obtain ⟨hp, -, ho, hm'⟩ :=
      setLink_setPort_up (s := setLink s b 0) (b := b) (p := drainedPort (portOf s b)) (v := 1) (by decide) (by decide) (by simp [drainedPort])
    exact ⟨hp, (setLink_down_sameMemory s b).trans hm', fun ha => ho.trans (setLink_down_port_not ha)⟩
  · exact ⟨portOf_setPort_same _ b _, hm, fun ha => (portOf_setPort_not _ b _).trans (setLink_down_port_not ha)⟩
/-- The port of a lost signal, once its link is DOWN. -/
theorem doSignalLoss_effect (s : State) (b : Bool) : let u := doSignalLoss b s
    { portOf u b with q := (portOf s b).q } = { portOf s b with link := 0, signal := false, rtrReq := false, rtrWait := false, rtrSeen := false } ∧ SameMemory s u := by
  have hp := setLink_down_port (setPort s b { portOf s b with signal := false }) b
  rw [portOf_setPort_same] at hp
  refine ⟨?_, (setPort_sameMemory s b _).trans ((setLink_down_sameMemory _ b).trans (setPort_sameMemory _ b _))⟩
  unfold doSignalLoss
  dsimp only
  rw [portOf_setPort_same]
  exact congrArg (fun p : Port => { p with rtrReq := false, rtrWait := false, rtrSeen := false }) hp

theorem doSignalLoss_alreadyDown {s : State} {b : Bool} (hlk : (portOf s b).link = 0) :
    doSignalLoss b s = setPort (setPort s b { portOf s b with signal := false }) b
      { portOf s b with signal := false, rtrReq := false, rtrWait := false, rtrSeen := false } := by
  unfold doSignalLoss
  rw [setLink_same (by rwa [portOf_setPort_same])]
  dsimp only
  rw [portOf_setPort_same]
/-- What a lost signal leaves beside its port. -/
theorem doSignalLoss_down {s : State} {b : Bool} (hlk : (portOf s b).link ≠ 0) : let u := doSignalLoss b s
    imr u (aPCnt b 20) = satAdd (imr s (aPCnt b 20)) 1 ∧
      evSrc u (portEv b 0) = firedSrc (evSrc s (portEv b 0)) ((tabA s .evt (portEv b 0) 0).getLsbD 11) 0 s.time.now ∧
      (s.rm.addr ≠ 0 → u.flt.det = s.flt.det ++ [(0x080, lostInfo b (neighbour s b))]) ∧ (s.rm.addr = 0 → u.flt.det = s.flt.det) := by
  have h := setLink_down_effect (s := setPort s b { portOf s b with signal := false }) (b := b) (by rwa [portOf_setPort_same])
  have he : ∀ {α : Type} (f : State → α), (∀ (u : State) r, f { u with ring := r } = f u) →
      f (doSignalLoss b s) = f (setLink (setPort s b { portOf s b with signal := false }) b 0) := fun f hf => setPort_frame f _ b _ (hf _)
  have hs : ∀ {α : Type} (f : State → α), (∀ (u : State) r, f { u with ring := r } = f u) → f (setPort s b { portOf s b with signal := false }) = f s :=
    fun f hf => setPort_frame f s b _ (hf s)
  intro u
  rw [he (imr · _) fun _ _ => rfl, he (evSrc · _) fun _ _ => rfl, he (·.flt.det) fun _ _ => rfl]
  rw [hs (imr · _) fun _ _ => rfl, hs (evSrc · _) fun _ _ => rfl, hs (·.flt.det) fun _ _ => rfl, hs (·.rm.addr) fun _ _ => rfl,
    hs (fun v => tabA v .evt (portEv b 0) 0) fun _ _ => rfl, hs (·.time.now) fun _ _ => rfl, hs (neighbour · b) fun _ _ => rfl] at h
  exact h

/-- Settles O45: each command by what LINK going to TRAINING, UP or DOWN leaves. -/
theorem portLinksFollowTheirSignals : Obligations.PortLinksFollowTheirSignals := by
  intro s b lvl hc p o linkEv link c
  have hev : linkEv = portEv b 0 := by cases b <;> rfl
  have hlink : ∀ {u v}, Fired s u (portEv b 0) v → link u v := fun h => by simp only [link, hev]; exact h
  have hset : ∀ q : Port, o (setPort s b q) := fun q => ⟨portOf_setPort_not s b q, setPort_sameMemory s b q⟩
  refine ⟨fun hl => ⟨fun hst => ?_, fun hst => ?_, fun hst => ?_, fun hst => ?_, fun hst => ?_, fun hlk => ?_, fun hlk => ?_⟩,
    fun hst hq => ?_, fun hst hlk => ⟨?_, ?_⟩, fun hst hlk => ?_, fun hlk => ?_, fun hlk => ?_⟩
  · obtain ⟨hp, hf, ho⟩ := portEnable_disabled hst
    exact ⟨_, exec_portEnable b hc hl, hp, fun h => hlink (hf h), ho⟩
  · rw [exec_portEnable b hc hl]
    exact congrArg _ (portEnable_active hst)
  · exact ⟨_, exec_portEnable b hc hl, portEnable_draining hst ▸ ⟨portOf_setPort_same s b _, hset _⟩⟩
  · exact ⟨_, exec_portDisable b hc hl, portDisable_active hst ▸ ⟨portOf_setPort_same s b _, hset _⟩⟩
  · exact ⟨_, exec_portDisable b hc hl, portDisable_draining hst ▸ ⟨portOf_setPort_same s b _, hset _⟩⟩
  · have he : 0x471 + (if b then 4 else 0) = portEv b 1 := by cases b <;> rfl
    exact ⟨_, exec_retrain b hc hl, he ▸ retrainReq_up hlk⟩
  · rw [exec_retrain b hc hl, retrainReq, if_neg hlk]
  · obtain ⟨hp, hm, ho⟩ := portDrained_effect hst hq
    exact ⟨_, onCore_on _ hc, (congrArg Port.st hp :), (congrArg Port.enPend hp :), (congrArg Port.link hp :), (congrArg Port.rtrReq hp :),
      (congrArg Port.rtrWait hp :), (congrArg Port.rtrSeen hp :), hm, fun ha => ⟨ho ha, (congrArg Port.q hp).trans hq⟩⟩
  · obtain ⟨hp, hf, ho⟩ := setLink_setPort_up (s := s) (b := b) (p := { p with signal := true }) (v := 1) (by decide) (by decide) (by simp [hlk])
    refine ⟨_, onCore_on _ hc, ?_⟩
    rw [doSignalDetect, if_pos ⟨hst, hlk⟩]
    exact ⟨hp, hlink hf, ho⟩
  · obtain ⟨hp, hf, ho⟩ := setLink_up_effect (s := s) (b := b) (v := 1) (by decide) (by decide) (by rw [hlk]; decide)
    refine ⟨_, onCore_on _ hc, ?_⟩
    rw [doLinkRetry, if_pos ⟨hst, hlk⟩]
    exact ⟨hp, hlink hf, ho⟩
  · have hne : p.link ≠ 2 := by rcases hlk with h | h <;> simp [h]
    obtain ⟨hp, hf, ho⟩ :=
      setLink_setPort_up (s := s) (b := b) (p := { p with vstat := if c.getLsbD 0 ∧ c.getLsbD 1 then 1 else 0 }) (v := 2) (by decide) (by decide) hne
    have hu : doLinkUp b s = setLink (setPort s b { p with vstat := if c.getLsbD 0 ∧ c.getLsbD 1 then 1 else 0 }) b 2 := by
      rw [doLinkUp, if_pos ⟨hst, hlk⟩]
      simp only [bit, Bool.and_eq_true, c, p]
    exact ⟨_, onCore_on _ hc, hu ▸ ⟨hp, hlink hf, ho⟩⟩
  · exact ⟨_, onCore_on _ hc, doSignalLoss_alreadyDown hlk ▸ ⟨portOf_setPort_same _ b _, (portOf_setPort_not _ b _).trans (portOf_setPort_not s b _),
      (setPort_sameMemory s b _).trans (setPort_sameMemory _ b _)⟩⟩
  · obtain ⟨hp, hm⟩ := doSignalLoss_effect s b
    obtain ⟨hi, he, hd, hd'⟩ := doSignalLoss_down hlk
    exact ⟨_, onCore_on _ hc, (congrArg Port.link hp :), (congrArg Port.signal hp :), (congrArg Port.rtrReq hp :), hi, hev ▸ he, hm, hd, hd'⟩

end Sys2Proof.Machine
end

section
/-! Work queues: states, fetch, HEADPUB (R8, R9, R234, R236, R241 to R243, R248 to R250). -/
namespace Sys2Proof.Machine

/-! The live half of one queue. -/
/-- The live half of queue q is y, and that of every other queue is the same. -/
def QueueIs (s u : State) (q : QId) (y : WqLive) : Prop := wqOf u q = y ∧ ∀ p, p ≠ q → wqOf u p = wqOf s p
theorem queueIs_setWq {s t : State} (q : QId) (y : WqLive) (h : ∀ p, p ≠ q → wqOf t p = wqOf s p) : QueueIs s (setWq t q y) q y :=
  ⟨wqOf_setWq_same t q y, fun p hp => (wqOf_setWq_other t q y p hp).trans (h p hp)⟩
theorem QueueIs.of_eq {s u v : State} {q : QId} {y : WqLive} (h : QueueIs s u q y) (he : v.wq.q = u.wq.q) : QueueIs s v q y := by
  simp only [QueueIs, wqOf, he] at h ⊢
  exact h
/-- A queue whose live half is y already. -/
theorem queueIs_self {s : State} {q : QId} {y : WqLive} (h : wqOf s q = y) : QueueIs s s q y := ⟨h, fun _ _ => rfl⟩
theorem setWq_sameMemory (s : State) (q : QId) (y : WqLive) : SameMemory s (setWq s q y) := fun _ => rfl

/-! The event of a queue (R254). -/
theorem wqEvent_frame {α : Type} (f : State → α) (s : State) (q : QId) (kind reason : Nat) (h : ∀ l, f { s with evt := { s.evt with src := l } } = f s) :
    f (wqEvent s q kind reason) = f s := by
  unfold wqEvent
  split
  · exact evFire_frame f s _ _ h
  · rfl
theorem wqEvent_fired (s : State) (q : QId) (kind reason : Nat) (h : (wqW s q 3).getLsbD 10 = true) :
    Fired s (wqEvent s q kind reason) ((wqW s q 3).extractLsb' 0 10).toNat (BitVec.ofNat 32 (q.toNat + kind * 0x100000 + reason * 0x1000000)) := by
  unfold wqEvent bit
  rw [if_pos h, fld_eq_extract]
  exact evFire_fired s _ _

/-! Publication rules and the round (R245, R248). -/
/-- Nothing is published while HEAD = PUBHEAD. -/
theorem pubCheck_published {s : State} {q : QId} (force : Bool) (h : (wqOf s q).head = (wqOf s q).pubhead) :
    pubCheck s q force = setWq s q { wqOf s q with notify := false } := by simp [pubCheck, h]
theorem roundTidy_eq (s : State) : ∃ v, roundTidy s = { s with wq := { s.wq with visit := v } } := by
  unfold roundTidy
  split
  · exact ⟨s.wq.visit, rfl⟩
  · split
    · exact ⟨_, rfl⟩
    · split
      · exact ⟨_, rfl⟩
      · exact ⟨s.wq.visit, rfl⟩

/-! Enable states (R8, R9, R249, R250). -/
/-- What a queue that becomes ACTIVE latches. -/
def enabledWq (s : State) (q : QId) (x : WqLive) : WqLive :=
  { x with st := .active, enPend := false, errcode := 0, stopRead := false, rung := false, polling := none,
           base := (wqW s q 0).extractLsb' 6 42 ++ 0#6 |>.setWidth 64, log2 := (wqW s q 1).extractLsb' 0 5, tokens := (wqW s q 1).extractLsb' 8 8 }
/-- What a queue is at the end of its drain. -/
def drainedWq (x : WqLive) : WqLive := { x with st := .disabled, enPend := false, tail := x.head, ents := [], polling := none, notify := false }
/-- BASE is a multiple of 64. -/
theorem base_eq (w : DWord) : BitVec.ofNat 64 (fld w 6 42 * 64) = (w.extractLsb' 6 42 ++ 0#6).setWidth 64 := by
  rw [fld_eq_extract]
  generalize w.extractLsb' 6 42 = v
  have hv : (v ++ 0#6).toNat = v.toNat * 64 := by rw [BitVec.toNat_append]; simp [Nat.shiftLeft_eq]
  exact BitVec.eq_of_toNat_eq (by rw [BitVec.toNat_ofNat, BitVec.toNat_setWidth, hv])
theorem goActive_eq (q : QId) (s : State) : goActive q s = setWq s q (enabledWq s q (wqOf s q)) := by
  simp only [goActive, enabledWq, base_eq, wqWeight, ofNat_fld]
theorem wqStarted_eq_zero (x : WqLive) : wqStarted x = 0 ↔ ∀ d ∈ x.ents, d.started = true → d.done = true := by
  simp [wqStarted, List.filter_eq_nil_iff]
/-- The queue at the end of its drain, just before its state changes. -/
def drainEnd (s : State) (q : QId) : State :=
  wqEvent (setWq (setWq s q { wqOf s q with tail := (wqOf s q).head, ents := [], polling := none }) q
    { wqOf s q with tail := (wqOf s q).head, ents := [], polling := none, notify := false }) q 6 0
theorem drainEnd_frame {α : Type} (f : State → α) (s : State) (q : QId) (h : ∀ l w, f { s with evt := { s.evt with src := l }, wq := { s.wq with q := w } } = f s) :
    f (drainEnd s q) = f s := by
  refine (wqEvent_frame f _ q 6 0 fun l => ?_).trans (h s.evt.src _)
  exact (h l _).trans (h s.evt.src _).symm
theorem wqOf_drainEnd (s : State) (q p : QId) : wqOf (drainEnd s q) p =
    wqOf (setWq (setWq s q { wqOf s q with tail := (wqOf s q).head, ents := [], polling := none }) q
      { wqOf s q with tail := (wqOf s q).head, ents := [], polling := none, notify := false }) p :=
  wqEvent_frame (wqOf · p) _ q 6 0 fun _ => rfl
theorem drainEnd_other (s : State) (q p : QId) (h : p ≠ q) : wqOf (drainEnd s q) p = wqOf s p := by
  rw [wqOf_drainEnd, wqOf_setWq_other _ _ _ _ h, wqOf_setWq_other _ _ _ _ h]
theorem drainEnd_fired (s : State) (q : QId) (h : (wqW s q 3).getLsbD 10 = true) :
    Fired s (drainEnd s q) ((wqW s q 3).extractLsb' 0 10).toNat (BitVec.ofNat 32 (q.toNat + 6 * 0x100000)) := by
  refine Fired.congr (wqEvent_fired (setWq (setWq s q _) q _) q 6 0 ?_) rfl rfl rfl rfl
  exact h
theorem queueDrained_eq {s : State} {q : QId} (hst : (wqOf s q).st = .draining) (hdone : ∀ d ∈ (wqOf s q).ents, d.started = true → d.done = true)
    (hpub : (wqOf s q).head = (wqOf s q).pubhead) : queueDrained q s = setWq (drainEnd s q) q
      (if (wqOf s q).enPend then { enabledWq s q (wqOf s q) with tail := (wqOf s q).head, ents := [], notify := false } else drainedWq (wqOf s q)) := by
  have hx := wqOf_drainEnd s q q
  rw [wqOf_setWq_same] at hx
  have hp := pubCheck_published (s := setWq s q { wqOf s q with tail := (wqOf s q).head, ents := [], polling := none }) (q := q) true
    (by rw [wqOf_setWq_same]; exact hpub)
  rw [wqOf_setWq_same] at hp
  unfold queueDrained
  dsimp only
  rw [if_pos ⟨hst, (wqStarted_eq_zero _).mpr hdone⟩, hp]
  change (if _ then goActive q (drainEnd s q) else setWq (drainEnd s q) q { wqOf (drainEnd s q) q with st := .disabled, enPend := false }) = _
  rw [hx, goActive_eq, hx]
  split
  · have hw : wqW (drainEnd s q) q = wqW s q := drainEnd_frame (fun v => wqW v q) s q fun _ _ => rfl
    simp only [enabledWq, hw]
  · rfl
/-- What the end of a drain leaves when HEAD = PUBHEAD. -/
theorem queueDrained_effect {s : State} {q : QId} (hst : (wqOf s q).st = .draining) (hdone : ∀ d ∈ (wqOf s q).ents, d.started = true → d.done = true)
    (hpub : (wqOf s q).head = (wqOf s q).pubhead) : let u := queueDrained q s
    QueueIs s u q (if (wqOf s q).enPend then { enabledWq s q (wqOf s q) with tail := (wqOf s q).head, ents := [], notify := false } else drainedWq (wqOf s q)) ∧
      u.wq.cmdQ = s.wq.cmdQ ∧ SameMemory s u ∧
      ((wqW s q 3).getLsbD 10 = true → Fired s u ((wqW s q 3).extractLsb' 0 10).toNat (BitVec.ofNat 32 (q.toNat + 6 * 0x100000))) := by
  rw [queueDrained_eq hst hdone hpub]
  exact ⟨queueIs_setWq q _ (drainEnd_other s q), drainEnd_frame (·.wq.cmdQ) s q fun _ _ => rfl, fun k => drainEnd_frame (memGet · k) s q fun _ _ => rfl,
    fun h => (drainEnd_fired s q h).congr rfl rfl rfl rfl⟩

/-! Doorbells and DISABLE. -/
theorem ring_active {s : State} {q : QId} (hst : (wqOf s q).st = .active) :
    QueueIs s (ring q s) q { wqOf s q with polling := none, rung := (wqOf s q).rung || ((wqOf s q).polling.isNone && mayFetch s q) } ∧
      { ring q s with wq := s.wq } = s := by
  unfold ring
  dsimp only
  rw [if_neg (not_not.mpr hst)]
  cases hp : (wqOf s q).polling with
  | some t =>
    refine ⟨?_, rfl⟩
    change QueueIs s _ q { wqOf s q with polling := none, rung := (wqOf s q).rung || false }
    rw [Bool.or_false]
    exact queueIs_setWq q _ fun _ _ => rfl
  | none =>
    cases hm : mayFetch s q
    · refine ⟨queueIs_self ?_, rfl⟩
      change wqOf s q = { wqOf s q with polling := none, rung := (wqOf s q).rung || false }
      rw [Bool.or_false, ← hp]
    · refine ⟨?_, rfl⟩
      change QueueIs s _ q { wqOf s q with polling := none, rung := (wqOf s q).rung || true }
      rw [Bool.or_true]
      exact queueIs_setWq q _ fun _ _ => rfl
/-- The queue as its drain begins. -/
def drainingWq (x : WqLive) : WqLive := { x with st := .draining, enPend := false, ents := x.ents.filter fun d => d.started, polling := none }
/-- The state in which a DISABLE begins a drain. -/
def drainBegin (s : State) (q : QId) : State := setWq { s with wq := { s.wq with cmdQ := q } } q (drainingWq (wqOf s q))
theorem queueDisable_runs {s : State} {q : QId} (hst : (wqOf s q).st = .active ∨ (wqOf s q).st = .error) :
    queueDisable q s = roundTidy (queueDrained q (drainBegin s q)) := by
  unfold queueDisable
  dsimp only
  rcases hst with h | h <;> rw [h] <;> rfl
theorem wqOf_drainBegin (s : State) (q : QId) : wqOf (drainBegin s q) q = drainingWq (wqOf s q) := wqOf_setWq_same _ q _
/-- What a DISABLE leaves while a started entry is open. -/
theorem queueDisable_open {s : State} {q : QId} (hst : (wqOf s q).st = .active ∨ (wqOf s q).st = .error)
    (hopen : ∃ d ∈ (wqOf s q).ents, d.started = true ∧ d.done = false) : let u := queueDisable q s
    QueueIs s u q (drainingWq (wqOf s q)) ∧ u.wq.cmdQ = q ∧ { u with wq := s.wq } = s := by
  obtain ⟨d, hd, hds, hdd⟩ := hopen
  have hno : ¬(∀ d ∈ (wqOf (drainBegin s q) q).ents, d.started = true → d.done = true) := by
    rw [wqOf_drainBegin]
    intro h
    have := h d (List.mem_filter.mpr ⟨hd, hds⟩) hds
    simp [hdd] at this
  have he : queueDrained q (drainBegin s q) = drainBegin s q := by
    unfold queueDrained
    dsimp only
    rw [if_neg fun h => hno ((wqStarted_eq_zero _).mp h.2)]
  obtain ⟨v, hv⟩ := roundTidy_eq (drainBegin s q)
  rw [queueDisable_runs hst, he, hv]
  exact ⟨(queueIs_setWq q _ fun _ _ => rfl).of_eq rfl, rfl, rfl⟩
/-- What a DISABLE leaves while no started entry is open: the drain ends with it. -/
theorem queueDisable_idle {s : State} {q : QId} (hst : (wqOf s q).st = .active ∨ (wqOf s q).st = .error)
    (hdone : ∀ d ∈ (wqOf s q).ents, d.started = true → d.done = true) (hpub : (wqOf s q).head = (wqOf s q).pubhead) : let u := queueDisable q s
    QueueIs s u q (drainedWq (wqOf s q)) ∧ u.wq.cmdQ = q ∧ SameMemory s u ∧
      ((wqW s q 3).getLsbD 10 = true → Fired s u ((wqW s q 3).extractLsb' 0 10).toNat (BitVec.ofNat 32 (q.toNat + 6 * 0x100000))) := by
  have hx := wqOf_drainBegin s q
  obtain ⟨hq, hcmd, hm, hf⟩ := queueDrained_effect (s := drainBegin s q) (q := q) (by rw [hx]; rfl)
    (by rw [hx]; exact fun d hd => hdone d (List.mem_of_mem_filter hd)) (by rw [hx]; exact hpub)
  rw [hx] at hq
  obtain ⟨v, hv⟩ := roundTidy_eq (queueDrained q (drainBegin s q))
  rw [queueDisable_runs hst, hv]
  refine ⟨⟨hq.1, fun p hp => (hq.2 p hp).trans ?_⟩, hcmd, hm, fun h => (hf h).congr rfl rfl rfl rfl⟩
  exact wqOf_setWq_other _ q _ p hp

/-! ENABLE. -/
theorem queueEnable_disabled_good {s : State} {q : QId} (hst : (wqOf s q).st = .disabled) (hb : baseOk s q = true) :
    queueEnable q s = setWq { s with wq := { s.wq with cmdQ := q, cmdRefused := false } } q (enabledWq s q (wqOf s q)) := by
  unfold queueEnable
  dsimp only
  rw [hst, hb, goActive_eq]
  rfl
theorem queueEnable_disabled_bad {s : State} {q : QId} (hst : (wqOf s q).st = .disabled) (hb : baseOk s q = false) :
    queueEnable q s = { s with wq := { s.wq with cmdQ := q, cmdRefused := true } } := by
  unfold queueEnable
  dsimp only
  rw [hst, hb]
  rfl
theorem queueEnable_draining_good {s : State} {q : QId} (hst : (wqOf s q).st = .draining) (hb : baseOk s q = true) :
    queueEnable q s = setWq { s with wq := { s.wq with cmdQ := q, cmdRefused := false } } q { wqOf s q with enPend := true } := by
  unfold queueEnable
  dsimp only
  rw [hst, hb]
  rfl
theorem queueEnable_draining_bad {s : State} {q : QId} (hst : (wqOf s q).st = .draining) (hb : baseOk s q = false) :
    queueEnable q s = { s with wq := { s.wq with cmdQ := q, cmdRefused := !(wqOf s q).enPend } } := by
  unfold queueEnable
  dsimp only
  rw [hst, hb]
  cases (wqOf s q).enPend <;> rfl
theorem queueEnable_other {s : State} {q : QId} (hst : (wqOf s q).st = .active ∨ (wqOf s q).st = .error) :
    queueEnable q s = { s with wq := { s.wq with cmdQ := q, cmdRefused := false } } := by
  unfold queueEnable
  dsimp only
  rcases hst with h | h <;> rw [h]
theorem queueDisable_disabled {s : State} {q : QId} (hst : (wqOf s q).st = .disabled) : queueDisable q s = { s with wq := { s.wq with cmdQ := q } } := by
  unfold queueDisable
  dsimp only
  rw [hst]
theorem queueDisable_draining {s : State} {q : QId} (hst : (wqOf s q).st = .draining) :
    queueDisable q s = setWq { s with wq := { s.wq with cmdQ := q } } q { wqOf s q with enPend := false } := by
  unfold queueDisable
  dsimp only
  rw [hst]

/-! Fetch (R236, R241). -/
theorem healWords_eq (s : State) (k n : Nat) : ∃ l, healWords s k n = { s with memc := { s.memc with upset := l } } := by
  unfold healWords
  split
  · exact ⟨s.memc.upset, rfl⟩
  · exact ⟨_, rfl⟩
theorem dropCorr_eq (s : State) (k n : Nat) : ∃ l, dropCorr s k n = { s with memc := { s.memc with corr := l } } := by
  unfold dropCorr
  split
  · exact ⟨s.memc.corr, rfl⟩
  · exact ⟨_, rfl⟩
/-- A store of one byte, with what becomes of the word's errors, its correction and the flag of R5. -/
theorem storeBytes_byte {s : State} {ag : Agent} {lvl : Lvl} {a k : Nat} (b : Byte) (h : wrKey s ag lvl a = some k) : ∃ up corr r,
    storeBytes s ag lvl a [b] = { memSet s k b with memc := { s.memc with upset := up, corr := corr }, reg := { s.reg with rsvd := r } } := by
  obtain ⟨up, hup⟩ := healWords_eq s k 1
  obtain ⟨corr, hcorr⟩ := dropCorr_eq (healWords s k 1) k 1
  refine ⟨up, corr, s.reg.rsvd || touchesSend s k 1, ?_⟩
  have hk : wrKey { s with memc := { s.memc with upset := up, corr := corr } } ag lvl a = some k := h
  rw [hup] at hcorr
  simp only [storeBytes, h, List.length_singleton, hup, hcorr, wrBytes, hk, rsvdIf_eq]
  rfl
/-- The OWN bit of an entry that the device takes is cleared (R241). -/
theorem storeBytes_byte_effect {s : State} {ag : Agent} {lvl : Lvl} {a k : Nat} (b : Byte) (h : wrKey s ag lvl a = some k) : let u := storeBytes s ag lvl a [b]
    u.wq = s.wq ∧ memGet u k = b ∧ SameMemoryBut s u k 1 := by
  obtain ⟨up, corr, r, he⟩ := storeBytes_byte b h
  rw [he]
  refine ⟨rfl, memGet_memSet_same s k b, fun j hj => memGet_memSet_other s k b j ?_⟩
  omega
theorem doFetch_stalled {s : State} {q : QId} (h : stalledIn s .sct (entryAddr (wqOf s q) (wqOf s q).tail) 64 = true) : doFetch q s = s := by
  simp [doFetch, h]
/-- A fetch that may read. -/
theorem doFetch_reads {s : State} {q : QId} (hm : mayFetch s q = true) (hs : stalledIn s .sct (entryAddr (wqOf s q) (wqOf s q).tail) 64 = false) :
    doFetch q s = match rdBytes s .sct (entryAddr (wqOf s q) (wqOf s q).tail) 64 with
      | none => setWq s q { wqOf s q with
          tail := (wqOf s q).tail + 1, stopRead := true, rung := false, ents := (wqOf s q).ents ++ [{ cnt := (wqOf s q).tail, bytes := [], err := 5 }] }
      | some e =>
        if (e.getD 0 0).getLsbD 7 then
          setWq (storeBytes s .sct 2 (entryAddr (wqOf s q) (wqOf s q).tail) [e.getD 0 0 &&& 0x7F]) q
            { wqOf s q with tail := (wqOf s q).tail + 1, rung := false, ents := (wqOf s q).ents ++ [{ cnt := (wqOf s q).tail, bytes := e, err := entryErr s e }] }
        else if (wqOf s q).rung then setWq s q { wqOf s q with rung := false }
        else setWq s q { wqOf s q with polling := some (s.time.now + BitVec.ofNat 64 (fld (wqW s q 1) 32 24 * 64)) } := by
  unfold doFetch
  dsimp only
  rw [if_neg (by simp [hm, hs])]
  rfl

/-- POLL_WAIT counts in 64 ns (R241). -/
theorem pollWait_eq (w : DWord) : BitVec.ofNat 64 (fld w 32 24 * 64) = (w.extractLsb' 32 24).setWidth 64 * 64 := by
  rw [fld_eq_extract]
  exact BitVec.eq_of_toNat_eq (by simp)
theorem atTime_eq (s : State) (t : DWord) : ∃ n, atTime s t = { s with time := { s.time with now := n } } := by
  unfold atTime
  split
  · exact ⟨t, rfl⟩
  · exact ⟨s.time.now, rfl⟩
/-- What the end of a poll wait leaves. -/
theorem pollWaitEnd_effect {s : State} {q : QId} {v : DWord} : let u := setWq (atTime s v) q { wqOf s q with polling := none }
    QueueIs s u q { wqOf s q with polling := none } ∧ u.time.now.toNat = Nat.max s.time.now.toNat v.toNat ∧ { u with wq := s.wq, time := s.time } = s := by
  have hn := atTime_now s v
  obtain ⟨n, he⟩ := atTime_eq s v
  rw [he] at hn ⊢
  exact ⟨queueIs_setWq q _ fun _ _ => rfl, hn, rfl⟩
theorem exec_pollWaitEnd {s : State} {q : QId} {v : DWord} (hc : clocksOn s = true) (hv : (wqOf s q).polling = some v) :
    exec (.pollWaitEnd q) s = .next (setWq (atTime s v) q { wqOf s q with polling := none }) := by
  change execPollWaitEnd q s = _
  rw [execPollWaitEnd, onCore_on _ hc]
  simp only [hv]

/-! ERROR (R243, R249). -/
/-- The queue in ERROR by a malformed entry, before the publication rules run. -/
def errorWq (x : WqLive) (e : WqEntry) : WqLive :=
  { x with st := .error, erridx := e.cnt, errcode := e.err, ents := x.ents.filter fun d => d.started, polling := none }
/-- The state as the event of a queue in ERROR has fired. -/
def errorFired (s : State) (q : QId) (e : WqEntry) : State :=
  wqEvent (setIm (setWq s q (errorWq (wqOf s q) e)) (aWQ + 0x50) (BitVec.ofNat 32 (q.toNat + e.err.toNat * 0x10000))) q 5 e.err.toNat
theorem doQueueError_eq {s : State} {q : QId} {e : WqEntry} (hst : (wqOf s q).st = .active) (he : startEntry (wqOf s q) = some e) (herr : e.err ≠ 0) :
    doQueueError q s = roundTidy (pubCheck (errorFired s q e) q true) := by
  unfold doQueueError
  dsimp only
  rw [hst, he]
  exact if_neg herr
theorem wqOf_errorFired (s : State) (q p : QId) (e : WqEntry) : wqOf (errorFired s q e) p = wqOf (setWq s q (errorWq (wqOf s q) e)) p :=
  wqEvent_frame (wqOf · p) _ q 5 _ fun _ => rfl
/-- What a malformed entry at the start position leaves when HEAD = PUBHEAD. -/
theorem doQueueError_effect {s : State} {q : QId} {e : WqEntry} (hst : (wqOf s q).st = .active) (he : startEntry (wqOf s q) = some e) (herr : e.err ≠ 0)
    (hpub : (wqOf s q).head = (wqOf s q).pubhead) : let u := doQueueError q s
    QueueIs s u q { errorWq (wqOf s q) e with notify := false } ∧ imr u (aWQ + 0x50) = BitVec.ofNat 32 (q.toNat + e.err.toNat * 0x10000) ∧ SameMemory s u ∧
      ((wqW s q 3).getLsbD 10 = true →
        Fired s u ((wqW s q 3).extractLsb' 0 10).toNat (BitVec.ofNat 32 (q.toNat + 5 * 0x100000 + e.err.toNat * 0x1000000))) := by
  have hx : wqOf (errorFired s q e) q = errorWq (wqOf s q) e := (wqOf_errorFired s q q e).trans (wqOf_setWq_same s q _)
  obtain ⟨v, hv⟩ := roundTidy_eq (pubCheck (errorFired s q e) q true)
  have hp := pubCheck_published (s := errorFired s q e) (q := q) true (by rw [hx]; exact hpub)
  rw [doQueueError_eq hst he herr, hv, hp, hx]
  refine ⟨(queueIs_setWq (s := s) (t := errorFired s q e) q _ fun p hpq => ?_).of_eq rfl, ?_, fun k => ?_, fun h => ?_⟩
  · rw [wqOf_errorFired, wqOf_setWq_other _ _ _ _ hpq]
  · exact (wqEvent_frame (imr · (aWQ + 0x50)) _ q 5 _ fun _ => rfl).trans (imr_setIm_same _ _ _)
  · exact wqEvent_frame (memGet · k) _ q 5 _ fun _ => rfl
  · refine Fired.congr (wqEvent_fired (setIm (setWq s q (errorWq (wqOf s q) e)) _ _) q 5 e.err.toNat ?_) rfl rfl rfl rfl
    exact h

/-! HEADPUB (R248, R292, R297, R299). -/
@[simp] theorem enqueueAs_sct (s : State) (b : Bool) (q : Nat) (f : Frame) (c : Bool) (n : Nat) (cut : Bool) : (enqueueAs s b q f c n cut).sct = s.sct := by
  unfold enqueueAs
  split
  · rfl
  · split
    · rfl
    · split
      · rfl
      · exact setPort_frame (·.sct) s b _ fun _ => rfl
@[simp] theorem enqueueAs_wq (s : State) (b : Bool) (q : Nat) (f : Frame) (c : Bool) (n : Nat) (cut : Bool) : (enqueueAs s b q f c n cut).wq = s.wq := by
  unfold enqueueAs
  split
  · rfl
  · split
    · rfl
    · split
      · rfl
      · exact setPort_frame (·.wq) s b _ fun _ => rfl
theorem sendSct_sct (s : State) (ver typ flags dst : Byte) (session : Half) (seq : Word) (body : List Byte) :
    (sendSct s ver typ flags dst session seq body).sct = { s.sct with rtag := s.sct.rtag + 1 } := by
  simp [sendSct, sendOn, enqueue, nextRtag]
theorem sendSct_wq (s : State) (ver typ flags dst : Byte) (session : Half) (seq : Word) (body : List Byte) :
    (sendSct s ver typ flags dst session seq body).wq = s.wq := by
  simp [sendSct, sendOn, enqueue, nextRtag]
/-- The message of a publication: HEADPUB with one entry. -/
def headpub (q : QId) (head : Word) : TxMsg := { typ := 0x17, body := pubJoin q head [] }
theorem headpub_body (q : QId) (head : Word) : (headpub q head).body = beBytes 2 q.toNat ++ [0, 0] ++ beBytes 4 head.toNat := rfl
theorem beBytes_two (v : Nat) : beBytes 2 v = [BitVec.ofNat 8 (v / 256), BitVec.ofNat 8 v] := rfl
theorem beBytes_four (v : Nat) : beBytes 4 v = [BitVec.ofNat 8 (v / 256 / 256 / 256), BitVec.ofNat 8 (v / 256 / 256), BitVec.ofNat 8 (v / 256), BitVec.ofNat 8 v] := rfl
theorem beNat_beBytes_two {v : Nat} (h : v < 2 ^ 16) : beNat (beBytes 2 v) = v := by
  simp only [beBytes_two, beNat, List.foldl_cons, List.foldl_nil, BitVec.toNat_ofNat]
  omega
theorem beNat_beBytes_four {v : Nat} (h : v < 2 ^ 32) : beNat (beBytes 4 v) = v := by
  simp only [beBytes_four, beNat, List.foldl_cons, List.foldl_nil, BitVec.toNat_ofNat]
  omega
/-- The bytes of a word, most significant first. -/
theorem beBytes_four_word (v : Word) : beBytes 4 v.toNat = (lowBytes 4 (v.setWidth 64)).reverse := by
  have hb : ∀ i n, i < 4 → n = v.toNat / 2 ^ (8 * i) → BitVec.ofNat 8 n = ((v.setWidth 64) >>> (8 * i)).setWidth 8 := by
    intro i n _ hn
    have hv := v.isLt
    apply BitVec.eq_of_toNat_eq
    simp only [hn, BitVec.toNat_ofNat, BitVec.toNat_setWidth, BitVec.toNat_ushiftRight, Nat.shiftRight_eq_div_pow]
    rw [Nat.mod_eq_of_lt (a := v.toNat) (b := 2 ^ 64) (by omega)]
  rw [beBytes_four, hb 3 _ (by omega) (by omega), hb 2 _ (by omega) (by omega), hb 1 _ (by omega) (by omega), hb 0 v.toNat (by omega) (by omega)]
  rfl
/-- The entry of HEADPUB: the queue's number and its HEAD, most significant byte first. -/
theorem headpub_bytes (q : QId) (head : Word) :
    (headpub q head).body = [BitVec.ofNat 8 (q.toNat / 256), q.setWidth 8, 0, 0] ++ (lowBytes 4 (head.setWidth 64)).reverse := by
  have hq : BitVec.ofNat 8 q.toNat = q.setWidth 8 := BitVec.ofNat_toNat 8 q
  rw [headpub_body, beBytes_two, beBytes_four_word, hq]
  rfl
/-- PUBHEAD := HEAD with the HEADPUB that enters egress, and the timer stops. -/
theorem pubSent_headpub (s : State) (q : QId) (head : Word) : pubSent s (headpub q head).body = setWq s q { wqOf s q with pubhead := head, coal := none } := by
  have hq := beNat_beBytes_two (v := q.toNat) (by have := q.isLt; omega)
  have hh : BitVec.ofNat 32 (beNat (beBytes 4 head.toNat)) = head := by rw [beNat_beBytes_four head.isLt, BitVec.ofNat_toNat, BitVec.setWidth_eq]
  rw [beBytes_two] at hq
  rw [beBytes_four] at hh
  rw [headpub_body, beBytes_two, beBytes_four]
  simp only [List.cons_append, List.nil_append, pubSent, hq, hh]
  rfl
/-- A session with a message in its window. -/
def sentSess (s : State) (k : Nat) (m : TxMsg) : Sess :=
  let x := sessOf s k
  { x with next := x.next + 1, unacked := x.unacked ++ [{ m with seq := x.next, sent := s.time.now }] }
/-- A HEADPUB that leaves: the session, the R-TAG counter, and the queue that it publishes. -/
theorem transmit_headpub (s : State) (k : Nat) (q : QId) (head : Word) (ack : Bool) : let u := transmit s k (headpub q head) ack
    u.sct = { (setSess s k (sentSess s k (headpub q head))).sct with rtag := s.sct.rtag + 1 } ∧
      u.wq = (setWq s q { wqOf s q with pubhead := head, coal := none }).wq := by
  have he : transmit s k (headpub q head) ack = sendSess (setSess (setWq s q { wqOf s q with pubhead := head, coal := none }) k (sentSess s k (headpub q head))) k 0x17
      (flagsOf ack false (headpub q head).last false) (sessOf s k).next (headpub q head).body := by
    rw [← pubSent_headpub]
    rfl
  rw [he]
  exact ⟨sendSct_sct _ _ _ _ _ _ _ _, sendSct_wq _ _ _ _ _ _ _ _⟩
/-- One message waits on a session. -/
def oneWaiting (s : State) (k : Nat) (m : TxMsg) : State := setSess s k { sessOf s k with waitq := [m] }
/-- No message waits on a session. -/
def noneWaiting (s : State) (k : Nat) : State := setSess s k { sessOf s k with waitq := [] }
theorem pumpList_single {s : State} {k : Nat} (m : TxMsg) (h : hasWindow s k = true) : (pumpList s k [m]).1 = noneWaiting (transmit s k m true) k := by
  simp only [pumpList, h, if_true, List.isEmpty_nil, Bool.or_true, noneWaiting]
/-- A session that can send sends a message at once. -/
theorem sessSend_canSend {s : State} {k : Nat} (typ : Byte) (body : List Byte) (h : CanSend s k) :
    sessSend s k typ body = noneWaiting (transmit (oneWaiting s k { typ := typ, body := body }) k { typ := typ, body := body } true) k := by
  obtain ⟨hopen, hwait, hroom⟩ := h
  have ho : isOpen (oneWaiting s k { typ := typ, body := body }) k = true := by simp [isOpen, oneWaiting, hopen]
  have hw : hasWindow (oneWaiting s k { typ := typ, body := body }) k = true := by simp [hasWindow, oneWaiting, hroom]
  have hq : (sessOf (oneWaiting s k { typ := typ, body := body }) k).waitq = [{ typ := typ, body := body }] := by simp [oneWaiting]
  rw [sessSend, sessPush, hwait, List.nil_append]
  change (pump (oneWaiting s k { typ := typ, body := body }) k).1 = _
  rw [pump, if_pos ho, hq, pumpList_single _ hw]
/-- What a HEADPUB on a session that can send leaves. -/
theorem sessSend_headpub {s : State} {k : Nat} (q : QId) (h : CanSend s k) : let u := sessSend s k 0x17 (pubJoin q (wqOf s q).head [])
    u.wq = (setWq s q { wqOf s q with pubhead := (wqOf s q).head, coal := none }).wq ∧ u.sct.rtag = s.sct.rtag + 1 ∧ SameMemory s u ∧
      ∃ m, (sessOf u k).unacked = (sessOf s k).unacked ++ [m] ∧ m.typ = 0x17 ∧ m.seq = (sessOf s k).next ∧
        m.body = [BitVec.ofNat 8 (q.toNat / 256), q.setWidth 8, 0, 0] ++ (lowBytes 4 ((wqOf s q).head.setWidth 64)).reverse := by
  have hmem := (sendsOnly_sessSend s k 0x17 (pubJoin q (wqOf s q).head [])).sameMemory
  obtain ⟨hsct, hwq⟩ := transmit_headpub (oneWaiting s k (headpub q (wqOf s q).head)) k q (wqOf s q).head true
  have hu : sessSend s k 0x17 (pubJoin q (wqOf s q).head []) =
      noneWaiting (transmit (oneWaiting s k (headpub q (wqOf s q).head)) k (headpub q (wqOf s q).head) true) k := sessSend_canSend _ _ h
  have hz : sessOf (oneWaiting s k (headpub q (wqOf s q).head)) k = { sessOf s k with waitq := [headpub q (wqOf s q).head] } := sessOf_setSess_same s k _
  rw [hu] at hmem ⊢
  generalize transmit (oneWaiting s k (headpub q (wqOf s q).head)) k (headpub q (wqOf s q).head) true = t at hsct hwq hmem ⊢
  have hs : (sessOf t k).unacked = (sessOf s k).unacked ++ [{ headpub q (wqOf s q).head with seq := (sessOf s k).next, sent := s.time.now }] := by
    have hst : sessOf t k = sentSess (oneWaiting s k (headpub q (wqOf s q).head)) k (headpub q (wqOf s q).head) := by
      rw [sessOf, hsct]
      exact sget_sset_same _ _ _ _
    rw [hst, sentSess, hz]
    rfl
  refine ⟨hwq, (congrArg Sct.rtag hsct :), hmem, { headpub q (wqOf s q).head with seq := (sessOf s k).next, sent := s.time.now }, ?_, rfl, rfl,
    headpub_bytes q _⟩
  rw [noneWaiting, sessOf_setSess_same, ← hs]
/-- A publication to a subscriber session that is not OPEN or whose version is too low is dropped and counted (R292). -/
theorem publish_closed {s : State} {q : QId} (h : (sessOf s (fld (wqW s q 1) 24 6)).st ≠ .opened ∨ (sessOf s (fld (wqW s q 1) 24 6)).ver.toNat < 0x20) :
    publish s q = bump (setWq s q { wqOf s q with pubhead := (wqOf s q).head, coal := none }) (aSCT + 0x60) := by
  have hno : (isOpen s (fld (wqW s q 1) 24 6) && decide (0x20 ≤ (sessOf s (fld (wqW s q 1) 24 6)).ver.toNat)) = false := by
    rcases h with h | h
    · simp [isOpen, h]
    · simp [h]
  unfold publish
  dsimp only
  rw [hno]
  rfl
theorem publish_canSend {s : State} {q : QId} (h : CanSend s (fld (wqW s q 1) 24 6)) (hv : 0x20 ≤ (sessOf s (fld (wqW s q 1) 24 6)).ver.toNat) :
    publish s q = sessSend s (fld (wqW s q 1) 24 6) 0x17 (pubJoin q (wqOf s q).head []) := by
  obtain ⟨hopen, hwait, hroom⟩ := h
  have hyes : (isOpen s (fld (wqW s q 1) 24 6) && decide (0x20 ≤ (sessOf s (fld (wqW s q 1) 24 6)).ver.toNat)) = true := by simp [isOpen, hopen, hv]
  unfold publish
  dsimp only
  rw [hyes, hwait]
  rfl
theorem exec_coalTimeExpiry {s : State} {q : QId} {since : DWord} (hc : clocksOn s = true) (hs : (wqOf s q).coal = some since)
    (ht : (wqW s q 2).extractLsb' 32 24 ≠ 0) (hn : (wqW s q 1).getLsbD 31 = true) (hp : (wqOf s q).head ≠ (wqOf s q).pubhead) :
    ∃ n, exec (.coalTimeExpiry q) s = .next (publish { s with time := { s.time with now := n } } q) := by
  obtain ⟨n, he⟩ := atTime_eq s (since + BitVec.ofNat 64 (fld (wqW s q 2) 32 24 * 64))
  refine ⟨n, ?_⟩
  change execCoalTimeExpiry q s = _
  rw [execCoalTimeExpiry, onCore_on _ hc, ← he]
  have ht' : fld (wqW s q 2) 32 24 ≠ 0 := fun h => ht ((fld_eq_zero _ _ _).mp h)
  simp [hs, ht', bit, hn, hp]

/-- Settles O35: each command by what it makes of the live half of its queue. -/
theorem queuesFollowTheirStates : Obligations.QueuesFollowTheirStates := by
  intro s q lvl k bs e hc x a others becomes onlyWq enabled drained even line
  refine ⟨fun hl => ⟨fun h => ?_, fun h => ?_, ?_, fun h hb => ?_, fun h hb => ?_, fun h hb => ?_, fun h hb => ?_, fun h => ?_, fun h => ?_, fun h => ?_,
    fun h ho => ?_, fun h hd hp => ?_⟩, fun h hd hp => ?_, fun h => ?_, fun hm hs hr => ⟨fun ho hk => ?_, fun ho hr' => ?_, fun ho hr' => ?_⟩,
    fun hm hs hr => ?_, fun v hv => ?_, fun h he herr hp => ?_, fun since hs ht hn hp => ⟨fun hz => ?_, fun hz hv hw hroom => ?_⟩⟩
  · exact ⟨_, onReg_reaches _ hc hl, ring_active h⟩
  · refine ⟨_, onReg_reaches _ hc hl, ?_⟩
    rw [ring, if_pos h]
    exact ⟨imr_bump_same s _, otherIm_setIm s _ _, imBack_setIm s _ _⟩
  · change execQueryQueue lvl q s = _
    rw [execQueryQueue, onReg_reaches _ hc hl]
  · exact ⟨_, onReg_reaches _ hc hl, queueEnable_disabled_good h hb ▸ ⟨queueIs_setWq q _ fun _ _ => rfl, rfl, rfl, rfl⟩⟩
  · exact (onReg_reaches _ hc hl).trans (congrArg _ (queueEnable_disabled_bad h hb))
  · exact ⟨_, onReg_reaches _ hc hl, queueEnable_draining_good h hb ▸ ⟨queueIs_setWq q _ fun _ _ => rfl, rfl, rfl⟩⟩
  · exact (onReg_reaches _ hc hl).trans (congrArg _ (queueEnable_draining_bad h hb))
  · exact (onReg_reaches _ hc hl).trans (congrArg _ (queueEnable_other h))
  · exact (onReg_reaches _ hc hl).trans (congrArg _ (queueDisable_disabled h))
  · exact ⟨_, onReg_reaches _ hc hl, queueDisable_draining h ▸ ⟨queueIs_setWq q _ fun _ _ => rfl, rfl, rfl⟩⟩
  · exact ⟨_, onReg_reaches _ hc hl, queueDisable_open h ho⟩
  · exact ⟨_, onReg_reaches _ hc hl, queueDisable_idle h hd hp⟩
  · obtain ⟨hq, -, hmem, hf⟩ := queueDrained_effect h hd hp
    refine ⟨_, onCore_on _ hc, hmem, hf, fun hen => ?_, fun hen => ?_⟩
    · rwa [hen] at hq
    · rwa [hen] at hq
  · exact (onCore_on _ hc).trans (congrArg _ (doFetch_stalled h))
  · obtain ⟨hwq, hget, hbut⟩ := storeBytes_byte_effect (bs.getD 0 0 &&& 0x7F) hk
    refine ⟨_, onCore_on _ hc, ?_⟩
    rw [doFetch_reads hm hs, hr]
    dsimp only
    rw [if_pos ho]
    exact ⟨queueIs_setWq q _ fun p _ => congrArg (fun w : Wq => sget ({} : WqLive) w.q p.toNat) hwq, hget, hbut⟩
  · refine ⟨_, onCore_on _ hc, ?_⟩
    rw [doFetch_reads hm hs, hr]
    dsimp only
    rw [ho, if_neg (by decide), if_pos hr']
    exact ⟨queueIs_setWq q _ fun _ _ => rfl, rfl⟩
  · refine ⟨_, onCore_on _ hc, ?_⟩
    rw [doFetch_reads hm hs, hr]
    dsimp only
    rw [ho, if_neg (by decide), if_neg (by rw [hr']; decide), pollWait_eq]
    exact ⟨queueIs_setWq q _ fun _ _ => rfl, rfl⟩
  · refine ⟨_, onCore_on _ hc, ?_⟩
    rw [doFetch_reads hm hs, hr]
    exact ⟨queueIs_setWq q _ fun _ _ => rfl, rfl⟩
  · exact ⟨_, exec_pollWaitEnd hc hv, pollWaitEnd_effect⟩
  · exact ⟨_, onCore_on _ hc, doQueueError_effect h he herr hp⟩
  · obtain ⟨n, hx⟩ := exec_coalTimeExpiry hc hs ht hn hp
    have hu := publish_closed (s := { s with time := { s.time with now := n } }) (q := q) (by rw [fld_eq_extract]; exact hz)
    exact ⟨_, hx, hu ▸ ⟨queueIs_setWq q _ fun _ _ => rfl, rfl, imr_bump_same _ _, fun _ => rfl⟩⟩
  · obtain ⟨n, hx⟩ := exec_coalTimeExpiry hc hs ht hn hp
    have hk : CanSend { s with time := { s.time with now := n } } (fld (wqW { s with time := { s.time with now := n } } q 1) 24 6) := by
      rw [fld_eq_extract]
      exact ⟨hz, hw, hroom⟩
    have hu := publish_canSend hk (by rw [fld_eq_extract]; exact hv)
    obtain ⟨hwq, htag, hmem, hm⟩ := sessSend_headpub q hk
    rw [fld_eq_extract] at hm
    refine ⟨_, hx, ?_⟩
    rw [hu]
    exact ⟨(queueIs_setWq q _ fun _ _ => rfl).of_eq (congrArg Wq.q hwq), htag, hmem, hm⟩

end Sys2Proof.Machine
end

section
/-! Device port units: enable states, the commands of the window, and what their links and PHYs bring (R8, R9, R378 to R382, R384, R385, R390, R391, R404). -/
namespace Sys2Proof.Machine

/-! Level signals (R378, R405). -/
theorem evLevel_frame {α : Type} (f : State → α) (s : State) (n : Nat) (b : Bool) (info : Word) (h : ∀ l, f { s with evt := { s.evt with src := l } } = f s) :
    f (evLevel s n b info) = f s := by
  unfold evLevel
  dsimp only
  split
  · refine (evFire_frame f _ _ _ fun l => ?_).trans (h _)
    exact (h _).trans (h _).symm
  · exact h _
/-- A firing leaves the level of every source. -/
theorem evSrc_level_evFire (s : State) (n m : Nat) (info : Word) : (evSrc (evFire s n info) m).level = (evSrc s m).level := by
  obtain ⟨hn, ho⟩ := evFire_fired s n info
  by_cases h : m = n
  · rw [h, hn, firedSrc]
    split
    · split <;> rfl
    · rfl
    · rfl
  · rw [ho m h]
theorem evSrc_evLevel_level (s : State) (n : Nat) (b : Bool) (info : Word) : (evSrc (evLevel s n b info) n).level = b := by
  unfold evLevel
  dsimp only
  split
  · rw [evSrc_level_evFire, evSrc_setEvSrc_same]
  · rw [evSrc_setEvSrc_same]
theorem evSrc_evLevel_other (s : State) {n m : Nat} (b : Bool) (info : Word) (h : m ≠ n) : evSrc (evLevel s n b info) m = evSrc s m := by
  unfold evLevel
  dsimp only
  split
  · rw [(evFire_fired _ _ _).2 m h, evSrc_setEvSrc_other _ _ _ _ h]
  · rw [evSrc_setEvSrc_other _ _ _ _ h]

/-! What a command of a unit may change. -/
theorem otherUnits_setUnit (s : State) (k : Nat) (y : DUnit) : OtherUnits s (setUnit s k y) k := fun j hj => unitOf_setUnit_other s k y j hj
theorem onlyUnit_setUnit (s : State) (k : Nat) (y : DUnit) : OnlyUnit s (setUnit s k y) k := ⟨otherUnits_setUnit s k y, rfl⟩
theorem onlyUnit_refl (s : State) (k : Nat) : OnlyUnit s s k := ⟨fun _ _ => rfl, rfl⟩
theorem onlyUnit_unitCount (s : State) (k i n : Nat) : OnlyUnit s (unitCount s k i n) k := ⟨fun _ _ => rfl, rfl⟩
theorem onlyUnit_evFire (s : State) (k n : Nat) (info : Word) : OnlyUnit s (evFire s n info) k :=
  ⟨fun j _ => evFire_frame (unitOf · j) s n info fun _ => rfl,
    evFire_frame (fun u => ({ u with dpt := s.dpt, evt := { u.evt with src := s.evt.src }, reg := { u.reg with im := s.reg.im } } : State)) s n info fun _ => rfl⟩
theorem onlyUnit_evLevel (s : State) (k n : Nat) (b : Bool) (info : Word) : OnlyUnit s (evLevel s n b info) k :=
  ⟨fun j _ => evLevel_frame (unitOf · j) s n b info fun _ => rfl,
    evLevel_frame (fun u => ({ u with dpt := s.dpt, evt := { u.evt with src := s.evt.src }, reg := { u.reg with im := s.reg.im } } : State)) s n b info
      fun _ => rfl⟩
theorem OtherUnits.trans {s u w : State} {k : Nat} (h : OtherUnits s u k) (h' : OtherUnits u w k) : OtherUnits s w k := fun j hj => (h' j hj).trans (h j hj)
theorem OnlyUnit.trans {s u w : State} {k : Nat} (h : OnlyUnit s u k) (h' : OnlyUnit u w k) : OnlyUnit s w k := by
  obtain ⟨ho, he⟩ := h
  obtain ⟨ho', he'⟩ := h'
  refine ⟨ho.trans ho', ?_⟩
  have e := congrArg (fun v : State => ({ v with dpt := s.dpt, evt := { v.evt with src := s.evt.src }, reg := { v.reg with im := s.reg.im } } : State)) he'
  exact e.trans he
/-- What reads nothing of the units, the sources of the event controller and the IM registers is as it was. -/
theorem OnlyUnit.frame {α : Type} {s u : State} {k : Nat} (h : OnlyUnit s u k) (f : State → α)
    (hf : ∀ (v : State) d l m, f { v with dpt := d, evt := { v.evt with src := l }, reg := { v.reg with im := m } } = f v) : f u = f s := by
  obtain ⟨-, he⟩ := h
  rw [← hf u s.dpt s.evt.src s.reg.im, he]
theorem OnlyUnit.sameMemory {s u : State} {k : Nat} (h : OnlyUnit s u k) : SameMemory s u := fun a => h.frame (memGet · a) fun _ _ _ _ => rfl
theorem OnlyUnit.txWaiters {s u : State} {k : Nat} (h : OnlyUnit s u k) : txWaiters u k = txWaiters s k := h.frame (Machine.txWaiters · k) fun _ _ _ _ => rfl
theorem OnlyUnit.rxWaiters {s u : State} {k : Nat} (h : OnlyUnit s u k) : rxWaiters u k = rxWaiters s k := h.frame (Machine.rxWaiters · k) fun _ _ _ _ => rfl

/-! The signal of a unit (R378). -/
/-- The signal follows ATTN in whatever state has the same settings and sources. -/
theorem signals_unitSignal {s t : State} (k : Nat) (ha : t.reg.act = s.reg.act) (he : t.evt.src = s.evt.src) : Signals s (unitSignal t k) k := by
  have hu : unitOf (unitSignal t k) k = unitOf t k := evLevel_frame (unitOf · k) t _ _ _ fun _ => rfl
  refine ⟨?_, fun m hm => (evSrc_evLevel_other t _ _ hm).trans (by simp only [evSrc, he])⟩
  rw [hu]
  refine (evSrc_evLevel_level t _ _ _).trans ?_
  simp only [unitEven, bit, act, ha]
/-- What a write of unit k with its signal leaves. -/
theorem unitSignal_setUnit {s t : State} (k : Nat) (y : DUnit) (ha : t.reg.act = s.reg.act) (he : t.evt.src = s.evt.src) :
    let u := unitSignal (setUnit t k y) k
    Signals s u k ∧ unitOf u k = y ∧ OnlyUnit t u k :=
  ⟨signals_unitSignal k ha he, (evLevel_frame (unitOf · k) _ _ _ _ fun _ => rfl).trans (unitOf_setUnit_same t k y),
    (onlyUnit_setUnit t k y).trans (onlyUnit_evLevel _ _ _ _ _)⟩
/-- A condition that the unit records (R378). -/
theorem unitNote_effect {s t : State} (k code : Nat) (attn : Bool) (ha : t.reg.act = s.reg.act) (he : t.evt.src = s.evt.src) : let u := unitNote t k code attn
    Signals s u k ∧ unitOf u k = { unitOf t k with code := BitVec.ofNat 5 code, attn := (unitOf t k).attn || attn } ∧ OnlyUnit t u k :=
  unitSignal_setUnit k _ ha he
theorem unitNote_imr (s : State) (k code : Nat) (attn : Bool) (a : Nat) : imr (unitNote s k code attn) a = imr s a :=
  evLevel_frame (imr · a) _ _ _ _ fun _ => rfl
theorem imr_unitCount (s : State) (k i n : Nat) : imr (unitCount s k i n) (aUnit k (0x20 + 4 * i)) = satAdd (imr s (aUnit k (0x20 + 4 * i))) n :=
  imr_setIm_same s _ _

/-! No waiters (R376, R377). -/
theorem serveWaiters_none {s : State} {k : Nat} (h : txWaiters s k = []) : serveWaiters s k = s := by simp [serveWaiters, h]
theorem endWaiters_none (l : List TxRec) (s : State) (st reason : Nat) (h : ∀ r ∈ l, r.waiter = none) :
    l.foldl (fun s r => endWaiter s r st reason) s = s := by
  induction l with
  | nil => rfl
  | cons r l ih =>
    have hr : endWaiter s r st reason = s := by rw [endWaiter, h r List.mem_cons_self]
    rw [List.foldl_cons, hr]
    exact ih fun q hq => h q (List.mem_cons_of_mem r hq)
/-- Records discarded for which no context waits, with their count (R379, R381, R403). -/
theorem flushTx_noWaiters {s : State} {k : Nat} (p : TxRec → Bool) (armed : Bool) (reason : Nat) (h : ∀ r ∈ (unitOf s k).tx, r.waiter = none) :
    flushTx s k p armed reason =
      unitCount (setUnit s k { unitOf s k with tx := (unitOf s k).tx.filter fun r => !p r, armed := if armed then [] else (unitOf s k).armed }) k
        (cntFlush (unitClass k)) (((unitOf s k).tx.filter p).length + (if armed then (unitOf s k).armed.length else 0)) :=
  endWaiters_none _ _ _ _ fun r hr => h r (List.mem_of_mem_filter hr)

/-! ENABLE and DISABLE (R8, R381, R382). -/
/-- A unit as it enters ACTIVE with the settings in sets. -/
def enteredUnit (cls : Nat) (sets : List Word) (refused : Bool) (x : DUnit) : DUnit :=
  { x with
    st := .active, enPend := false, refused := refused, code := 0, attn := false, tx := [], rx := [], armed := [], rxStop := false
    applied := sets, edgeAt := none, linSub := false, spiRx := [], filt := [], was := none, syncPs := none
    level := if cls = 7 ∧ bit (sets.getD 0 0) 0 then bit (sets.getD 0 0) 14 else x.level }
theorem unitEnter_effect {s t : State} (k : Nat) (sets : List Word) (refused : Bool) (ha : t.reg.act = s.reg.act) (he : t.evt.src = s.evt.src) :
    let u := unitEnter t k sets refused
    Signals s u k ∧ unitOf u k = enteredUnit (unitClass k) sets refused (unitOf t k) ∧ OnlyUnit t u k := unitSignal_setUnit k _ ha he
theorem unitEnable_disabled_good {s : State} {k : Nat} (hk : unitOk k = true) (hst : (unitOf s k).st = .disabled)
    (hcfg : cfgOk (unitClass k) (unitCfg s k) = true) : unitEnable k s = unitEnter s k (unitCfgs s k) false := by
  simp [unitEnable, hk, hst, unitActivate, hcfg]
theorem unitEnable_disabled_bad {s : State} {k : Nat} (hk : unitOk k = true) (hst : (unitOf s k).st = .disabled)
    (hcfg : cfgOk (unitClass k) (unitCfg s k) = false) : unitEnable k s = setUnit s k { unitOf s k with enPend := false, refused := true } := by
  unfold unitEnable unitActivate
  dsimp only
  rw [hk, hst, hcfg]
  rfl
theorem unitEnable_draining_good {s : State} {k : Nat} (hk : unitOk k = true) (hst : (unitOf s k).st = .draining)
    (hcfg : cfgOk (unitClass k) (unitCfg s k) = true) : unitEnable k s = setUnit s k { unitOf s k with enPend := true, refused := false } := by
  unfold unitEnable
  dsimp only
  rw [hk, hst, hcfg]
  rfl
theorem unitEnable_draining_bad {s : State} {k : Nat} (hk : unitOk k = true) (hst : (unitOf s k).st = .draining)
    (hcfg : cfgOk (unitClass k) (unitCfg s k) = false) : unitEnable k s = setUnit s k { unitOf s k with refused := true } := by
  unfold unitEnable
  dsimp only
  rw [hk, hst, hcfg]
  rfl
theorem unitEnable_active {s : State} {k : Nat} (hk : unitOk k = true) (hst : (unitOf s k).st = .active) : unitEnable k s = s := by
  simp [unitEnable, hk, hst]
theorem unitDisable_draining {s : State} {k : Nat} (hk : unitOk k = true) (hst : (unitOf s k).st = .draining) :
    unitDisable k s = setUnit s k { unitOf s k with enPend := false } := by
  unfold unitDisable
  dsimp only
  rw [hk, hst]
  rfl
/-- The state in which a DISABLE begins the drain of a unit. -/
def unitDrainBegin (s : State) (k : Nat) : State := setUnit s k { unitOf s k with st := .draining, enPend := false, rxStop := false, drainAt := s.time.now }
theorem unitDisable_active {s : State} {k : Nat} (hk : unitOk k = true) (hst : (unitOf s k).st = .active) :
    unitDisable k s = serveWaiters (flushTx (unitDrainBegin s k) k (fun r => decide (unitClass k = 7 ∨ r.eligible = none)) false 0x12) k := by
  have hp : (fun r : TxRec => decide (unitClass k = 7 ∨ r.eligible = none)) = fun r => decide (unitClass k = 7) || r.eligible.isNone := by
    funext r
    rw [Bool.decide_or]
    cases r.eligible <;> rfl
  unfold unitDisable
  dsimp only
  rw [hk, hst, hp]
  rfl
/-- What a DISABLE of an ACTIVE unit for which no context waits leaves. -/
theorem unitDisable_active_effect {s : State} {k : Nat} (hk : unitOk k = true) (hst : (unitOf s k).st = .active) (hn : NoWaiters s k) :
    let p := fun r : TxRec => decide (unitClass k = 7 ∨ r.eligible = none)
    let u := unitDisable k s
    imr u (aUnit k (0x20 + 4 * cntFlush (unitClass k))) = satAdd (imr s (aUnit k (0x20 + 4 * cntFlush (unitClass k)))) ((unitOf s k).tx.filter p).length ∧
      unitOf u k = { unitOf s k with st := .draining, enPend := false, rxStop := false, drainAt := s.time.now, tx := (unitOf s k).tx.filter fun r => !p r } ∧
      OnlyUnit s u k := by
  obtain ⟨-, htx, hw⟩ := hn
  have hx : unitOf (unitDrainBegin s k) k = { unitOf s k with st := .draining, enPend := false, rxStop := false, drainAt := s.time.now } := unitOf_setUnit_same s k _
  intro p u
  have hu : u = unitCount (setUnit (unitDrainBegin s k) k { unitOf (unitDrainBegin s k) k with tx := (unitOf s k).tx.filter fun r => !p r }) k
      (cntFlush (unitClass k)) ((unitOf s k).tx.filter p).length := by
    have hf := flushTx_noWaiters (s := unitDrainBegin s k) (k := k) p false 0x12 (by rw [hx]; exact hw)
    have ho : OnlyUnit s (flushTx (unitDrainBegin s k) k p false 0x12) k := by
      rw [hf]
      exact (onlyUnit_setUnit s k _).trans ((onlyUnit_setUnit _ k _).trans (onlyUnit_unitCount _ k _ _))
    have hs := serveWaiters_none (ho.txWaiters.trans htx)
    rw [show u = _ from unitDisable_active hk hst, hs, hf, hx]
    rfl
  rw [hu]
  refine ⟨imr_unitCount _ _ _ _, ?_, (onlyUnit_setUnit s k _).trans ((onlyUnit_setUnit _ k _).trans (onlyUnit_unitCount _ k _ _))⟩
  refine (unitOf_setUnit_same _ k _).trans ?_
  rw [hx]

/-! The end of a drain (R9, R381, R384, R399, R404). -/
/-- A unit that the end of its drain leaves DISABLED. -/
def drainedUnit (x : DUnit) : DUnit :=
  { x with st := .disabled, rx := [], applied := [], link := 0, linSub := false, spiRx := [], filt := [], was := none, syncPs := none }
theorem unitDrained_disabled {s : State} {k : Nat} (hen : (unitOf s k).enPend = false) (hrx : rxWaiters s k = []) :
    unitDrained s k = unitPulse (setUnit s k (drainedUnit (unitOf s k))) k := by
  have hw : rxWaiters (setUnit s k (drainedUnit (unitOf s k))) k = [] := ((onlyUnit_setUnit s k _).rxWaiters).trans hrx
  unfold unitDrained
  dsimp only
  rw [if_neg (by rw [hen]; decide)]
  change unitPulse ((rxWaiters (setUnit s k (drainedUnit (unitOf s k))) k).reverse.foldl (rxWaitFail k) (setUnit s k (drainedUnit (unitOf s k)))) k = _
  rw [hw]
  rfl
theorem unitDrained_enabled {s : State} {k : Nat} (hen : (unitOf s k).enPend = true) (hrx : rxWaiters s k = []) :
    unitDrained s k =
      unitEnter s k (if cfgOk (unitClass k) (unitCfg s k) then unitCfgs s k else (unitOf s k).applied) (!cfgOk (unitClass k) (unitCfg s k)) := by
  unfold unitDrained
  dsimp only
  rw [if_pos hen, hrx]
  rfl
/-- The pulse at the end of a drain, while EVEN = 1. -/
theorem unitPulse_effect {s t : State} (k : Nat) (ha : t.reg.act = s.reg.act) (he : t.evt.src = s.evt.src) (ht : t.reg.tabA = s.reg.tabA)
    (hn : t.time = s.time) : let u := unitPulse t k
    unitOf u k = unitOf t k ∧ OnlyUnit t u k ∧
      ((act s (aUnit k 0)).getLsbD 2 = true → Fired s u (0x400 + k) ((portSts u k).setWidth 32)) ∧
      ((act s (aUnit k 0)).getLsbD 2 = false → ∀ m, evSrc u m = evSrc s m) := by
  have heven : unitEven t k = (act s (aUnit k 0)).getLsbD 2 := by simp only [unitEven, bit, act, ha]
  unfold unitPulse
  rw [heven]
  cases (act s (aUnit k 0)).getLsbD 2 with
  | true =>
    have hp : ∀ n i, portSts (evFire t n i) k = portSts t k := fun n i => evFire_frame (portSts · k) t n i fun _ => rfl
    refine ⟨evFire_frame (unitOf · k) t _ _ fun _ => rfl, onlyUnit_evFire t k _ _, fun _ => ?_, fun h => absurd h (by decide)⟩
    rw [if_pos rfl, hp]
    exact (evFire_fired t _ _).congr he ht hn rfl
  | false =>
    rw [if_neg (by decide)]
    exact ⟨rfl, onlyUnit_refl t k, fun h => absurd h (by decide), fun _ m => by simp only [evSrc, he]⟩
/-- The pin of a DISABLED timer unit is at its idle level, or in high impedance (R399). -/
theorem pinLevel_disabled {s : State} {k : Nat} (hcls : unitClass k = 7) (hst : (unitOf s k).st = .disabled) (happ : (unitOf s k).applied = []) :
    pinLevel s k = match ((unitCfg s k 0).extractLsb' 12 2).toNat with | 0 => false | 1 => true | _ => (unitOf s k).level := by
  have hset : unitSet s k 0 = unitCfg s k 0 := by simp [unitSet, happ]
  simp only [pinLevel, safeLevel, heldPins, safePins, hst, hcls, true_or, if_true, hset, fld_eq_extract]
  rcases ((unitCfg s k 0).extractLsb' 12 2).toNat with _ | _ | n <;> rfl
/-- The claim of O48 on a unit that goes directly from its drain to ACTIVE. -/
def Reopened (s u : State) (k : Nat) : Prop :=
  (unitOf u k).st = .active ∧ (unitOf u k).enPend = false ∧ (unitOf u k).code = 0 ∧ (unitOf u k).attn = false ∧
    (unitOf u k).refused = (!cfgOk (unitClass k) (unitCfg s k)) ∧
    (unitOf u k).applied = if cfgOk (unitClass k) (unitCfg s k) then (List.range 4).map (unitCfg s k) else (unitOf s k).applied
theorem unitDrained_reopened {s : State} {k : Nat} (hen : (unitOf s k).enPend = true) (hrx : rxWaiters s k = []) : let u := unitDrained s k
    Reopened s u k ∧ (unitOf u k).tx = [] ∧ (unitOf u k).armed = [] ∧ (unitOf u k).rx = [] ∧ OnlyUnit s u k := by
  obtain ⟨-, hx, ho⟩ := unitEnter_effect (s := s) (t := s) k (if cfgOk (unitClass k) (unitCfg s k) then unitCfgs s k else (unitOf s k).applied)
    (!cfgOk (unitClass k) (unitCfg s k)) rfl rfl
  rw [unitDrained_enabled hen hrx]
  unfold Reopened
  dsimp only
  rw [hx]
  exact ⟨⟨rfl, rfl, rfl, rfl, rfl, rfl⟩, rfl, rfl, rfl, ho⟩
theorem unitDrained_imr {s : State} {k : Nat} (hrx : rxWaiters s k = []) (a : Nat) : imr (unitDrained s k) a = imr s a := by
  cases hen : (unitOf s k).enPend with
  | true =>
    rw [unitDrained_enabled hen hrx]
    exact evLevel_frame (imr · a) _ _ _ _ fun _ => rfl
  | false =>
    rw [unitDrained_disabled hen hrx, unitPulse]
    split
    · exact evFire_frame (imr · a) _ _ _ fun _ => rfl
    · rfl

/-! DRAIN_TMO (R381). -/
/-- The state of a unit whose drain has timed out: everything discarded, the condition recorded. -/
def timedOut (s : State) (k : Nat) : State := unitNote (flushTx s k (fun _ => true) true 0x12) k 0x11 true
/-- What discarding everything that a unit holds to send leaves, with a condition recorded. -/
theorem flushAll_effect {s : State} {k : Nat} (reason code : Nat) (attn : Bool) (hw : ∀ r ∈ (unitOf s k).tx, r.waiter = none) :
    let u := unitNote (flushTx s k (fun _ => true) true reason) k code attn
    Signals s u k ∧ unitOf u k = { unitOf s k with tx := [], armed := [], code := BitVec.ofNat 5 code, attn := (unitOf s k).attn || attn } ∧ OnlyUnit s u k ∧
      imr u (aUnit k (0x20 + 4 * cntFlush (unitClass k))) =
        satAdd (imr s (aUnit k (0x20 + 4 * cntFlush (unitClass k)))) ((unitOf s k).tx.length + (unitOf s k).armed.length) := by
  have hf : flushTx s k (fun _ => true) true reason =
      unitCount (setUnit s k { unitOf s k with tx := [], armed := [] }) k (cntFlush (unitClass k)) ((unitOf s k).tx.length + (unitOf s k).armed.length) := by
    have h := flushTx_noWaiters (fun _ => true) true reason hw
    simpa using h
  obtain ⟨hs, hx, ho⟩ := unitNote_effect (s := s) (t := flushTx s k (fun _ => true) true reason) k code attn (by rw [hf]; rfl) (by rw [hf]; rfl)
  have hy : unitOf (flushTx s k (fun _ => true) true reason) k = { unitOf s k with tx := [], armed := [] } := by
    rw [hf]
    exact unitOf_setUnit_same s k _
  have ho' : OnlyUnit s (flushTx s k (fun _ => true) true reason) k := by
    rw [hf]
    exact (onlyUnit_setUnit s k _).trans (onlyUnit_unitCount _ k _ _)
  refine ⟨hs, hx.trans ?_, ho'.trans ho, (unitNote_imr _ _ _ _ _).trans ?_⟩
  · rw [hy]
  · rw [hf]
    exact imr_unitCount _ _ _ _
theorem doDrainTmo_eq {s : State} {k : Nat} (hk : unitOk k = true) (hst : (unitOf s k).st = .draining) (ht : ((act s aDPT).extractLsb' 0 20).toNat ≠ 0) :
    ∃ n, n.toNat = Nat.max s.time.now.toNat ((unitOf s k).drainAt + BitVec.ofNat 64 (1000 * ((act s aDPT).extractLsb' 0 20).toNat)).toNat ∧
      doDrainTmo k s = unitDrained (timedOut { s with time := { s.time with now := n } } k) k := by
  have hn := atTime_now s ((unitOf s k).drainAt + BitVec.ofNat 64 (1000 * ((act s aDPT).extractLsb' 0 20).toNat))
  obtain ⟨n, he⟩ := atTime_eq s ((unitOf s k).drainAt + BitVec.ofNat 64 (1000 * ((act s aDPT).extractLsb' 0 20).toNat))
  rw [he] at hn
  refine ⟨n, hn, ?_⟩
  unfold doDrainTmo
  dsimp only
  rw [fld_eq_extract, if_pos ⟨hk, hst, ht⟩, he]
  rfl
/-- What DRAIN_TMO leaves of a unit for which no context waits. -/
theorem doDrainTmo_effect {s : State} {k : Nat} (hk : unitOk k = true) (hst : (unitOf s k).st = .draining)
    (ht : ((act s aDPT).extractLsb' 0 20).toNat ≠ 0) (hw : NoWaiters s k) : let u := doDrainTmo k s
    (unitOf u k).tx = [] ∧ (unitOf u k).armed = [] ∧ (unitOf u k).rx = [] ∧
      imr u (aUnit k (0x20 + 4 * cntFlush (unitClass k))) =
        satAdd (imr s (aUnit k (0x20 + 4 * cntFlush (unitClass k)))) ((unitOf s k).tx.length + (unitOf s k).armed.length) ∧
      ((unitOf s k).drainAt + BitVec.ofNat 64 (1000 * ((act s aDPT).extractLsb' 0 20).toNat)).toNat ≤ u.time.now.toNat ∧ OtherUnits s u k ∧ SameMemory s u ∧
      ((unitOf s k).enPend = false → (unitOf u k).st = .disabled ∧ (unitOf u k).code = 0x11 ∧ (unitOf u k).attn = true) ∧
      ((unitOf s k).enPend = true → Reopened s u k) := by
  obtain ⟨hrx, -, hwait⟩ := hw
  obtain ⟨n, hn, hu⟩ := doDrainTmo_eq hk hst ht
  obtain ⟨-, hx, ho, hcnt⟩ := flushAll_effect (s := { s with time := { s.time with now := n } }) (k := k) 0x12 0x11 true hwait
  change unitOf (timedOut _ k) k = _ at hx
  have hrx' : rxWaiters (timedOut { s with time := { s.time with now := n } } k) k = [] := ho.rxWaiters.trans hrx
  have hle : ∀ {u : State}, OnlyUnit { s with time := { s.time with now := n } } u k →
      ((unitOf s k).drainAt + BitVec.ofNat 64 (1000 * ((act s aDPT).extractLsb' 0 20).toNat)).toNat ≤ u.time.now.toNat := fun h => by
    rw [h.frame (·.time.now) fun _ _ _ _ => rfl, hn]
    exact Nat.le_max_right _ _
  have hi := (unitDrained_imr hrx' (aUnit k (0x20 + 4 * cntFlush (unitClass k)))).trans hcnt
  rw [hu]
  cases hen : (unitOf s k).enPend with
  | false =>
    rw [unitDrained_disabled (by rw [hx]; exact hen) hrx'] at hi ⊢
    obtain ⟨hy, hp, -⟩ := unitPulse_effect (s := setUnit (timedOut { s with time := { s.time with now := n } } k) k
      (drainedUnit (unitOf (timedOut { s with time := { s.time with now := n } } k) k))) k rfl rfl rfl rfl
    have ho' := ho.trans ((onlyUnit_setUnit _ k _).trans hp)
    rw [unitOf_setUnit_same, hx] at hy
    rw [hx] at ho' hi ⊢
    refine ⟨?_, ?_, ?_, hi, hle ho', ho'.1, ho'.sameMemory, fun _ => ⟨?_, ?_, ?_⟩, fun h => absurd h (by decide)⟩ <;> rw [hy]
    all_goals simp [drainedUnit]
  | true =>
    obtain ⟨hre, htx, harm, hr, ho'⟩ := unitDrained_reopened (by rw [hx]; exact hen) hrx'
    have hcfg : unitCfg (timedOut { s with time := { s.time with now := n } } k) k = unitCfg s k := ho.frame (unitCfg · k) fun _ _ _ _ => rfl
    refine ⟨htx, harm, hr, hi, hle (ho.trans ho'), (ho.trans ho').1, (ho.trans ho').sameMemory, fun h => absurd h (by decide), fun _ => ?_⟩
    unfold Reopened at hre ⊢
    rwa [hcfg, hx] at hre

/-! The window (R379) and what links, PHYs and buses bring (R385, R390, R391). -/
/-- A command that R379 ignores. -/
def Ignored (s u : State) (k : Nat) : Prop :=
  unitOf u k = { unitOf s k with code := 3 } ∧ u.reg.rsvd = true ∧ Signals s u k ∧ OtherUnits s u k ∧ SameMemory s u
theorem cmdBad_ignored (s : State) (k : Nat) : Ignored s (cmdBad s k) k := by
  obtain ⟨hs, hx, ho⟩ := unitNote_effect (s := s) (t := setRsvd s) k 3 false rfl rfl
  refine ⟨hx.trans ?_, ho.frame (·.reg.rsvd) fun _ _ _ _ => rfl, hs, ho.1, ho.sameMemory⟩
  rw [Bool.or_false]
  rfl
theorem is_setUnit (s : State) (k : Nat) (y : DUnit) : unitOf (setUnit s k y) k = y ∧ OnlyUnit s (setUnit s k y) k :=
  ⟨unitOf_setUnit_same s k y, onlyUnit_setUnit s k y⟩
/-- FLUSH_TX of a unit that sends, for which no context waits. -/
theorem cmdFlushTx_effect {s : State} {k : Nat} (hcls : canSend (unitClass k) = true) (hn : NoWaiters s k) : let u := cmdFlushTx k s
    Signals s u k ∧ (unitOf u k = { unitOf s k with tx := [], armed := [], code := 0x13 } ∧ OnlyUnit s u k) ∧
      imr u (aUnit k (0x20 + 4 * cntFlush (unitClass k))) =
        satAdd (imr s (aUnit k (0x20 + 4 * cntFlush (unitClass k)))) ((unitOf s k).tx.length + (unitOf s k).armed.length) := by
  obtain ⟨-, htx, hw⟩ := hn
  obtain ⟨hs, hx, ho, hcnt⟩ := flushAll_effect (s := s) (k := k) 0x1C 0x13 false hw
  rw [Bool.or_false] at hx
  have hu : cmdFlushTx k s = unitNote (flushTx s k (fun _ => true) true 0x1C) k 0x13 false :=
    (if_pos hcls).trans (serveWaiters_none (ho.txWaiters.trans htx))
  rw [hu]
  exact ⟨hs, ⟨hx, ho⟩, hcnt⟩
theorem doMdioDone_write {s : State} {k : Nat} {d : Half} (phy : Option Half) (h : (unitOf s k).mdio = some (true, d)) :
    doMdioDone phy k s = setUnit s k { unitOf s k with mdio := none, mdioData := d, mdioDone := true } := by
  unfold doMdioDone
  dsimp only
  rw [h]
theorem doMdioDone_answered {s : State} {k : Nat} {d : Half} (e : Half) (h : (unitOf s k).mdio = some (false, d)) :
    doMdioDone (some e) k s = setUnit s k { unitOf s k with mdio := none, mdioData := e, mdioDone := true } := by
  unfold doMdioDone
  dsimp only
  rw [h]
theorem doMdioDone_silent {s : State} {k : Nat} {d : Half} (h : (unitOf s k).mdio = some (false, d)) : let u := doMdioDone none k s
    Signals s u k ∧ unitOf u k = { unitOf s k with mdio := none, mdioData := 0xFFFF, mdioDone := true, code := 0x12 } ∧ OnlyUnit s u k := by
  have hu : doMdioDone none k s = unitNote (setUnit s k { unitOf s k with mdio := none, mdioData := 0xFFFF, mdioDone := true }) k 0x12 false := by
    unfold doMdioDone
    dsimp only
    rw [h]
  obtain ⟨hs, hx, ho⟩ := unitNote_effect (s := s) (t := setUnit s k { unitOf s k with mdio := none, mdioData := 0xFFFF, mdioDone := true }) k 0x12 false rfl rfl
  rw [unitOf_setUnit_same, Bool.or_false] at hx
  rw [hu]
  exact ⟨hs, hx, (onlyUnit_setUnit s k _).trans ho⟩
/-- A condition with its count, on a unit that has been written. -/
theorem unitNote_unitCount_setUnit (s : State) (k i code : Nat) (y : DUnit) : let u := unitNote (unitCount (setUnit s k y) k i) k code true
    Signals s u k ∧ imr u (aUnit k (0x20 + 4 * i)) = satAdd (imr s (aUnit k (0x20 + 4 * i))) 1 ∧ unitOf u k = { y with code := BitVec.ofNat 5 code, attn := true } ∧
      OnlyUnit s u k := by
  obtain ⟨hs, hx, ho⟩ := unitNote_effect (s := s) (t := unitCount (setUnit s k y) k i) k code true rfl rfl
  have hy : unitOf (unitCount (setUnit s k y) k i) k = y := unitOf_setUnit_same s k y
  rw [hy, Bool.or_true] at hx
  exact ⟨hs, (unitNote_imr _ _ _ _ _).trans (imr_unitCount (setUnit s k y) k i 1), hx, (onlyUnit_setUnit s k y).trans ((onlyUnit_unitCount _ k i 1).trans ho)⟩
theorem follower_iff (s : State) (k : Nat) : follower s k = true ↔
    unitClass k = 1 ∧ (unitOf s k).st ≠ .disabled ∧ (unitSet s k 0).getLsbD 0 = true ∧ (unitSet s k 0).extractLsb' 8 8 ≠ 0 := by
  simp only [follower, Bool.and_eq_true, decide_eq_true_eq, bit, ne_eq, fld_eq_zero, and_assoc]
/-- The gated class clock carries out no event of a unit (R498). -/
theorem gated_list {s : State} {v : BitVec 7} (h : unitClk s v.toNat = false) (phy : Option Half) (n : Byte) (up : Bool) (rate : BitVec 2) :
    ∀ c ∈ [Instr.unitDrainEnd v, .busOffRecovery v, .mdioDone v phy, .plcaLost v, .plcaBeaconReturn v n, .mgLinkChange v up rate, .launchTime v,
      .recordTransmit v ⟨up, 0⟩, .compareEdge v, .captureEdge v { level := up }], exec c s = .next s := by
  have hclass : ∀ f, onClass v.toNat f s = .next s := fun f => onClass_gated f s h
  have hunit : ∀ f, onUnitClk v f s = .next s := fun f => onUnitClk_gated f s h
  simp only [List.forall_mem_cons, List.not_mem_nil, false_implies, implies_true, and_true]
  exact ⟨hclass _, hunit _, hunit _, hunit _, hunit _, hunit _, hclass _, hclass _, hclass _, hclass _⟩

/-- What the end of the drain of a unit leaves when no enable is pending. -/
theorem unitDrained_disabled_effect {s : State} {k : Nat} (hen : (unitOf s k).enPend = false) (hrx : rxWaiters s k = []) : let u := unitDrained s k
    OnlyUnit s u k ∧ unitOf u k = drainedUnit (unitOf s k) ∧ ((act s (aUnit k 0)).getLsbD 2 = true → Fired s u (0x400 + k) ((portSts u k).setWidth 32)) ∧
      ((act s (aUnit k 0)).getLsbD 2 = false → ∀ m, evSrc u m = evSrc s m) ∧
      (unitClass k = 7 → pinLevel u k = match ((unitCfg s k 0).extractLsb' 12 2).toNat with | 0 => false | 1 => true | _ => (unitOf s k).level) := by
  obtain ⟨hx, ho, hf, hno⟩ := unitPulse_effect (s := s) (t := setUnit s k (drainedUnit (unitOf s k))) k rfl rfl rfl rfl
  rw [unitOf_setUnit_same] at hx
  have hcfg : unitCfg (unitPulse (setUnit s k (drainedUnit (unitOf s k))) k) k = unitCfg s k := ho.frame (unitCfg · k) fun _ _ _ _ => rfl
  rw [unitDrained_disabled hen hrx]
  refine ⟨(onlyUnit_setUnit s k _).trans ho, hx, hf, hno, fun hcls => ?_⟩
  rw [pinLevel_disabled hcls (by rw [hx]; rfl) (by rw [hx]; rfl), hcfg, hx]
  rfl
theorem cmdMdio_eq {s : State} {k : Nat} (wr : Bool) (h : unitClass k = 1 ∨ unitClass k = 2) :
    cmdMdio wr k s = setUnit s k { unitOf s k with mdio := some (wr, (unitOf s k).arg1.extractLsb' 16 16), mdioDone := false } := by
  unfold cmdMdio
  dsimp only
  rw [if_neg (by omega), ofNat_fld]
theorem cmdWake_eq {s : State} {k : Nat} (h6 : unitClass k = 6) (hlo : 250 ≤ ((unitOf s k).arg0.extractLsb' 0 13).toNat)
    (hhi : ((unitOf s k).arg0.extractLsb' 0 13).toNat ≤ 5000) : cmdWake k s = setUnit s k { unitOf s k with linSt := 0 } := by
  unfold cmdWake
  dsimp only
  rw [fld_eq_extract, if_neg (by omega)]
theorem cmdWake_bad {s : State} {k : Nat}
    (h : unitClass k ≠ 6 ∨ ((unitOf s k).arg0.extractLsb' 0 13).toNat < 250 ∨ 5000 < ((unitOf s k).arg0.extractLsb' 0 13).toNat) : cmdWake k s = cmdBad s k := by
  unfold cmdWake
  dsimp only
  rw [fld_eq_extract, if_pos h]
theorem cmdLevel_drives {s : State} {k : Nat} (h7 : unitClass k = 7) (hm : fld (unitSet s k 0) 0 2 = 1 ∨ fld (unitSet s k 0) 0 2 = 3) :
    cmdLevel k s = if (unitOf s k).st = .disabled then s else setUnit s k { unitOf s k with level := (unitOf s k).arg0.getLsbD 0 } := by
  unfold cmdLevel
  dsimp only
  rw [if_neg (by omega)]
  rfl
/-- A USXGMII link that comes up, at the forced rate or the one negotiated. -/
theorem doMgLink_up {s : State} {k : Nat} (rate : BitVec 2) (h2 : unitClass k = 2) (hst : (unitOf s k).st ≠ .disabled) (hlk : (unitOf s k).link = 0) :
    doMgLink true rate k s =
      setUnit s k { unitOf s k with link := if ((unitSet s k 0).extractLsb' 0 2).toNat = 0 then rate else (unitSet s k 0).extractLsb' 0 2 } := by
  unfold doMgLink
  dsimp only
  rw [if_neg (by simp [h2, hst]), if_pos rfl, if_pos hlk, ofNat_fld, fld_eq_extract]
theorem doMgLink_down {s : State} {k : Nat} (rate : BitVec 2) (h2 : unitClass k = 2) (hst : (unitOf s k).st ≠ .disabled) (hlk : (unitOf s k).link ≠ 0) :
    doMgLink false rate k s = unitNote (unitCount (setUnit s k { unitOf s k with link := 0 }) k 4) k 8 true := by
  unfold doMgLink
  dsimp only
  rw [if_neg (by simp [h2, hst]), if_neg (by decide), if_neg hlk]

/-- Settles O48: each command by what it makes of its unit. -/
theorem devicePortUnitsFollowTheirCommands : Obligations.DevicePortUnitsFollowTheirCommands := by
  intro s v lvl phy n up rate hc hv k x cls is count ignored discards mode clk reopened follows
  have hbad : ∀ {c : Instr}, exec c s = .next (cmdBad s k) → ignored c := fun h => ⟨_, h, cmdBad_ignored s k⟩
  have hmode : fld (unitSet s k 0) 0 2 = mode := fld_eq_extract _ _ _
  refine ⟨fun hl => ⟨fun hst hcfg => ?_, fun hst hcfg => ?_, fun hst hcfg => ?_, fun hst hcfg => ?_, fun hst => ?_, fun hst hn => ?_, fun hst => ?_⟩,
    fun hk hst htx harm hn => ?_, fun hst ht hn => ?_, ?_, ?_, fun hs hn => ?_, fun hs => ?_, fun h0 h2 => ?_, fun h0 h2 => ?_, fun h0 => ?_,
    fun hk h0 h2 hr => ?_, fun h12 => ?_, fun h12 => ?_, fun h1 h2 => ⟨?_, ?_⟩, fun d hk hm => ?_, fun d e hk hm hp => ?_, fun d hk hm hp => ?_,
    ⟨fun h6 hlo hhi => ?_, fun h6 => ?_⟩, fun h7 hmd hst => ?_, fun h7 hmd hst => ?_, fun h7 => ?_, fun hf hr => ?_, fun hf => ?_, fun hk h2 hst hlk hup => ?_,
    fun hk h2 hst hlk hup => ?_, fun hk => gated_list hk phy n up rate, fun hk r e pid => ⟨onClass_gated _ s hk, onClass_gated _ s hk, onClass_gated _ s hk⟩⟩
  · obtain ⟨hs, hx, ho⟩ := unitEnter_effect (s := s) (t := s) k (unitCfgs s k) false rfl rfl
    exact ⟨_, onReg_reaches _ hc hl, unitEnable_disabled_good hv hst hcfg ▸ ⟨hs, hx, ho⟩⟩
  · exact ⟨_, onReg_reaches _ hc hl, unitEnable_disabled_bad hv hst hcfg ▸ is_setUnit s k _⟩
  · exact ⟨_, onReg_reaches _ hc hl, unitEnable_draining_good hv hst hcfg ▸ is_setUnit s k _⟩
  · exact ⟨_, onReg_reaches _ hc hl, unitEnable_draining_bad hv hst hcfg ▸ is_setUnit s k _⟩
  · exact (onReg_reaches _ hc hl).trans (congrArg _ (unitEnable_active hv hst))
  · exact ⟨_, onReg_reaches _ hc hl, unitDisable_active_effect hv hst hn⟩
  · exact ⟨_, onReg_reaches _ hc hl, unitDisable_draining hv hst ▸ is_setUnit s k _⟩
  · obtain ⟨hrx, -, -⟩ := hn
    refine ⟨_, onClass_runs _ hc hk, ?_⟩
    have hu : doDrainEnd k s = unitDrained s k := if_pos ⟨hv, hst, htx, harm⟩
    rw [hu]
    cases hen : x.enPend with
    | false =>
      obtain ⟨ho, hx, hf, hno, hpin⟩ := unitDrained_disabled_effect hen hrx
      exact ⟨ho, (congrArg DUnit.rx hx :), fun _ => ⟨(congrArg DUnit.st hx :), (congrArg DUnit.applied hx :), (congrArg DUnit.link hx :), hf, hno, hpin⟩,
        fun h => absurd h (by decide)⟩
    | true =>
      obtain ⟨hre, -, -, hr, ho⟩ := unitDrained_reopened hen hrx
      exact ⟨ho, hr, fun h => absurd h (by decide), fun _ => hre⟩
  · exact ⟨_, onCore_on _ hc, doDrainTmo_effect hv hst ht hn⟩
  · exact ⟨_, onUnit_ok _ hc hv, unitSignal_setUnit k _ rfl rfl⟩
  · exact ⟨_, onUnit_ok _ hc hv, fun _ => rfl, is_setUnit s k _⟩
  · exact ⟨_, onUnit_ok _ hc hv, cmdFlushTx_effect hs hn⟩
  · exact hbad ((onUnit_ok _ hc hv).trans (congrArg _ (if_neg (by rw [hs]; decide))))
  · exact ⟨_, (onUnit_ok _ hc hv).trans (congrArg _ ((if_neg (not_not.mpr h0)).trans (if_pos h2))), is_setUnit s k _⟩
  · exact (onUnit_ok _ hc hv).trans (congrArg _ ((if_neg (not_not.mpr h0)).trans (if_neg h2)))
  · exact hbad ((onUnit_ok _ hc hv).trans (congrArg _ (if_pos h0)))
  · exact ⟨_, (onUnitClk_runs _ hc hv hk).trans (congrArg _ (if_pos ⟨h2, hr, h0⟩)), is_setUnit s k _⟩
  · exact ⟨_, onUnit_ok _ hc hv, cmdMdio_eq false h12 ▸ is_setUnit s k _⟩
  · exact ⟨_, onUnit_ok _ hc hv, cmdMdio_eq true h12 ▸ is_setUnit s k _⟩
  · exact hbad ((onUnit_ok _ hc hv).trans (congrArg _ (if_pos ⟨h1, h2⟩)))
  · exact hbad ((onUnit_ok _ hc hv).trans (congrArg _ (if_pos ⟨h1, h2⟩)))
  · exact ⟨_, onUnitClk_runs _ hc hv hk, doMdioDone_write phy hm ▸ is_setUnit s k _⟩
  · subst hp
    exact ⟨_, onUnitClk_runs _ hc hv hk, doMdioDone_answered e hm ▸ is_setUnit s k _⟩
  · subst hp
    exact ⟨_, onUnitClk_runs _ hc hv hk, doMdioDone_silent hm⟩
  · exact ⟨_, onUnit_ok _ hc hv, cmdWake_eq h6 hlo hhi ▸ is_setUnit s k _⟩
  · exact hbad ((onUnit_ok _ hc hv).trans (congrArg _ (cmdWake_bad h6)))
  · exact ⟨_, (onUnit_ok _ hc hv).trans (congrArg _ ((cmdLevel_drives h7 (hmode ▸ hmd)).trans (if_neg hst))), is_setUnit s k _⟩
  · exact (onUnit_ok _ hc hv).trans (congrArg _ ((cmdLevel_drives h7 (hmode ▸ hmd)).trans (if_pos hst)))
  · exact hbad ((onUnit_ok _ hc hv).trans (congrArg _ (if_pos (hmode ▸ h7))))
  · obtain ⟨hk, hf⟩ := hf
    have hu : doPlcaLost k s = unitNote (unitCount (setUnit s k { x with beacons := false, recovering := true }) k 5) k 7 true :=
      if_pos ⟨(follower_iff s k).mpr hf, by rw [show (unitOf s k).recovering = false from hr]; rfl⟩
    exact ⟨_, onUnitClk_runs _ hc hv hk, hu ▸ unitNote_unitCount_setUnit s k 5 7 _⟩
  · obtain ⟨hk, hf⟩ := hf
    exact ⟨_, (onUnitClk_runs _ hc hv hk).trans (congrArg _ (if_pos ((follower_iff s k).mpr hf))), is_setUnit s k _⟩
  · subst hup
    exact ⟨_, onUnitClk_runs _ hc hv hk, doMgLink_up rate h2 hst hlk ▸ is_setUnit s k _⟩
  · subst hup
    exact ⟨_, onUnitClk_runs _ hc hv hk, doMgLink_down rate h2 hst hlk ▸ unitNote_unitCount_setUnit s k 4 8 _⟩

end Sys2Proof.Machine
end

section
/-! The canonical form of memory (Sparse) through stores, the erasing of flash and resets (R24, R441, R454, R491, R492). -/
namespace Sys2Proof.Machine

/-! Defaults that change beside the table. -/
/-- The canonical form depends on the defaults of the listed keys alone. -/
theorem swfFrom_congr {α : Type} [DecidableEq α] {d d' : Nat → α} {a : Nat} {m : Sparse α} (h : ∀ e ∈ m, d' e.1 = d e.1) :
    swfFrom d' a m = swfFrom d a m := by
  induction m generalizing a with
  | nil => rfl
  | cons e m ih =>
    obtain ⟨hd, htl⟩ := List.forall_mem_cons.mp h
    simp only [swfFrom, hd, ih htl]
/-- A filter keeps the canonical form for new defaults that agree with the old ones on the keys it lets through. -/
theorem swf_filter_congr {α : Type} [DecidableEq α] {d d' : Nat → α} {p : Nat × α → Bool} {m : Sparse α} (h : ∀ e, p e = true → d' e.1 = d e.1)
    (hm : swf d m = true) : swf d' (m.filter p) = true :=
  (swfFrom_congr fun e he => h e (List.mem_filter.mp he).2).trans (swfFrom_filter d p 0 m hm)

/-! Stores (R441, R442, R523). -/
theorem memWf_healWords (s : State) (k n : Nat) : memWf (healWords s k n) = memWf s := by
  obtain ⟨l, h⟩ := healWords_eq s k n
  rw [h]
  rfl
theorem memWf_dropCorr (s : State) (k n : Nat) : memWf (dropCorr s k n) = memWf s := by
  obtain ⟨l, h⟩ := dropCorr_eq s k n
  rw [h]
  rfl
theorem memWf_rsvdIf (f : Bool) (s : State) : memWf (rsvdIf f s) = memWf s := by
  rw [rsvdIf_eq]
  rfl
theorem memWf_storeBytes (ag : Agent) (lvl : Lvl) (s : State) (a : Nat) (bs : List Byte) (h : memWf s = true) :
    memWf (storeBytes s ag lvl a bs) = true := by
  unfold storeBytes
  split
  case h_1 k _ =>
    rw [memWf_rsvdIf]
    exact memWf_wrBytes ag lvl bs _ a (by rwa [memWf_dropCorr, memWf_healWords])
  case h_2 => exact memWf_wrBytes ag lvl bs s a h

/-! Erasing and resets (R454, R472, R492). -/
theorem memWf_eraseSlot (s : State) (n : Nat) (h : memWf s = true) : memWf (eraseSlot s n) = true :=
  swf_filter_congr (fun _ _ => rfl) h
theorem memWf_evLevel (s : State) (n : Nat) (b : Bool) (info : Word) : memWf (evLevel s n b info) = memWf s :=
  evLevel_frame memWf s n b info fun _ => rfl
theorem memWf_levelsReset (s : State) (h : memWf s = true) : memWf (levelsReset s) = true :=
  List.foldlRecOn _ _ (motive := fun t => memWf t = true)
    (List.foldlRecOn _ _ (motive := fun t => memWf t = true) h fun t ht _ _ => (memWf_evLevel t _ _ _).trans ht)
    fun t ht _ _ => (memWf_evLevel t _ _ _).trans ht
/-- A byte that survives a reset has the default that it had: flash reads erased at any time, and that of DRAM depends only on how often PORST_N
has come. -/
theorem memDefault_kept {por : Bool} {k : Nat} (e e' p : Nat) (h : keptMem por k = true) :
    memDefault e' (if por then p + 1 else p) k = memDefault e p k := by
  simp only [keptMem, Bool.or_eq_true, Bool.and_eq_true, Bool.not_eq_true', decide_eq_true_eq] at h
  obtain ⟨hlo, hhi⟩ | ⟨hpor, hdram⟩ := h
  · exact (memDefault_flash _ _ k hlo hhi).trans (memDefault_flash _ _ k hlo hhi).symm
  · have horch : ¬(0x2_0000_0000 ≤ k ∧ k < 0x2_0200_0000) := by omega
    simp [memDefault, hpor, hdram, horch]
theorem memReset_por (por : Bool) (m : Memc) : (memReset por m).por = if por then m.por + 1 else m.por := by
  cases por <;> rfl
/-- What a reset keeps of a canonical memory is canonical by the defaults after the reset. -/
theorem memWf_of_kept {por : Bool} {s t : State} (hmem : t.mem = s.mem.filter fun e => keptMem por e.1) (hpor : t.memc.por = (memReset por s.memc).por)
    (h : memWf s = true) : memWf t = true := by
  unfold memWf
  rw [hmem]
  refine swf_filter_congr (fun e he => ?_) h
  rw [memDef, hpor, memReset_por]
  exact memDefault_kept _ _ _ he
/-- The slot of an update in progress is erased before the reset keeps what it keeps. -/
theorem memWf_resetState (por aon : Bool) (s : State) (h : memWf s = true) : memWf (resetState por aon s) = true := by
  unfold resetState
  refine memWf_levelsReset _ ?_
  split
  · next u _ => exact memWf_of_kept rfl rfl (memWf_eraseSlot s u.slot.toNat h)
  · exact memWf_of_kept rfl rfl h

/-- Settles O59: each operation by its own law. -/
theorem memoryOperationsKeepTheCanonicalForm : Obligations.MemoryOperationsKeepTheCanonicalForm := fun s h =>
  ⟨fun k b => memWf_memSet s k b h, fun ag lvl a bs => memWf_wrBytes ag lvl bs s a h, fun ag lvl a bs => memWf_storeBytes ag lvl s a bs h,
    fun n k => memWf_undefBytes n k s h, fun a bs => memWf_programFlash bs a s h, fun n => memWf_eraseSlot s n h,
    fun por aon => memWf_resetState por aon s h⟩

end Sys2Proof.Machine
end

section
/-! What the operations on one context leave alone: saves, slots, waits and wakes (R170, R177, R187), and the grant of channels (R206, R216). -/
namespace Sys2Proof.Machine

/-! One context. -/
/-- u with the live words, the records, the slots, the register sets, what the device keeps for threads, the ages, and the errors that memory
notes as in s. -/
def ctxBack (s u : State) : State :=
  { u with
    gal := { u.gal with live := s.gal.live, recs := s.gal.recs }
    eng := { u.eng with occ := s.eng.occ, slots := s.eng.slots, thr := s.eng.thr }
    memc := { u.memc with upset := s.memc.upset, corr := s.memc.corr }
    stamp := s.stamp }
/-- Nothing has changed but what the device holds of context c, its slot, the ages, and the errors that memory notes of its record. -/
structure CtxOnly (s u : State) (c : CtxId) : Prop where
  rest : ctxBack s u = s
  live : OtherLive s u c
  threads : OtherThreads s u (.ctx c)

theorem CtxOnly.refl (s : State) (c : CtxId) : CtxOnly s s c := ⟨rfl, fun _ _ => rfl, fun _ _ => ⟨rfl, rfl⟩⟩
theorem CtxOnly.trans {s u w : State} {c : CtxId} (h : CtxOnly s u c) (h' : CtxOnly u w c) : CtxOnly s w c where
  rest := by
    have e : ctxBack s w = ctxBack s (ctxBack u w) := rfl
    rw [e, h'.rest, h.rest]
  live d hd := (h'.live d hd).trans (h.live d hd)
  threads v hv := ⟨(h'.threads v hv).1.trans (h.threads v hv).1, (h'.threads v hv).2.trans (h.threads v hv).2⟩
/-- What reads none of that is as it was. -/
theorem CtxOnly.frame {α : Type} (f : State → α) {s u : State} {c : CtxId} (h : CtxOnly s u c) (hf : f (ctxBack s u) = f u) : f u = f s :=
  hf.symm.trans (congrArg f h.rest)
theorem CtxOnly.sameMemory {s u : State} {c : CtxId} (h : CtxOnly s u c) : SameMemory s u := fun k => h.frame (memGet · k) rfl
theorem CtxOnly.mov {s u : State} {c : CtxId} (h : CtxOnly s u c) : u.mov = s.mov := h.frame State.mov rfl
theorem CtxOnly.dpt {s u : State} {c : CtxId} (h : CtxOnly s u c) : u.dpt = s.dpt := h.frame State.dpt rfl

/-! The parts of a context. -/
theorem CtxOnly.setThr (s : State) (c : CtxId) (x : Thr) : CtxOnly s (setThr s (.ctx c) x) c :=
  ⟨rfl, fun _ _ => rfl, otherThreads_setThr s s _ x fun _ _ => ⟨rfl, rfl⟩⟩
theorem CtxOnly.setLive (s : State) (c : CtxId) (l : Live) : CtxOnly s (setLive s c l) c :=
  ⟨rfl, liveOf_setLive_other s c l, fun v _ => ⟨by cases v <;> rfl, rfl⟩⟩
theorem CtxOnly.setSt (s : State) (c : CtxId) (st : CtxState) (k : BitVec 4) : CtxOnly s (setSt s c st k) c := .setLive s c _
theorem tkey_ctx_ne {v : Thread} {c : CtxId} (h : v ≠ .ctx c) : tkey v ≠ c.toNat := fun e => h (tkey_inj v (.ctx c) e)
theorem regsOf_setSlotRegs_other (s : State) (c : CtxId) (r : Option Regs) (v : Thread) (h : v ≠ .ctx c) :
    regsOf (setSlotRegs s c.toNat r) v = regsOf s v := by
  have hs : slotRegs (setSlotRegs s c.toNat r) (tkey v) = slotRegs s (tkey v) := slotRegs_setSlotRegs_ne s _ _ r (tkey_ctx_ne h)
  cases v with
  | ctx d => exact congrArg (·.getD (recOf s d)) hs
  | mp n => exact congrArg (·.getD {}) hs
theorem CtxOnly.setSlotRegs (s : State) (c : CtxId) (r : Option Regs) : CtxOnly s (setSlotRegs s c.toNat r) c :=
  ⟨rfl, fun _ _ => rfl, fun v hv => ⟨regsOf_setSlotRegs_other s c r v hv, rfl⟩⟩
theorem regsOf_setRec_other (s : State) (c : CtxId) (r : Regs) (v : Thread) (h : v ≠ .ctx c) : regsOf (setRec s c r) v = regsOf s v := by
  cases v with
  | ctx d => exact congrArg ((slotRegs s d.toNat).getD ·) (recOf_setRec_other s c r d fun e => h (e ▸ rfl))
  | mp n => rfl
theorem CtxOnly.setRec (s : State) (c : CtxId) (r : Regs) : CtxOnly s (setRec s c r) c :=
  ⟨rfl, fun _ _ => rfl, fun v hv => ⟨regsOf_setRec_other s c r v hv, rfl⟩⟩
theorem CtxOnly.putRegs (s : State) (c : CtxId) (r : Regs) : CtxOnly s (putRegs s (.ctx c) r) c := by
  unfold Machine.putRegs
  dsimp only
  split
  · exact .setSlotRegs s c _
  · exact (CtxOnly.setSlotRegs s c none).trans (.setRec _ c r)
theorem CtxOnly.setRegs (s : State) (c : CtxId) (r : Regs) : CtxOnly s (setRegs s (.ctx c) r) c := by
  obtain h | ⟨x, h⟩ := setRegs_cases s (.ctx c) r <;> rw [h]
  · exact .putRegs s c r
  · exact (CtxOnly.setThr s c x).trans (.putRegs _ c r)
/-- A save ends the errors of the words that it writes and the corrections that wait for them, and no more. -/
theorem healRec_eq (s : State) (c : CtxId) : ∃ l m, healRec s c = { s with memc := { s.memc with upset := l, corr := m } } := by
  obtain ⟨l, hl⟩ := healWords_eq s (recKey c 0) 216
  obtain ⟨l', hl'⟩ := healWords_eq (healWords s (recKey c 0) 216) (recKey c 28) 8
  obtain ⟨m, hm⟩ := dropCorr_eq (healWords (healWords s (recKey c 0) 216) (recKey c 28) 8) (recKey c 0) 232
  exact ⟨l', m, by rw [healRec, hm, hl', hl]⟩
theorem CtxOnly.healRec (s : State) (c : CtxId) : CtxOnly s (healRec s c) c := by
  obtain ⟨l, m, h⟩ := healRec_eq s c
  rw [h]
  exact ⟨rfl, fun _ _ => rfl, fun v _ => ⟨by cases v <;> rfl, rfl⟩⟩

/-! Saves and slots (R170, R187). -/
theorem CtxOnly.saveRec (s : State) (c : CtxId) (st : CtxState) : CtxOnly s (saveRec s c st) c := by
  unfold Machine.saveRec
  split
  · exact ((CtxOnly.setThr s c _).trans (.healRec _ c)).trans (.setRec _ c _)
  · exact .refl s c
theorem CtxOnly.dropRegs (s : State) (c : CtxId) : CtxOnly s (dropRegs s c) c := (CtxOnly.setThr s c _).trans (.setSlotRegs _ c none)
theorem CtxOnly.leaveSlot (s : State) (c : CtxId) : CtxOnly s (leaveSlot s c) c := by
  unfold Machine.leaveSlot
  refine CtxOnly.trans ?_ (.dropRegs _ c)
  split
  · exact ⟨rfl, fun _ _ => rfl, fun v _ => ⟨by cases v <;> rfl, rfl⟩⟩
  · exact .refl s c
theorem CtxOnly.loadRec (s : State) (c : CtxId) : CtxOnly s (loadRec s c) c := by
  have h : CtxOnly s (boundLvl s c) c := by
    unfold boundLvl
    dsimp only
    split
    · exact .refl s c
    · exact .setRec s c _
  exact h.trans (.setSlotRegs _ c _)

/-! What the device keeps for a context through a save. -/
@[simp] theorem thrOf_setLive (s : State) (c : CtxId) (l : Live) (v : Thread) : thrOf (setLive s c l) v = thrOf s v := rfl
@[simp] theorem thrOf_setSt (s : State) (c : CtxId) (st : CtxState) (k : BitVec 4) (v : Thread) : thrOf (setSt s c st k) v = thrOf s v := rfl
@[simp] theorem regsOf_setLive (s : State) (c : CtxId) (l : Live) (v : Thread) : regsOf (setLive s c l) v = regsOf s v := by cases v <;> rfl
@[simp] theorem regsOf_setSt (s : State) (c : CtxId) (st : CtxState) (k : BitVec 4) (v : Thread) : regsOf (setSt s c st k) v = regsOf s v := by
  cases v <;> rfl
@[simp] theorem liveOf_setSt_same (s : State) (c : CtxId) (st : CtxState) (k : BitVec 4) :
    liveOf (setSt s c st k) c = { liveOf s c with st := st, waitk := k } := liveOf_setLive_same s c _
@[simp] theorem liveOf_setThr (s : State) (t : Thread) (x : Thr) (c : CtxId) : liveOf (setThr s t x) c = liveOf s c := rfl
@[simp] theorem liveOf_putRegs (s : State) (t : Thread) (r : Regs) (c : CtxId) : liveOf (putRegs s t r) c = liveOf s c := by
  cases t with
  | mp n => rfl
  | ctx d =>
    simp only [putRegs]
    split <;> rfl
@[simp] theorem liveOf_setRegs (s : State) (t : Thread) (r : Regs) (c : CtxId) : liveOf (setRegs s t r) c = liveOf s c := by
  obtain h | ⟨x, h⟩ := setRegs_cases s t r <;> rw [h, liveOf_putRegs]
  rfl
theorem saveRec_some {s : State} {c : CtxId} {r : Regs} (st : CtxState) (h : slotRegs s c.toNat = some r) : ∃ v w,
    saveRec s c st = setRec (healRec (setThr s (.ctx c) { thrOf s (.ctx c) with saved := v }) c) c
      { settleRegs (thrOf s (.ctx c)) r with stb := BitVec.ofNat 8 (stCode st), waitw := w } := by
  unfold saveRec
  rw [h]
  exact ⟨_, _, rfl⟩
theorem saveRec_none {s : State} {c : CtxId} (st : CtxState) (h : slotRegs s c.toNat = none) : saveRec s c st = s := by
  unfold saveRec
  rw [h]
theorem thrOf_healRec (s : State) (c : CtxId) (v : Thread) : thrOf (healRec s c) v = thrOf s v := by
  obtain ⟨l, m, h⟩ := healRec_eq s c
  rw [h]
  rfl
/-- A save changes of what the device keeps for a context only what the save itself keeps. -/
theorem thrOf_saveRec (s : State) (c : CtxId) (st : CtxState) : ∃ v, thrOf (saveRec s c st) (.ctx c) = { thrOf s (.ctx c) with saved := v } := by
  cases h : slotRegs s c.toNat with
  | none => exact ⟨(thrOf s (.ctx c)).saved, by rw [saveRec_none st h]⟩
  | some r =>
    obtain ⟨v, w, e⟩ := saveRec_some st h
    exact ⟨v, by rw [e]; exact (thrOf_healRec _ c _).trans (thrOf_setThr_same s _ _)⟩
theorem liveOf_healRec (s : State) (c d : CtxId) : liveOf (healRec s c) d = liveOf s d := by
  obtain ⟨l, m, h⟩ := healRec_eq s c
  rw [h]
  rfl
theorem liveOf_saveRec (s : State) (c d : CtxId) (st : CtxState) : liveOf (saveRec s c st) d = liveOf s d := by
  cases h : slotRegs s c.toNat with
  | none => rw [saveRec_none st h]
  | some r =>
    obtain ⟨v, w, e⟩ := saveRec_some st h
    rw [e]
    exact liveOf_healRec _ c d
/-- The registers that a save settles keep every register but the general ones and ML and MH. -/
theorem settleRegs_pc (x : Thr) (r : Regs) : (settleRegs x r).pc = r.pc := by
  have hl : (x.loads.foldl (fun r l => r.setG l.1 l.2) r).pc = r.pc :=
    List.foldlRecOn x.loads _ (motive := fun q : Regs => q.pc = r.pc) rfl fun _ hq _ _ => hq
  unfold settleRegs
  dsimp only
  split <;> exact hl
theorem recOf_saveRec_pc (s : State) (c : CtxId) (st : CtxState) : (recOf (saveRec s c st) c).pc = (regsOf s (.ctx c)).pc := by
  cases h : slotRegs s c.toNat with
  | none =>
    rw [saveRec_none st h, regsOf, h]
    rfl
  | some r =>
    obtain ⟨v, w, e⟩ := saveRec_some st h
    rw [e, recOf_setRec_same, regsOf, h]
    exact settleRegs_pc _ _
theorem thrOf_dropRegs (s : State) (c : CtxId) : thrOf (dropRegs s c) (.ctx c) = { thrOf s (.ctx c) with loads := [], md := none } :=
  thrOf_setThr_same s _ _
theorem regsOf_dropRegs (s : State) (c : CtxId) : regsOf (dropRegs s c) (.ctx c) = recOf s c := by
  have h : slotRegs (dropRegs s c) c.toNat = none := slotRegs_setSlotRegs_same _ _ _
  rw [regsOf, h]
  rfl
theorem leaveSlot_eq (s : State) (c : CtxId) : ∃ l, leaveSlot s c = dropRegs { s with eng := { s.eng with occ := l } } c := by
  unfold leaveSlot
  split
  · exact ⟨_, rfl⟩
  · exact ⟨s.eng.occ, rfl⟩
theorem thrOf_leaveSlot (s : State) (c : CtxId) : thrOf (leaveSlot s c) (.ctx c) = { thrOf s (.ctx c) with loads := [], md := none } := by
  obtain ⟨l, h⟩ := leaveSlot_eq s c
  rw [h]
  exact thrOf_dropRegs _ c
theorem liveOf_leaveSlot (s : State) (c d : CtxId) : liveOf (leaveSlot s c) d = liveOf s d := by
  obtain ⟨l, h⟩ := leaveSlot_eq s c
  rw [h]
  rfl
theorem regsOf_leaveSlot (s : State) (c : CtxId) : regsOf (leaveSlot s c) (.ctx c) = recOf s c := by
  obtain ⟨l, h⟩ := leaveSlot_eq s c
  rw [h]
  exact regsOf_dropRegs _ c

/-! Waits (R43, R127, R177). -/
theorem CtxOnly.beginWait (s : State) (c : CtxId) (k : BitVec 4) (w : Wait) : CtxOnly s (beginWait s c k w) c := by
  unfold Machine.beginWait
  refine CtxOnly.trans ?_ (.setSt _ c .waiting k)
  split
  · exact .setThr s c _
  · exact ((CtxOnly.setThr s c _).trans (.saveRec _ c _)).trans (.leaveSlot _ c)
theorem liveOf_beginWait (s : State) (c : CtxId) (k : BitVec 4) (w : Wait) :
    liveOf (beginWait s c k w) c = { liveOf s c with st := .waiting, waitk := k } := by
  unfold beginWait
  rw [liveOf_setSt_same]
  split <;> simp [liveOf_leaveSlot, liveOf_saveRec]
/-- What the device keeps for a context that begins to wait: the wait, and without a pin nothing outstanding. -/
theorem thrOf_beginWait (s : State) (c : CtxId) (k : BitVec 4) (w : Wait) : ∃ v l m,
    thrOf (beginWait s c k w) (.ctx c) = { thrOf s (.ctx c) with wait := some w, saved := v, loads := l, md := m } := by
  unfold beginWait
  rw [thrOf_setSt]
  split
  · exact ⟨_, _, _, thrOf_setThr_same s _ _⟩
  · obtain ⟨v, hv⟩ := thrOf_saveRec (Machine.setThr s (.ctx c) { thrOf s (.ctx c) with wait := some w }) c .waiting
    exact ⟨v, [], none, by rw [thrOf_leaveSlot, hv, thrOf_setThr_same]⟩
theorem regsOf_beginWait_pc (s : State) (c : CtxId) (k : BitVec 4) (w : Wait) : (regsOf (beginWait s c k w) (.ctx c)).pc = (regsOf s (.ctx c)).pc := by
  unfold beginWait
  rw [regsOf_setSt]
  split
  · rw [regsOf_setThr]
  · rw [regsOf_leaveSlot, recOf_saveRec_pc, regsOf_setThr]
/-- A context that begins to wait waits for that, with PEND and PC as they were. -/
theorem beginWait_effect (s : State) (c : CtxId) (k : BitVec 4) (w : Wait) : let u := beginWait s c k w
    WaitsFor u c k w ∧ (liveOf u c).pend = (liveOf s c).pend ∧ (regsOf u (.ctx c)).pc = (regsOf s (.ctx c)).pc ∧ OtherLive s u c ∧ SameMemory s u := by
  have hl := liveOf_beginWait s c k w
  obtain ⟨v, l, m, ht⟩ := thrOf_beginWait s c k w
  have ho := CtxOnly.beginWait s c k w
  exact ⟨⟨by rw [stOf, hl], by rw [hl], by rw [ht]⟩, by rw [hl], regsOf_beginWait_pc s c k w, ho.live, ho.sameMemory⟩

/-! Work (R177, R187). -/
theorem CtxOnly.stamp (s : State) (c : CtxId) (n : Nat) : CtxOnly s { s with stamp := n } c :=
  ⟨rfl, fun _ _ => rfl, fun v _ => ⟨by cases v <;> rfl, rfl⟩⟩
/-- The state of a context that has work, before STATE is written: its age taken, its record loaded when it kept a slot without registers. -/
def withWork (s : State) (c : CtxId) : State :=
  let s1 := (nextStamp s).2
  if inSlot s1 c && (slotRegs s1 c.toNat).isNone then loadRec s1 c else s1
theorem CtxOnly.withWork (s : State) (c : CtxId) : CtxOnly s (withWork s c) c := by
  have h : CtxOnly s (nextStamp s).2 c := .stamp s c _
  unfold Machine.withWork
  dsimp only
  split
  · exact h.trans (.loadRec _ c)
  · exact h
theorem inSlot_loadRec (s : State) (c d : CtxId) : inSlot (loadRec s c) d = inSlot s d := by
  unfold loadRec boundLvl
  dsimp only
  split <;> rfl
theorem liveOf_loadRec (s : State) (c d : CtxId) : liveOf (loadRec s c) d = liveOf s d := by
  unfold loadRec boundLvl
  dsimp only
  split <;> rfl
theorem inSlot_withWork (s : State) (c d : CtxId) : inSlot (withWork s c) d = inSlot s d := by
  unfold withWork
  dsimp only
  split
  · exact inSlot_loadRec _ c d
  · rfl
theorem liveOf_withWork (s : State) (c d : CtxId) : liveOf (withWork s c) d = liveOf s d := by
  unfold withWork
  dsimp only
  split
  · exact liveOf_loadRec _ c d
  · rfl
theorem becomeReady_eq (s : State) (c : CtxId) : becomeReady s c =
    if inSlot s c then setThr (setSt (withWork s c) c .resident) (.ctx c) { thrOf s (.ctx c) with wait := none, pwait := none, resAt := s.stamp }
    else setThr (setSt (withWork s c) c .ready) (.ctx c) { thrOf s (.ctx c) with wait := none, pwait := none, readyAt := s.stamp } := by
  rw [← inSlot_withWork s c c]
  rfl
theorem CtxOnly.becomeReady (s : State) (c : CtxId) : CtxOnly s (becomeReady s c) c := by
  rw [becomeReady_eq]
  split <;> exact ((CtxOnly.withWork s c).trans (.setSt _ c _ _)).trans (.setThr _ c _)
theorem liveOf_becomeReady (s : State) (c : CtxId) :
    liveOf (becomeReady s c) c = { liveOf s c with st := if inSlot s c then .resident else .ready, waitk := 0 } := by
  rw [becomeReady_eq]
  split <;> rw [liveOf_setThr, liveOf_setSt_same, liveOf_withWork]
theorem becomeReady_awake (s : State) (c : CtxId) : Awake s (becomeReady s c) c := by
  have hl := liveOf_becomeReady s c
  refine ⟨by rw [stOf, hl], by rw [hl], ?_⟩
  rw [becomeReady_eq]
  split <;> rw [thrOf_setThr_same]

end Sys2Proof.Machine
end

section
/-! Requests for channels (R205, R206, R216): what a grant leaves alone, and that a request keeps what it asks for. -/
namespace Sys2Proof.Machine

/-! Grants. -/
theorem grantOne_eq (s : State) (k : Nat) (x : Xfer) : ∃ m, grantOne s k x = { s with mov := m } := by
  unfold grantOne
  split
  · exact ⟨_, rfl⟩
  · split
    · exact ⟨_, rfl⟩
    · exact ⟨s.mov, rfl⟩
theorem grantN_eq (n : Nat) (s : State) : ∃ m, grantN n s = { s with mov := m } := by
  induction n generalizing s with
  | zero => exact ⟨s.mov, rfl⟩
  | succ n ih =>
    unfold grantN
    split
    · exact ⟨s.mov, rfl⟩
    · next k x _ =>
      obtain ⟨m, hm⟩ := grantOne_eq s k x
      obtain ⟨m', hm'⟩ := ih (grantOne s k x)
      exact ⟨m', by rw [hm', hm]⟩
/-- The grant of entries and movers changes the movers alone. -/
theorem grantAll_eq (s : State) : ∃ m, grantAll s = { s with mov := m } := by
  obtain ⟨m, h⟩ := grantN_eq s.mov.chans.length s
  exact ⟨(bindMovers { s with mov := m }).mov, by rw [grantAll, h]; rfl⟩
/-- A request changes the movers and the ages alone. -/
theorem requestChan_eq (s : State) (k : Nat) (x : Xfer) : ∃ m, requestChan s k x = { s with mov := m, stamp := s.stamp + 1 } := by
  obtain ⟨m, h⟩ := grantAll_eq (setChan (nextStamp s).2 k { x with granted := false, since := s.stamp, age := s.stamp })
  exact ⟨m, h⟩

/-! What a request keeps (R206). -/
/-- Two channels agree in all but their entry, their ages and their mover. -/
def SameRequest (x y : Xfer) : Prop := { y with granted := x.granted, since := x.since, age := x.age, running := x.running } = x
theorem SameRequest.granted {x y : Xfer} (h : SameRequest x y) (b : Bool) : SameRequest x { y with granted := b } := h
theorem SameRequest.running {x y : Xfer} (h : SameRequest x y) (b : Bool) : SameRequest x { y with running := b } := h
/-- Owner key k has a channel, and each that it has says what x says. -/
structure HoldsChan (l : List (Nat × Xfer)) (k : Nat) (x : Xfer) : Prop where
  mem : ∃ e ∈ l, e.1 = k
  same : ∀ e ∈ l, e.1 = k → SameRequest x e.2
theorem HoldsChan.requested {s : State} {k : Nat} {x : Xfer} (h : HoldsChan s.mov.chans k x) : Requested s k x := by
  obtain ⟨⟨e, he, hk⟩, hs⟩ := h
  cases hf : s.mov.chans.find? fun e => e.1 = k with
  | none => exact absurd (by simpa using hk) (List.find?_eq_none.mp hf e he)
  | some f => exact ⟨f.2, by simp [chanOf, hf], hs f (List.mem_of_find?_eq_some hf) (by simpa using List.find?_some hf)⟩
/-- A change of each channel that keeps its owner and what it asks for. -/
theorem HoldsChan.map {l : List (Nat × Xfer)} {k : Nat} {x : Xfer} (h : HoldsChan l k x) (f : Nat × Xfer → Nat × Xfer) (hk : ∀ e, (f e).1 = e.1)
    (hs : ∀ e ∈ l, e.1 = k → SameRequest x (f e).2) : HoldsChan (l.map f) k x where
  mem := by
    obtain ⟨e, he, hek⟩ := h.mem
    exact ⟨f e, List.mem_map_of_mem he, (hk e).trans hek⟩
  same := List.forall_mem_map.mpr fun e he hek => hs e he ((hk e).symm.trans hek)
/-- The channels of other owners that go or come make no difference. -/
theorem HoldsChan.filter_append {l : List (Nat × Xfer)} {k i : Nat} {x y : Xfer} (h : HoldsChan l k x) (p : Nat × Xfer → Bool) (hp : ∀ e, e.1 = k → p e = true)
    (hi : i ≠ k) : HoldsChan (l.filter p ++ [(i, y)]) k x where
  mem := by
    obtain ⟨e, he, hek⟩ := h.mem
    exact ⟨e, List.mem_append_left _ (List.mem_filter.mpr ⟨he, hp e hek⟩), hek⟩
  same e he hek := by
    obtain he | he := List.mem_append.mp he
    · exact h.same e (List.mem_filter.mp he).1 hek
    · rw [List.mem_singleton.mp he] at hek
      exact absurd hek hi
theorem holdsChan_setChan (s : State) (k : Nat) {x y : Xfer} (h : SameRequest x y) : HoldsChan (setChan s k y).mov.chans k x where
  mem := ⟨(k, y), List.mem_append_right _ (List.mem_singleton.mpr rfl), rfl⟩
  same e he hek := by
    obtain he | he := List.mem_append.mp he
    · simp [hek] at he
    · rw [List.mem_singleton.mp he]
      exact h
/-- The request that is granted next is one of those that wait. -/
theorem nextGrant_mem {s : State} {e : Nat × Xfer} (h : nextGrant s = some e) : e ∈ s.mov.chans := by
  have hall : ∀ f, nextGrant s = some f → f ∈ s.mov.chans := by
    unfold nextGrant
    refine List.foldlRecOn _ _ (motive := fun b => ∀ f, b = some f → f ∈ s.mov.chans) (fun _ hf => by cases hf) fun b hb g hg f hf => ?_
    have hgm := (List.mem_filter.mp hg).1
    cases b with
    | none => exact Option.some.inj hf ▸ hgm
    | some d =>
      dsimp only at hf
      split at hf
      · exact Option.some.inj hf ▸ hgm
      · exact hb f hf
  exact hall e h
/-- The entries for requests of the SCT block lie above those of contexts and processors (R205). -/
theorem sctEntry_ge {s : State} {i : Nat} (h : sctEntry s = some i) : 0x80000 ≤ i := by
  obtain ⟨j, -, hj⟩ := List.mem_map.mp (List.mem_of_find?_eq_some h)
  omega
theorem holdsChan_grantOne {s : State} {k : Nat} {x : Xfer} (hk : k < 0x80000) (h : HoldsChan s.mov.chans k x) {e : Nat × Xfer}
    (he : e ∈ s.mov.chans) : HoldsChan (grantOne s e.1 e.2).mov.chans k x := by
  unfold grantOne
  split
  · refine h.map _ (fun d => ?_) fun d hd hdk => ?_
    · split
      · next hde => exact hde.symm
      · rfl
    · split
      · next hde => exact (h.same e he (hde.symm.trans hdk)).granted true
      · exact h.same d hd hdk
  · next hge =>
    split
    · next i hi =>
      have hik := sctEntry_ge hi
      have hne : e.1 ≠ k := by omega
      simp only [setChan, freeChan, List.filter_filter]
      refine h.filter_append _ (fun d hd => ?_) (by omega)
      simp [hd, hne.symm, show k ≠ i by omega]
    · exact h
theorem holdsChan_grantN {k : Nat} {x : Xfer} (hk : k < 0x80000) (n : Nat) (s : State) (h : HoldsChan s.mov.chans k x) :
    HoldsChan (grantN n s).mov.chans k x := by
  induction n generalizing s with
  | zero => exact h
  | succ n ih =>
    unfold grantN
    split
    · exact h
    · next hn => exact ih _ (holdsChan_grantOne hk h (nextGrant_mem hn))
theorem holdsChan_bindMovers {s : State} {k : Nat} {x : Xfer} (h : HoldsChan s.mov.chans k x) : HoldsChan (bindMovers s).mov.chans k x := by
  have hl : HoldsChan (s.mov.chans.map fun e => (e.1, { e.2 with running := keepsMover s e.1 e.2 })) k x :=
    h.map _ (fun _ => rfl) fun e he hk => (h.same e he hk).running _
  exact hl.map _ (fun _ => rfl) fun e he hk => (hl.same e he hk).running _
/-- A request of a context is there, granted or not, with what it asks for. -/
theorem requestChan_requested (s : State) (c : CtxId) (x : Xfer) : Requested (requestChan s c.toNat x) c.toNat x := by
  have hc := c.isLt
  refine HoldsChan.requested (holdsChan_bindMovers (holdsChan_grantN (by omega) _ _ ?_))
  exact holdsChan_setChan _ _ rfl
theorem Requested.congr {s u : State} {k : Nat} {x : Xfer} (h : Requested s k x) (hm : u.mov = s.mov) : Requested u k x := by
  obtain ⟨y, hy, hx⟩ := h
  exact ⟨y, by rw [chanOf, hm]; exact hy, hx⟩

/-! A data step (R177, R206). -/
/-- What a data step leaves once its channel is requested: the context waits with WAITK 6, and its units and stores are as they were. -/
theorem dataChan_effect (s : State) (c : CtxId) (x : Xfer) : let u := dataChan s c x
    Requested u c.toNat x ∧ stOf u c = .waiting ∧ (liveOf u c).waitk = 6 ∧ OtherLive s u c ∧ SameMemory s u ∧ u.dpt = s.dpt := by
  obtain ⟨m, hm⟩ := requestChan_eq s c.toNat x
  have hw := CtxOnly.beginWait (requestChan s c.toNat x) c 6 {}
  have hl : liveOf (dataChan s c x) c = _ := liveOf_beginWait (requestChan s c.toNat x) c 6 {}
  refine ⟨(requestChan_requested s c x).congr hw.mov, by rw [stOf, hl], by rw [hl], fun d hd => (hw.live d hd).trans ?_, fun k => (hw.sameMemory k).trans ?_,
    hw.dpt.trans ?_⟩ <;> rw [hm] <;> rfl

end Sys2Proof.Machine
end

section
/-! Steps that do not wait (R43, R45, R48, R49, R52 to R56, R75, R79, R80, R82): how the step in progress ends and the chain goes on. -/
namespace Sys2Proof.Machine

/-! The step in progress. -/
theorem stepAct_eq (x : Thr) : stepAct x = (x.cur.lo.extractLsb' 0 8).toNat := fld_eq_extract _ _ _
theorem AtStep.act {s : State} {c : CtxId} {a : Byte} (h : AtStep s c a) : stepAct (thrOf s (.ctx c)) = a.toNat := by
  obtain ⟨-, -, ha, -⟩ := h
  rw [stepAct_eq, ha]
theorem engineOn_clocks {s : State} {c : CtxId} (h : engineOn s c = true) : clocksOn s = true := by
  simp only [engineOn, inRun, Bool.and_eq_true] at h
  simp [h]
theorem engineOn_noSaved {s : State} {c : CtxId} (h : engineOn s c = true) : NoSaved s (.ctx c) := by
  intro d hd
  cases hd
  simp only [engineOn, Bool.and_eq_true, decide_eq_true_eq] at h
  simp [h]
theorem engineOn_chan {s : State} {c : CtxId} (h : engineOn s c = true) : chanOf s c.toNat = none := by
  simp only [engineOn, Bool.and_eq_true] at h
  simpa using h.2
/-- A step whose stores need not be complete before it ends: it has NEXT, which its action honours, and no FENCE (R61, R62). -/
theorem fenceWait_of_next {s : State} {c : CtxId} (hf : stepFlag (thrOf s (.ctx c)) 13 = false) (hn : hasNext (thrOf s (.ctx c)) = true) :
    fenceWait s c = false := by simp [fenceWait, hf, hn]
/-- The action of a step in progress runs. -/
theorem onStep_runs {s : State} {c : CtxId} {a : Byte} {ok : Nat → Bool} {ends : Bool} (f : State → State) (h : AtStep s c a) (hok : ok a.toNat = true)
    (hf : ends = true → fenceWait s c = false) : onCore (onStep c ok ends f) s = .next (f s) := by
  have ha := h.act
  obtain ⟨he, hp, -, -⟩ := h
  have hw : (ends && fenceWait s c) = false := by
    cases ends with
    | true => exact hf rfl
    | false => rfl
  rw [onCore_on _ (engineOn_clocks he)]
  simp [onStep, he, hp, ha, hok, hw]

/-! The chain goes on. -/
/-- The chain goes on at an address: STPA is written, and the device keeps nothing of the step that ended. -/
theorem goOn_onward {s u : State} {c : CtxId} (hn : NoSaved u (.ctx c)) (ho : OnlyThread s u (.ctx c)) (a : DWord) : let v := goOn u c a false false
    regsOf v (.ctx c) = { regsOf u (.ctx c) with stpa := a } ∧ thrOf v (.ctx c) = onward (thrOf u (.ctx c)) ∧ OnlyThread s v (.ctx c) := by
  refine ⟨?_, ?_, onlyThread_setThr _ _ _ _ (onlyThread_setRegs _ _ _ _ ho)⟩
  · simp [goOn]
  · simp [goOn, thrOf_setRegs hn, onward]
/-- What reads neither registers nor records nor what the device keeps for threads is as before a command that changes one thread alone. -/
theorem OnlyThread.frame {α : Type} (f : State → α) {s u : State} {t : Thread} (h : OnlyThread s u t) (hf : f (threadsBack s u) = f u) : f u = f s :=
  hf.symm.trans (congrArg f h.2)
theorem OnlyThread.sameMemory {s u : State} {t : Thread} (h : OnlyThread s u t) : SameMemory s u := fun k => h.frame (memGet · k) rfl
theorem OnlyThread.liveOf {s u : State} {t : Thread} (h : OnlyThread s u t) (d : CtxId) : liveOf u d = liveOf s d := h.frame (Machine.liveOf · d) rfl
theorem OtherThreads.trans {s u w : State} {t : Thread} (h : OtherThreads s u t) (h' : OtherThreads u w t) : OtherThreads s w t :=
  fun v hv => ⟨(h' v hv).1.trans (h v hv).1, (h' v hv).2.trans (h v hv).2⟩
theorem failed_zero (b : Bool) : failed 0 b = false := by simp [failed]
/-- The step of a chain that goes on with the step after it: NEXT, neither CONT nor NOTE, and it is no JUMP, END or MOVE entry. -/
structure GoesOn (x : Thr) : Prop where
  cont : stepFlag x 8 = false
  next : stepFlag x 9 = true
  note : stepFlag x 12 = false
  fence : stepFlag x 13 = false
  noJump : stepAct x ≠ 1
  noEnd : stepAct x ≠ 5
  chain : x.wqMove = none
theorem GoesOn.hasNext {x : Thr} (h : GoesOn x) : hasNext x = true := by
  have h1 : fld x.cur.lo 0 8 ≠ 1 := h.noJump
  have h5 : fld x.cur.lo 0 8 ≠ 5 := h.noEnd
  simp [Machine.hasNext, h.next, h1, h5]
theorem GoesOn.fenceWait {s : State} {c : CtxId} (h : GoesOn (thrOf s (.ctx c))) : fenceWait s c = false := fenceWait_of_next h.fence h.hasNext
theorem HasNextOnly.goesOn {x : Thr} (h : HasNextOnly x) (h1 : stepAct x ≠ 1) (h5 : stepAct x ≠ 5) (hw : x.wqMove = none) : GoesOn x := by
  obtain ⟨h8, h9, h12, h13⟩ := h
  exact ⟨h8, h9, h12, h13, h1, h5, hw⟩
theorem AtStep.goesOn {s : State} {c : CtxId} {a : Byte} (h : AtStep s c a) (hn : HasNextOnly (thrOf s (.ctx c))) (h1 : a ≠ 1) (h5 : a ≠ 5) :
    GoesOn (thrOf s (.ctx c)) := by
  have ha := h.act
  refine hn.goesOn ?_ ?_ h.2.2.2 <;> rw [ha] <;> intro e
  · exact h1 (BitVec.eq_of_toNat_eq e)
  · exact h5 (BitVec.eq_of_toNat_eq e)
/-- A step that succeeds without a report: the chain goes on with the step after it. -/
theorem finishStep_next {s : State} {c : CtxId} (n : Nat) (h : GoesOn (thrOf s (.ctx c))) (h4 : stepAct (thrOf s (.ctx c)) ≠ 4) :
    finishStep s c 0 n 0 = goOn s c ((regsOf s (.ctx c)).stpa + BitVec.ofNat 64 (stepSize (thrOf s (.ctx c)))) false false := by
  simp [finishStep, failed_zero, h.cont, h.note, h.chain, h.hasNext, h.noEnd, h4]
theorem stepSize_of_act {x : Thr} (h : stepAct x ≠ 0xA) : stepSize x = 16 := by simp [stepSize, h]
/-- What such a step leaves when it is 16 bytes long. -/
theorem finishStep_onward {s : State} {c : CtxId} (n : Nat) (hs : NoSaved s (.ctx c)) (h : GoesOn (thrOf s (.ctx c))) (h4 : stepAct (thrOf s (.ctx c)) ≠ 4)
    (hA : stepAct (thrOf s (.ctx c)) ≠ 0xA) : let v := finishStep s c 0 n 0
    regsOf v (.ctx c) = { regsOf s (.ctx c) with stpa := (regsOf s (.ctx c)).stpa + 16 } ∧ thrOf v (.ctx c) = onward (thrOf s (.ctx c)) ∧
      OnlyThread s v (.ctx c) := by
  intro v
  have hv : v = goOn s c ((regsOf s (.ctx c)).stpa + 16) false false := by
    rw [← show BitVec.ofNat 64 (stepSize (thrOf s (.ctx c))) = 16 by rw [stepSize_of_act hA]; rfl]
    exact finishStep_next n h h4
  rw [hv]
  exact goOn_onward hs (onlyThread_refl s _) _
/-- A JUMP without a report: the chain goes on with its target. -/
theorem finishStep_jump {s : State} {c : CtxId} (a : DWord) (h8 : stepFlag (thrOf s (.ctx c)) 8 = false) (h12 : stepFlag (thrOf s (.ctx c)) 12 = false) :
    finishStep s c 0 0 0 (some a) = goOn s c a false false := by
  simp [finishStep, failed_zero, h8, h12]

/-! Reports (R80, R81, R86). -/
theorem putReport_off {s : State} {c : CtxId} (h : (regsOf s (.ctx c)).repa = 0) (r : Rep) : putReport s c r = (s, true) := by simp [putReport, h]
theorem postReport_off {s : State} {c : CtxId} (h : (regsOf s (.ctx c)).repa = 0) (r : Rep) (ev : Bool) :
    postReport s c r ev = (if ev then ctxEvent s c 1 r.reason else s, true) := by simp [postReport, putReport_off h]
/-- A step that fails with NEXT, while REPA is 0: its event, and the chain goes on with the step after it. -/
theorem finishStep_fails {s : State} {c : CtxId} {st : Nat} (n reason : Nat) (h : GoesOn (thrOf s (.ctx c)))
    (hf : failed st (stepFlag (thrOf s (.ctx c)) 15) = true) (hr : (regsOf (markBad s c st) (.ctx c)).repa = 0) :
    finishStep s c st n reason = goOn (ctxEvent (markBad s c st) c 1 reason) c
      ((regsOf s (.ctx c)).stpa + BitVec.ofNat 64 (stepSize (thrOf s (.ctx c)))) false false := by
  simp [finishStep, hf, h.cont, h.note, h.chain, h.hasNext, postReport_off hr]
/-- An event of a context fires its line and touches nothing but the sources of the event controller. -/
theorem ctxEvent_frame {α : Type} (f : State → α) (s : State) (c : CtxId) (kind reason : Nat)
    (h : ∀ l, f { s with evt := { s.evt with src := l } } = f s) : f (ctxEvent s c kind reason) = f s := evFire_frame f s _ _ h
theorem ctxEvent_fired (s : State) (c : CtxId) (kind reason : Nat) :
    Fired s (ctxEvent s c kind reason) (evlOf s c) (BitVec.ofNat 32 (c.toNat + kind * 0x100000 + reason * 0x1000000)) := evFire_fired s _ _
theorem regsOf_ctxEvent (s : State) (c : CtxId) (kind reason : Nat) (v : Thread) : regsOf (ctxEvent s c kind reason) v = regsOf s v :=
  ctxEvent_frame (regsOf · v) s c kind reason fun _ => by cases v <;> rfl
theorem thrOf_ctxEvent (s : State) (c : CtxId) (kind reason : Nat) (v : Thread) : thrOf (ctxEvent s c kind reason) v = thrOf s v :=
  ctxEvent_frame (thrOf · v) s c kind reason fun _ => rfl
theorem liveOf_ctxEvent (s : State) (c d : CtxId) (kind reason : Nat) : liveOf (ctxEvent s c kind reason) d = liveOf s d :=
  ctxEvent_frame (liveOf · d) s c kind reason fun _ => rfl

end Sys2Proof.Machine
end

section
/-! The steps that move no data: NOP, JUMP, WAIT, SIGNAL and END (R43, R45, R48, R49). -/
namespace Sys2Proof.Machine

/-! NOP and JUMP. -/
theorem AtStep.noSaved {s : State} {c : CtxId} {a : Byte} (h : AtStep s c a) : NoSaved s (.ctx c) := engineOn_noSaved h.1
/-- A step of 16 bytes that succeeds without a report, in a state where it may have changed other things. -/
theorem AtStep.onward {s u : State} {c : CtxId} {a : Byte} (h : AtStep s c a) (hn : HasNextOnly (thrOf s (.ctx c))) (ha : a ≠ 1 ∧ a ≠ 4 ∧ a ≠ 5 ∧ a ≠ 0xA)
    (ht : thrOf u (.ctx c) = thrOf s (.ctx c)) (hs : NoSaved u (.ctx c)) : let v := finishStep u c 0 0 0
    regsOf v (.ctx c) = { regsOf u (.ctx c) with stpa := (regsOf u (.ctx c)).stpa + 16 } ∧ thrOf v (.ctx c) = Machine.onward (thrOf s (.ctx c)) ∧
      OnlyThread u v (.ctx c) := by
  obtain ⟨h1, h4, h5, hA⟩ := ha
  have hne : ∀ b : Byte, a ≠ b → stepAct (thrOf u (.ctx c)) ≠ b.toNat := fun b hb e =>
    hb (BitVec.eq_of_toNat_eq (h.act.symm.trans ((congrArg stepAct ht).symm.trans e)))
  have hg := h.goesOn hn h1 h5
  rw [← ht] at hg ⊢
  exact finishStep_onward 0 hs hg (hne 4 h4) (hne 0xA hA)
theorem AtStep.leaves {s : State} {c : CtxId} {a : Byte} {i : Instr} (h : AtStep s c a) (hn : HasNextOnly (thrOf s (.ctx c)))
    (ha : a ≠ 1 ∧ a ≠ 4 ∧ a ≠ 5 ∧ a ≠ 0xA) (hx : exec i s = .next (finishStep s c 0 0 0)) :
    Leaves i s (.ctx c) { regsOf s (.ctx c) with stpa := (regsOf s (.ctx c)).stpa + 16 } (Machine.onward (thrOf s (.ctx c))) :=
  ⟨_, hx, h.onward hn ha rfl h.noSaved⟩
theorem jump_leaves {s : State} {c : CtxId} (h : AtStep s c 1) (hn : HasNextOnly (thrOf s (.ctx c))) :
    Leaves (.jump c) s (.ctx c) { regsOf s (.ctx c) with stpa := (thrOf s (.ctx c)).cur.hi } (Machine.onward (thrOf s (.ctx c))) := by
  obtain ⟨h8, -, h12, h13⟩ := hn
  refine ⟨goOn s c (thrOf s (.ctx c)).cur.hi false false, ?_, goOn_onward h.noSaved (onlyThread_refl s _) _⟩
  change execJump c s = _
  have h13' : stepFlag (thrOf s (.ctx c)) 13 = false := h13
  rw [execJump, onStep_runs _ h rfl (by simp)]
  simp [h13', finishStep_jump _ h8 h12]

/-! WAIT (R43, R44). -/
theorem exec_waitStep {s : State} {c : CtxId} (h : AtStep s c 2) (hn : HasNextOnly (thrOf s (.ctx c))) : exec (.waitStep c) s = .next (waitGo c s) := by
  change execWaitStep c s = _
  exact onStep_runs _ h rfl fun _ => (h.goesOn hn (by decide) (by decide)).fenceWait
theorem waitGo_signal {s : State} {c : CtxId} {m : Word} (hw : (thrOf s (.ctx c)).wait = some { mask := m }) (hm : (liveOf s c).pend &&& m ≠ 0) :
    waitGo c s = finishStep (setRegs (setLive s c { liveOf s c with pend := (liveOf s c).pend &&& ~~~((liveOf s c).pend &&& m) }) (.ctx c)
      { regsOf s (.ctx c) with eval := ((liveOf s c).pend &&& m).setWidth 64 }) c 0 0 0 := by
  have h0 : m ≠ 0 := fun e => hm (by simp [e])
  simp only [waitGo, hw]
  rw [if_pos h0, if_pos hm]
  simp
theorem and_not_and (a b : Word) : a &&& ~~~(a &&& b) = a &&& ~~~b := by
  apply BitVec.eq_of_getLsbD_eq
  intro i hi
  simp only [BitVec.getLsbD_and, BitVec.getLsbD_not, hi, decide_true, Bool.true_and]
  cases a.getLsbD i <;> simp
/-- A context's live word and registers written: nothing of another context or thread changes. -/
theorem ctxOnly_setRegs_setLive (s : State) (c : CtxId) (l : Live) (r : Regs) : CtxOnly s (setRegs (setLive s c l) (.ctx c) r) c :=
  (CtxOnly.setLive s c l).trans (.setRegs _ c r)
theorem noSaved_setLive {s : State} {t : Thread} (h : NoSaved s t) (c : CtxId) (l : Live) (hl : l.st = (liveOf s c).st) : NoSaved (setLive s c l) t := by
  intro d hd
  have hst : stOf (setLive s c l) d = stOf s d := by
    by_cases e : d = c
    · rw [e, stOf, liveOf_setLive_same, hl, stOf]
    · rw [stOf, liveOf_setLive_other s c l d e, stOf]
  rw [hst]
  exact h d hd
theorem waitStep_signal {s : State} {c : CtxId} {m : Word} (h : AtStep s c 2) (hn : HasNextOnly (thrOf s (.ctx c)))
    (hw : (thrOf s (.ctx c)).wait = some { mask := m }) (hm : (liveOf s c).pend &&& m ≠ 0) :
    Answers (.waitStep c) s fun u =>
      regsOf u (.ctx c) = { regsOf s (.ctx c) with stpa := (regsOf s (.ctx c)).stpa + 16, eval := ((liveOf s c).pend &&& m).setWidth 64 } ∧
        thrOf u (.ctx c) = Machine.onward (thrOf s (.ctx c)) ∧ liveOf u c = { liveOf s c with pend := (liveOf s c).pend &&& ~~~m } ∧
        OtherThreads s u (.ctx c) ∧ OtherLive s u c ∧ SameMemory s u := by
  refine ⟨_, exec_waitStep h hn, ?_⟩
  rw [waitGo_signal hw hm, and_not_and]
  have hs := noSaved_setLive h.noSaved c { liveOf s c with pend := (liveOf s c).pend &&& ~~~m } rfl
  have ho := ctxOnly_setRegs_setLive s c { liveOf s c with pend := (liveOf s c).pend &&& ~~~m }
    { regsOf s (.ctx c) with eval := ((liveOf s c).pend &&& m).setWidth 64 }
  obtain ⟨hr, ht, hv⟩ := h.onward hn (by decide) (thrOf_setRegs hs (.ctx c) { regsOf s (.ctx c) with eval := ((liveOf s c).pend &&& m).setWidth 64 })
    (noSaved_setRegs hs)
  exact ⟨by rw [hr, regsOf_setRegs_same], ht, by rw [hv.liveOf, liveOf_setRegs, liveOf_setLive_same], ho.threads.trans hv.1,
    fun d hd => (hv.liveOf d).trans (ho.live d hd), ho.sameMemory.trans hv.sameMemory⟩
theorem waitGo_noSignal {s : State} {c : CtxId} {m : Word} (hw : (thrOf s (.ctx c)).wait = some { mask := m }) (h0 : m ≠ 0)
    (hm : (liveOf s c).pend &&& m = 0) : waitGo c s = beginWait s c 1 { mask := m } := by
  simp only [waitGo, hw]
  rw [if_pos h0, if_neg (not_not.mpr hm)]
theorem waitGo_due {s : State} {c : CtxId} {v : DWord} (hw : (thrOf s (.ctx c)).wait = some { till := some v }) (hv : v.toNat ≤ s.time.now.toNat) :
    waitGo c s = finishStep s c 0 0 0 := by
  simp [waitGo, hw, timeGe, hv]
theorem waitGo_notDue {s : State} {c : CtxId} {v : DWord} (hw : (thrOf s (.ctx c)).wait = some { till := some v }) (hv : s.time.now.toNat < v.toNat) :
    waitGo c s = beginWait s c 2 { till := some v } := by
  have hv' : ¬ v.toNat ≤ s.time.now.toNat := by omega
  simp [waitGo, hw, timeGe, hv']

/-! SIGNAL (R45). -/
/-- SIGNAL of a context of the device that has not been freed or halted, and waits for nothing: its pending bits are set. -/
theorem ctxSignal_quiet {s : State} {d : CtxId} (bits : Word) (h : stOf s d = .idle ∨ stOf s d = .ready ∨ stOf s d = .resident ∨ stOf s d = .held) :
    ctxSignal s d bits = (setLive s d { liveOf s d with pend := (liveOf s d).pend ||| bits }, 0) := by
  have hw : stOf (setLive s d { liveOf s d with pend := (liveOf s d).pend ||| bits }) d ≠ .waiting := by
    rw [stOf, liveOf_setLive_same]
    obtain e | e | e | e := h <;> exact fun e' => by simp [stOf] at e; simp [e] at e'
  have hc : wakeCheck (setLive s d { liveOf s d with pend := (liveOf s d).pend ||| bits }) d = setLive s d { liveOf s d with pend := (liveOf s d).pend ||| bits } := by
    simp [wakeCheck, hw]
  obtain e | e | e | e := h <;> simp [ctxSignal, e, hc]
theorem signalGo_local {s : State} {c : CtxId} (ha : (thrOf s (.ctx c)).cur.hi.extractLsb' 18 8 = 0) :
    signalGo c s = finishStep (ctxSignal s ((thrOf s (.ctx c)).cur.hi.extractLsb' 0 18) ((thrOf s (.ctx c)).cur.lo.extractLsb' 32 32)).1 c
      (if (ctxSignal s ((thrOf s (.ctx c)).cur.hi.extractLsb' 0 18) ((thrOf s (.ctx c)).cur.lo.extractLsb' 32 32)).2 = 0 then 0 else sPROT) 0
      (ctxSignal s ((thrOf s (.ctx c)).cur.hi.extractLsb' 0 18) ((thrOf s (.ctx c)).cur.lo.extractLsb' 32 32)).2 := by
  have hd : BitVec.ofNat 18 (wAddr (thrOf s (.ctx c)).cur) = (thrOf s (.ctx c)).cur.hi.extractLsb' 0 18 := by
    rw [← ofNat_fld, fld, Nat.shiftRight_zero, wAddr]
    exact BitVec.eq_of_toNat_eq (by simp)
  have hl : isLocal s (BitVec.ofNat 8 (fld (thrOf s (.ctx c)).cur.hi 18 8)) = true := by rw [ofNat_fld, ha]; rfl
  have hb : BitVec.ofNat 32 (wCount (thrOf s (.ctx c)).cur) = (thrOf s (.ctx c)).cur.lo.extractLsb' 32 32 := ofNat_fld _ _ _
  simp only [signalGo, hl, hd, hb, if_true]
theorem signalStep_local {s : State} {c : CtxId} (h : AtStep s c 3) (hn : HasNextOnly (thrOf s (.ctx c))) (ha : (thrOf s (.ctx c)).cur.hi.extractLsb' 18 8 = 0)
    {d : CtxId} (hd : d = (thrOf s (.ctx c)).cur.hi.extractLsb' 0 18) {m : Word} (hm : m = (thrOf s (.ctx c)).cur.lo.extractLsb' 32 32)
    (hst : stOf s d = .idle ∨ stOf s d = .ready ∨ stOf s d = .resident ∨ stOf s d = .held) :
    Answers (.signalStep c) s fun u =>
      regsOf u (.ctx c) = { regsOf s (.ctx c) with stpa := (regsOf s (.ctx c)).stpa + 16 } ∧ thrOf u (.ctx c) = Machine.onward (thrOf s (.ctx c)) ∧
        liveOf u d = { liveOf s d with pend := (liveOf s d).pend ||| m } ∧ OtherLive s u d ∧ OtherThreads s u (.ctx c) ∧ SameMemory s u := by
  have hx : exec (.signalStep c) s = .next (finishStep (setLive s d { liveOf s d with pend := (liveOf s d).pend ||| m }) c 0 0 0) := by
    change execSignalStep c s = _
    rw [execSignalStep, onStep_runs _ h rfl fun _ => (h.goesOn hn (by decide) (by decide)).fenceWait, signalGo_local ha, ← hd, ← hm, ctxSignal_quiet m hst]
    rfl
  have ho := CtxOnly.setLive s d { liveOf s d with pend := (liveOf s d).pend ||| m }
  obtain ⟨hr, ht, hv⟩ := h.onward hn (by decide) (thrOf_setLive s d _ _) (noSaved_setLive h.noSaved d { liveOf s d with pend := (liveOf s d).pend ||| m } rfl)
  refine ⟨_, hx, ?_, ht, ?_, fun e he => (hv.liveOf e).trans (ho.live e he), fun v hv' => ?_, ho.sameMemory.trans hv.sameMemory⟩
  · rw [hr, regsOf_setLive]
  · rw [hv.liveOf, liveOf_setLive_same]
  · exact ⟨(hv.1 v hv').1.trans (regsOf_setLive s d _ v), (hv.1 v hv').2⟩

/-! END (R48, R187). -/
/-- END of a chain that no CHAIN called, with neither report nor stores: the context becomes IDLE. -/
theorem endStep_idle {s : State} {c : CtxId} (h : AtStep s c 5) (h8 : stepFlag (thrOf s (.ctx c)) 8 = false) (h12 : stepFlag (thrOf s (.ctx c)) 12 = false)
    (hsb : (thrOf s (.ctx c)).sb = []) (hcall : (thrOf s (.ctx c)).callPc = none) (hr : (regsOf s (.ctx c)).repa = 0) :
    exec (.endStep c) s = .next (toIdle s c none) := by
  have ha : stepAct (thrOf s (.ctx c)) = 5 := h.act
  have hf : fenceWait s c = false := by simp [fenceWait, hsb]
  change execEndStep c s = _
  rw [execEndStep, onStep_runs _ h rfl fun _ => hf]
  have hd : drainPlain s c = s := by simp [drainPlain, hsb]
  have hend : ∀ r : Rep, r.status = sDONE → chainEnd s c r false = toIdle s c none := fun r hst => by
    simp [chainEnd, storesDone, hsb, chainLast, hd, hcall, ha, hst, postReport_off hr]
  have hmv : (thrOf s (.ctx c)).wqMove = none := h.2.2.2
  have hu : unitBits s (thrOf s (.ctx c)) = (0, 0) := by simp [unitBits, stepUnit, ha]
  simp [finishStep, failed_zero, h8, h12, ha, hmv, hu]
  exact hend _ rfl
theorem occ_leaveSlot {s : State} {c : CtxId} {k : Nat} (h : slotOf s c = some k) : (leaveSlot s c).eng.occ = sset none s.eng.occ k none := by
  unfold leaveSlot
  rw [h]
  rfl
theorem toIdle_eq {s : State} {c : CtxId} (ho : (thrOf s (.ctx c)).origin = none) (hh : (thrOf s (.ctx c)).haltEnt = []) : ∃ x : Thr, x.phase = .code ∧
    toIdle s c none = setThr (setThr (setSt (if pinOf s c then setSlotRegs s c.toNat none else leaveSlot s c) c .idle) (.ctx c) x) (.ctx c) { x with haltEnt := [] } := by
  have ht : (thrOf (if pinOf s c then setSlotRegs s c.toNat none else leaveSlot s c) (.ctx c)).origin = none ∧
      (thrOf (if pinOf s c then setSlotRegs s c.toNat none else leaveSlot s c) (.ctx c)).haltEnt = [] := by
    split
    · exact ⟨ho, hh⟩
    · rw [thrOf_leaveSlot]
      exact ⟨ho, hh⟩
  obtain ⟨hto, hth⟩ := ht
  simp only [toIdle, endOrigin, thrOf_setSt, hto, endHaltEntries, thrOf_setThr_same, hth, List.foldl_nil]
  exact ⟨_, rfl, rfl⟩
theorem toIdle_effect {s : State} {c : CtxId} (ho : (thrOf s (.ctx c)).origin = none) (hh : (thrOf s (.ctx c)).haltEnt = []) : let u := toIdle s c none
    stOf u c = .idle ∧ (liveOf u c).pend = (liveOf s c).pend ∧ (thrOf u (.ctx c)).phase = .code ∧ OtherLive s u c ∧
      (∀ k, pinOf s c = false → slotOf s c = some k → sget none u.eng.occ k = none) ∧ SameMemory s u := by
  obtain ⟨x, hx, he⟩ := toIdle_eq ho hh
  have hl : ∀ d, liveOf (if pinOf s c then setSlotRegs s c.toNat none else leaveSlot s c) d = liveOf s d := fun d => by
    split
    · rfl
    · exact liveOf_leaveSlot s c d
  have hu : CtxOnly s (toIdle s c none) c := by
    rw [he]
    refine (CtxOnly.trans ?_ (.setSt _ c .idle 0)).trans ((CtxOnly.setThr _ c _).trans (.setThr _ c _))
    split
    · exact .setSlotRegs s c none
    · exact .leaveSlot s c
  intro u
  refine ⟨?_, ?_, ?_, hu.live, fun k hp hk => ?_, hu.sameMemory⟩ <;> simp only [u, he]
  · rw [stOf, liveOf_setThr, liveOf_setThr, liveOf_setSt_same]
  · rw [liveOf_setThr, liveOf_setThr, liveOf_setSt_same, hl]
  · rw [thrOf_setThr_same]
    exact hx
  · rw [hp]
    change sget none (leaveSlot s c).eng.occ k = none
    rw [occ_leaveSlot hk, sget_sset_same]

/-- Settles O15: each step by the end of its action, the waits by what begins them. -/
theorem stepsWithoutDataEnd : Obligations.StepsWithoutDataEnd := by
  intro s c t r x l next mask d
  refine ⟨fun h hn => h.leaves hn (by decide) ?_, jump_leaves, waitStep_signal, fun h hn hw h0 hm => ?_, fun v h hn hw => ⟨fun hv => ?_, fun hv => ?_⟩,
    fun h hn ha _ hst => signalStep_local h hn ha rfl rfl hst, fun h h8 h12 hsb hcall hr ho hh => ⟨_, endStep_idle h h8 h12 hsb hcall hr, toIdle_effect ho hh⟩⟩
  · exact onStep_runs _ h rfl fun _ => (h.goesOn hn (by decide) (by decide)).fenceWait
  · obtain ⟨hw', hp, -, ho, hm'⟩ := beginWait_effect s c 1 { mask := mask }
    exact ⟨_, (exec_waitStep h hn).trans (congrArg _ (waitGo_noSignal hw h0 hm)), hw', hp, ho, hm'⟩
  · exact h.leaves hn (by decide) ((exec_waitStep h hn).trans (congrArg _ (waitGo_due hw hv)))
  · obtain ⟨hw', -, -, ho, hm'⟩ := beginWait_effect s c 2 { till := some v }
    exact ⟨_, (exec_waitStep h hn).trans (congrArg _ (waitGo_notDue hw hv)), hw', ho, hm'⟩

end Sys2Proof.Machine
end

section
/-! How an instruction of a context ends that is illegal, that stays at its address, or that completes after changes beside its registers (R101, R131). -/
namespace Sys2Proof.Machine

/-! Units of one word (R100, R101). -/
theorem legal_plain {p : Pfx} {d : Dec} (hr : p.rep = false) (he : p.ext = none) (hd : d.legal = true) : illegal p d = false := by
  simp [illegal, hr, he, hd]
theorem OnlyThread.trans {s u w : State} {t : Thread} (h : OnlyThread s u t) (h' : OnlyThread u w t) : OnlyThread s w t := by
  refine ⟨OtherThreads.trans h.1 h'.1, ?_⟩
  have e : threadsBack s w = threadsBack s (threadsBack u w) := rfl
  rw [e, h'.2, h.2]
/-- An instruction that stays at its address leaves what its body leaves. -/
theorem exec_of_stay {c : Instr} {s : State} {t : Thread} {p : Pfx} (d : Dec) (body : State → Eff) {w : State} (hx : exec c s = onCore (issue t p d body) s)
    (h : Ready s t p d.regs) (hl : illegal p d = false) (hb : body s = .stay w) : exec c s = .next w := by
  rw [hx, issue_ready h, executeIns_ready d h hl, hb]
/-- An instruction that writes registers and completes after other changes. -/
theorem answers_of_done {c : Instr} {s : State} {t : Thread} {p : Pfx} (d : Dec) (body : State → Eff) {w : State} {r : Regs}
    (hx : exec c s = onCore (issue t p d body) s) (h : Ready s t p d.regs) (hl : illegal p d = false) (hp : p.rep = false) (he : p.ext = none)
    (hb : body s = .done (setRegs w t r)) : Answers c s fun u =>
      regsOf u t = { r with pc := r.pc + 4 } ∧ (NoSaved w t → thrOf u t = thrOf w t) ∧ OnlyThread w u t := by
  have hu : unitDone (setRegs w t r) t p = setRegs (setRegs w t r) t { r with pc := r.pc + 4 } := by
    have hsz : pfxSize p = 4 := by simp [pfxSize, pfxLen, b2n, hp, he]
    simp [unitDone, hp, hsz]
  refine ⟨unitDone (setRegs w t r) t p, by rw [hx, issue_ready h, executeIns_ready d h hl, hb], ?_⟩
  rw [hu]
  exact ⟨regsOf_setRegs_same _ _ _, fun hn => (thrOf_setRegs (noSaved_setRegs hn) t _).trans (thrOf_setRegs hn t r),
    onlyThread_setRegs _ _ _ _ (onlyThread_setRegs _ _ _ _ (onlyThread_refl w t))⟩
/-- An illegal instruction of a ready thread raises its exception with its word. -/
theorem raises_of_illegal {c : Instr} {s : State} {t : Thread} {p : Pfx} (d : Dec) (body : State → Eff) (hx : exec c s = onCore (issue t p d body) s)
    (h : Ready s t p []) (hl : illegal p d = true) (he : CanEnter s t) : Raises c s t p 1 ((firstWord p d.word).setWidth 64) := by
  have hd : illegal p { word := 0, ext := true, rep := true, legal := true, regs := [] } = false := by simp [illegal]
  refine raises_of_exc { word := 0, ext := true, rep := true, legal := true, regs := [] } (fun u => .exc u 1 ((firstWord p d.word).setWidth 64)) 1 _ ?_ h hd rfl
    (by decide) he
  rw [hx, issue_ready h, issue_ready h, executeIns_ready _ h hd]
  simp [executeIns, hl]

/-! The level field of SR (R91). -/
theorem setFld_lvl (sr : Word) (l : Lvl) : setFld sr 8 2 l.toNat = (sr &&& ~~~0x300#32) ||| (l.setWidth 32 <<< 8) := by
  have hl : BitVec.ofNat 32 ((l.toNat % 2 ^ 2) <<< 8) = l.setWidth 32 <<< 8 := by
    revert l
    decide
  exact congrArg ((sr &&& ~~~0x300#32) ||| ·) hl
theorem setFld_lvl_bool (sr : Word) (b : Bool) : setFld sr 8 2 (b2n b) = (sr &&& ~~~0x300#32) ||| (if b then 0x100 else 0) := by
  cases b <;> rfl

/-! The chain group in a routine (R75, R77, R79, R137). -/
/-- CHAIN is the word of OP 0x28 with function 0. -/
theorem chain_word (ga : Reg) : fmtE 0x28 0 ga 0 0 0 = 0x28#6 ++ 0#4 ++ ga ++ 0#18 := by
  revert ga
  decide
/-- Settles O20: while a step is in progress CHAIN decodes as illegal. -/
theorem chainInARoutineIsIllegal : Obligations.ChainInARoutineIsIllegal := by
  intro s c p ga h he hst
  rw [← chain_word]
  refine raises_of_illegal (chnDec (.ctx c) ga 0 (decide ((regsOf s (.ctx c)).stpa = 0))) (chainIns (.ctx c) ga) rfl h ?_ he
  have hl : (chnDec (.ctx c) ga 0 (decide ((regsOf s (.ctx c)).stpa = 0))).legal = false := by
    rw [decide_eq_false hst]
    rfl
  rw [illegal, hl]
  rfl

/-- The level before a routine is in force again, and nothing else changes. -/
theorem routineLvl_effect {s : State} {c : CtxId} (hn : NoSaved s (.ctx c)) : let u := routineLvl s c
    regsOf u (.ctx c) = { regsOf s (.ctx c) with sr := ((regsOf s (.ctx c)).sr &&& ~~~0x300#32) ||| ((thrOf s (.ctx c)).rtPl.setWidth 32 <<< 8) } ∧
      thrOf u (.ctx c) = thrOf s (.ctx c) ∧ NoSaved u (.ctx c) ∧ OnlyThread s u (.ctx c) := by
  refine ⟨?_, thrOf_setRegs hn _ _, noSaved_setRegs hn, onlyThread_setRegs _ _ _ _ (onlyThread_refl s _)⟩
  rw [routineLvl, regsOf_setRegs_same, setFld_lvl]
theorem markBad_none {s : State} {c : CtxId} {st : Nat} (h : st &&& (sBUS ||| sALIGN ||| sPROT ||| sCHAIN) = 0) : markBad s c st = s := by
  simp [markBad, h]
theorem Routine.goesOn {x : Thr} (h : 0x40 ≤ (x.cur.lo.extractLsb' 0 8).toNat) (hn : HasNextOnly x) (hw : x.wqMove = none) : GoesOn x := by
  rw [← stepAct_eq] at h
  exact hn.goesOn (by omega) (by omega) hw
/-- The registers of a context whose routine has ended and whose chain goes on with the next step. -/
def pastRoutine (r : Regs) (x : Thr) : Regs :=
  { r with stpa := r.stpa + 16, sr := (r.sr &&& ~~~0x300#32) ||| (x.rtPl.setWidth 32 <<< 8) }
theorem exec_sdone {s : State} {c : CtxId} {p : Pfx} {ga : Reg} (hp : p.rep = false) (he : p.ext = none) (h : Ready s (.ctx c) p [ga])
    (hst : (regsOf s (.ctx c)).stpa ≠ 0) (hg : GoesOn (thrOf s (.ctx c))) (hv : ((regsOf s (.ctx c)).gr ga).extractLsb' 0 32 = 0) :
    exec (.sdone (.ctx c) p ga) s = .next (finishStep (routineLvl s c) c 0 0 0) := by
  refine exec_of_stay (chnDec (.ctx c) ga 1 (decide ((regsOf s (.ctx c)).stpa ≠ 0))) (sdoneIns (.ctx c) ga) rfl h
    (legal_plain hp he (by rw [decide_eq_true hst]; rfl)) ?_
  have hr : ((regsOf s (.ctx c)).gr ga).toNat % 2 ^ 32 = 0 := by simpa [fld] using (fld_eq_zero ((regsOf s (.ctx c)).gr ga) 0 32).mpr hv
  simp only [sdoneIns, ctxOf, hg.fenceWait, routineDone, hr]
  rfl
theorem sdone_leaves {s : State} {c : CtxId} {p : Pfx} {ga : Reg} (hp : p.rep = false) (he : p.ext = none) (h : Ready s (.ctx c) p [ga])
    (hst : (regsOf s (.ctx c)).stpa ≠ 0) (hrt : 0x40 ≤ ((thrOf s (.ctx c)).cur.lo.extractLsb' 0 8).toNat) (hn : HasNextOnly (thrOf s (.ctx c)))
    (hw : (thrOf s (.ctx c)).wqMove = none) (hv : ((regsOf s (.ctx c)).gr ga).extractLsb' 0 32 = 0) :
    Leaves (.sdone (.ctx c) p ga) s (.ctx c) (pastRoutine (regsOf s (.ctx c)) (thrOf s (.ctx c))) (onward (thrOf s (.ctx c))) := by
  have hg := Routine.goesOn hrt hn hw
  obtain ⟨hr, ht, hns, ho⟩ := routineLvl_effect (canIssue_noSaved h.1)
  have hact : 0x40 ≤ stepAct (thrOf s (.ctx c)) := by rwa [stepAct_eq]
  rw [← ht] at hact
  obtain ⟨hr', ht', ho'⟩ := finishStep_onward 0 hns (ht ▸ hg) (by omega) (by omega)
  exact ⟨_, exec_sdone hp he h hst hg hv, by rw [hr', hr]; rfl, ht'.trans (congrArg onward ht), OnlyThread.trans ho ho'⟩
theorem failed_abort (b : Bool) : failed sABORT b = true := by simp [failed]
/-- What SFAIL takes from its register when it asks for ABORTED alone. -/
theorem exec_sfail {s : State} {c : CtxId} {p : Pfx} {ga : Reg} (hp : p.rep = false) (he : p.ext = none) (h : Ready s (.ctx c) p [ga])
    (hst : (regsOf s (.ctx c)).stpa ≠ 0) (hg : GoesOn (thrOf s (.ctx c))) (hv : ((regsOf s (.ctx c)).gr ga).extractLsb' 0 14 = 0x1000) :
    exec (.sfail (.ctx c) p ga) s =
      .next (finishStep (routineLvl s c) c sABORT (fld ((regsOf s (.ctx c)).gr ga) 32 32) (fld ((regsOf s (.ctx c)).gr ga) 16 8)) := by
  refine exec_of_stay (chnDec (.ctx c) ga 2 (decide ((regsOf s (.ctx c)).stpa ≠ 0))) (sfailIns (.ctx c) ga) rfl h
    (legal_plain hp he (by rw [decide_eq_true hst]; rfl)) ?_
  have hr : fld ((regsOf s (.ctx c)).gr ga) 0 16 % 0x4000 = sABORT := by
    have hx : ((regsOf s (.ctx c)).gr ga).toNat % 2 ^ 14 = 0x1000 := by
      have hx := congrArg BitVec.toNat hv
      rw [BitVec.extractLsb'_toNat, Nat.shiftRight_zero] at hx
      exact hx
    simp only [fld, Nat.shiftRight_zero, sABORT]
    omega
  have hbits : sABORT &&& (sDONE ||| sHELD ||| sNOTED ||| sTAKEN) = 0 := by decide
  simp [sfailIns, ctxOf, hg.fenceWait, hr, failed_abort, hbits]
theorem sfail_effect {s : State} {c : CtxId} {p : Pfx} {ga : Reg} (hp : p.rep = false) (he : p.ext = none) (h : Ready s (.ctx c) p [ga])
    (hst : (regsOf s (.ctx c)).stpa ≠ 0) (hrt : 0x40 ≤ ((thrOf s (.ctx c)).cur.lo.extractLsb' 0 8).toNat) (hn : HasNextOnly (thrOf s (.ctx c)))
    (hw : (thrOf s (.ctx c)).wqMove = none) (hv : ((regsOf s (.ctx c)).gr ga).extractLsb' 0 14 = 0x1000) (hrep : (regsOf s (.ctx c)).repa = 0) :
    Answers (.sfail (.ctx c) p ga) s fun u =>
      regsOf u (.ctx c) = pastRoutine (regsOf s (.ctx c)) (thrOf s (.ctx c)) ∧ thrOf u (.ctx c) = onward (thrOf s (.ctx c)) ∧ OtherThreads s u (.ctx c) ∧
        SameMemory s u ∧
        Fired s u (evlOf s c) (BitVec.ofNat 32 (c.toNat + 0x100000 + (((regsOf s (.ctx c)).gr ga).extractLsb' 16 8).toNat * 0x1000000)) := by
  have hg := Routine.goesOn hrt hn hw
  obtain ⟨hr, ht, hns, ho⟩ := routineLvl_effect (canIssue_noSaved h.1)
  have hbad : markBad (routineLvl s c) c sABORT = routineLvl s c := markBad_none (by decide)
  have hfin := finishStep_fails (s := routineLvl s c) (c := c) (st := sABORT) (fld ((regsOf s (.ctx c)).gr ga) 32 32) (fld ((regsOf s (.ctx c)).gr ga) 16 8)
    (ht ▸ hg) (failed_abort _) (by rw [hbad, hr]; exact hrep)
  have hact : stepAct (thrOf s (.ctx c)) ≠ 0xA := by rw [stepAct_eq]; omega
  rw [hbad, ht, stepSize_of_act hact] at hfin
  refine ⟨_, (exec_sfail hp he h hst hg hv).trans (congrArg _ hfin), ?_⟩
  have hns' : NoSaved (ctxEvent (routineLvl s c) c 1 (fld ((regsOf s (.ctx c)).gr ga) 16 8)) (.ctx c) := fun d hd => by
    rw [stOf, liveOf_ctxEvent]
    exact hns d hd
  have hev := ctxEvent_fired (routineLvl s c) c 1 (fld ((regsOf s (.ctx c)).gr ga) 16 8)
  have hoe : OtherThreads (routineLvl s c) (ctxEvent (routineLvl s c) c 1 (fld ((regsOf s (.ctx c)).gr ga) 16 8)) (.ctx c) :=
    fun v _ => ⟨regsOf_ctxEvent _ _ _ _ v, thrOf_ctxEvent _ _ _ _ v⟩
  have hme : SameMemory (routineLvl s c) (ctxEvent (routineLvl s c) c 1 (fld ((regsOf s (.ctx c)).gr ga) 16 8)) := evFire_sameMemory _ _ _
  have hline : evlOf (routineLvl s c) c = evlOf s c := ho.frame (evlOf · c) rfl
  obtain ⟨hr', ht', ho'⟩ := goOn_onward hns' (onlyThread_refl _ _) ((regsOf (routineLvl s c) (.ctx c)).stpa + 16)
  rw [hline, fld_eq_extract] at hev
  refine ⟨?_, ?_, OtherThreads.trans (OtherThreads.trans ho.1 hoe) ho'.1, SameMemory.trans (SameMemory.trans ho.sameMemory hme) ho'.sameMemory, ?_⟩
  · exact hr'.trans (by rw [regsOf_ctxEvent, hr]; rfl)
  · exact ht'.trans (by rw [thrOf_ctxEvent, ht])
  · exact hev.congr (ho.frame (·.evt.src) rfl) (ho.frame (·.reg.tabA) rfl) (ho.frame State.time rfl) (ho'.frame (·.evt.src) rfl)
theorem chain_leaves {s : State} {c : CtxId} {p : Pfx} {ga : Reg} (hp : p.rep = false) (he : p.ext = none) (h : Ready s (.ctx c) p [ga])
    (hst : (regsOf s (.ctx c)).stpa = 0) :
    Leaves (.chain (.ctx c) p ga) s (.ctx c)
      { regsOf s (.ctx c) with stpa := (regsOf s (.ctx c)).gr ga, stpw := 0, cpl := (regsOf s (.ctx c)).sr.extractLsb' 8 2 }
      { thrOf s (.ctx c) with
        phase := .fetch, callPc := some ((regsOf s (.ctx c)).pc + 4), line := none, holdPass := false, run := none, skip := false } := by
  have hn := canIssue_noSaved h.1
  refine ⟨_, exec_of_stay (chnDec (.ctx c) ga 0 (decide ((regsOf s (.ctx c)).stpa = 0))) (chainIns (.ctx c) ga) rfl h
    (legal_plain hp he (by rw [decide_eq_true hst]; rfl)) rfl, ?_, ?_, ?_⟩
  · rw [regsOf_setThr, regsOf_setRegs_same, srPL, ofNat_fld]
  · rw [thrOf_setThr_same, thrOf_setRegs hn]
  · exact onlyThread_setThr _ _ _ _ (onlyThread_setRegs _ _ _ _ (onlyThread_refl s _))

/-- Settles O19: SDONE and SFAIL by the end of the routine's step, CHAIN by its effect. -/
theorem routinesEndTheirStep : Obligations.RoutinesEndTheirStep := by
  intro s c p ga hp he h t r x v next routine
  exact ⟨sdone_leaves hp he h, sfail_effect hp he h, chain_leaves hp he h⟩

end Sys2Proof.Machine
end

section
/-! SIGNAL and RESUME (R45, R65, R128, R346): the codes in gd, and what they do to a context of the device. -/
namespace Sys2Proof.Machine

/-! A reason in gd. -/
/-- SIGNAL or RESUME that answers a reason and changes no context. -/
theorem gives_reason {c : Instr} {s : State} {t : Thread} {p : Pfx} {gd : Reg} {n : Nat} (d : Dec) (body : State → Eff)
    (hx : exec c s = onCore (issue t p d body) s) (h : Ready s t p d.regs) (hl : illegal p d = false) (hb : body s = putReason t gd n s) :
    Gives c s t p ((regsOf s t).setG gd (BitVec.ofNat 64 n)) :=
  gives_of_done d body _ hx h hl hb
/-- SIGNAL or RESUME that changes a context and answers 0, when neither the registers nor the state of its own thread changed. -/
theorem answers_reason {c : Instr} {s w : State} {t : Thread} {p : Pfx} {gd : Reg} (d : Dec) (body : State → Eff)
    (hx : exec c s = onCore (issue t p d body) s) (h : Ready s t p d.regs) (hl : illegal p d = false) (hp : p.rep = false) (he : p.ext = none)
    (hb : body s = putReason t gd 0 w) (hr : regsOf w t = regsOf s t) : Answers c s fun u =>
      regsOf u t = { (regsOf s t).setG gd 0 with pc := (regsOf s t).pc + 4 } ∧ (NoSaved w t → thrOf u t = thrOf w t) ∧ OnlyThread w u t := by
  rw [putReason, hr] at hb
  exact answers_of_done d body hx h hl hp he hb

/-! The target of a value (R45). -/
theorem target_ctx (v : DWord) : BitVec.ofNat 18 v.toNat = v.extractLsb' 0 18 := BitVec.eq_of_toNat_eq (by simp)
/-- A value of 18 bits names a context of this device. -/
theorem target_own {v : DWord} (h : v.extractLsb' 18 46 = 0) : fld v 26 38 = 0 ∧ fld v 18 8 = 0 := by
  have hv : v.toNat / 2 ^ 18 = 0 := by
    have h0 := (fld_eq_zero v 18 46).mpr h
    have := v.isLt
    rw [fld, Nat.shiftRight_eq_div_pow] at h0
    omega
  constructor <;> rw [fld, Nat.shiftRight_eq_div_pow] <;> omega
theorem isLocal_zero (s : State) : isLocal s 0#8 = true := rfl

/-! The bodies. -/
theorem signalIns_noTarget {s : State} {t : Thread} {gd ga gb : Reg} (h : ((regsOf s t).gr ga).extractLsb' 26 38 ≠ 0) :
    signalIns t gd ga gb s = putReason t gd 9 s := if_pos fun e => h ((fld_eq_zero _ _ _).mp e)
theorem resumeIns_noTarget {s : State} {t : Thread} {gd ga gb : Reg} (h : ((regsOf s t).gr ga).extractLsb' 26 38 ≠ 0) :
    resumeIns t gd ga gb s = putReason t gd 9 s := if_pos fun e => h ((fld_eq_zero _ _ _).mp e)
theorem signalIns_nothing {s : State} {t : Thread} {gd ga gb : Reg} (h : fld ((regsOf s t).gr ga) 26 38 = 0) (hb : (regsOf s t).gr gb = 0) :
    signalIns t gd ga gb s = putReason t gd 0 s := by
  simp only [signalIns]
  rw [if_neg (not_not.mpr h), if_pos hb]
theorem signalIns_own {s : State} {t : Thread} {gd ga gb : Reg} (h : ((regsOf s t).gr ga).extractLsb' 18 46 = 0) (hb : (regsOf s t).gr gb ≠ 0) :
    signalIns t gd ga gb s = putReason t gd (ctxSignal s (((regsOf s t).gr ga).extractLsb' 0 18) (((regsOf s t).gr gb).setWidth 32)).2
      (ctxSignal s (((regsOf s t).gr ga).extractLsb' 0 18) (((regsOf s t).gr gb).setWidth 32)).1 := by
  obtain ⟨h1, h2⟩ := target_own h
  simp only [signalIns]
  rw [if_neg (not_not.mpr h1), if_neg hb, h2, if_pos (isLocal_zero s), target_ctx]
theorem resumeIns_own {s : State} {t : Thread} {gd ga gb : Reg} (h : ((regsOf s t).gr ga).extractLsb' 18 46 = 0) :
    resumeIns t gd ga gb s = putReason t gd (ctxResume s (((regsOf s t).gr ga).extractLsb' 0 18) ((regsOf s t).gr gb)).2
      (ctxResume s (((regsOf s t).gr ga).extractLsb' 0 18) ((regsOf s t).gr gb)).1 := by
  obtain ⟨h1, h2⟩ := target_own h
  simp only [resumeIns]
  rw [if_neg (not_not.mpr h1), h2, if_pos (isLocal_zero s), target_ctx]
/-- A message for a device that is not present is not sent. -/
theorem sendRemote_absent {s : State} {a : Byte} (h : presentDev s a = false) (typ : Byte) (body : List Byte) (own : SendOwner) :
    sendRemote s a typ body own = .inl 0x13 := by simp [sendRemote, h]
theorem remoteIns_absent {s : State} {t : Thread} {a : Byte} (h : presentDev s a = false) (hs : thrSuppressed s t = false) (gd : Reg) (typ : Byte)
    (body : List Byte) : remoteIns t gd a typ body s = putReason t gd 0x13 s := by
  simp [remoteIns, hs, sendRemote_absent h]
theorem isLocal_other {s : State} {a : Byte} (h0 : a ≠ 0) (hs : a ≠ s.rm.addr) : isLocal s a = false := by
  simp only [isLocal, Bool.or_eq_false_iff, beq_eq_false_iff_ne]
  exact ⟨h0, hs⟩
theorem signalIns_absent {s : State} {t : Thread} {gd ga gb : Reg} (h : ((regsOf s t).gr ga).extractLsb' 26 38 = 0) (hb : (regsOf s t).gr gb ≠ 0)
    (h0 : ((regsOf s t).gr ga).extractLsb' 18 8 ≠ 0) (hown : ((regsOf s t).gr ga).extractLsb' 18 8 ≠ s.rm.addr)
    (hp : presentDev s (((regsOf s t).gr ga).extractLsb' 18 8) = false) (hs : thrSuppressed s t = false) :
    signalIns t gd ga gb s = putReason t gd 0x13 s := by
  have hl : ¬isLocal s (((regsOf s t).gr ga).extractLsb' 18 8) = true := by rw [isLocal_other h0 hown]; exact Bool.false_ne_true
  simp only [signalIns]
  rw [if_neg (not_not.mpr ((fld_eq_zero _ _ _).mpr h)), if_neg hb, ofNat_fld, if_neg hl]
  exact remoteIns_absent hp hs gd _ _
theorem resumeIns_absent {s : State} {t : Thread} {gd ga gb : Reg} (h : ((regsOf s t).gr ga).extractLsb' 26 38 = 0)
    (h0 : ((regsOf s t).gr ga).extractLsb' 18 8 ≠ 0) (hown : ((regsOf s t).gr ga).extractLsb' 18 8 ≠ s.rm.addr)
    (hp : presentDev s (((regsOf s t).gr ga).extractLsb' 18 8) = false) (hs : thrSuppressed s t = false) :
    resumeIns t gd ga gb s = putReason t gd 0x13 s := by
  have hl : ¬isLocal s (((regsOf s t).gr ga).extractLsb' 18 8) = true := by rw [isLocal_other h0 hown]; exact Bool.false_ne_true
  simp only [resumeIns]
  rw [if_neg (not_not.mpr ((fld_eq_zero _ _ _).mpr h)), ofNat_fld, if_neg hl]
  exact remoteIns_absent hp hs gd _ _

/-! The targets (R65, R177). -/
theorem ctxSignal_gone {s : State} {d : CtxId} (bits : Word) (h : stOf s d = .free ∨ stOf s d = .halted) : ctxSignal s d bits = (s, 0x13) := by
  obtain e | e := h <;> simp [ctxSignal, e]
theorem ctxResume_gone {s : State} {d : CtxId} (a : DWord) (h : stOf s d = .free ∨ stOf s d = .halted) : ctxResume s d a = (s, 0x13) := by
  obtain e | e := h <;> simp [ctxResume, e]
theorem ctxResume_notHeld {s : State} {d : CtxId} (a : DWord) (h : stOf s d = .idle ∨ stOf s d = .ready ∨ stOf s d = .resident ∨ stOf s d = .waiting) :
    ctxResume s d a = (s, 0) := by
  obtain e | e | e | e := h <;> simp [ctxResume, e]
/-- A HELD context whose chain will pass the HOLD of its step: what RESUME writes before it becomes ready. -/
def heldGoes (s : State) (d : CtxId) : State :=
  setThr (setSlotRegs s d.toNat none) (.ctx d) { thrOf s (.ctx d) with holdPass := decide ((thrOf s (.ctx d)).phase ≠ .code), line := none }
theorem ctxResume_held {s : State} {d : CtxId} {a : DWord} (h : stOf s d = .held) (hf : ctxFenced s d = false) (hu : inSlot s d = true → recUpset s d = false)
    (ha : a = 0 ∨ a = (thrOf s (.ctx d)).heldAt) : ctxResume s d a = (becomeReady (heldGoes s d) d, 0) := by
  have hl : readyLoad (heldGoes s d) d = becomeReady (heldGoes s d) d := by
    refine if_neg fun e => ?_
    obtain ⟨hi, hr⟩ := Bool.and_eq_true_iff.mp e
    exact Bool.false_ne_true ((hu hi).symm.trans hr)
  rw [← hl]
  simp only [ctxResume, h, hf]
  exact if_pos ⟨ha, rfl⟩
theorem heldGoes_effect (s : State) (d : CtxId) : let u := becomeReady (heldGoes s d) d
    Awake s u d ∧ (liveOf u d).pend = (liveOf s d).pend ∧ CtxOnly s u d := by
  have hw := becomeReady_awake (heldGoes s d) d
  have hl := liveOf_becomeReady (heldGoes s d) d
  exact ⟨hw, by rw [hl]; rfl, ((CtxOnly.setSlotRegs s d none).trans (.setThr _ d _)).trans (.becomeReady _ d)⟩

/-! What a local target leaves. -/
section
variable {s : State} {t : Thread} {p : Pfx} {gd ga gb : Reg}

theorem exec_signal (s : State) (t : Thread) (p : Pfx) (gd ga gb : Reg) :
    exec (.signal t p gd ga gb) s = onCore (issue t p (waitDec gd ga gb 2 true [gd, ga, gb]) (signalIns t gd ga gb)) s := rfl
theorem exec_resume (s : State) (t : Thread) (p : Pfx) (gd ga gb : Reg) :
    exec (.resume t p gd ga gb) s = onCore (issue t p (waitDec gd ga gb 3 true [gd, ga, gb]) (resumeIns t gd ga gb)) s := rfl
theorem signal_gives {n : Nat} (h : Ready s t p [gd, ga, gb]) (hp : p.rep = false) (he : p.ext = none) (hb : signalIns t gd ga gb s = putReason t gd n s) :
    Gives (.signal t p gd ga gb) s t p ((regsOf s t).setG gd (BitVec.ofNat 64 n)) :=
  gives_reason _ _ (exec_signal s t p gd ga gb) h (legal_plain hp he rfl) hb
theorem resume_gives {n : Nat} (h : Ready s t p [gd, ga, gb]) (hp : p.rep = false) (he : p.ext = none) (hb : resumeIns t gd ga gb s = putReason t gd n s) :
    Gives (.resume t p gd ga gb) s t p ((regsOf s t).setG gd (BitVec.ofNat 64 n)) :=
  gives_reason _ _ (exec_resume s t p gd ga gb) h (legal_plain hp he rfl) hb
theorem signal_pends (h : Ready s t p [gd, ga, gb]) (hp : p.rep = false) (he : p.ext = none) (hv : ((regsOf s t).gr ga).extractLsb' 18 46 = 0)
    (hb : (regsOf s t).gr gb ≠ 0) {d : CtxId} (hd : d = ((regsOf s t).gr ga).extractLsb' 0 18)
    (hst : stOf s d = .idle ∨ stOf s d = .ready ∨ stOf s d = .resident ∨ stOf s d = .held) : Answers (.signal t p gd ga gb) s fun u =>
      regsOf u t = { (regsOf s t).setG gd 0 with pc := (regsOf s t).pc + 4 } ∧ thrOf u t = thrOf s t ∧
        liveOf u d = { liveOf s d with pend := (liveOf s d).pend ||| ((regsOf s t).gr gb).setWidth 32 } ∧ OtherLive s u d ∧ OtherThreads s u t ∧
        SameMemory s u := by
  have hs := ctxSignal_quiet (((regsOf s t).gr gb).setWidth 32) hst
  have hbody := signalIns_own (gd := gd) hv hb
  rw [← hd, hs] at hbody
  obtain ⟨u, hu, hr, ht, ho⟩ := answers_reason _ _ (exec_signal s t p gd ga gb) h (legal_plain hp he rfl) hp he hbody (regsOf_setLive _ _ _ _)
  have hw := CtxOnly.setLive s d { liveOf s d with pend := (liveOf s d).pend ||| ((regsOf s t).gr gb).setWidth 32 }
  exact ⟨u, hu, hr, ht (noSaved_setLive (canIssue_noSaved h.1) d _ rfl), by rw [ho.liveOf, liveOf_setLive_same], fun e he => (ho.liveOf e).trans (hw.live e he),
    fun v hv => ⟨(ho.1 v hv).1.trans (regsOf_setLive s d _ v), (ho.1 v hv).2⟩, hw.sameMemory.trans ho.sameMemory⟩
theorem resume_wakes (h : Ready s t p [gd, ga, gb]) (hp : p.rep = false) (he : p.ext = none) (hv : ((regsOf s t).gr ga).extractLsb' 18 46 = 0)
    {d : CtxId} (hd : d = ((regsOf s t).gr ga).extractLsb' 0 18) (hst : stOf s d = .held) (hne : t ≠ .ctx d) (hf : ctxFenced s d = false)
    (hup : inSlot s d = true → recUpset s d = false) (ha : (regsOf s t).gr gb = 0 ∨ (regsOf s t).gr gb = (thrOf s (.ctx d)).heldAt) :
    Answers (.resume t p gd ga gb) s fun u =>
      regsOf u t = { (regsOf s t).setG gd 0 with pc := (regsOf s t).pc + 4 } ∧ Awake s u d ∧ (liveOf u d).pend = (liveOf s d).pend ∧
        OtherLive s u d ∧ SameMemory s u := by
  obtain ⟨⟨hwst, hwk, hwait⟩, hpend, hw⟩ := heldGoes_effect s d
  have hbody := resumeIns_own (gd := gd) (gb := gb) hv
  rw [← hd, ctxResume_held hst hf hup ha] at hbody
  obtain ⟨u, hu, hr, -, ho⟩ := answers_reason _ _ (exec_resume s t p gd ga gb) h (legal_plain hp he rfl) hp he hbody (hw.threads t hne).1
  refine ⟨u, hu, hr, ⟨?_, ?_, ?_⟩, ?_, fun e he => (ho.liveOf e).trans (hw.live e he), hw.sameMemory.trans ho.sameMemory⟩
  · rw [stOf, ho.liveOf]
    exact hwst
  · rw [ho.liveOf, hwk]
  · rw [(ho.1 (.ctx d) (Ne.symm hne)).2, hwait]
  · rw [ho.liveOf, hpend]
end

/-- Settles O24: the codes by the bodies' cases, the two effects by what a target makes of them. -/
theorem signalsAndResumesReachContexts : Obligations.SignalsAndResumesReachContexts := by
  intro s t p gd ga gb h hp he r v d bits held signal resume
  refine ⟨fun hv => ⟨signal_gives h hp he (signalIns_noTarget hv), resume_gives h hp he (resumeIns_noTarget hv)⟩, fun hv => ⟨fun hst => ⟨?_, fun hb => ?_⟩,
    fun hb => signal_gives h hp he (signalIns_nothing (target_own hv).1 hb), fun hb => signal_pends h hp he hv hb rfl,
    resume_wakes h hp he hv rfl, fun hst => ?_⟩, fun hv hb h0 hown hpr hs =>
    ⟨signal_gives h hp he (signalIns_absent hv hb h0 hown hpr hs), resume_gives h hp he (resumeIns_absent hv h0 hown hpr hs)⟩⟩
  · exact resume_gives (n := 0x13) h hp he (by rw [resumeIns_own hv, ctxResume_gone _ hst])
  · exact signal_gives (n := 0x13) h hp he (by rw [signalIns_own hv hb, ctxSignal_gone _ hst])
  · exact resume_gives (n := 0) h hp he (by rw [resumeIns_own hv, ctxResume_notHeld _ hst])

end Sys2Proof.Machine
end

section
/-! WAITE, WAITT, YIELD, SUSP and WFI, and the time of a wait that comes (R43, R127, R128, R133, R177, R412). -/
namespace Sys2Proof.Machine

/-! WAITE (R127). -/
/-- An instruction that completes without any change of its own. -/
theorem gives_of_unchanged {c : Instr} {s : State} {t : Thread} {p : Pfx} (d : Dec) (body : State → Eff) (hx : exec c s = onCore (issue t p d body) s)
    (h : Ready s t p d.regs) (hl : illegal p d = false) (hb : body s = .done s) : Gives c s t p (regsOf s t) :=
  leaves_of_done d body s hx h hl hb (onlyThread_refl s t)
/-- What WAITE leaves in the registers when it ends with bits v (R127): gd, EVAL and Z. -/
def waited (r : Regs) (gd : Reg) (v : Word) : Regs := { r.setG gd (v.setWidth 64) with eval := v.setWidth 64, sr := srZ r.sr (v = 0) }
/-- A WAITE forgets the destination of one that was abandoned (R152). -/
def unabandoned (s : State) (c : CtxId) : State := setThr s (.ctx c) { thrOf s (.ctx c) with abandoned := none }

section
variable {s : State} {c : CtxId} {p : Pfx} {gd ga gb : Reg}

theorem exec_waite (s : State) (c : CtxId) (p : Pfx) (gd ga gb : Reg) : exec (.waite (.ctx c) p gd ga gb) s =
    onCore (issue (.ctx c) p (waitDec gd ga gb 0 (!isMp (.ctx c)) [gd, ga, gb]) (waiteIns (.ctx c) gd ga gb)) s := rfl
/-- WAITE by its cases: bits of the mask that are pending, nothing to wait for, or a wait. -/
theorem waiteIns_eq (s : State) (c : CtxId) (gd ga gb : Reg) : let r := regsOf s (.ctx c)
    let mask : Word := (r.gr ga).setWidth 32
    let hit := (liveOf s c).pend &&& mask
    waiteIns (.ctx c) gd ga gb s =
      if hit ≠ 0 then .done (setRegs (setLive (unabandoned s c) c { liveOf s c with pend := (liveOf s c).pend &&& ~~~hit }) (.ctx c) (waited r gd hit))
      else if (r.gr ga = 0 ∧ r.gr gb = 0) ∨ (r.gr gb ≠ 0 ∧ (r.gr gb).toNat ≤ s.time.now.toNat) then .done (setRegs (unabandoned s c) (.ctx c) (waited r gd 0))
      else .stay (beginWait (unabandoned s c) c (if r.gr gb = 0 then 1 else if r.gr ga = 0 then 2 else 3)
        { mask := mask, till := if r.gr gb = 0 then none else some (r.gr gb), gd := some gd }) := by
  simp only [waiteIns, unabandoned, regsOf_setThr, liveOf_setThr, timeGe, decide_eq_true_eq, setFld_one, waited, srZ]
  rfl
theorem unabandoned_only (s : State) (c : CtxId) : OnlyThread s (unabandoned s c) (.ctx c) := onlyThread_setThr _ _ _ _ (onlyThread_refl s _)
theorem waite_hit (hp : p.rep = false) (he : p.ext = none) (h : Ready s (.ctx c) p [gd, ga, gb])
    {m : Word} (hm : m = ((regsOf s (.ctx c)).gr ga).setWidth 32) (hit : (liveOf s c).pend &&& m ≠ 0) : Answers (.waite (.ctx c) p gd ga gb) s fun u =>
      regsOf u (.ctx c) = { waited (regsOf s (.ctx c)) gd ((liveOf s c).pend &&& m) with pc := (regsOf s (.ctx c)).pc + 4 } ∧
        liveOf u c = { liveOf s c with pend := (liveOf s c).pend &&& ~~~m } ∧ OtherLive s u c ∧ OtherThreads s u (.ctx c) ∧ SameMemory s u := by
  have hb := waiteIns_eq s c gd ga gb
  simp only [← hm] at hb
  rw [if_pos hit, and_not_and] at hb
  obtain ⟨u, hu, hr, -, ho⟩ := answers_of_done _ _ (exec_waite s c p gd ga gb) h (legal_plain hp he rfl) hp he hb
  have hw := (CtxOnly.setThr s c { thrOf s (.ctx c) with abandoned := none }).trans
    (.setLive (unabandoned s c) c { liveOf s c with pend := (liveOf s c).pend &&& ~~~m })
  exact ⟨u, hu, hr, by rw [ho.liveOf, liveOf_setLive_same], fun d hd => (ho.liveOf d).trans (hw.live d hd), OtherThreads.trans hw.threads ho.1,
    SameMemory.trans hw.sameMemory ho.sameMemory⟩
theorem waite_ends (hp : p.rep = false) (he : p.ext = none) (h : Ready s (.ctx c) p [gd, ga, gb])
    (hit : (liveOf s c).pend &&& ((regsOf s (.ctx c)).gr ga).setWidth 32 = 0)
    (hend : ((regsOf s (.ctx c)).gr ga = 0 ∧ (regsOf s (.ctx c)).gr gb = 0) ∨
      ((regsOf s (.ctx c)).gr gb ≠ 0 ∧ ((regsOf s (.ctx c)).gr gb).toNat ≤ s.time.now.toNat)) :
    Leaves (.waite (.ctx c) p gd ga gb) s (.ctx c) { waited (regsOf s (.ctx c)) gd 0 with pc := (regsOf s (.ctx c)).pc + 4 }
      { thrOf s (.ctx c) with abandoned := none } := by
  have hb := waiteIns_eq s c gd ga gb
  simp only at hb
  rw [if_neg (not_not.mpr hit), if_pos hend] at hb
  obtain ⟨u, hu, hr, ht, ho⟩ := answers_of_done _ _ (exec_waite s c p gd ga gb) h (legal_plain hp he rfl) hp he hb
  exact ⟨u, hu, hr, (ht (noSaved_setThr (canIssue_noSaved h.1))).trans (thrOf_setThr_same s _ _), OnlyThread.trans (unabandoned_only s c) ho⟩
theorem waite_waits (hp : p.rep = false) (he : p.ext = none) (h : Ready s (.ctx c) p [gd, ga, gb])
    (hit : (liveOf s c).pend &&& ((regsOf s (.ctx c)).gr ga).setWidth 32 = 0)
    (hend : ¬(((regsOf s (.ctx c)).gr ga = 0 ∧ (regsOf s (.ctx c)).gr gb = 0) ∨
      ((regsOf s (.ctx c)).gr gb ≠ 0 ∧ ((regsOf s (.ctx c)).gr gb).toNat ≤ s.time.now.toNat)))
    {k : BitVec 4} (hk : (if (regsOf s (.ctx c)).gr gb = 0 then 1 else if (regsOf s (.ctx c)).gr ga = 0 then 2 else 3 : BitVec 4) = k)
    {till : Option DWord} (htill : (if (regsOf s (.ctx c)).gr gb = 0 then none else some ((regsOf s (.ctx c)).gr gb)) = till) :
    Answers (.waite (.ctx c) p gd ga gb) s fun u =>
      WaitsFor u c k { mask := ((regsOf s (.ctx c)).gr ga).setWidth 32, till := till, gd := some gd } ∧ (regsOf u (.ctx c)).pc = (regsOf s (.ctx c)).pc ∧
        OtherLive s u c ∧ SameMemory s u := by
  have hb := waiteIns_eq s c gd ga gb
  simp only at hb
  rw [if_neg (not_not.mpr hit), if_neg hend, hk, htill] at hb
  obtain ⟨hw, -, hpc, ho, hm⟩ := beginWait_effect (unabandoned s c) c k { mask := ((regsOf s (.ctx c)).gr ga).setWidth 32, till := till, gd := some gd }
  exact ⟨_, exec_of_stay _ _ (exec_waite s c p gd ga gb) h (legal_plain hp he rfl) hb, hw, hpc.trans (congrArg Regs.pc (regsOf_setThr s _ _ _)), ho, hm⟩

/-! WAITT (R127). -/
theorem exec_waitt (s : State) (c : CtxId) (p : Pfx) (ga : Reg) : exec (.waitt (.ctx c) p ga) s =
    onCore (issue (.ctx c) p (waitDec 0 ga 0 1 (!isMp (.ctx c)) [ga]) (waittIns (.ctx c) ga)) s := rfl
theorem waitt_due (hp : p.rep = false) (he : p.ext = none) (h : Ready s (.ctx c) p [ga]) (hv : ((regsOf s (.ctx c)).gr ga).toNat ≤ s.time.now.toNat) :
    Gives (.waitt (.ctx c) p ga) s (.ctx c) p (regsOf s (.ctx c)) :=
  gives_of_unchanged _ _ (exec_waitt s c p ga) h (legal_plain hp he rfl) (by simp [waittIns, timeGe, hv])
theorem waitt_waits (hp : p.rep = false) (he : p.ext = none) (h : Ready s (.ctx c) p [ga]) (hv : s.time.now.toNat < ((regsOf s (.ctx c)).gr ga).toNat) :
    Answers (.waitt (.ctx c) p ga) s fun u =>
      WaitsFor u c 2 { till := some ((regsOf s (.ctx c)).gr ga) } ∧ (regsOf u (.ctx c)).pc = (regsOf s (.ctx c)).pc ∧ OtherLive s u c ∧ SameMemory s u := by
  have hb : waittIns (.ctx c) ga s = .stay (beginWait s c 2 { till := some ((regsOf s (.ctx c)).gr ga) }) := by simp [waittIns, timeGe, hv]
  obtain ⟨hw, -, hpc, ho, hm⟩ := beginWait_effect s c 2 { till := some ((regsOf s (.ctx c)).gr ga) }
  exact ⟨_, exec_of_stay _ _ (exec_waitt s c p ga) h (legal_plain hp he rfl) hb, hw, hpc, ho, hm⟩
end

/-! The time of a wait comes (R43, R127). -/
@[simp] theorem inSlot_setRegs (s : State) (t : Thread) (r : Regs) (c : CtxId) : inSlot (setRegs s t r) c = inSlot s c := by
  have hput : ∀ u : State, inSlot (putRegs u t r) c = inSlot u c := fun u => by
    cases t with
    | mp n => rfl
    | ctx d =>
      simp only [putRegs]
      split <;> rfl
  obtain h | ⟨x, h⟩ := setRegs_cases s t r <;> rw [h, hput]
  rfl
/-- A context that keeps a slot has its registers there once they are written. -/
theorem slotRegs_setRegs {s : State} {c : CtxId} (r : Regs) (h : inSlot s c = true) : slotRegs (setRegs s (.ctx c) r) c.toNat = some r := by
  have hset : setRegs s (.ctx c) r = setSlotRegs s c.toNat (some r) := by simp [setRegs, putRegs, h]
  rw [hset, slotRegs_setSlotRegs_same]
/-- A context that has work and whose registers are current, or that keeps no slot, loads no record. -/
theorem withWork_current {s : State} {c : CtxId} (h : inSlot s c = true → (slotRegs s c.toNat).isSome = true) :
    withWork s c = { s with stamp := s.stamp + 1 } := by
  have hc : (inSlot s c && (slotRegs s c.toNat).isNone) = false := by
    cases hi : inSlot s c with
    | false => rfl
    | true => simpa using h hi
  exact if_neg (Bool.not_eq_true _ ▸ hc)
theorem regsOf_stamp (s : State) (n : Nat) (v : Thread) : regsOf { s with stamp := n } v = regsOf s v := by cases v <;> rfl
theorem regsOf_becomeReady {s : State} {c : CtxId} (h : inSlot s c = true → (slotRegs s c.toNat).isSome = true) (v : Thread) :
    regsOf (becomeReady s c) v = regsOf s v := by
  rw [becomeReady_eq, withWork_current h]
  split <;> rw [regsOf_setThr, regsOf_setSt, regsOf_stamp]
/-- A context that waits in code goes on at the next instruction when its time has come. -/
theorem endTimeWait_code {s : State} {c : CtxId} {w : Wait} (hw : (thrOf s (.ctx c)).wait = some w) (hg : w.gd = none) (hp : (thrOf s (.ctx c)).phase = .code) :
    endTimeWait s c = becomeReady (setRegs s (.ctx c) { regsOf s (.ctx c) with pc := (regsOf s (.ctx c)).pc + 4 }) c := by
  simp [endTimeWait, hw, hg, hp]
theorem endTimeWait_code_effect {s : State} {c : CtxId} {w : Wait} (hw : (thrOf s (.ctx c)).wait = some w) (hg : w.gd = none)
    (hp : (thrOf s (.ctx c)).phase = .code) : let u := endTimeWait s c
    Awake s u c ∧ (regsOf u (.ctx c)).pc = (regsOf s (.ctx c)).pc + 4 ∧ CtxOnly s u c := by
  intro u
  have hu : u = _ := endTimeWait_code hw hg hp
  have ha := becomeReady_awake (setRegs s (.ctx c) { regsOf s (.ctx c) with pc := (regsOf s (.ctx c)).pc + 4 }) c
  rw [Awake, inSlot_setRegs] at ha
  rw [hu]
  refine ⟨ha, ?_, (CtxOnly.setRegs s c _).trans (.becomeReady _ c)⟩
  rw [regsOf_becomeReady, regsOf_setRegs_same]
  rw [inSlot_setRegs]
  exact fun hi => by rw [slotRegs_setRegs _ hi]; rfl
theorem timeWaitEnd_wakes {s : State} {c : CtxId} {w : Wait} {d : DWord} (hrun : inRun s = true) (hst : stOf s c = .waiting) (hf : ctxFenced s c = false)
    (hw : (thrOf s (.ctx c)).wait = some w) (hd : w.till = some d) (hg : w.gd = none) (hp : (thrOf s (.ctx c)).phase = .code) :
    Answers (.timeWaitEnd c) s fun u =>
      Awake s u c ∧ (regsOf u (.ctx c)).pc = (regsOf s (.ctx c)).pc + 4 ∧ d.toNat ≤ u.time.now.toNat ∧ OtherLive s u c ∧ SameMemory s u := by
  have hc : clocksOn s = true := by
    rw [inRun, Bool.and_eq_true] at hrun
    exact hrun.1
  have hx : exec (.timeWaitEnd c) s = .next (endTimeWait (atTime s d) c) := by
    change execTimeWaitEnd c s = _
    rw [execTimeWaitEnd, onCore_on _ hc]
    simp [timeWaitEnd, hw, hd, hrun, hst, hf]
  have hnow := atTime_now s d
  obtain ⟨n, hn⟩ := atTime_eq s d
  rw [hn] at hx hnow
  obtain ⟨ha, hpc, ho⟩ := endTimeWait_code_effect (s := { s with time := { s.time with now := n } }) hw hg hp
  have ht := ho.frame State.time rfl
  refine ⟨_, hx, ha, hpc, ?_, ho.live, ho.sameMemory⟩
  rw [ht, hnow]
  exact Nat.le_max_right _ _

/-! YIELD and SUSP (R127, R128, R177, R187). -/
/-- The registers of a context at its next instruction. -/
def atNext (s : State) (c : CtxId) : State := setRegs s (.ctx c) { regsOf s (.ctx c) with pc := (regsOf s (.ctx c)).pc + 4 }
theorem stamp_leaveSlot (s : State) (c : CtxId) : (leaveSlot s c).stamp = s.stamp := by
  obtain ⟨l, h⟩ := leaveSlot_eq s c
  rw [h]
  rfl
theorem stamp_saveRec (s : State) (c : CtxId) (st : CtxState) : (saveRec s c st).stamp = s.stamp := by
  cases h : slotRegs s c.toNat with
  | none => rw [saveRec_none st h]
  | some r =>
    obtain ⟨v, w, e⟩ := saveRec_some st h
    obtain ⟨l, m, hh⟩ := healRec_eq (setThr s (.ctx c) { thrOf s (.ctx c) with saved := v }) c
    rw [e, hh]
    rfl
theorem toReady_eq (s : State) (c : CtxId) : ∃ x : Thr, x.readyAt = s.stamp ∧
    toReady s c = setThr (setSt { leaveSlot (saveRec s c .ready) c with stamp := s.stamp + 1 } c .ready) (.ctx c) x := by
  have hs : (leaveSlot (saveRec s c .ready) c).stamp = s.stamp := by rw [stamp_leaveSlot, stamp_saveRec]
  simp only [toReady, nextStamp, hs]
  exact ⟨_, rfl, rfl⟩
theorem toReady_effect (s : State) (c : CtxId) : let u := toReady s c
    stOf u c = .ready ∧ (liveOf u c).pend = (liveOf s c).pend ∧ (thrOf u (.ctx c)).readyAt = s.stamp ∧ CtxOnly s u c := by
  obtain ⟨x, hx, he⟩ := toReady_eq s c
  have hl : liveOf (toReady s c) c = { liveOf s c with st := .ready, waitk := 0 } := by
    rw [he, liveOf_setThr, liveOf_setSt_same]
    change ({ liveOf (leaveSlot (saveRec s c .ready) c) c with st := .ready, waitk := 0 } : Live) = _
    rw [liveOf_leaveSlot, liveOf_saveRec]
  refine ⟨by rw [stOf, hl], by rw [hl], by rw [he, thrOf_setThr_same, hx], ?_⟩
  rw [he]
  exact ((((CtxOnly.saveRec s c .ready).trans (.leaveSlot _ c)).trans (.stamp _ c _)).trans (.setSt _ c .ready 0)).trans (.setThr _ c x)
theorem enterHeld_effect (s : State) (c : CtxId) : let u := enterHeld s c
    stOf u c = .held ∧ (thrOf u (.ctx c)).heldAt = (thrOf s (.ctx c)).heldAt ∧ (regsOf u (.ctx c)).pc = (regsOf s (.ctx c)).pc ∧ CtxOnly s u c := by
  obtain ⟨v, hv⟩ := thrOf_saveRec s c .held
  refine ⟨?_, ?_, ?_, ?_⟩ <;> unfold enterHeld
  · rw [stOf, liveOf_setSt_same]
  · rw [thrOf_setSt]
    split
    · rw [thrOf_dropRegs, hv]
    · rw [thrOf_leaveSlot, hv]
  · rw [regsOf_setSt]
    split
    · rw [regsOf_dropRegs, recOf_saveRec_pc]
    · rw [regsOf_leaveSlot, recOf_saveRec_pc]
  · refine (CtxOnly.trans (.saveRec s c .held) ?_).trans (.setSt _ c .held 0)
    split
    · exact .dropRegs _ c
    · exact .leaveSlot _ c

section
variable {s : State} {c : CtxId} {p : Pfx}

theorem exec_yield (hp : p.rep = false) (he : p.ext = none) (h : Ready s (.ctx c) p []) :
    exec (.yield (.ctx c) p) s = .next (if pinOf s c then atNext s c else toReady (atNext s c) c) :=
  exec_of_stay (waitDec 0 0 0 4 (!isMp (.ctx c)) []) (yieldIns (.ctx c)) rfl h (legal_plain hp he rfl) rfl
theorem yield_pinned (hp : p.rep = false) (he : p.ext = none) (h : Ready s (.ctx c) p []) (hpin : pinOf s c = true) :
    Leaves (.yield (.ctx c) p) s (.ctx c) { regsOf s (.ctx c) with pc := (regsOf s (.ctx c)).pc + 4 } (thrOf s (.ctx c)) :=
  ⟨atNext s c, by rw [exec_yield hp he h, if_pos hpin], regsOf_setRegs_same _ _ _, thrOf_setRegs (canIssue_noSaved h.1) _ _,
    onlyThread_setRegs _ _ _ _ (onlyThread_refl s _)⟩
theorem yield_ready (hp : p.rep = false) (he : p.ext = none) (h : Ready s (.ctx c) p []) (hpin : pinOf s c = false) :
    Answers (.yield (.ctx c) p) s fun u => stOf u c = .ready ∧ (liveOf u c).pend = (liveOf s c).pend ∧ (thrOf u (.ctx c)).readyAt = s.stamp ∧
      OtherLive s u c ∧ SameMemory s u := by
  obtain ⟨hst, hl, hr, ho⟩ := toReady_effect (atNext s c) c
  have hn : OnlyThread s (atNext s c) (.ctx c) := onlyThread_setRegs _ _ _ _ (onlyThread_refl s _)
  have ho' := (CtxOnly.setRegs s c { regsOf s (.ctx c) with pc := (regsOf s (.ctx c)).pc + 4 }).trans ho
  exact ⟨_, by rw [exec_yield hp he h, if_neg (by simp [hpin])], hst, hl.trans (congrArg Live.pend (hn.liveOf c)), hr.trans (hn.frame State.stamp rfl), ho'.live,
    ho'.sameMemory⟩
theorem susp_holds (hp : p.rep = false) (he : p.ext = none) (h : Ready s (.ctx c) p []) : Answers (.susp (.ctx c) p) s fun u =>
    stOf u c = .held ∧ (thrOf u (.ctx c)).heldAt = (regsOf s (.ctx c)).pc + 4 ∧ (regsOf u (.ctx c)).pc = (regsOf s (.ctx c)).pc + 4 ∧ OtherLive s u c ∧
      SameMemory s u := by
  obtain ⟨hst, ha, hpc, ho⟩ := enterHeld_effect (setThr (atNext s c) (.ctx c) { thrOf s (.ctx c) with heldAt := (regsOf s (.ctx c)).pc + 4 }) c
  have ho' := ((CtxOnly.setRegs s c { regsOf s (.ctx c) with pc := (regsOf s (.ctx c)).pc + 4 }).trans (.setThr _ c _)).trans ho
  refine ⟨_, exec_of_stay (waitDec 0 0 0 5 (!isMp (.ctx c)) []) (suspIns (.ctx c)) rfl h (legal_plain hp he rfl) rfl, hst, ?_, ?_, ho'.live, ho'.sameMemory⟩
  · exact ha.trans (congrArg Thr.heldAt (thrOf_setThr_same _ _ _))
  · exact hpc.trans (by rw [regsOf_setThr, atNext, regsOf_setRegs_same])
end

/-! WFI (R133, R412). -/
theorem openWindow_eq (s : State) (n g : Nat) : ∃ e, openWindow s n g = { s with evt := e } := by
  unfold openWindow
  dsimp only
  split
  · exact ⟨_, rfl⟩
  · exact ⟨s.evt, rfl⟩
theorem openWindows_eq (s : State) (t : Nat) : ∃ e, openWindows s t = { s with evt := e } := by
  unfold openWindows
  split
  · refine List.foldlRecOn _ _ (motive := fun u => ∃ e, u = { s with evt := e }) ⟨s.evt, rfl⟩ fun u hu r _ => ?_
    obtain ⟨e, rfl⟩ := hu
    split
    · exact ⟨e, rfl⟩
    · exact openWindow_eq _ _ _
  · exact ⟨s.evt, rfl⟩
/-- Moderation of a target changes the event controller alone. -/
theorem moderate_eq (s : State) (t : Nat) : ∃ e, moderate s t = { s with evt := e } := by
  unfold moderate
  dsimp only
  split
  · exact ⟨_, rfl⟩
  · split
    · exact openWindows_eq s t
    · split
      · exact openWindows_eq _ t
      · split
        · exact ⟨_, rfl⟩
        · exact ⟨s.evt, rfl⟩
theorem mpIdles_eq (s : State) (n : BitVec 2) : ∃ e, mpIdles s n = { s with evt := e } := by
  unfold mpIdles
  refine List.foldlRecOn _ _ (motive := fun u => ∃ e, u = { s with evt := e }) ⟨s.evt, rfl⟩ fun u hu t _ => ?_
  obtain ⟨e, rfl⟩ := hu
  split
  · exact moderate_eq _ t
  · exact ⟨e, rfl⟩
theorem exec_wfi (s : State) (m : BitVec 2) (p : Pfx) : exec (.wfi (.mp m) p) s =
    onCore (issue (.mp m) p (waitDec 0 0 0 6 (isMp (.mp m)) []) (wfiIns (.mp m))) s := rfl
theorem wfi_pending {s : State} {m : BitVec 2} {p : Pfx} (hp : p.rep = false) (he : p.ext = none) (h : Ready s (.mp m) p []) (hr : mpRequests s m ≠ []) :
    Gives (.wfi (.mp m) p) s (.mp m) p (regsOf s (.mp m)) :=
  gives_of_unchanged _ _ (exec_wfi s m p) h (legal_plain hp he rfl) (by simp [wfiIns, hr])
theorem wfi_waits {s : State} {m : BitVec 2} {p : Pfx} (hp : p.rep = false) (he : p.ext = none) (h : Ready s (.mp m) p []) (hr : mpRequests s m = []) :
    Answers (.wfi (.mp m) p) s fun u =>
      (mpOf u m).wfi = true ∧ (∀ k, k ≠ m → mpOf u k = mpOf s k) ∧ (∀ v, regsOf u v = regsOf s v ∧ thrOf u v = thrOf s v) ∧ SameMemory s u := by
  have hb : wfiIns (.mp m) s = .stay (mpIdles (setMp s m { mpOf s m with wfi := true }) m) := by simp [wfiIns, hr]
  obtain ⟨e, hx⟩ := mpIdles_eq (setMp s m { mpOf s m with wfi := true }) m
  rw [hx] at hb
  refine ⟨_, exec_of_stay _ _ (exec_wfi s m p) h (legal_plain hp he rfl) hb, ?_, mpOf_setMp_other s m _, fun v => ⟨by cases v <;> rfl, rfl⟩, fun _ => rfl⟩
  exact congrArg Mp.wfi (mpOf_setMp_same s m { mpOf s m with wfi := true })

/-- Settles O23: each instruction by the cases of its body, and the time of a WAITT. -/
theorem waitsBeginAndEnd : Obligations.WaitsBeginAndEnd := by
  intro s c p gd ga gb m hp he t r l mask hit due put
  refine ⟨fun h => ⟨waite_hit hp he h rfl, fun h0 hd hn => waite_ends hp he h h0 (.inr ⟨hd, hn⟩), fun h0 ha hd => waite_ends hp he h h0 (.inl ⟨ha, hd⟩),
      fun h0 ha hd => ?_, fun h0 hn => ?_⟩, fun h => ⟨waitt_due hp he h, waitt_waits hp he h⟩, fun w d => timeWaitEnd_wakes,
    fun h => ⟨yield_pinned hp he h, yield_ready hp he h, susp_holds hp he h⟩, fun h => ⟨wfi_pending hp he h, wfi_waits hp he h⟩⟩
  · exact waite_waits hp he h h0 (by rintro (⟨ha', -⟩ | ⟨hd', -⟩) <;> [exact ha ha'; exact hd' hd]) (if_pos hd) (if_pos hd)
  · have hd : due ≠ 0 := fun e => by simp [e] at hn
    exact waite_waits hp he h h0 (by rintro (⟨-, hd'⟩ | ⟨-, hn'⟩) <;> [exact hd hd'; exact absurd hn' (Nat.not_le.mpr hn)]) (if_neg hd) (if_neg hd)

end Sys2Proof.Machine
end

section
/-! The data steps (R41, R42, R46, R47, R60, R205, R520): the channel that each requests, and the writes of CONTROL on the device-port bus. -/
namespace Sys2Proof.Machine

/-! Fields of a step (R34). -/
theorem wPort_eq (w : StepW) : wPort w = (w.lo.extractLsb' 16 8).toNat := fld_eq_extract _ _ _
theorem wCount_eq (w : StepW) : wCount w = (w.lo.extractLsb' 32 32).toNat := fld_eq_extract _ _ _
theorem unit_of_step (w : StepW) : BitVec.ofNat 7 (wPort w) = w.lo.extractLsb' 16 7 := by
  apply BitVec.eq_of_toNat_eq
  simp only [wPort_eq, BitVec.toNat_ofNat, BitVec.extractLsb'_toNat]
  omega
theorem setWidth_unit_of_step (w : StepW) : (BitVec.ofNat 8 (wPort w)).setWidth 7 = w.lo.extractLsb' 16 7 := by
  rw [← unit_of_step]
  apply BitVec.eq_of_toNat_eq
  simp only [BitVec.toNat_setWidth, BitVec.toNat_ofNat]
  omega
/-- What the channels of a step have in common, in terms of the step's fields. -/
theorem stepXfer_eq (s : State) (c : CtxId) (kind : XKind) (n : Nat) : stepXfer s c kind n =
    { kind := kind, cl := BitVec.ofNat 6 (homeOf s c), count := n, left := n, barrier := (thrOf s (.ctx c)).cur.lo.getLsbD 13,
      crcsel := (thrOf s (.ctx c)).cur.lo.extractLsb' 24 3, unit := (thrOf s (.ctx c)).cur.lo.extractLsb' 16 7,
      lvl := if (regsOf s (.ctx c)).ceil = 0 then 0 else 1, flight := s.lnd.num } := by
  simp only [stepXfer, wCrc, ofNat_fld, unit_of_step, stepFlag, bit, ceilOf]

section
variable {s : State} {c : CtxId}

/-! MOVE-OUT, SENSE and MOVE-MEM (R42, R46, R47). -/
theorem chanOf_congr {s u : State} (h : u.mov = s.mov) (k : Nat) : chanOf u k = chanOf s k := by rw [chanOf, h, chanOf]
/-- A data step whose action has changed neither a live word nor memory when it requests its channel: the request is there and the context waits for its
mover. -/
theorem data_answers {i : Instr} {u : State} {x : Xfer} (hx : exec i s = .next (dataChan u c x)) (hl : ∀ d, liveOf u d = liveOf s d) (hm : SameMemory s u) :
    Answers i s fun v => Requested v c.toNat x ∧ (stOf v c = .waiting ∧ (liveOf v c).waitk = 6 ∧ OtherLive s v c ∧ SameMemory s v) ∧ v.dpt = u.dpt := by
  obtain ⟨hr, hst, hk, hlive, hmem, hd⟩ := dataChan_effect u c x
  exact ⟨_, hx, hr, ⟨hst, hk, fun d hd => (hlive d hd).trans (hl d), hm.trans hmem⟩, hd⟩
theorem Answers.imp {i : Instr} {s : State} {P Q : State → Prop} (h : Answers i s P) (hpq : ∀ u, P u → Q u) : Answers i s Q := by
  obtain ⟨u, hx, hu⟩ := h
  exact ⟨u, hx, hpq u hu⟩
theorem exec_moveOut (h : AtStep s c 9) (hm : misaligned (thrOf s (.ctx c)).cur = false) : exec (.moveOut c) s =
    .next (dataChan s c { stepXfer s c .moveOut (wCount (thrOf s (.ctx c)).cur) with
      src := (thrOf s (.ctx c)).cur.hi, srcList := wList (thrOf s (.ctx c)).cur }) := by
  change execMoveOut c s = _
  rw [execMoveOut, onStep_runs _ h rfl (by simp)]
  simp [moveOutGo, hm]
theorem exec_senseStep (h : AtStep s c 0x11) : exec (.senseStep c) s =
    .next (dataChan s c { stepXfer s c .sense (Nat.min (wCount (thrOf s (.ctx c)).cur) 32) with dst := (thrOf s (.ctx c)).cur.hi }) := by
  change execSenseStep c s = _
  rw [execSenseStep, onStep_runs _ h rfl (by simp)]
  rfl
theorem exec_moveMem {r : Run} (h : AtStep s c 0xA) (hr : (thrOf s (.ctx c)).run = some r)
    (hd : (thrOf s (.ctx c)).cur.lo.getLsbD 14 = true → (thrOf s (.ctx c)).cur.hi.toNat % 16 = 0)
    (hs : (thrOf s (.ctx c)).src.lo.getLsbD 14 = true → (thrOf s (.ctx c)).src.hi.toNat % 16 = 0) : exec (.moveMem c) s =
    .next (dataChan (setThr s (.ctx c) { thrOf s (.ctx c) with run := some r, wqMove := none }) c { stepXfer s c .moveMem (wCount (thrOf s (.ctx c)).cur) with
      dst := (thrOf s (.ctx c)).cur.hi, dstList := wList (thrOf s (.ctx c)).cur, drop := (thrOf s (.ctx c)).cur.lo.getLsbD 10,
      src := (thrOf s (.ctx c)).src.hi, srcList := wList (thrOf s (.ctx c)).src, fs := (thrOf s (.ctx c)).src.lo.getLsbD 32,
      fd := (thrOf s (.ctx c)).src.lo.getLsbD 33, unit := 0 }) := by
  have hw : (thrOf s (.ctx c)).wqMove = none := h.2.2.2
  have hok : ((wList (thrOf s (.ctx c)).cur && decide ((thrOf s (.ctx c)).cur.hi.toNat % 16 ≠ 0)) ||
      (wList (thrOf s (.ctx c)).src && decide ((thrOf s (.ctx c)).src.hi.toNat % 16 ≠ 0))) = false := by
    rw [Bool.eq_false_iff]
    simp only [ne_eq, Bool.or_eq_true, Bool.and_eq_true, decide_eq_true_eq, not_or, not_and, not_not]
    exact ⟨hd, hs⟩
  change execMoveMem c s = _
  rw [execMoveMem, onStep_runs _ h rfl (by simp)]
  simp only [moveMemGo, hok, hr, hw]
  rfl
/-- A MOVE-MEM whose list is not aligned fails with CHAIN_BAD (R60, R68). -/
theorem exec_moveMem_bad (h : AtStep s c 0xA)
    (hb : ((thrOf s (.ctx c)).cur.lo.getLsbD 14 = true ∧ (thrOf s (.ctx c)).cur.hi.toNat % 16 ≠ 0) ∨
      ((thrOf s (.ctx c)).src.lo.getLsbD 14 = true ∧ (thrOf s (.ctx c)).src.hi.toNat % 16 ≠ 0)) (hg : GoesOn (thrOf s (.ctx c))) :
    exec (.moveMem c) s = .next (finishStep s c sCHAIN (stepCount (thrOf s (.ctx c))) 9) := by
  have hbad : ((wList (thrOf s (.ctx c)).cur && decide ((thrOf s (.ctx c)).cur.hi.toNat % 16 ≠ 0)) ||
      (wList (thrOf s (.ctx c)).src && decide ((thrOf s (.ctx c)).src.hi.toNat % 16 ≠ 0))) = true := by
    simp only [Bool.or_eq_true, Bool.and_eq_true, decide_eq_true_eq]
    exact hb
  change execMoveMem c s = _
  rw [execMoveMem, onStep_runs _ h rfl (by simp)]
  simp only [moveMemGo, hbad, hg.fenceWait]
  rfl

/-! Stores of a step (R55, R441, R442). -/
theorem wrBytes_eq (ag : Agent) (lvl : Lvl) (bs : List Byte) (s : State) (a : Nat) : ∃ m, wrBytes s ag lvl a bs = { s with mem := m } := by
  induction bs generalizing s a with
  | nil => exact ⟨s.mem, rfl⟩
  | cons b bs ih =>
    unfold wrBytes
    split
    · exact ih _ _
    · exact ih _ _
/-- A store changes memory, the errors and the corrections noted of it, and the flag of R5 alone. -/
theorem storeBytes_eq (s : State) (ag : Agent) (lvl : Lvl) (a : Nat) (bs : List Byte) : ∃ m up corr r,
    storeBytes s ag lvl a bs = { s with mem := m, memc := { s.memc with upset := up, corr := corr }, reg := { s.reg with rsvd := r } } := by
  unfold storeBytes
  split
  · next k _ =>
    obtain ⟨up, hup⟩ := healWords_eq s k bs.length
    obtain ⟨corr, hcorr⟩ := dropCorr_eq (healWords s k bs.length) k bs.length
    rw [hup] at hcorr
    obtain ⟨m, hm⟩ := wrBytes_eq ag lvl bs { s with memc := { s.memc with upset := up, corr := corr } } a
    exact ⟨m, up, corr, s.reg.rsvd || touchesSend s k bs.length, by rw [hup, hcorr, hm, rsvdIf_eq]⟩
  · obtain ⟨m, hm⟩ := wrBytes_eq ag lvl bs s a
    exact ⟨m, s.memc.upset, s.memc.corr, s.reg.rsvd, hm⟩
/-- The mark of a bad step is a store, when it is made at all. -/
theorem markBad_frame {α : Type} (f : State → α) (s : State) (c : CtxId) (st : Nat)
    (h : ∀ m up corr r, f { s with mem := m, memc := { s.memc with upset := up, corr := corr }, reg := { s.reg with rsvd := r } } = f s) :
    f (markBad s c st) = f s := by
  unfold markBad
  dsimp only
  split
  · split
    · obtain ⟨m, up, corr, r, e⟩ := storeBytes_eq s (ctxAgent s c) (ceilOf (regsOf s (.ctx c))) (regsOf s (.ctx c)).stpa.toNat (leBytes 4 (leNat ‹_› ||| 0x8000_0000))
      rw [e]
      exact h m up corr r
    · rfl
  · rfl
theorem regsOf_markBad (s : State) (c : CtxId) (st : Nat) (v : Thread) : regsOf (markBad s c st) v = regsOf s v :=
  markBad_frame (regsOf · v) s c st fun _ _ _ _ => by cases v <;> rfl
theorem moveMem_fails (h : AtStep s c 0xA)
    (hb : ((thrOf s (.ctx c)).cur.lo.getLsbD 14 = true ∧ (thrOf s (.ctx c)).cur.hi.toNat % 16 ≠ 0) ∨
      ((thrOf s (.ctx c)).src.lo.getLsbD 14 = true ∧ (thrOf s (.ctx c)).src.hi.toNat % 16 ≠ 0))
    (hsrc : (thrOf s (.ctx c)).src.lo.extractLsb' 0 8 = 0xB) (hn : HasNextOnly (thrOf s (.ctx c))) (hr : (regsOf s (.ctx c)).repa = 0) :
    Answers (.moveMem c) s fun v => chanOf v c.toNat = none ∧ (regsOf v (.ctx c)).stpa = (regsOf s (.ctx c)).stpa + 32 ∧
      (thrOf v (.ctx c)).phase = .fetch ∧ OtherLive s v c ∧ Fired s v (evlOf s c) (BitVec.ofNat 32 (c.toNat + 0x100000 + 9 * 0x1000000)) := by
  have hg := h.goesOn hn (by decide) (by decide)
  have hact : stepAct (thrOf s (.ctx c)) = 0xA := h.act
  have hsa : fld (thrOf s (.ctx c)).src.lo 0 8 = 0xB := by rw [fld_eq_extract, hsrc]; rfl
  have hsize : stepSize (thrOf s (.ctx c)) = 32 := by simp [stepSize, hact, hsa]
  have hfin := finishStep_fails (st := sCHAIN) (stepCount (thrOf s (.ctx c))) 9 hg (by simp [failed]) (by rw [regsOf_markBad]; exact hr)
  rw [hsize] at hfin
  have hline : evlOf (markBad s c sCHAIN) c = evlOf s c := markBad_frame (evlOf · c) s c _ fun _ _ _ _ => rfl
  have hev := ctxEvent_fired (markBad s c sCHAIN) c 1 9
  rw [hline] at hev
  have hlive : ∀ d, liveOf (ctxEvent (markBad s c sCHAIN) c 1 9) d = liveOf s d := fun d =>
    (liveOf_ctxEvent _ _ _ _ _).trans (markBad_frame (liveOf · d) s c _ fun _ _ _ _ => rfl)
  have hns : NoSaved (ctxEvent (markBad s c sCHAIN) c 1 9) (.ctx c) := fun d hd => by
    rw [stOf, hlive]
    exact h.noSaved d hd
  have hmov : (ctxEvent (markBad s c sCHAIN) c 1 9).mov = s.mov :=
    (ctxEvent_frame State.mov _ _ _ _ fun _ => rfl).trans (markBad_frame State.mov s c _ fun _ _ _ _ => rfl)
  obtain ⟨hr', ht', ho'⟩ := goOn_onward hns (onlyThread_refl _ _) ((regsOf s (.ctx c)).stpa + 32)
  refine ⟨_, (exec_moveMem_bad h hb hg).trans (congrArg _ hfin), ?_, ?_, ?_, fun d _ => (ho'.liveOf d).trans (hlive d), ?_⟩
  · exact (chanOf_congr ((ho'.frame State.mov rfl).trans hmov) _).trans (engineOn_chan h.1)
  · exact congrArg Regs.stpa hr'
  · exact congrArg Thr.phase ht'
  · exact hev.congr (markBad_frame (·.evt.src) s c _ fun _ _ _ _ => rfl) (markBad_frame (·.reg.tabA) s c _ fun _ _ _ _ => rfl)
      (markBad_frame State.time s c _ fun _ _ _ _ => rfl) (ho'.frame (·.evt.src) rfl)

/-! MOVE-IN (R41). -/
/-- The state in which a MOVE-IN has taken the oldest unit of transfer of its unit. -/
def tookUnit (s : State) (c : CtxId) (r : Run) (d : RxRec) (rest : List RxRec) : State :=
  setThr (setUnit s (wPort (thrOf s (.ctx c)).cur) { unitOf s (wPort (thrOf s (.ctx c)).cur) with rx := rest }) (.ctx c)
    { thrOf s (.ctx c) with run := some { r with inData := d.bytes, inEnd := some d.fin }, taken := some (d.bytes, d.fin) }
theorem exec_moveIn (h : AtStep s c 8) : exec (.moveIn c) s = .next (moveInGo c s) := by
  change execMoveIn c s = _
  exact onStep_runs _ h rfl (by simp)
theorem exec_moveIn_takes {r : Run} {d : RxRec} {rest : List RxRec} (h : AtStep s c 8) (hm : misaligned (thrOf s (.ctx c)).cur = false)
    (hr : (thrOf s (.ctx c)).run = some r) (he : r.inEnd = none) (hc : notCapture s (wPort (thrOf s (.ctx c)).cur) = false)
    (hrx : (unitOf s (wPort (thrOf s (.ctx c)).cur)).rx = d :: rest) : exec (.moveIn c) s =
    .next (dataChan (tookUnit s c r d rest) c { stepXfer s c .moveIn (Nat.min (wCount (thrOf s (.ctx c)).cur) d.bytes.length) with
      dst := (thrOf s (.ctx c)).cur.hi, dstList := wList (thrOf s (.ctx c)).cur, drop := (thrOf s (.ctx c)).cur.lo.getLsbD 10, data := d.bytes }) := by
  rw [exec_moveIn h]
  simp only [moveInGo, hr, hm, he, hc, hrx, moveInChan, thrOf_setThr_same, stepXfer]
  rfl
theorem exec_moveIn_waits {r : Run} (h : AtStep s c 8) (hm : misaligned (thrOf s (.ctx c)).cur = false)
    (hr : (thrOf s (.ctx c)).run = some r) (he : r.inEnd = none) (hc : notCapture s (wPort (thrOf s (.ctx c)).cur) = false)
    (hrx : (unitOf s (wPort (thrOf s (.ctx c)).cur)).rx = []) (hst : (unitOf s (wPort (thrOf s (.ctx c)).cur)).st ≠ .disabled) : exec (.moveIn c) s =
    .next (beginWait (setThr s (.ctx c) { thrOf s (.ctx c) with pwait := some (wPort (thrOf s (.ctx c)).cur) }) c 5 {}) := by
  rw [exec_moveIn h]
  simp [moveInGo, hr, hm, he, hc, hrx, hst]

/-! CONTROL (R47, R520). -/
/-- A write that counts in a digest changes what the device keeps for its context and the pairs alone (R363). -/
theorem digest_eq (s : State) (c : CtxId) (fl : DWord) (bs : List Byte) :
    digest s c fl bs = s ∨ ∃ x m, digest s c fl bs = { setThr s (.ctx c) x with rm := m } := by
  unfold digest
  split
  · exact .inl rfl
  · exact .inr ⟨_, _, rfl⟩
theorem digest_effect (s : State) (c : CtxId) (fl : DWord) (bs : List Byte) : let u := digest s c fl bs
    (∀ v, regsOf u v = regsOf s v) ∧ OtherThreads s u (.ctx c) ∧ SameMemory s u := by
  obtain h | ⟨x, m, h⟩ := digest_eq s c fl bs <;> rw [h]
  · exact ⟨fun _ => rfl, fun _ _ => ⟨rfl, rfl⟩, fun _ => rfl⟩
  · exact ⟨fun v => by cases v <;> rfl, fun v hv => ⟨by cases v <;> rfl, thrOf_setThr_other s (.ctx c) v x hv⟩, fun _ => rfl⟩
/-- The write of a CONTROL step on the bus. -/
def controlBus (w : StepW) : BusOp := { unit := w.lo.extractLsb' 16 7, off := w.hi.extractLsb' 0 16, val := some (w.lo.extractLsb' 32 32) }
/-- The state in which the digest of the flight has taken a CONTROL step. -/
def controlDigest (s : State) (c : CtxId) : State :=
  let w := (thrOf s (.ctx c)).cur
  digest s c s.lnd.num (BitVec.ofNat 8 (wPort w) :: leBytes 2 (BitVec.ofNat 16 (wAddr w)).toNat ++ leBytes 4 (BitVec.ofNat 32 (wCount w)).toNat)
theorem controlGo_eq (h : suppressed s c = false) : controlGo c s = setThr (digDone (controlDigest s c) c) (.ctx c)
    { thrOf (digDone (controlDigest s c) c) (.ctx c) with bus := some (controlBus (thrOf s (.ctx c)).cur) } := by
  have hoff : BitVec.ofNat 16 (wAddr (thrOf s (.ctx c)).cur) = (thrOf s (.ctx c)).cur.hi.extractLsb' 0 16 := BitVec.eq_of_toNat_eq (by simp [wAddr])
  have hval : BitVec.ofNat 32 (wCount (thrOf s (.ctx c)).cur) = (thrOf s (.ctx c)).cur.lo.extractLsb' 32 32 := ofNat_fld _ _ _
  rw [controlBus, ← setWidth_unit_of_step, ← hoff, ← hval]
  simp only [controlGo, h]
  rfl
theorem controlStep_bus (h : AtStep s c 0x10) (hs : suppressed s c = false) : Answers (.controlStep c) s fun v =>
    (thrOf v (.ctx c)).bus = some (controlBus (thrOf s (.ctx c)).cur) ∧ regsOf v (.ctx c) = regsOf s (.ctx c) ∧ OtherThreads s v (.ctx c) ∧ SameMemory s v := by
  obtain ⟨hr, ho, hm⟩ := digest_effect s c s.lnd.num _
  refine ⟨controlGo c s, onStep_runs _ h rfl (by simp), ?_⟩
  rw [controlGo_eq hs]
  exact ⟨congrArg Thr.bus (thrOf_setThr_same _ _ _), (regsOf_setThr _ _ _ _).trans ((regsOf_setThr _ _ _ _).trans (hr _)),
    otherThreads_setThr _ _ _ _ (otherThreads_setThr _ _ _ _ ho), hm⟩
end

/-- Settles O21: each data step by the channel that it requests or the wait that it begins, a bad MOVE-MEM by its failure, CONTROL by its write. -/
theorem dataStepsRequestTheirChannel : Obligations.DataStepsRequestTheirChannel := by
  intro s c t x w n u base waits
  refine ⟨fun h hm => ?_, fun h hb hsrc hn _ hr => moveMem_fails h hb hsrc hn hr, fun r h hr hd hs => ?_, fun h => ?_, fun r d rest h hm hr he hc hrx => ?_,
    fun r h hm hr he hc hrx hst => ?_, controlStep_bus⟩
  · have hx := exec_moveOut h hm
    rw [stepXfer_eq, wCount_eq] at hx
    exact (data_answers hx (fun _ => rfl) fun _ => rfl).imp fun v ⟨hq, hw, _⟩ => ⟨hq, hw⟩
  · have hx := exec_moveMem h hr hd hs
    rw [stepXfer_eq, wCount_eq] at hx
    exact (data_answers hx (fun _ => rfl) fun _ => rfl).imp fun v ⟨hq, hw, _⟩ => ⟨hq, hw⟩
  · have hx := exec_senseStep h
    rw [stepXfer_eq, wCount_eq] at hx
    exact (data_answers hx (fun _ => rfl) fun _ => rfl).imp fun v ⟨hq, hw, _⟩ => ⟨hq, hw⟩
  · have hu : u = wPort w := (wPort_eq w).symm
    rw [hu] at hc hrx ⊢
    have hx := exec_moveIn_takes h hm hr he hc hrx
    rw [stepXfer_eq, wCount_eq] at hx
    refine (data_answers hx (fun _ => rfl) fun _ => rfl).imp fun v ⟨hq, hw, hd⟩ => ⟨hq, hw, ?_⟩
    rw [unitOf, hd]
    exact congrArg DUnit.rx (unitOf_setUnit_same s (wPort w) _)
  · have hu : u = wPort w := (wPort_eq w).symm
    rw [hu] at hc hrx hst ⊢
    refine ⟨_, exec_moveIn_waits h hm hr he hc hrx hst, ?_⟩
    have hl := liveOf_beginWait (setThr s t { x with pwait := some (wPort w) }) c 5 {}
    have hb := CtxOnly.beginWait (setThr s t { x with pwait := some (wPort w) }) c 5 {}
    obtain ⟨y, l, m, ht⟩ := thrOf_beginWait (setThr s t { x with pwait := some (wPort w) }) c 5 {}
    exact ⟨⟨by rw [stOf, hl], by rw [hl], hb.live, hb.sameMemory⟩, by rw [ht]; exact congrArg Thr.pwait (thrOf_setThr_same s t _)⟩

end Sys2Proof.Machine
end

section
/-! Fetch and dispatch of steps (R32, R33, R68, R74): the step that a line holds, and the registers of a routine. -/
namespace Sys2Proof.Machine

/-! Bytes of a line. -/
/-- The bits of a little-endian number are those of its bytes. -/
theorem testBit_leNat (bs : List Byte) (i : Nat) : (leNat bs).testBit i = (bs.getD (i / 8) 0).getLsbD (i % 8) := by
  induction bs generalizing i with
  | nil => simp [leNat]
  | cons b bs ih =>
    have he : leNat (b :: bs) = 2 ^ 8 * leNat bs + b.toNat := by
      rw [leNat]
      omega
    rw [he, Nat.testBit_two_pow_mul_add _ b.isLt]
    by_cases h : i < 8
    · rw [if_pos h, Nat.div_eq_of_lt h, Nat.mod_eq_of_lt h]
      rfl
    · rw [if_neg h, ih, show i / 8 = (i - 8) / 8 + 1 by omega, show i % 8 = (i - 8) % 8 by omega]
      rfl
/-- A byte of a slice is the byte at its place. -/
theorem getD_slice (bs : List Byte) (o n j : Nat) (h : j < n) : (slice bs o n).getD j 0 = bs.getD (o + j) 0 := by
  simp only [slice, List.getD_eq_getElem?_getD, List.getElem?_append, List.length_take, List.length_drop, List.getElem?_take, List.getElem?_drop,
    List.getElem?_replicate]
  by_cases hb : o + j < bs.length
  · rw [if_pos (by omega), if_pos h]
  · rw [if_neg (by omega), List.getElem?_eq_none (by omega)]
    split <;> rfl
/-- The bits of a double word that a line holds at offset o. -/
theorem getLsbD_lineWord (bs : List Byte) (o i : Nat) (h : i < 64) :
    (BitVec.ofNat 64 (leNat (slice bs o 8))).getLsbD i = (bs.getD (o + i / 8) 0).getLsbD (i % 8) := by
  rw [BitVec.getLsbD_ofNat, testBit_leNat, getD_slice _ _ _ _ (by omega)]
  simp [h]

/-! Fetch (R32, R33, R68, R453). -/
section
variable {s : State} {c : CtxId}

theorem exec_stepFetch (h : engineOn s c = true) : exec (.stepFetch c) s = .next (stepFetch c s) := by
  change execStepFetch c s = _
  exact onCore_on _ (engineOn_clocks h)
/-- The line that a context without one asks for, and whether it waits for it. -/
theorem noLine {x : Thr} (h : x.line = none) : (if x.holdPass then none else x.line) = none := by simp [h]
theorem lineWaits_none (s : State) (c : CtxId) (a : Nat) : lineWaits s c none a = stalled s (ctxAgent s c) a := rfl
theorem lineAt_none (s : State) (c : CtxId) (a : Nat) :
    lineAt s c none a = (rdBytes s (ctxAgent s c) (a / 64 * 64) 64).map fun bs => (a / 64 * 64, bs) := rfl
theorem stepFetch_stalled (he : engineOn s c = true) (hp : (thrOf s (.ctx c)).phase = .fetch) (hl : (thrOf s (.ctx c)).line = none)
    (ha : (regsOf s (.ctx c)).stpa.toNat % 16 = 0) (hs : stalled s (ctxAgent s c) (regsOf s (.ctx c)).stpa.toNat = true) : stepFetch c s = s := by
  simp [stepFetch, he, hp, ha, hl, lineWaits_none, hs]
/-- The state in which a fetch has read its line and written STPW. -/
def fetched (s : State) (c : CtxId) (l : Nat × List Byte) : State :=
  setRegs (setThr s (.ctx c) { thrOf s (.ctx c) with line := some l }) (.ctx c)
    { regsOf s (.ctx c) with stpw := (stepIn l (regsOf s (.ctx c)).stpa.toNat).lo }
/-- A fetch of a step of an action without a unit, with neither HOLD nor a line in hand: the step is decoded. -/
theorem stepFetch_decodes {bs : List Byte} (he : engineOn s c = true) (hp : (thrOf s (.ctx c)).phase = .fetch) (hk : (thrOf s (.ctx c)).skip = false)
    (hl : (thrOf s (.ctx c)).line = none) (ha : (regsOf s (.ctx c)).stpa.toNat % 16 = 0)
    (hs : stalled s (ctxAgent s c) (regsOf s (.ctx c)).stpa.toNat = false)
    (hr : rdBytes s (ctxAgent s c) ((regsOf s (.ctx c)).stpa.toNat / 64 * 64) 64 = some bs) {l : Nat × List Byte}
    (hline : l = ((regsOf s (.ctx c)).stpa.toNat / 64 * 64, bs)) {w : StepW} (hw : w = stepIn l (regsOf s (.ctx c)).stpa.toNat)
    (hold : bit w.lo 11 = false) (hact : wAct w ≤ 5) : stepFetch c s = decodeStep (fetched s c l) c w {} false := by
  subst hline hw
  have hrt : ¬routineWaits s c (stepIn ((regsOf s (.ctx c)).stpa.toNat / 64 * 64, bs) (regsOf s (.ctx c)).stpa.toNat) = true := by
    simp [routineWaits, show ¬0x40 ≤ wAct (stepIn ((regsOf s (.ctx c)).stpa.toNat / 64 * 64, bs) (regsOf s (.ctx c)).stpa.toNat) by omega]
  have hA : wAct (stepIn ((regsOf s (.ctx c)).stpa.toNat / 64 * 64, bs) (regsOf s (.ctx c)).stpa.toNat) ≠ 0xA := by omega
  unfold stepFetch
  dsimp only
  rw [if_neg (by simp [he, hp]), if_neg (by simp [ha]), noLine hl, lineWaits_none, hs, if_neg Bool.false_ne_true, lineAt_none, hr, Option.map_some]
  dsimp only
  rw [if_neg fun h => hA h.1, if_neg hA]
  dsimp only
  rw [if_neg (by simp [hk]), if_neg (by simp [hold]), if_neg hrt, if_neg hA, decide_eq_false hA]
  rfl
/-- A step of an action without a unit that passes its checks is in progress. -/
theorem decodeStep_passes {w : StepW} (hact : wAct w ≤ 5) (hc : checkStep w {} false (thrOf s (.ctx c)).run = none) : decodeStep s c w {} false =
    setThr s (.ctx c) { thrOf s (.ctx c) with
      phase := .step, cur := w, src := {}, holdPass := false, wait := waitAt s w, start := (thrOf s (.ctx c)).run, taken := none } := by
  have hdata : (decide (wAct w = 8) || decide (wAct w = 9) || decide (wAct w = 0xA) || decide (0x40 ≤ wAct w)) = false := by
    simp only [Bool.or_eq_false_iff, decide_eq_false_iff_not]
    omega
  have hunit : actUnit (wAct w) = false := by
    simp only [actUnit, Bool.or_eq_false_iff, decide_eq_false_iff_not]
    omega
  have hlvl : checkLevel s c w = .inr s := by simp [checkLevel, unitAbove, hunit, show ¬0x40 ≤ wAct w by omega]
  have hrun : (match (thrOf s (.ctx c)).run with | some r => some r | none => none) = (thrOf s (.ctx c)).run := by
    cases (thrOf s (.ctx c)).run <;> rfl
  simp only [decodeStep, hc, hlvl, hdata]
  congr 2
end

/-- Settles O17: a line behind a retrain leaves the fetch waiting; else the step of the line that is read is decoded and passes its checks. -/
theorem stepFetchReadsTheStep : Obligations.StepFetchReadsTheStep := by
  intro s c bs t r x a w he hp hk hh hl ha
  refine ⟨fun hs => ?_, fun hs hr hold hact hc => ⟨fun i hi => ?_, fun i hi => ?_, ?_⟩⟩
  · exact (exec_stepFetch he).trans (congrArg _ (stepFetch_stalled he hp hl ha hs))
  · rw [show a % 64 = a - a / 64 * 64 by omega]
    exact getLsbD_lineWord bs _ i hi
  · rw [show a % 64 = a - a / 64 * 64 by omega]
    exact getLsbD_lineWord bs _ i hi
  · have hact' : wAct w ≤ 5 := by rwa [wAct, fld_eq_extract]
    have hns := engineOn_noSaved he
    have hthr : thrOf (fetched s c (a / 64 * 64, bs)) t = { x with line := some (a / 64 * 64, bs) } :=
      (thrOf_setRegs (noSaved_setThr hns) t _).trans (thrOf_setThr_same s t _)
    have ho : OnlyThread s (fetched s c (a / 64 * 64, bs)) t := onlyThread_setRegs _ _ _ _ (onlyThread_setThr _ _ _ _ (onlyThread_refl s t))
    have hx := (exec_stepFetch he).trans (congrArg _ (stepFetch_decodes he hp hk hl ha hs hr rfl rfl hold hact'))
    rw [decodeStep_passes hact' (by rw [hthr]; exact hc)] at hx
    refine ⟨_, hx, ?_, ?_, onlyThread_setThr _ _ _ _ ho⟩
    · rw [regsOf_setThr]
      exact regsOf_setRegs_same _ _ _
    · rw [thrOf_setThr_same, hthr, ← hh]

/-! Dispatch (R74, R137). -/
/-- The registers of a context as the step engine dispatches a routine (R74). -/
def dispatched (g : Regs) (w : StepW) (e : DWord) : Regs :=
  { ((g.setG 0 w.hi).setG 1 ((w.lo.extractLsb' 32 32).setWidth 64)).setG 2 ((w.lo.extractLsb' 16 8).setWidth 64) with
    stpw := w.lo, lr := 0xFFFFFFFFFFFFFFFC, pc := (e.extractLsb' 2 46 ++ 0#2).setWidth 64
    sr := (g.sr &&& ~~~0x300#32) ||| (if e.getLsbD 1 then 0x100 else 0) }
theorem ofNat_fld_setWidth {n : Nat} (v : BitVec n) (lo w : Nat) : BitVec.ofNat 64 (fld v lo w) = (v.extractLsb' lo w).setWidth 64 := by
  rw [fld_eq_extract, BitVec.ofNat_toNat]
/-- ENTRY in words, as an address. -/
theorem entry_address (e : DWord) : BitVec.ofNat 64 (fld e 2 46 * 4) = (e.extractLsb' 2 46 ++ 0#2).setWidth 64 := by
  have happ (v : BitVec 46) : (v ++ 0#2).toNat = v.toNat * 4 := by
    rw [BitVec.toNat_append]
    simp [Nat.shiftLeft_eq]
  rw [fld_eq_extract, ← happ, BitVec.ofNat_toNat]
theorem routineGo_dispatches {s s1 : State} {c : CtxId} {e : DWord} (h : routineCheck s c (thrOf s (.ctx c)).cur = .inr (e, s1)) : ∃ x : Thr,
    x.phase = .code ∧ x.rtPl = (regsOf s1 (.ctx c)).sr.extractLsb' 8 2 ∧
      routineGo c s = setThr (setRegs s1 (.ctx c) (dispatched (regsOf s1 (.ctx c)) (thrOf s (.ctx c)).cur e)) (.ctx c) x := by
  have hsr : setFld (regsOf s1 (.ctx c)).sr 8 2 (b2n (bit e 1)) = ((regsOf s1 (.ctx c)).sr &&& ~~~0x300#32) ||| (if e.getLsbD 1 then 0x100 else 0) :=
    setFld_lvl_bool _ _
  rw [dispatched, ← entry_address, ← ofNat_fld_setWidth, ← ofNat_fld_setWidth, ← hsr]
  simp only [routineGo, h]
  exact ⟨_, rfl, ofNat_fld _ _ _, rfl⟩
theorem gr_dispatched (g : Regs) (w : StepW) (e : DWord) : let r := dispatched g w e
    r.gr 0 = w.hi ∧ r.gr 1 = (w.lo.extractLsb' 32 32).setWidth 64 ∧ r.gr 2 = (w.lo.extractLsb' 16 8).setWidth 64 ∧ ∀ i : Reg, 3 ≤ i.toNat → r.gr i = g.gr i := by
  have hgr : ∀ i, (dispatched g w e).gr i =
      (((g.setG 0 w.hi).setG 1 ((w.lo.extractLsb' 32 32).setWidth 64)).setG 2 ((w.lo.extractLsb' 16 8).setWidth 64)).gr i := fun _ => rfl
  refine ⟨?_, ?_, ?_, fun i hi => ?_⟩ <;> rw [hgr]
  · rw [gr_setG_other _ _ _ _ (by decide), gr_setG_other _ _ _ _ (by decide), gr_setG_same]
  · rw [gr_setG_other _ _ _ _ (by decide), gr_setG_same]
  · rw [gr_setG_same]
  · have hne : ∀ j : Reg, j.toNat < 3 → i ≠ j := fun j hj e => by rw [e] at hi; omega
    rw [gr_setG_other _ _ _ _ (hne 2 (by decide)), gr_setG_other _ _ _ _ (hne 1 (by decide)), gr_setG_other _ _ _ _ (hne 0 (by decide))]

/-- Settles O18: the dispatch writes the registers of R74 in the state that the check of the step leaves. -/
theorem routineDispatchSetsTheRegisters : Obligations.RoutineDispatchSetsTheRegisters := by
  intro s s1 c e a t w h ha hchk
  obtain ⟨x, hph, hpl, hx⟩ := routineGo_dispatches hchk
  obtain ⟨h0, h1, h2, h3⟩ := gr_dispatched (regsOf s1 t) w e
  have ho : OnlyThread s1 (routineGo c s) t := by
    rw [hx]
    exact onlyThread_setThr _ _ _ _ (onlyThread_setRegs _ _ _ _ (onlyThread_refl s1 t))
  refine ⟨routineGo c s, onStep_runs _ h (by simpa using ha) (by simp), ?_⟩
  rw [hx] at ho ⊢
  simp only [regsOf_setThr, regsOf_setRegs_same, thrOf_setThr_same, t]
  exact ⟨h0, h1, h2, rfl, rfl, rfl, rfl, rfl, h3, hph, hpl, ho⟩

end Sys2Proof.Machine
end

section
/-! REPORT (R80, R82, R85, R86): the 32 bytes of a report, and the store that writes them to the report ring. -/
namespace Sys2Proof.Machine

/-! Little-endian bytes. -/
theorem leBytes_eq_map (n v : Nat) : leBytes n v = (List.range n).map fun i => BitVec.ofNat 8 (v / 256 ^ i) := by
  induction n generalizing v with
  | zero => rfl
  | succ n ih =>
    rw [leBytes, ih, List.range_succ_eq_map, List.map_cons, List.map_map, pow_zero, Nat.div_one]
    refine congrArg _ (List.map_congr_left fun i _ => ?_)
    simp only [Function.comp_apply, Nat.div_div_eq_div_mul]
    rw [show 256 * 256 ^ i = 256 ^ (i + 1) by ring]
/-- The little-endian bytes of a number, up to eight of them, are the low bytes of its double word. -/
theorem leBytes_eq_lowBytes {n : Nat} (h : n ≤ 8) (v : Nat) : leBytes n v = lowBytes n (BitVec.ofNat 64 v) := by
  rw [leBytes_eq_map, lowBytes]
  refine List.map_congr_left fun i hi => BitVec.eq_of_getLsbD_eq fun j hj => ?_
  have hi' : i < n := List.mem_range.mp hi
  rw [BitVec.getLsbD_ofNat, show 256 ^ i = 2 ^ (8 * i) by rw [Nat.pow_mul], Nat.testBit_div_two_pow, BitVec.getLsbD_setWidth, BitVec.getLsbD_ushiftRight,
    BitVec.getLsbD_ofNat]
  simp only [hj, show 8 * i + j < 64 by omega, decide_true, Bool.true_and, Nat.add_comm j]
theorem leBytes_dword (v : DWord) : leBytes 8 v.toNat = lowBytes 8 v := by
  rw [leBytes_eq_lowBytes (by decide), BitVec.ofNat_toNat, BitVec.setWidth_eq]
theorem length_leBytes (n v : Nat) : (leBytes n v).length = n := by rw [leBytes_eq_map, List.length_map, List.length_range]

/-! A store whose bytes all may be written, to keys in a row. -/
section
variable {ag : Agent} {lvl : Lvl} {k : Nat}

theorem memGet_wrBytes_run (bs : List Byte) (s : State) (a k : Nat) (h : ∀ i, i < bs.length → wrKey s ag lvl (a + i) = some (k + i)) :
    ∀ i, i < bs.length → memGet (wrBytes s ag lvl a bs) (k + i) = bs.getD i 0 := by
  induction bs generalizing s a k with
  | nil => exact fun i hi => absurd hi (Nat.not_lt_zero i)
  | cons b bs ih =>
    have h0 : wrKey s ag lvl a = some k := h 0 (by simp)
    have h1 : ∀ i, i < bs.length → wrKey (memSet s k b) ag lvl (a + 1 + i) = some (k + 1 + i) := fun i hi => by
      rw [wrKey_memSet, show a + 1 + i = a + (i + 1) by omega, show k + 1 + i = k + (i + 1) by omega]
      exact h (i + 1) (by simpa using hi)
    have hw : wrBytes s ag lvl a (b :: bs) = wrBytes (memSet s k b) ag lvl (a + 1) bs := by rw [wrBytes, h0]
    rintro (_ | i) hi
    · rw [hw, memGet_wrBytes_other]
      · exact memGet_memSet_same s k b
      · intro i hi e
        have := Option.some.inj ((h1 i hi).symm.trans e)
        omega
    · rw [hw, show k + (i + 1) = k + 1 + i by omega]
      exact ih _ _ _ h1 i (by simpa using hi)
theorem sameMemoryBut_wrBytes {bs : List Byte} {s : State} {a : Nat} (h : ∀ i, i < bs.length → wrKey s ag lvl (a + i) = some (k + i)) :
    SameMemoryBut s (wrBytes s ag lvl a bs) k bs.length := by
  refine fun j hj => memGet_wrBytes_other ag lvl j bs s a fun i hi e => hj ?_
  have := Option.some.inj ((h i hi).symm.trans e)
  omega
/-- A store writes memory as its bytes alone do. -/
theorem memGet_storeBytes (s : State) (ag : Agent) (lvl : Lvl) (a : Nat) (bs : List Byte) : ∃ up corr, ∀ k,
    memGet (storeBytes s ag lvl a bs) k = memGet (wrBytes { s with memc := { s.memc with upset := up, corr := corr } } ag lvl a bs) k := by
  unfold storeBytes
  split
  · next k _ =>
    obtain ⟨up, hup⟩ := healWords_eq s k bs.length
    obtain ⟨corr, hcorr⟩ := dropCorr_eq (healWords s k bs.length) k bs.length
    rw [hup] at hcorr
    exact ⟨up, corr, fun j => by rw [hup, hcorr, rsvdIf_eq]; rfl⟩
  · exact ⟨s.memc.upset, s.memc.corr, fun _ => rfl⟩
theorem storeBytes_run {bs : List Byte} {s : State} {a : Nat} (h : ∀ i, i < bs.length → wrKey s ag lvl (a + i) = some (k + i)) :
    (∀ i, i < bs.length → memGet (storeBytes s ag lvl a bs) (k + i) = bs.getD i 0) ∧ SameMemoryBut s (storeBytes s ag lvl a bs) k bs.length := by
  obtain ⟨up, corr, hg⟩ := memGet_storeBytes s ag lvl a bs
  have h' : ∀ i, i < bs.length → wrKey { s with memc := { s.memc with upset := up, corr := corr } } ag lvl (a + i) = some (k + i) := h
  exact ⟨fun i hi => (hg _).trans (memGet_wrBytes_run bs _ a k h' i hi), fun j hj => (hg j).trans (sameMemoryBut_wrBytes h' j hj)⟩
theorem wrOk_of_keys {s : State} (n a : Nat) (h : ∀ i, i < n → (wrKey s ag lvl (a + i)).isSome = true) : wrOk s ag lvl a n = true := by
  induction n generalizing a with
  | zero => rfl
  | succ n ih =>
    rw [wrOk, Bool.and_eq_true]
    refine ⟨h 0 (Nat.succ_pos n), ih (a + 1) fun i hi => ?_⟩
    rw [show a + 1 + i = a + (i + 1) by omega]
    exact h (i + 1) (by omega)
end

/-! Reports. -/
section
variable {s : State} {c : CtxId}

theorem length_repBytes (s : State) (c : CtxId) (r : Rep) : (repBytes s c r).length = 32 := by simp [repBytes, length_leBytes]
/-- The bytes of a REPORT step's report (R82). -/
theorem repBytes_report (s : State) (c : CtxId) (next : DWord) (n crc : Nat) : repBytes s c { next := next, residual := n, status := 1, reason := 4, crc := crc } =
    lowBytes 8 next ++ lowBytes 4 (BitVec.ofNat 64 n) ++ [0x01, 0x00, 0x00, 0x04] ++ lowBytes 4 ((s.rm.addr ++ c).setWidth 64) ++
      lowBytes 4 (BitVec.ofNat 64 crc) ++ lowBytes 8 s.time.now := by
  have hc : BitVec.ofNat 64 (ctxWord s c).toNat = (s.rm.addr ++ c).setWidth 64 := by
    have ha := s.rm.addr.isLt
    have hl := c.isLt
    apply BitVec.eq_of_toNat_eq
    rw [ctxWord, BitVec.toNat_setWidth, BitVec.toNat_append, ← Nat.shiftLeft_add_eq_or_of_lt hl, Nat.shiftLeft_eq]
    simp only [BitVec.toNat_ofNat]
    omega
  simp only [repBytes, leBytes_dword, leBytes_eq_lowBytes (n := 4) (by decide), hc, List.append_assoc]
  rfl
/-- Where the next report goes (R80). -/
theorem repAddr_eq (s : State) (c : CtxId) : repAddr s c = ((regsOf s (.ctx c)).repa.extractLsb' 5 43).toNat * 32 +
    (liveOf s c).ridx.toNat % 2 ^ Nat.min 16 ((regsOf s (.ctx c)).repa.extractLsb' 0 5).toNat * 32 := by simp only [repAddr, fld_eq_extract]
/-- The state in which the report index of a context has moved on (R80). -/
def ringMoved (u : State) (c : CtxId) : State := setLive u c { liveOf u c with ridx := (liveOf u c).ridx + 1 }
/-- The state in which REPORT has raised its event too (R86). -/
def reported (u : State) (c : CtxId) : State := ctxEvent (ringMoved u c) c 1 4
theorem liveOf_reported_same (u : State) (c : CtxId) : liveOf (reported u c) c = { liveOf u c with ridx := (liveOf u c).ridx + 1 } :=
  (liveOf_ctxEvent _ _ _ _ _).trans (liveOf_setLive_same _ _ _)
theorem liveOf_reported_other (u : State) {c d : CtxId} (h : d ≠ c) : liveOf (reported u c) d = liveOf u d :=
  (liveOf_ctxEvent _ _ _ _ _).trans (liveOf_setLive_other _ _ _ _ h)
theorem regsOf_reported (u : State) (c : CtxId) (v : Thread) : regsOf (reported u c) v = regsOf u v :=
  (regsOf_ctxEvent _ _ _ _ _).trans (regsOf_setLive _ _ _ _)
theorem thrOf_reported (u : State) (c : CtxId) (v : Thread) : thrOf (reported u c) v = thrOf u v :=
  (thrOf_ctxEvent _ _ _ _ _).trans (thrOf_setLive _ _ _ _)
theorem sameMemory_reported (u : State) (c : CtxId) : SameMemory u (reported u c) := fun k => ctxEvent_frame (memGet · k) _ _ _ _ fun _ => rfl
theorem noSaved_reported {u : State} {t : Thread} (h : NoSaved u t) (c : CtxId) : NoSaved (reported u c) t := fun d hd => by
  rw [stOf, reported, liveOf_ctxEvent]
  exact noSaved_setLive h c { liveOf u c with ridx := (liveOf u c).ridx + 1 } rfl d hd
/-- A report whose 32 bytes may be written is in the ring, and RIDX has moved on. -/
theorem putReport_writes {k : Nat} (r : Rep) (hr : (regsOf s (.ctx c)).repa ≠ 0)
    (hk : ∀ i, i < 32 → wrKey s (ctxAgent s c) (ceilOf (regsOf s (.ctx c))) (repAddr s c + i) = some (k + i)) : ∃ u : State,
    putReport s c r = (ringMoved u c, true) ∧ (∀ i, i < 32 → memGet u (k + i) = (repBytes s c r).getD i 0) ∧
      SameMemoryBut s u k 32 ∧ ∃ m up corr f, u = { s with mem := m, memc := { s.memc with upset := up, corr := corr }, reg := { s.reg with rsvd := f } } := by
  have hk' : ∀ i, i < (repBytes s c r).length → wrKey s (ctxAgent s c) (ceilOf (regsOf s (.ctx c))) (repAddr s c + i) = some (k + i) := by
    rwa [length_repBytes]
  obtain ⟨hb, hm⟩ := storeBytes_run hk'
  rw [length_repBytes] at hb hm
  refine ⟨_, ?_, hb, hm, storeBytes_eq s _ _ _ _⟩
  have hok := wrOk_of_keys 32 (repAddr s c) fun i hi => Option.isSome_of_eq_some (hk i hi)
  rw [putReport, if_neg hr, if_pos hok]
  rfl
/-- A REPORT step ends with its report, and the chain goes on (R48, R82). -/
theorem finishStep_reports {u : State} (n : Nat) (h : AtStep s c 4) (hn : HasNextOnly (thrOf s (.ctx c)))
    (hp : putReport s c { next := (regsOf s (.ctx c)).stpa + 16, residual := n, status := 1, reason := 4, crc := runCrc (thrOf s (.ctx c)) } = (ringMoved u c, true)) :
    finishStep s c 0 n 0 = goOn (reported u c) c ((regsOf s (.ctx c)).stpa + 16) false false := by
  have hg := h.goesOn hn (by decide) (by decide)
  have ha : stepAct (thrOf s (.ctx c)) = 4 := h.act
  have hu : unitBits s (thrOf s (.ctx c)) = (0, 0) := by simp [unitBits, stepUnit, ha]
  have hpost : postReport s c { next := (regsOf s (.ctx c)).stpa + 16, residual := n, status := 1, reason := 4, crc := runCrc (thrOf s (.ctx c)) } true =
      (reported u c, true) := by rw [postReport, hp]; rfl
  have hsize : BitVec.ofNat 64 (stepSize (thrOf s (.ctx c))) = 16 := by
    rw [stepSize_of_act (by rw [ha]; decide)]
    rfl
  simp only [BitVec.ofNat_eq_ofNat] at hpost hsize
  simp [finishStep, failed_zero, hg.cont, hg.note, hg.chain, hg.hasNext, ha, hu, hsize, sDONE, hpost]
end

/-- Settles O16: the report is stored and RIDX moves on, its event fires, and the chain goes on; none of these undoes another. -/
theorem reportIsWrittenToTheRing : Obligations.ReportIsWrittenToTheRing := by
  intro s c k t r x l at_ bytes h hn hr hk
  obtain ⟨u, hp, hb, hm, m, up, corr, f, hu⟩ := putReport_writes (s := s) (c := c) (k := k)
    { next := r.stpa + 16, residual := stepCount x, status := 1, reason := 4, crc := runCrc x } hr (by rw [repAddr_eq]; exact hk)
  have hn32 : BitVec.ofNat 64 (stepCount x) = (x.cur.lo.extractLsb' 32 32).setWidth 64 := ofNat_fld_setWidth _ _ _
  rw [repBytes_report, hn32] at hb
  have hx : exec (.reportStep c) s = .next (finishStep s c 0 (stepCount x) 0) := by
    change execReportStep c s = _
    exact onStep_runs _ h rfl fun _ => (h.goesOn hn (by decide) (by decide)).fenceWait
  rw [finishStep_reports _ h hn hp] at hx
  have hlive : ∀ d, liveOf u d = liveOf s d := fun d => by rw [hu]; rfl
  have hregs : ∀ v, regsOf u v = regsOf s v := fun v => by rw [hu]; cases v <;> rfl
  have hthr : ∀ v, thrOf u v = thrOf s v := fun v => by rw [hu]; rfl
  have hns : NoSaved u t := fun d hd => by
    rw [stOf, hlive]
    exact h.noSaved d hd
  obtain ⟨hrg, ht, ho⟩ := goOn_onward (noSaved_reported hns c) (onlyThread_refl _ _) (r.stpa + 16)
  have hmem := (sameMemory_reported u c).trans ho.sameMemory
  refine ⟨_, hx, fun i hi => (hmem _).trans (hb i hi), fun j hj => (hmem j).trans (hm j hj), ?_, fun d hd => ?_, ?_, ?_, fun v hv => ?_, ?_⟩
  · rw [ho.liveOf, liveOf_reported_same, hlive]
  · rw [ho.liveOf, liveOf_reported_other u hd, hlive]
  · rw [hrg, regsOf_reported, hregs]
  · rw [ht, thrOf_reported, hthr]
  · exact ⟨(ho.1 v hv).1.trans ((regsOf_reported u c v).trans (hregs v)), (ho.1 v hv).2.trans ((thrOf_reported u c v).trans (hthr v))⟩
  · have hev := ctxEvent_fired (ringMoved u c) c 1 4
    subst hu
    exact hev.congr rfl rfl rfl (ho.frame (·.evt.src) rfl)

end Sys2Proof.Machine
end

section
/-! The integer operations (R104 to R107, R109): what a unit that is legal gives, and each operation in terms of bit vectors. -/
namespace Sys2Proof.Machine

/-! Legal units (R98, R100, R101). -/
theorem legal_repeated {p : Pfx} {d : Dec} (hd : d.legal = true) (hr : d.rep = true) (he : p.ext = none ∨ d.ext = true) : illegal p d = false := by
  obtain he | he := he <;> simp [illegal, hd, hr, he]
theorem legal_alu {p : Pfx} (he : p.ext = none) (gd ga gb : Reg) (w : Bool) (fn : Nat) (regs : List Reg) : illegal p (aluDec gd ga gb w fn regs) = false :=
  legal_repeated rfl rfl (.inl he)
theorem legal_imm (p : Pfx) (op : Nat) (gd ga : Reg) (sub : Nat) (imm : Half) (regs : List Reg) : illegal p (immDec op gd ga sub imm true regs) = false :=
  legal_repeated rfl rfl (.inr rfl)
theorem legal_immPlain {p : Pfx} (he : p.ext = none) (op : Nat) (gd ga : Reg) (sub : Nat) (imm : Half) (regs : List Reg) :
    illegal p (immDec op gd ga sub imm false regs) = false :=
  legal_repeated rfl rfl (.inl he)

/-! What a result writes (R91, R105). -/
theorem putAlu_nzcv {t : Thread} {gd : Reg} {x : AluRes} {s : State} {y : DWord} {c v : Bool} (hr : x.res = y) (hc : x.c = some c) (hv : x.v = some v) :
    putAlu t gd x s = .done (setRegs s t (withNZCV (regsOf s t) gd y c v)) := by
  simp only [putAlu, withNZCV, flagsCV_both _ _ _ _ hc hv, flagsNZ_eq, hr]
theorem putAlu_nz {t : Thread} {gd : Reg} {x : AluRes} {s : State} {y : DWord} (hr : x.res = y) (hc : x.c = none) (hv : x.v = none) :
    putAlu t gd x s = .done (setRegs s t (withNZ (regsOf s t) gd y)) := by
  simp only [putAlu, withNZ, flagsCV_none _ _ hc hv, flagsNZ_eq, hr]
theorem putFlags_nzcv {t : Thread} {x : AluRes} {s : State} {y : DWord} {c v : Bool} (hr : x.res = y) (hc : x.c = some c) (hv : x.v = some v) :
    putFlags t x s = .done (setRegs s t { regsOf s t with sr := srV (srC (srNZ (regsOf s t).sr y) c) v }) := by
  simp only [putFlags, flagsCV_both _ _ _ _ hc hv, flagsNZ_eq, hr]
theorem putFlags_nz {t : Thread} {x : AluRes} {s : State} {y : DWord} (hr : x.res = y) (hc : x.c = none) (hv : x.v = none) :
    putFlags t x s = .done (setRegs s t { regsOf s t with sr := srNZ (regsOf s t).sr y }) := by
  simp only [putFlags, flagsCV_none _ _ hc hv, flagsNZ_eq, hr]

/-! Addition and subtraction (R104 to R106, R109). -/
theorem putAlu_add (t : Thread) (gd : Reg) (w : Bool) (a b : DWord) (s : State) : putAlu t gd (aluAdd w a b) s =
    .done (setRegs s t (withNZCV (regsOf s t) gd (formed w (fun _ x y => x + y) a b) (tested w (fun _ x y => BitVec.uaddOverflow x y) a b)
      (tested w (fun _ x y => BitVec.saddOverflow x y) a b))) :=
  putAlu_nzcv (aluAdd_res w a b) (aluAdd_c w a b) (aluAdd_v w a b)
theorem putAlu_sub (t : Thread) (gd : Reg) (w : Bool) (a b : DWord) (s : State) : putAlu t gd (aluSub w a b) s =
    .done (setRegs s t (withNZCV (regsOf s t) gd (formed w (fun _ x y => x - y) a b) (tested w (fun _ x y => BitVec.usubOverflow x y) a b)
      (tested w (fun _ x y => BitVec.ssubOverflow x y) a b))) :=
  putAlu_nzcv (aluSub_res w a b) (aluSub_c w a b) (aluSub_v w a b)
theorem putFlags_sub (t : Thread) (w : Bool) (a b : DWord) (s : State) : putFlags t (aluSub w a b) s =
    .done (setRegs s t { regsOf s t with sr := srV (srC (srNZ (regsOf s t).sr (formed w (fun _ x y => x - y) a b))
      (tested w (fun _ x y => BitVec.usubOverflow x y) a b)) (tested w (fun _ x y => BitVec.ssubOverflow x y) a b) }) :=
  putFlags_nzcv (aluSub_res w a b) (aluSub_c w a b) (aluSub_v w a b)
/-- Settles O1: each instruction by its body, the flags by the laws of addition and subtraction. -/
theorem additionAndSubtractionSetEveryFlag : Obligations.AdditionAndSubtractionSetEveryFlag := by
  intro s t p w gd ga gb imm r a b i sum dif carry addV borrow subV
  refine ⟨fun h he => ⟨?_, ?_⟩, fun h he => ?_, fun h he => ?_, fun h => ?_, fun h => ?_⟩
  · exact gives_of_done _ _ _ rfl h (legal_alu he ..) (putAlu_add t gd w a b s)
  · exact gives_of_done _ _ _ rfl h (legal_alu he ..) (putAlu_sub t gd w a b s)
  · exact gives_of_done _ _ _ rfl h (legal_alu he ..) (putAlu_sub t gd w 0 a s)
  · exact gives_of_done _ _ _ rfl h (legal_alu he ..) (putFlags_sub t w a b s)
  · exact gives_of_done _ _ _ rfl h (legal_imm p ..) (putAlu_add t gd w a i s)
  · exact gives_of_done _ _ _ rfl h (legal_imm p ..) (putFlags_sub t w a i s)

/-! The operations on bits (R104 to R106). -/
theorem putAlu_logic (t : Thread) (gd : Reg) {f : DWord → DWord → DWord} {g : (n : Nat) → BitVec n → BitVec n → BitVec n} (hw : ∀ x y, f x y = g 64 x y)
    (hn : ∀ x y, (f x y).setWidth 32 = g 32 (x.setWidth 32) (y.setWidth 32)) (w : Bool) (a b : DWord) (s : State) :
    putAlu t gd (aluLogic f w a b) s = .done (setRegs s t (withNZ (regsOf s t) gd (formed w g a b))) :=
  putAlu_nz (aluLogic_res f g hw hn w a b) rfl rfl
theorem putAlu_and (t : Thread) (gd : Reg) (w : Bool) (a b : DWord) (s : State) : putAlu t gd (aluLogic (· &&& ·) w a b) s =
    .done (setRegs s t (withNZ (regsOf s t) gd (formed w (fun _ x y => x &&& y) a b))) :=
  putAlu_logic t gd (g := fun _ x y => x &&& y) (fun _ _ => rfl) (fun _ _ => BitVec.setWidth_and) w a b s
theorem putAlu_or (t : Thread) (gd : Reg) (w : Bool) (a b : DWord) (s : State) : putAlu t gd (aluLogic (· ||| ·) w a b) s =
    .done (setRegs s t (withNZ (regsOf s t) gd (formed w (fun _ x y => x ||| y) a b))) :=
  putAlu_logic t gd (g := fun _ x y => x ||| y) (fun _ _ => rfl) (fun _ _ => BitVec.setWidth_or) w a b s
theorem putAlu_xor (t : Thread) (gd : Reg) (w : Bool) (a b : DWord) (s : State) : putAlu t gd (aluLogic (· ^^^ ·) w a b) s =
    .done (setRegs s t (withNZ (regsOf s t) gd (formed w (fun _ x y => x ^^^ y) a b))) :=
  putAlu_logic t gd (g := fun _ x y => x ^^^ y) (fun _ _ => rfl) (fun _ _ => BitVec.setWidth_xor) w a b s
theorem setWidth_not_narrow (x : DWord) : (~~~x).setWidth 32 = ~~~(x.setWidth 32) := BitVec.setWidth_not (by decide)
/-- Settles O2: each operation commutes with the truncation to the low 32 bits. -/
theorem bitOperationsSetNAndZ : Obligations.BitOperationsSetNAndZ := by
  intro s t p w gd ga gb imm r a b i conj disj excl
  refine ⟨fun h he => ⟨?_, ?_, ?_, ?_⟩, fun h he => ?_, fun h he => ?_, fun h => ⟨?_, ?_, ?_⟩⟩
  · exact gives_of_done _ _ _ rfl h (legal_alu he ..) (putAlu_and t gd w a b s)
  · exact gives_of_done _ _ _ rfl h (legal_alu he ..) (putAlu_or t gd w a b s)
  · exact gives_of_done _ _ _ rfl h (legal_alu he ..) (putAlu_xor t gd w a b s)
  · exact gives_of_done _ _ _ rfl h (legal_alu he ..) (putAlu_logic t gd (g := fun _ x y => x &&& ~~~y) (fun _ _ => rfl)
      (fun x y => by rw [BitVec.setWidth_and, setWidth_not_narrow]) w a b s)
  · exact gives_of_done _ _ _ rfl h (legal_alu he ..) (putAlu_logic t gd (f := fun x _ => ~~~x) (g := fun _ x _ => ~~~x) (fun _ _ => rfl)
      (fun x _ => setWidth_not_narrow x) w a 0 s)
  · exact gives_of_done _ _ _ rfl h (legal_alu he ..)
      (putFlags_nz (aluLogic_res (· &&& ·) (fun _ x y => x &&& y) (fun _ _ => rfl) (fun _ _ => BitVec.setWidth_and) w a b) rfl rfl)
  · exact gives_of_done _ _ _ rfl h (legal_imm p ..) (putAlu_and t gd w a i s)
  · exact gives_of_done _ _ _ rfl h (legal_imm p ..) (putAlu_or t gd w a i s)
  · exact gives_of_done _ _ _ rfl h (legal_imm p ..) (putAlu_xor t gd w a i s)

end Sys2Proof.Machine
end

section
/-! Shifts and rotates (R106, R107): the results and carries of both widths from one operation on bit vectors. -/
namespace Sys2Proof.Machine

/-! Both widths. -/
theorem resOf_formed (g : Nat → Nat → Nat) (f : (n : Nat) → BitVec n → BitVec n) (h : ∀ n, 0 < n → ∀ x : BitVec n, BitVec.ofNat n (g n x.toNat) = f n x)
    (w : Bool) (a b : DWord) : formed w (fun n x _ => f n x) a b = resOf w (g (wid w) (opU w a)) := by
  cases w
  · rw [opU_wide]
    exact (h 64 (by decide) a).symm
  · rw [opU_narrow]
    exact congrArg (BitVec.signExtend 64) (h 32 (by decide) _).symm
theorem tested_eq (g : Nat → Nat → Bool) (f : (n : Nat) → BitVec n → Bool) (h : ∀ n, 0 < n → ∀ x : BitVec n, g n x.toNat = f n x)
    (w : Bool) (a b : DWord) : tested w (fun n x _ => f n x) a b = g (wid w) (opU w a) := by
  cases w
  · rw [opU_wide]
    exact (h 64 (by decide) a).symm
  · rw [opU_narrow]
    exact (h 32 (by decide) _).symm
theorem resOf_zero (w : Bool) : resOf w 0 = 0 := by cases w <;> rfl
theorem wid_pos (w : Bool) : 0 < wid w := by cases w <;> decide
theorem opU_lt (w : Bool) (a : DWord) : opU w a < 2 ^ wid w := Nat.mod_lt _ (Nat.two_pow_pos _)
/-- A shift leaves C when its count is 0, and V always. -/
theorem putAlu_shift {t : Thread} {gd : Reg} {x : AluRes} {s : State} {c : Nat} {k : Bool} {y : DWord} (hr : x.res = y)
    (hc : x.c = if c = 0 then none else some k) (hv : x.v = none) : putAlu t gd x s =
      .done (setRegs s t { (regsOf s t).setG gd y with sr := if c = 0 then srNZ (regsOf s t).sr y else srC (srNZ (regsOf s t).sr y) k }) := by
  subst hr
  by_cases h0 : c = 0
  · simp only [h0, if_true] at hc ⊢
    exact putAlu_nz rfl hc hv
  · simp only [h0, if_false] at hc ⊢
    simp only [putAlu, flagsCV_carry _ _ _ hc hv, flagsNZ_eq]

/-! Shift left. -/
theorem shiftLeft_ofNat {n : Nat} (x : BitVec n) (c : Nat) : BitVec.ofNat n (if c = 0 then x.toNat else if c < n then x.toNat * 2 ^ c else 0) = x <<< c := by
  apply BitVec.eq_of_toNat_eq
  rw [BitVec.toNat_ofNat, BitVec.toNat_shiftLeft, Nat.shiftLeft_eq]
  split_ifs with h0 hn
  · simp [h0]
  · rfl
  · obtain ⟨d, rfl⟩ := Nat.exists_eq_add_of_le (Nat.not_lt.mp hn)
    rw [Nat.pow_add, ← Nat.mul_assoc, Nat.mul_right_comm, Nat.mul_mod_left, Nat.zero_mod]
theorem aluShl_res (w : Bool) (a : DWord) (c : Nat) : (aluShl w a c).res = formed w (fun _ x _ => x <<< c) a 0 := by
  rw [resOf_formed (fun n x => if c = 0 then x else if c < n then x * 2 ^ c else 0) (fun _ x => x <<< c) (fun _ _ x => shiftLeft_ofNat x c), aluShl]
  split_ifs
  · rfl
  · rfl
  · exact (resOf_zero w).symm
theorem aluShl_c (w : Bool) (a : DWord) (c : Nat) : (aluShl w a c).c =
    if c = 0 then none else some (tested w (fun m x _ => decide (c ≤ m) && x.getLsbD (m - c)) a 0) := by
  rw [tested_eq (fun m x => decide (c ≤ m) && x.testBit (m - c)) (fun m x => decide (c ≤ m) && x.getLsbD (m - c)) (fun _ _ _ => rfl), aluShl]
  split_ifs with h0 hn
  · rfl
  · simp [Nat.le_of_lt hn]
  · have hle : c ≤ wid w ↔ c = wid w := by omega
    by_cases hc : c = wid w <;> simp [hle, hc]
theorem aluShl_v (w : Bool) (a : DWord) (c : Nat) : (aluShl w a c).v = none := by
  unfold aluShl
  split_ifs <;> rfl

/-! Shift right. -/
theorem ushiftRight_ofNat {n : Nat} (x : BitVec n) (c : Nat) : BitVec.ofNat n (if c = 0 then x.toNat else if c < n then x.toNat / 2 ^ c else 0) = x >>> c := by
  apply BitVec.eq_of_toNat_eq
  rw [BitVec.toNat_ofNat, BitVec.toNat_ushiftRight, Nat.shiftRight_eq_div_pow]
  split_ifs with h0 hn
  · simp [h0]
  · exact Nat.mod_eq_of_lt (Nat.lt_of_le_of_lt (Nat.div_le_self _ _) x.isLt)
  · rw [Nat.zero_mod, Nat.div_eq_of_lt (Nat.lt_of_lt_of_le x.isLt (Nat.pow_le_pow_right (by decide) (Nat.not_lt.mp hn)))]
theorem aluShr_res (w : Bool) (a : DWord) (c : Nat) : (aluShr w a c).res = formed w (fun _ x _ => x >>> c) a 0 := by
  rw [resOf_formed (fun n x => if c = 0 then x else if c < n then x / 2 ^ c else 0) (fun _ x => x >>> c) (fun _ _ x => ushiftRight_ofNat x c), aluShr]
  split_ifs
  · rfl
  · rfl
  · exact (resOf_zero w).symm
theorem aluShr_c (w : Bool) (a : DWord) (c : Nat) : (aluShr w a c).c =
    if c = 0 then none else some (tested w (fun _ x _ => x.getLsbD (c - 1)) a 0) := by
  rw [tested_eq (fun _ x => x.testBit (c - 1)) (fun _ x => x.getLsbD (c - 1)) (fun _ _ _ => rfl), aluShr]
  split_ifs with h0 hn
  · rfl
  · rfl
  · by_cases hc : c = wid w
    · simp [hc]
    · have hlt : opU w a < 2 ^ (c - 1) := Nat.lt_of_lt_of_le (opU_lt w a) (Nat.pow_le_pow_right (by decide) (by omega))
      simp [hc, Nat.testBit_lt_two_pow hlt]
theorem aluShr_v (w : Bool) (a : DWord) (c : Nat) : (aluShr w a c).v = none := by
  unfold aluShr
  split_ifs <;> rfl

/-! Arithmetic shift right. -/
/-- The sign of an operand that shifts in from the left: the top c bits. -/
theorem sshiftRight_ofNat {n : Nat} (hn : 0 < n) (x : BitVec n) (c : Nat) :
    BitVec.ofNat n (if c = 0 then x.toNat
      else if c < n then x.toNat / 2 ^ c + (if x.toNat.testBit (n - 1) then 2 ^ n - 2 ^ (n - c) else 0)
      else if x.toNat.testBit (n - 1) then 2 ^ n - 1 else 0) = x.sshiftRight c := by
  have hmsb : x.toNat.testBit (n - 1) = x.msb := (BitVec.msb_eq_getLsbD_last x).symm
  rw [hmsb]
  apply BitVec.eq_of_toNat_eq
  rw [BitVec.toNat_ofNat]
  have hx := x.isLt
  cases hs : x.msb
  · rw [BitVec.sshiftRight_eq_of_msb_false hs, ← ushiftRight_ofNat, BitVec.toNat_ofNat]
    simp
  · rw [BitVec.toNat_sshiftRight_of_msb_true hs, Nat.shiftRight_eq_div_pow]
    simp only [if_true]
    split_ifs with h0 hc
    · rw [h0, Nat.pow_zero, Nat.div_one, Nat.mod_eq_of_lt hx]
      omega
    · obtain ⟨d, rfl⟩ := Nat.exists_eq_add_of_le (Nat.le_of_lt hc)
      have hq : x.toNat / 2 ^ c < 2 ^ d := Nat.div_lt_of_lt_mul (by rwa [← Nat.pow_add])
      have hm : 2 ^ d ≤ 2 ^ (c + d) := Nat.pow_le_pow_right (by decide) (by omega)
      have hsub : (2 ^ (c + d) - 1 - x.toNat) / 2 ^ c = 2 ^ d - (x.toNat / 2 ^ c + 1) := by
        rw [Nat.sub_sub, Nat.add_comm 1, Nat.pow_add]
        exact Nat.mul_sub_div _ _ _ (by rwa [← Nat.pow_add])
      rw [hsub, Nat.add_sub_cancel_left]
      generalize 2 ^ (c + d) = m, 2 ^ d = k, x.toNat / 2 ^ c = q at *
      rw [Nat.mod_eq_of_lt (by omega)]
      omega
    · have hle : 2 ^ n ≤ 2 ^ c := Nat.pow_le_pow_right (by decide) (Nat.not_lt.mp hc)
      rw [Nat.div_eq_of_lt (by omega), Nat.mod_eq_of_lt (by omega), Nat.sub_zero]
theorem aluSar_res (w : Bool) (a : DWord) (c : Nat) : (aluSar w a c).res = formed w (fun _ x _ => x.sshiftRight c) a 0 := by
  rw [resOf_formed (fun n x => if c = 0 then x else if c < n then x / 2 ^ c + (if x.testBit (n - 1) then 2 ^ n - 2 ^ (n - c) else 0)
    else if x.testBit (n - 1) then 2 ^ n - 1 else 0) (fun _ x => x.sshiftRight c) (fun _ hn x => sshiftRight_ofNat hn x c), aluSar]
  split_ifs <;> rfl
theorem aluSar_c (w : Bool) (a : DWord) (c : Nat) : (aluSar w a c).c =
    if c = 0 then none else some (tested w (fun m x _ => if c < m then x.getLsbD (c - 1) else x.msb) a 0) := by
  rw [tested_eq (fun m x => if c < m then x.testBit (c - 1) else x.testBit (m - 1)) (fun m x => if c < m then x.getLsbD (c - 1) else x.msb)
    (fun _ _ x => by rw [BitVec.msb_eq_getLsbD_last]; rfl), aluSar]
  split_ifs <;> rfl
theorem aluSar_v (w : Bool) (a : DWord) (c : Nat) : (aluSar w a c).v = none := by
  unfold aluSar
  split_ifs <;> rfl

/-! Rotates. -/
/-- The bits that leave on the left come in on the right, where the shift has left zeros. -/
theorem rotateLeft_ofNat {n : Nat} (x : BitVec n) (c : Nat) : BitVec.ofNat n (x.toNat * 2 ^ (c % n) + x.toNat / 2 ^ (n - c % n)) = x.rotateLeft c := by
  have h1 : BitVec.ofNat n (x.toNat * 2 ^ (c % n)) = x <<< (c % n) := by
    apply BitVec.eq_of_toNat_eq
    rw [BitVec.toNat_ofNat, BitVec.toNat_shiftLeft, Nat.shiftLeft_eq]
  have h2 : BitVec.ofNat n (x.toNat / 2 ^ (n - c % n)) = x >>> (n - c % n) := by
    apply BitVec.eq_of_toNat_eq
    rw [BitVec.toNat_ofNat, BitVec.toNat_ushiftRight, Nat.shiftRight_eq_div_pow, Nat.mod_eq_of_lt (Nat.lt_of_le_of_lt (Nat.div_le_self _ _) x.isLt)]
  rw [BitVec.rotateLeft_def, BitVec.ofNat_add, h1, h2]
  refine BitVec.add_eq_or_of_and_eq_zero _ _ (BitVec.eq_of_getLsbD_eq fun i hi => ?_)
  rw [BitVec.getLsbD_and, BitVec.getLsbD_shiftLeft, BitVec.getLsbD_ushiftRight]
  by_cases hk : i < c % n
  · simp [hk]
  · simp [BitVec.getLsbD_of_ge x (n - c % n + i) (by omega)]
theorem aluRol_res (w : Bool) (a : DWord) (c : Nat) : (aluRol w a c).res = formed w (fun _ x _ => x.rotateLeft c) a 0 :=
  (resOf_formed (fun n x => x * 2 ^ (c % n) + x / 2 ^ (n - c % n)) (fun _ x => x.rotateLeft c) (fun _ _ x => rotateLeft_ofNat x c) w a 0).symm
/-- A rotate right is a rotate left by the rest of the width. -/
theorem rotateLeft_rest {n : Nat} (hn : 0 < n) (x : BitVec n) (c : Nat) : x.rotateLeft (n - c % n) = x.rotateRight c := by
  have hc : c % n < n := Nat.mod_lt c hn
  rw [BitVec.rotateLeft_def, BitVec.rotateRight_def]
  by_cases h0 : c % n = 0
  · simp [h0, BitVec.shiftLeft_eq_zero, BitVec.ushiftRight_eq_zero]
  · rw [Nat.mod_eq_of_lt (show n - c % n < n by omega), Nat.sub_sub_self (Nat.le_of_lt hc), BitVec.or_comm]
theorem aluRor_res (w : Bool) (a : DWord) (c : Nat) : (aluRor w a c).res = formed w (fun _ x _ => x.rotateRight c) a 0 := by
  rw [aluRor, aluRol_res]
  cases w
  · exact rotateLeft_rest (by decide) a c
  · exact congrArg (BitVec.signExtend 64) (rotateLeft_rest (by decide) (a.setWidth 32) c)
theorem cnt8_eq (b : DWord) : cnt8 b = (b.setWidth 8).toNat := (BitVec.toNat_setWidth 8 b).symm
/-- Settles O3: each shift by its result and its carry, each rotate by its result. -/
theorem shiftsFollowTheirCount : Obligations.ShiftsFollowTheirCount := by
  intro s t p w gd ga gb n r a shl shr sar rol ror shlC shrC sarC put k
  have hk : cnt8 (r.gr gb) = k := cnt8_eq _
  refine ⟨fun h he => ⟨?_, ?_, ?_, ?_, ?_⟩, fun h he => ⟨?_, ?_, ?_, ?_⟩⟩
  · exact gives_of_done _ _ _ rfl h (legal_alu he ..) (hk ▸ putAlu_shift (aluShl_res w a _) (aluShl_c w a _) (aluShl_v w a _))
  · exact gives_of_done _ _ _ rfl h (legal_alu he ..) (hk ▸ putAlu_shift (aluShr_res w a _) (aluShr_c w a _) (aluShr_v w a _))
  · exact gives_of_done _ _ _ rfl h (legal_alu he ..) (hk ▸ putAlu_shift (aluSar_res w a _) (aluSar_c w a _) (aluSar_v w a _))
  · exact gives_of_done _ _ _ rfl h (legal_alu he ..) (hk ▸ putAlu_nz (aluRol_res w a _) rfl rfl)
  · exact gives_of_done _ _ _ rfl h (legal_alu he ..) (hk ▸ putAlu_nz (aluRor_res w a _) rfl rfl)
  · exact gives_of_done _ _ _ rfl h (legal_immPlain he ..) (putAlu_shift (aluShl_res w a _) (aluShl_c w a _) (aluShl_v w a _))
  · exact gives_of_done _ _ _ rfl h (legal_immPlain he ..) (putAlu_shift (aluShr_res w a _) (aluShr_c w a _) (aluShr_v w a _))
  · exact gives_of_done _ _ _ rfl h (legal_immPlain he ..) (putAlu_shift (aluSar_res w a _) (aluSar_c w a _) (aluSar_v w a _))
  · exact gives_of_done _ _ _ rfl h (legal_immPlain he ..) (putAlu_nz (aluRor_res w a _) rfl rfl)

end Sys2Proof.Machine
end

section
/-! Selections, moves, counts of bits and reversed bytes (R104 to R106). -/
namespace Sys2Proof.Machine

/-! Selections and moves. -/
theorem setWidth_opU (w : Bool) (a : DWord) : resOf w (opU w a) = formed w (fun _ x _ => x) a 0 :=
  (resOf_formed (fun _ x => x) (fun _ x => x) (fun _ _ x => (BitVec.ofNat_toNat _ x).trans x.setWidth_eq) w a 0).symm
/-- A selection of one of two operands: which one depends on the low 32 bits alone for a W form. -/
theorem formed_select (g : (n : Nat) → BitVec n → BitVec n → Bool) (w : Bool) (a b : DWord) :
    formed w (fun n x y => if g n x y then x else y) a b = if tested w g a b then resOf w (opU w a) else resOf w (opU w b) := by
  rw [setWidth_opU, setWidth_opU]
  cases w
  · rfl
  · change (if _ then _ else _ : Word).signExtend 64 = _
    rw [apply_ite (BitVec.signExtend 64)]
    rfl
theorem formed_selectNot (g : (n : Nat) → BitVec n → BitVec n → Bool) (w : Bool) (a b : DWord) :
    formed w (fun n x y => if g n x y then y else x) a b = if tested w g a b then resOf w (opU w b) else resOf w (opU w a) := by
  rw [setWidth_opU, setWidth_opU]
  cases w
  · rfl
  · change (if _ then _ else _ : Word).signExtend 64 = _
    rw [apply_ite (BitVec.signExtend 64)]
    rfl
theorem tested_sle (w : Bool) (a b : DWord) : tested w (fun _ x y => x.sle y) a b = decide (opS w a ≤ opS w b) := by
  cases w <;> rfl
theorem tested_ule (w : Bool) (a b : DWord) : tested w (fun _ x y => x.ule y) a b = decide (opU w a ≤ opU w b) := by
  cases w
  · rw [opU_wide, opU_wide]
    rfl
  · rw [opU_narrow, opU_narrow]
    rfl
theorem resOf_smin (w : Bool) (a b : DWord) : resOf w (if opS w a ≤ opS w b then opU w a else opU w b) = formed w (fun _ x y => if x.sle y then x else y) a b := by
  rw [formed_select (fun _ x y => x.sle y), tested_sle, apply_ite (resOf w)]
  simp only [decide_eq_true_eq]
theorem resOf_smax (w : Bool) (a b : DWord) : resOf w (if opS w a ≤ opS w b then opU w b else opU w a) = formed w (fun _ x y => if x.sle y then y else x) a b := by
  rw [formed_selectNot (fun _ x y => x.sle y), tested_sle, apply_ite (resOf w)]
  simp only [decide_eq_true_eq]
theorem resOf_umin (w : Bool) (a b : DWord) : resOf w (Nat.min (opU w a) (opU w b)) = formed w (fun _ x y => if x.ule y then x else y) a b := by
  rw [formed_select (fun _ x y => x.ule y), tested_ule, show Nat.min _ _ = _ from Nat.min_def, apply_ite (resOf w)]
  simp only [decide_eq_true_eq]
theorem resOf_umax (w : Bool) (a b : DWord) : resOf w (Nat.max (opU w a) (opU w b)) = formed w (fun _ x y => if x.ule y then y else x) a b := by
  rw [formed_selectNot (fun _ x y => x.ule y), tested_ule, show Nat.max _ _ = _ from Nat.max_def, apply_ite (resOf w)]
  simp only [decide_eq_true_eq]

/-! Counts of bits (R104). -/
theorem testBit_opU (w : Bool) (a : DWord) (i : Nat) : (opU w a).testBit i = (decide (i < wid w) && a.getLsbD i) := Nat.testBit_mod_two_pow a.toNat (wid w) i
/-- A count of bits of a form fits its low 31 bits. -/
theorem resOf_small (w : Bool) {k : Nat} (h : k < 2 ^ 31) : resOf w k = BitVec.ofNat 64 k := by
  cases w
  · rfl
  · have hm : (BitVec.ofNat 32 k).msb = false := by
      rw [BitVec.msb_eq_false_iff_two_mul_lt, BitVec.toNat_ofNat]
      omega
    rw [resOf_narrow, BitVec.signExtend_eq_setWidth_of_msb_false hm]
    apply BitVec.eq_of_toNat_eq
    simp only [BitVec.toNat_setWidth, BitVec.toNat_ofNat]
    omega
theorem clzN_spec (n x : Nat) : clzN n x ≤ n ∧ (∀ i, i < clzN n x → x.testBit (n - 1 - i) = false) ∧
    (clzN n x < n → x.testBit (n - 1 - clzN n x) = true) := by
  induction n with
  | zero => simp [clzN]
  | succ n ih =>
    obtain ⟨hle, hz, ho⟩ := ih
    unfold clzN
    split_ifs with h
    · simp [h]
    · refine ⟨by omega, fun i hi => ?_, fun hi => ?_⟩
      · cases i with
        | zero => simpa using h
        | succ i =>
          rw [show n + 1 - 1 - (i + 1) = n - 1 - i by omega]
          exact hz i (by omega)
      · rw [show n + 1 - 1 - (clzN n x + 1) = n - 1 - clzN n x by omega]
        exact ho (by omega)
theorem ctzN_spec (n x : Nat) : ctzN n x ≤ n ∧ (∀ i, i < ctzN n x → x.testBit i = false) ∧ (ctzN n x < n → x.testBit (ctzN n x) = true) := by
  induction n generalizing x with
  | zero => simp [ctzN]
  | succ n ih =>
    obtain ⟨hle, hz, ho⟩ := ih (x / 2)
    unfold ctzN
    split_ifs with h
    · simp [Nat.testBit_zero, h]
    · refine ⟨by omega, fun i hi => ?_, fun hi => ?_⟩
      · cases i with
        | zero => simpa [Nat.testBit_zero] using h
        | succ i =>
          rw [Nat.testBit_succ]
          exact hz i (by omega)
      · rw [Nat.testBit_succ]
        exact ho (by omega)
theorem popN_eq (n x : Nat) : popN n x = (List.range n).countP fun i => x.testBit i := by
  induction n generalizing x with
  | zero => rfl
  | succ n ih =>
    have hs : ((fun i => x.testBit i) ∘ Nat.succ) = fun i => (x / 2).testBit i := funext fun i => Nat.testBit_succ x i
    rw [popN, ih, List.range_succ_eq_map, List.countP_cons, List.countP_map, hs, Nat.testBit_zero]
    obtain h | h := Nat.mod_two_eq_zero_or_one x <;> simp [h, Nat.add_comm]

/-! Bytes reversed, and a halfword replaced (R104, R106). -/
theorem testBit_bswapN (w : Bool) (a : DWord) (i : Nat) (hi : i < wid w) :
    (bswapN w a).testBit i = a.getLsbD (wid w - 8 - i / 8 * 8 + i % 8) := by
  have hn : wid w / 8 * 8 = wid w := by cases w <;> rfl
  have hk : wid w / 8 - 1 - i / 8 < wid w / 8 := by omega
  rw [bswapN, testBit_leNat, List.getD_eq_getElem?_getD, List.getElem?_reverse (by rw [length_leBytes]; omega), length_leBytes, leBytes_eq_map,
    List.getElem?_map, List.getElem?_range hk, Option.map_some, Option.getD_some, BitVec.getLsbD_ofNat,
    show 256 ^ (wid w / 8 - 1 - i / 8) = 2 ^ (8 * (wid w / 8 - 1 - i / 8)) by rw [Nat.pow_mul], Nat.testBit_div_two_pow,
    show 8 * (wid w / 8 - 1 - i / 8) = wid w - 8 - i / 8 * 8 by omega, Nat.add_comm]
  simp [Nat.mod_lt, BitVec.testBit_toNat]
theorem getLsbD_resOf (w : Bool) (m i : Nat) (hi : i < wid w) : (resOf w m).getLsbD i = m.testBit i := by
  cases w
  · rw [resOf_wide, BitVec.getLsbD_ofNat, decide_eq_true (show i < 64 from hi), Bool.true_and]
  · have hi' : i < 32 := hi
    rw [resOf_narrow, BitVec.getLsbD_signExtend, BitVec.getLsbD_ofNat]
    simp [hi', show i < 64 by omega]
/-- The bits above a form repeat its highest bit. -/
theorem getLsbD_resOf_above (w : Bool) (m i : Nat) (hi : wid w ≤ i) (h : i < 64) : (resOf w m).getLsbD i = (resOf w m).getLsbD (wid w - 1) := by
  cases w
  · exact absurd h (Nat.not_lt.mpr hi)
  · have hi' : ¬i < 32 := Nat.not_lt.mpr hi
    rw [resOf_narrow, BitVec.getLsbD_signExtend, BitVec.getLsbD_signExtend, if_neg hi', BitVec.msb_eq_getLsbD_last]
    simp [h, wid]
theorem ofNat_shiftLeft (n x k : Nat) : BitVec.ofNat n (x <<< k) = BitVec.ofNat n x <<< k := by
  apply BitVec.eq_of_toNat_eq
  simp [Nat.shiftLeft_eq]
theorem setFld_half (v : DWord) (lo : Nat) (x : Half) : setFld v lo 16 x.toNat = (v &&& ~~~(0xFFFF#64 <<< lo)) ||| (x.setWidth 64 <<< lo) := by
  have hx : x.toNat % 2 ^ 16 = x.toNat := Nat.mod_eq_of_lt x.isLt
  rw [setFld, hx, ofNat_shiftLeft, ofNat_shiftLeft, BitVec.ofNat_toNat]
  rfl

theorem putReg_eq {t : Thread} {gd : Reg} {v y : DWord} (h : v = y) (s : State) : putReg t gd v s = .done (setRegs s t ((regsOf s t).setG gd y)) := by
  rw [putReg, h]
/-- Settles O4: each selection picks by its comparison, each count by the bits that it passes. -/
theorem selectionsAndMovesLeaveTheFlags : Obligations.SelectionsAndMovesLeaveTheFlags := by
  intro s t p w gd ga gb h2 imm r a b n
  have hn : n = wid w := rfl
  have hn64 : wid w ≤ 64 := by cases w <;> decide
  have hbit : ∀ i, i < n → (opU w a).testBit i = a.getLsbD i := fun i hi => by rw [testBit_opU, decide_eq_true (show i < wid w from hi), Bool.true_and]
  refine ⟨fun h he => ⟨?_, ?_, ?_, ?_⟩, fun h he => ⟨?_, ?_, ?_, ?_, ?_⟩, fun h => ?_, fun h he => ?_⟩
  · exact gives_of_done _ _ _ rfl h (legal_alu he ..) (putReg_eq (resOf_smin w a b) s)
  · exact gives_of_done _ _ _ rfl h (legal_alu he ..) (putReg_eq (resOf_smax w a b) s)
  · exact gives_of_done _ _ _ rfl h (legal_alu he ..) (putReg_eq (resOf_umin w a b) s)
  · exact gives_of_done _ _ _ rfl h (legal_alu he ..) (putReg_eq (resOf_umax w a b) s)
  · exact gives_of_done _ _ _ rfl h (legal_alu he ..) (putReg_eq (setWidth_opU w a) s)
  · obtain ⟨hle, hz, ho⟩ := clzN_spec (wid w) (opU w a)
    have hk : resOf w (clzN (wid w) (opU w a)) = BitVec.ofNat 64 _ := resOf_small w (by omega)
    refine ⟨clzN (wid w) (opU w a), hle, fun i hi => ?_, fun hi => ?_,
      gives_of_done _ _ _ rfl h (legal_alu he ..) (putReg_eq hk s)⟩
    · rw [← hbit _ (by omega)]
      exact hz i hi
    · rw [← hbit _ (by omega)]
      exact ho hi
  · obtain ⟨hle, hz, ho⟩ := ctzN_spec (wid w) (opU w a)
    have hk : resOf w (ctzN (wid w) (opU w a)) = BitVec.ofNat 64 _ := resOf_small w (by omega)
    refine ⟨ctzN (wid w) (opU w a), hle, fun i hi => ?_, fun hi => ?_,
      gives_of_done _ _ _ rfl h (legal_alu he ..) (putReg_eq hk s)⟩
    · rw [← hbit _ (by omega)]
      exact hz i hi
    · rw [← hbit _ (by omega)]
      exact ho hi
  · have hc : (List.range n).countP (fun i => a.getLsbD i) = popN (wid w) (opU w a) := by
      rw [popN_eq]
      exact List.countP_congr fun i hi => by rw [hbit i (List.mem_range.mp hi)]
    have hlt : popN (wid w) (opU w a) ≤ wid w := by
      rw [popN_eq]
      exact List.countP_le_length.trans (List.length_range).le
    have hk : resOf w (popN (wid w) (opU w a)) = BitVec.ofNat 64 _ := resOf_small w (by omega)
    rw [hc]
    exact gives_of_done _ _ _ rfl h (legal_alu he ..) (putReg_eq hk s)
  · exact ⟨resOf w (bswapN w a), fun i hi => (getLsbD_resOf w _ i hi).trans (testBit_bswapN w a i hi), fun i hi h64 => getLsbD_resOf_above w _ i hi h64,
      gives_of_done _ _ _ rfl h (legal_alu he ..) rfl⟩
  · exact gives_of_done _ _ _ rfl h (legal_imm p ..) rfl
  · exact gives_of_done _ _ _ rfl h (legal_immPlain he ..) (putReg_eq (setFld_half _ _ imm) s)

end Sys2Proof.Machine
end

section
/-! The multiplier and the divider (R110, R117 to R119, R160): products and quotients on bit vectors, and where a result that was outstanding goes. -/
namespace Sys2Proof.Machine

/-! Products and quotients. -/
theorem mulS_eq (a b : DWord) : mulS a b = (a * b, (a.signExtend 128 * b.signExtend 128).extractLsb' 64 64) := by
  have hp : BitVec.ofInt 128 (a.toInt * b.toInt) = a.signExtend 128 * b.signExtend 128 := BitVec.ofInt_mul _ _
  have hs : ∀ x : DWord, (x.signExtend 128).setWidth 64 = x := fun x => BitVec.eq_of_getLsbD_eq fun i hi => by
    rw [BitVec.getLsbD_setWidth, BitVec.getLsbD_signExtend]
    simp [hi, show i < 128 by omega]
  rw [mulS, hp]
  refine Prod.ext ?_ (BitVec.eq_of_getLsbD_eq fun i hi => ?_)
  · rw [BitVec.setWidth_mul _ _ (by decide), hs, hs]
  · rw [BitVec.getLsbD_setWidth, BitVec.getLsbD_ushiftRight, BitVec.getLsbD_extractLsb']
theorem mulU_eq (a b : DWord) : mulU a b = (a * b, (a.setWidth 128 * b.setWidth 128).extractLsb' 64 64) := by
  have ha := a.isLt
  have hb := b.isLt
  have hlt : a.toNat * b.toNat < 2 ^ (64 + 64) := Nat.pow_add 2 64 64 ▸ Nat.mul_lt_mul'' ha hb
  have hw : ∀ x : DWord, (x.setWidth 128).toNat = x.toNat := fun x => by
    rw [BitVec.toNat_setWidth, Nat.mod_eq_of_lt (Nat.lt_trans x.isLt (by decide))]
  refine Prod.ext (BitVec.eq_of_toNat_eq ?_) (BitVec.eq_of_toNat_eq ?_)
  · simp [mulU]
  · rw [mulU, BitVec.toNat_ofNat, BitVec.extractLsb'_toNat, BitVec.toNat_mul, hw, hw, Nat.mod_eq_of_lt hlt, Nat.shiftRight_eq_div_pow]
theorem divS_eq {a b : DWord} (h : b ≠ 0) : divS a b = (a.sdiv b, a.srem b) := by
  rw [divS, if_neg h]
  refine Prod.ext (BitVec.eq_of_toInt_eq ?_) (BitVec.eq_of_toInt_eq ?_)
  · rw [BitVec.toInt_sdiv, BitVec.toInt_ofInt]
  · rw [BitVec.toInt_ofInt, ← BitVec.toInt_srem, ← BitVec.toInt_ofInt, BitVec.ofInt_toInt]
theorem divU_eq {a b : DWord} (h : b ≠ 0) : divU a b = (a / b, a % b) := by
  rw [divU, if_neg h]
  refine Prod.ext (BitVec.eq_of_toNat_eq ?_) (BitVec.eq_of_toNat_eq ?_)
  · rw [BitVec.toNat_udiv, BitVec.toNat_ofNat, Nat.mod_eq_of_lt (Nat.lt_of_le_of_lt (Nat.div_le_self _ _) a.isLt)]
  · rw [BitVec.toNat_umod, BitVec.toNat_ofNat, Nat.mod_eq_of_lt (Nat.lt_of_le_of_lt (Nat.mod_le _ _) a.isLt)]
theorem divS_zero (a : DWord) : divS a 0 = (BitVec.allOnes 64, a) := if_pos rfl
theorem divU_zero (a : DWord) : divU a 0 = (BitVec.allOnes 64, a) := if_pos rfl
/-- The flags of a division by zero: DZ set, V clear (R110). -/
theorem srV_divideByZero (sr : Word) : setFld (setFld sr 4 1 1) 3 1 0 = srV (sr ||| 0x10#32) false := by
  have hdz : setFld sr 4 1 1 = sr ||| 0x10#32 := by
    refine BitVec.eq_of_getLsbD_eq fun i hi => ?_
    simp only [setFld, BitVec.getLsbD_and, BitVec.getLsbD_or, BitVec.getLsbD_not]
    interval_cases i <;> simp
  rw [hdz]
  exact setFld_three _ false
theorem getLsbD_divideByZero_em (sr : Word) : (srV (sr ||| 0x10#32) false).getLsbD 10 = sr.getLsbD 10 := by
  simp [srV]

/-! Instructions that change more than registers. -/
/-- An instruction that raises an exception after changes to its own thread. -/
theorem leaves_of_exc {c : Instr} {s s1 : State} {t : Thread} {p : Pfx} {cause : Nat} {eval : DWord} (d : Dec) (body : State → Eff)
    (hx : exec c s = onCore (issue t p d body) s) (h : Ready s t p d.regs) (hl : illegal p d = false) (hb : body s = .exc s1 cause eval)
    (ho : OnlyThread s s1 t) (he : CanEnter s1 t) : Leaves c s t
      (enterRegs (regsOf s1 t) (entryLvl (regsOf s1 t) t) cause eval (p.rep || p.ext.isSome) false) { thrOf s1 t with inRep := false } := by
  have hn := noSaved_of_only (canIssue_noSaved h.1) ho
  refine ⟨raiseExc s1 t cause eval (p.rep || p.ext.isSome), by rw [hx, issue_ready h, executeIns_ready d h hl, hb], ?_⟩
  rw [raiseExc_enters _ _ _ _ _ he]
  exact ⟨regsOf_setRegs_same _ _ _, by rw [thrOf_setRegs (noSaved_setThr hn), thrOf_setThr_same], onlyThread_setRegs _ _ _ _ (onlyThread_setThr _ _ _ _ ho)⟩
/-- An instruction that completes, with the registers and what the device keeps beside them as they are named. -/
theorem leaves_done {c : Instr} {s s1 : State} {t : Thread} {p : Pfx} {r : Regs} {x : Thr} (d : Dec) (body : State → Eff)
    (hx : exec c s = onCore (issue t p d body) s) (h : Ready s t p d.regs) (hl : illegal p d = false) (hb : body s = .done s1) (ho : OnlyThread s s1 t)
    (hr : regsOf s1 t = r) (ht : thrOf s1 t = x) : Leaves c s t (pastUnit p r) (afterUnit p r x) := by
  subst hr ht
  exact leaves_of_done d body s1 hx h hl hb ho

/-! The instructions. -/
section
variable {s : State} {t : Thread} {p : Pfx} {ga gb : Reg}

theorem legal_md (he : p.ext = none) (ga gb : Reg) (fn : Nat) : illegal p (mdDec ga gb fn) = false := legal_repeated rfl rfl (.inl he)
/-- What a thread holds once the flags of a division are written and its result is outstanding. -/
theorem putMd_setRegs (hn : NoSaved s t) (r : Regs) (y : DWord × DWord) : let u := putMd (setRegs s t r) t y
    OnlyThread s u t ∧ regsOf u t = r ∧ thrOf u t = { thrOf s t with md := some y } := by
  refine ⟨onlyThread_setThr _ _ _ _ (onlyThread_setRegs _ _ _ _ (onlyThread_refl s t)), ?_, ?_⟩
  · rw [putMd, regsOf_setThr, regsOf_setRegs_same]
  · rw [putMd, thrOf_setThr_same, thrOf_setRegs hn]
theorem mul_leaves {c : Instr} {fn : Nat} {f : DWord → DWord → DWord × DWord} {lo hi : DWord} (hx : exec c s = onCore (mulIns t p ga gb fn f) s)
    (h : Ready s t p [ga, gb]) (he : p.ext = none) (hf : f ((regsOf s t).gr ga) ((regsOf s t).gr gb) = (lo, hi)) :
    Leaves c s t (pastUnit p (regsOf s t)) (afterUnit p (regsOf s t) { thrOf s t with md := some (lo, hi) }) := by
  refine leaves_done (mdDec ga gb fn) _ hx h (legal_md he ga gb fn) (congrArg (fun y => Eff.done (putMd s t y)) hf)
    (onlyThread_setThr _ _ _ _ (onlyThread_refl s t)) ?_ ?_ <;> simp [putMd]
theorem div_leaves {c : Instr} {fn : Nat} {f : DWord → DWord → DWord × DWord} {v : DWord → DWord → Bool} {lo hi : DWord} {w : Bool}
    (hx : exec c s = onCore (divIns t p ga gb fn f v) s) (h : Ready s t p [ga, gb]) (he : p.ext = none) (hb : (regsOf s t).gr gb ≠ 0)
    (hf : f ((regsOf s t).gr ga) ((regsOf s t).gr gb) = (lo, hi)) (hv : v ((regsOf s t).gr ga) ((regsOf s t).gr gb) = w) :
    let r : Regs := { regsOf s t with sr := srV (regsOf s t).sr w }
    Leaves c s t (pastUnit p r) (afterUnit p r { thrOf s t with md := some (lo, hi) }) := by
  obtain ⟨ho, hr, ht⟩ := putMd_setRegs (canIssue_noSaved h.1) { regsOf s t with sr := srV (regsOf s t).sr w } (lo, hi)
  exact leaves_done (mdDec ga gb fn) _ hx h (legal_md he ga gb fn) (by simp only [if_neg hb, hf, hv, setFld_three]) ho hr ht
theorem div_zero_leaves {c : Instr} {fn : Nat} {f : DWord → DWord → DWord × DWord} {v : DWord → DWord → Bool}
    (hx : exec c s = onCore (divIns t p ga gb fn f v) s) (h : Ready s t p [ga, gb]) (he : p.ext = none) (hb : (regsOf s t).gr gb = 0)
    (hz : (regsOf s t).sr.getLsbD 5 = false) (hf : f ((regsOf s t).gr ga) 0 = (BitVec.allOnes 64, (regsOf s t).gr ga)) :
    let r : Regs := { regsOf s t with sr := srV ((regsOf s t).sr ||| 0x10#32) false }
    Leaves c s t (pastUnit p r) (afterUnit p r { thrOf s t with md := some (BitVec.allOnes 64, (regsOf s t).gr ga) }) := by
  obtain ⟨ho, hr, ht⟩ := putMd_setRegs (canIssue_noSaved h.1) { regsOf s t with sr := srV ((regsOf s t).sr ||| 0x10#32) false }
    (BitVec.allOnes 64, (regsOf s t).gr ga)
  have hz' : bit (regsOf s t).sr 5 = false := hz
  exact leaves_done (mdDec ga gb fn) _ hx h (legal_md he ga gb fn) (by simp only [hb, if_true, hz', Bool.false_eq_true, if_false, hf, srV_divideByZero]) ho hr ht
theorem div_zero_raises {c : Instr} {fn : Nat} {f : DWord → DWord → DWord × DWord} {v : DWord → DWord → Bool}
    (hx : exec c s = onCore (divIns t p ga gb fn f v) s) (h : Ready s t p [ga, gb]) (he : p.ext = none) (hb : (regsOf s t).gr gb = 0)
    (hz : (regsOf s t).sr.getLsbD 5 = true) (hc : CanEnter s t) :
    let r : Regs := { regsOf s t with sr := srV ((regsOf s t).sr ||| 0x10#32) false }
    Leaves c s t (enterRegs r (entryLvl r t) 5 ((regsOf s t).gr ga) p.rep false) { thrOf s t with inRep := false } := by
  intro r
  have hz' : bit (regsOf s t).sr 5 = true := hz
  have hr : regsOf (setRegs s t r) t = r := regsOf_setRegs_same s t r
  have hem : r.sr.getLsbD 10 = false := (getLsbD_divideByZero_em _).trans hc.1
  have hl := leaves_of_exc (mdDec ga gb fn) _ hx h (legal_md he ga gb fn) (s1 := setRegs s t r) (cause := 5) (eval := (regsOf s t).gr ga)
    (by simp only [hb, if_true, hz', srV_divideByZero, r]) (onlyThread_setRegs _ _ _ _ (onlyThread_refl s t)) ⟨by rw [hr]; exact hem, by rw [hr]; exact hc.2⟩
  simpa [hr, he, thrOf_setRegs (canIssue_noSaved h.1)] using hl
end

/-! The result arrives (R118, R119, R160). -/
theorem onlyThread_putRegs (s u : State) (t : Thread) (r : Regs) (h : OnlyThread s u t) : OnlyThread s (putRegs u t r) t :=
  ⟨fun v hv => ⟨(regsOf_putRegs_other _ _ _ _ hv).trans (h.1 v hv).1, (thrOf_putRegs _ _ _ _).trans (h.1 v hv).2⟩, (threadsBack_putRegs _ _ _ _).trans h.2⟩
theorem muldivResult_registers {s : State} {t : Thread} {lo hi : DWord} (hc : clocksOn s = true) (hm : (thrOf s t).md = some (lo, hi))
    (hf : (thrOf s t).mdFrame = []) : Leaves (.muldivResult t) s t { regsOf s t with ml := lo, mh := hi } { thrOf s t with md := none } := by
  refine ⟨putRegs (setThr s t { thrOf s t with md := none }) t { regsOf s t with ml := lo, mh := hi }, ?_, regsOf_putRegs_same _ _ _, ?_,
    onlyThread_putRegs _ _ _ _ (onlyThread_setThr _ _ _ _ (onlyThread_refl s t))⟩
  · change execMuldivResult t s = _
    rw [execMuldivResult, onCore_on _ hc]
    cases t <;> simp [mdResult, hm, hf]
  · rw [thrOf_putRegs, thrOf_setThr_same]
/-- A byte of the tightly coupled memory of a processor, which every level may write (R24). -/
theorem wrKey_tcm (s : State) (n : BitVec 2) (lvl : Lvl) {o : Nat} (h : o < 0x40000) : wrKey s (.mp n) lvl (0x3000_0000 + o) = some (tcmKey n o) := by
  have hl : locate s (.mp n) (0x3000_0000 + o) = some (.tcm, tcmKey n (0x3000_0000 + o - 0x3000_0000)) := by
    unfold locate
    rw [if_neg (by omega), if_neg (by omega), if_neg (by omega), if_pos (by omega)]
  rw [wrKey, hl, Nat.add_sub_cancel_left]
  rfl
theorem tcmKey_add (n : BitVec 2) (a i : Nat) : tcmKey n (a + i) = tcmKey n a + i := (Nat.add_assoc _ _ _).symm
theorem getD_lowBytes (n i : Nat) (v : DWord) (h : i < n) : (lowBytes n v).getD i 0 = (v >>> (8 * i)).setWidth 8 := by
  rw [lowBytes, List.getD_eq_getElem?_getD, List.getElem?_map, List.getElem?_range h]
  rfl
theorem muldivResult_frame {s : State} {n : BitVec 2} {lo hi : DWord} {a : Nat} {more : List (DWord × DWord × Nat)} (hc : clocksOn s = true)
    (hf : (thrOf s (.mp n)).mdFrame = (lo, hi, a) :: more) (ha : a + 16 ≤ 0x40000) : Answers (.muldivResult (.mp n)) s fun u =>
      (thrOf u (.mp n)).mdFrame = more ∧ (∀ i, i < 8 → memGet u (tcmKey n (a + i)) = (lo >>> (8 * i)).setWidth 8) ∧
        (∀ i, i < 8 → memGet u (tcmKey n (a + 8 + i)) = (hi >>> (8 * i)).setWidth 8) ∧ SameMemoryBut s u (tcmKey n a) 16 ∧ regsOf u (.mp n) = regsOf s (.mp n) := by
  let s1 := setThr s (.mp n) { thrOf s (.mp n) with mdFrame := more }
  let bs := leBytes 8 lo.toNat ++ leBytes 8 hi.toNat
  have hlen : bs.length = 16 := by simp [bs, length_leBytes]
  have hkeys : ∀ i, i < bs.length → wrKey s1 (.mp n) 2 (0x3000_0000 + a + i) = some (tcmKey n a + i) := fun i hi => by
    rw [Nat.add_assoc, wrKey_tcm s1 n 2 (by omega), tcmKey_add]
  have hlo : ∀ i, i < 8 → bs.getD i 0 = (lo >>> (8 * i)).setWidth 8 := fun i hi => by
    rw [List.getD_append _ _ _ _ (by simpa [length_leBytes] using hi), leBytes_dword, getD_lowBytes 8 i lo hi]
  have hhi : ∀ i, i < 8 → bs.getD (8 + i) 0 = (hi >>> (8 * i)).setWidth 8 := fun i hi' => by
    rw [List.getD_append_right _ _ _ _ (by simp [length_leBytes]), length_leBytes, Nat.add_sub_cancel_left, leBytes_dword, getD_lowBytes 8 i hi hi']
  obtain ⟨hget, hbut⟩ := storeBytes_run hkeys
  obtain ⟨m, up, corr, rv, hst⟩ := storeBytes_eq s1 (.mp n) 2 (0x3000_0000 + a) bs
  refine ⟨storeBytes s1 (.mp n) 2 (0x3000_0000 + a) bs, ?_, ?_, fun i hi => ?_, fun i hi => ?_, hlen ▸ hbut, ?_⟩
  · change execMuldivResult (.mp n) s = _
    rw [execMuldivResult, onCore_on _ hc]
    simp only [mdResult, hf, s1, bs]
  · rw [hst]
    exact congrArg Thr.mdFrame (thrOf_setThr_same s _ _)
  · rw [← hlo i hi, tcmKey_add]
    exact hget i (by omega)
  · rw [← hhi i hi, Nat.add_assoc, tcmKey_add]
    exact hget (8 + i) (by omega)
  · rw [hst]
    exact (show regsOf _ (.mp n) = regsOf s1 (.mp n) from rfl).trans (regsOf_setThr s _ _ _)
/-- Settles O5: each operation by its body, the result by the write of registers or of the frame. -/
theorem multiplyAndDivideIssue : Obligations.MultiplyAndDivideIssue := by
  constructor
  · intro s t p ga gb h he r a b x edge rz put
    refine ⟨mul_leaves rfl h he (mulS_eq a b), mul_leaves rfl h he (mulU_eq a b),
      fun hb => div_leaves rfl h he hb (divS_eq hb) rfl, fun hb => div_leaves rfl h he hb (divU_eq hb) rfl,
      fun hb hz => ⟨div_zero_leaves rfl h he hb hz (divS_zero a), div_zero_leaves rfl h he hb hz (divU_zero a)⟩, fun hb hz hem hv => ?_⟩
    cases t with
    | ctx c => exact ⟨div_zero_raises rfl h he hb hz ⟨hem, hv⟩, div_zero_raises rfl h he hb hz ⟨hem, hv⟩⟩
    | mp n => exact ⟨div_zero_raises rfl h he hb hz ⟨hem, hv⟩, div_zero_raises rfl h he hb hz ⟨hem, hv⟩⟩
  · intro s t n lo hi a hc
    refine ⟨muldivResult_registers hc, fun more ht hf ha => ?_⟩
    subst ht
    exact muldivResult_frame hc hf ha

end Sys2Proof.Machine
end

section
/-! Loads and stores (R111, R112, R131, R440, R453): the bytes that a load reads, the value that it makes of them, and the exceptions of both. -/
namespace Sys2Proof.Machine

/-! The value of loaded bytes (R111). -/
theorem leNat_lt (bs : List Byte) : leNat bs < 2 ^ (8 * bs.length) := by
  induction bs with
  | nil => decide
  | cons b bs ih =>
    have hb := b.isLt
    rw [leNat, List.length_cons, Nat.mul_succ, Nat.pow_add]
    omega
/-- Loaded data are the little-endian number of their bytes, extended with the sign or with zeros. -/
theorem loadExt_eq (sgn : Bool) (bs : List Byte) (h : bs ≠ []) : loadExt sgn bs =
    if sgn then (BitVec.ofNat (8 * bs.length) (leNat bs)).signExtend 64 else BitVec.ofNat 64 (leNat bs) := by
  have hlt := leNat_lt bs
  have hpos : 0 < bs.length := List.length_pos_of_ne_nil h
  have hpow : 2 ^ (8 * bs.length) = 2 * 2 ^ (8 * bs.length - 1) := by
    rw [← Nat.pow_succ']
    congr 1
    omega
  cases sgn with
  | false => simp [loadExt]
  | true =>
    have hint : (BitVec.ofNat (8 * bs.length) (leNat bs)).toInt =
        if 2 ^ (8 * bs.length - 1) ≤ leNat bs then (leNat bs : Int) - 2 ^ (8 * bs.length) else leNat bs := by
      rw [BitVec.toInt_eq_toNat_cond, BitVec.toNat_ofNat, Nat.mod_eq_of_lt hlt]
      split_ifs
      all_goals push_cast; omega
    rw [loadExt, if_pos rfl, BitVec.signExtend, hint]
    simp only [true_and]
    split_ifs with hs
    · rfl
    · rw [BitVec.ofInt_natCast]
theorem loadedAs_loadExt (sgn : Bool) {bs : List Byte} (h : bs ≠ []) (h8 : bs.length ≤ 8) : loadedAs sgn bs (loadExt sgn bs) := by
  have hpos : 0 < bs.length := List.length_pos_of_ne_nil h
  rw [loadExt_eq sgn bs h]
  cases sgn with
  | false =>
    refine ⟨fun i hi => ?_, fun i hi _ => ?_⟩
    · rw [← testBit_leNat, if_neg Bool.false_ne_true, BitVec.getLsbD_ofNat]
      simp [show i < 64 by omega]
    · have ht : (leNat bs).testBit i = false := Nat.testBit_lt_two_pow (Nat.lt_of_lt_of_le (leNat_lt bs) (Nat.pow_le_pow_right (by decide) hi))
      rw [if_neg Bool.false_ne_true, BitVec.getLsbD_ofNat, ht, Bool.and_false, Bool.false_and]
  | true =>
    have hbit : ∀ i, i < 8 * bs.length → ((BitVec.ofNat (8 * bs.length) (leNat bs)).signExtend 64).getLsbD i = (leNat bs).testBit i := fun i hi => by
      rw [BitVec.getLsbD_signExtend, BitVec.getLsbD_ofNat]
      simp [hi, show i < 64 by omega]
    simp only [if_true]
    refine ⟨fun i hi => (hbit i hi).trans (testBit_leNat bs i), fun i hi h64 => ?_⟩
    rw [hbit (8 * bs.length - 1) (by omega), BitVec.getLsbD_signExtend, if_neg (Nat.not_lt.mpr hi), BitVec.msb_eq_getLsbD_last, BitVec.getLsbD_ofNat]
    simp [h64, hpos]

/-! Bytes that a load reads (R24, R112). -/
theorem rdBytes_run {s : State} {ag : Agent} (bs : List Byte) (a : Nat)
    (h : ∀ i, i < bs.length → ∃ k, rdKey s ag (a + i) = some k ∧ bs.getD i 0 = memGet s k) : rdBytes s ag a bs.length = some bs := by
  induction bs generalizing a with
  | nil => rfl
  | cons b bs ih =>
    obtain ⟨k, hk, hb⟩ := h 0 (Nat.succ_pos _)
    have hb' : b = memGet s k := hb
    have hr : rdBytes s ag (a + 1) bs.length = some bs := ih (a + 1) fun i hi => by
      rw [Nat.add_assoc, Nat.add_comm 1]
      exact h (i + 1) (Nat.succ_lt_succ hi)
    rw [List.length_cons, rdBytes, show rdKey s ag a = some k from hk, hr, hb']
    rfl
theorem rdBytes_none {s : State} {ag : Agent} {n : Nat} (a : Nat) (h : ∃ i, i < n ∧ rdKey s ag (a + i) = none) : rdBytes s ag a n = none := by
  induction n generalizing a with
  | zero =>
    obtain ⟨i, hi, -⟩ := h
    exact absurd hi (Nat.not_lt_zero i)
  | succ n ih =>
    obtain ⟨i, hi, hk⟩ := h
    unfold rdBytes
    cases h0 : rdKey s ag a with
    | none => rfl
    | some k =>
      obtain _ | i := i
      · exact absurd (h0.symm.trans hk) (by simp)
      · have hn : rdBytes s ag (a + 1) n = none := ih (a + 1) ⟨i, by omega, by rw [← hk]; congr 1; omega⟩
        simp [hn]
/-- A load sees memory through the stores of its thread that wait. -/
theorem loadBytes_run {s : State} {t : Thread} {a : Nat} {bs : List Byte} (ha : 0x110000 ≤ a)
    (h : ∀ i, i < bs.length → ∃ k, rdKey s (thrAgent s t) (a + i) = some k ∧
      bs.getD i 0 = (sbByte (thrOf s t).sb (physAddr (thrAgent s t) a + i)).getD (memGet s k)) : loadBytes s t a bs.length = some (bs, s) := by
  have hkey : ∀ i, i < bs.length → rdKey s (thrAgent s t) (a + i) = some ((rdKey s (thrAgent s t) (a + i)).getD 0) := fun i hi => by
    obtain ⟨k, hk, -⟩ := h i hi
    rw [hk]
    rfl
  let ms := (List.range bs.length).map fun i => memGet s ((rdKey s (thrAgent s t) (a + i)).getD 0)
  have hlen : ms.length = bs.length := by simp [ms]
  have hget : ∀ i, i < bs.length → ms.getD i 0 = memGet s ((rdKey s (thrAgent s t) (a + i)).getD 0) := fun i hi => by
    simp [ms, List.getD_eq_getElem?_getD, hi]
  have hrd : rdBytes s (thrAgent s t) a bs.length = some ms := hlen ▸ rdBytes_run ms a fun i hi => ⟨_, hkey i (hlen ▸ hi), hget i (hlen ▸ hi)⟩
  have hbyte : ∀ i, i < bs.length → bs.getD i 0 = (sbByte (thrOf s t).sb (physAddr (thrAgent s t) a + i)).getD (ms.getD i 0) := fun i hi => by
    obtain ⟨k, hk, hb⟩ := h i hi
    rw [hb, hget i hi, hk]
    rfl
  have hover : sbOver (thrOf s t).sb (physAddr (thrAgent s t) a) ms = bs := by
    have hext : ∀ l : List Byte, l.length = bs.length → (∀ i, i < bs.length → l.getD i 0 = bs.getD i 0) → l = bs := fun l hl he =>
      List.ext_getElem hl fun i h1 h2 => by simpa [List.getD_eq_getElem?_getD, h1, h2] using he i h2
    unfold sbOver
    split_ifs with he
    · refine hext ms hlen fun i hi => ?_
      rw [hbyte i hi, List.isEmpty_iff.mp he]
      rfl
    · refine hext _ (by simp [hlen]) fun i hi => ?_
      rw [hbyte i hi]
      simp [List.getD_eq_getElem?_getD, hlen, hi, byteAt]
  rw [loadBytes, if_neg (Nat.not_lt.mpr ha), hrd]
  simp [hover]

/-! The watch (R146). -/
/-- An access that the watch of a thread does not select leaves the state that the access has made. -/
theorem watchOn_unwatched {s u : State} {t : Thread} {kind a n : Nat} (h : Unwatched s t kind a n) (ho : OnlyThread s u t)
    (hw : (regsOf u t).wen = (regsOf s t).wen) : watchOn u t kind a n = u := by
  cases t with
  | mp n => rfl
  | ctx c =>
    have ha : ∀ x, act u x = act s x := fun x => ho.frame (act · x) rfl
    have hc : watchHit u c kind a n = false := by
      rw [← h c rfl]
      simp only [watchHit, ha, hw]
    simp [watchOn, hc]

/-! The parts of an access. -/
section
variable {s : State} {t : Thread} {p : Pfx} {sz : BitVec 2} {gd ga : Reg} {imm : Half}

/-- What the device keeps for a thread is written, and the base register of a .P form with it. -/
theorem accessed_only (hn : NoSaved s t) (x : Thr) (post : Bool) (v : DWord) :
    let u := if post then setRegs (setThr s t x) t ((regsOf (setThr s t x) t).setG ga v) else setThr s t x
    OnlyThread s u t ∧ regsOf u t = (if post then (regsOf s t).setG ga v else regsOf s t) ∧ thrOf u t = x := by
  have ho := onlyThread_setThr s s t x (onlyThread_refl s t)
  cases post
  · exact ⟨ho, regsOf_setThr s t t x, thrOf_setThr_same s t x⟩
  · refine ⟨onlyThread_setRegs _ _ _ _ ho, ?_, ?_⟩
    · simp
    · simp [thrOf_setRegs (noSaved_setThr hn)]
theorem szBytes_range (sz : BitVec 2) : 0 < szBytes sz ∧ szBytes sz ≤ 8 := by
  revert sz
  decide
theorem legal_mem {op : Nat} {legal : Bool} (h : legal = true) : illegal p (memDec op sz gd ga imm legal) = false := legal_repeated h rfl (.inr rfl)
/-- The address of a load or store (R111). -/
abbrev accessAddr (s : State) (t : Thread) (p : Pfx) (post : Bool) (ga : Reg) (imm : Half) : DWord :=
  if post then (regsOf s t).gr ga else (regsOf s t).gr ga + immS p imm
/-- The registers that an access leaves: a .P form adds the immediate to its base (R111). -/
abbrev accessRegs (s : State) (t : Thread) (p : Pfx) (post : Bool) (ga : Reg) (imm : Half) : Regs :=
  if post then (regsOf s t).setG ga ((regsOf s t).gr ga + immS p imm) else regsOf s t
theorem wen_accessRegs (s : State) (t : Thread) (p : Pfx) (post : Bool) (ga : Reg) (imm : Half) : (accessRegs s t p post ga imm).wen = (regsOf s t).wen := by
  cases post <;> rfl

/-! Loads. -/
theorem load_leaves {c : Instr} {op : Nat} {legal sgn post : Bool} {bs : List Byte}
    (hx : exec c s = onCore (issue t p (memDec op sz gd ga imm legal) (loadIns t p sgn post sz gd ga imm)) s) (hlg : legal = true) (h : Ready s t p [gd, ga])
    (hal : (accessAddr s t p post ga imm).toNat % szBytes sz = 0) (ha : 0x110000 ≤ (accessAddr s t p post ga imm).toNat) (hlen : bs.length = szBytes sz)
    (hbs : ∀ i, i < szBytes sz → ∃ k, rdKey s (thrAgent s t) ((accessAddr s t p post ga imm).toNat + i) = some k ∧
      bs.getD i 0 = (sbByte (thrOf s t).sb (physAddr (thrAgent s t) (accessAddr s t p post ga imm).toNat + i)).getD (memGet s k))
    (hw : Unwatched s t 19 (accessAddr s t p post ga imm).toNat (szBytes sz)) (hst : stalledIn s (thrAgent s t) (accessAddr s t p post ga imm).toNat (szBytes sz) = false) :
    ∃ v, loadedAs sgn bs v ∧ Leaves c s t (pastUnit p (accessRegs s t p post ga imm))
      (afterUnit p (accessRegs s t p post ga imm) { thrOf s t with loads := (thrOf s t).loads ++ [(gd, v)] }) := by
  obtain ⟨hpos, h8⟩ := szBytes_range sz
  obtain ⟨ho, hr, ht⟩ := accessed_only (ga := ga) (canIssue_noSaved h.1) { thrOf s t with loads := (thrOf s t).loads ++ [(gd, loadExt sgn bs)] } post
    ((regsOf s t).gr ga + immS p imm)
  refine ⟨loadExt sgn bs, loadedAs_loadExt sgn (List.ne_nil_of_length_pos (by omega)) (by omega),
    leaves_done _ _ hx h (legal_mem hlg) ?_ ho hr ht⟩
  have hld : loadBytes s t (accessAddr s t p post ga imm).toNat (szBytes sz) = some (bs, s) := hlen ▸ loadBytes_run ha (hlen.symm ▸ hbs)
  have hlow : ¬(accessAddr s t p post ga imm).toNat < 0x11_0000 := by omega
  simp only [loadIns, hal, hlow, hst, hld, ne_eq, not_true_eq_false, if_false, false_and, Bool.false_eq_true, or_self]
  exact congrArg Eff.done (watchOn_unwatched hw ho (hr.symm ▸ wen_accessRegs s t p post ga imm))
theorem load_waits {c : Instr} {op : Nat} {legal sgn post : Bool}
    (hx : exec c s = onCore (issue t p (memDec op sz gd ga imm legal) (loadIns t p sgn post sz gd ga imm)) s) (hlg : legal = true) (h : Ready s t p [gd, ga])
    (hal : (accessAddr s t p post ga imm).toNat % szBytes sz = 0) (hst : stalledIn s (thrAgent s t) (accessAddr s t p post ga imm).toNat (szBytes sz) = true) :
    exec c s = .next s := by
  refine exec_of_stay _ _ hx h (legal_mem hlg) ?_
  simp [loadIns, hal, hst]
theorem load_misaligned {c : Instr} {op : Nat} {legal sgn post : Bool}
    (hx : exec c s = onCore (issue t p (memDec op sz gd ga imm legal) (loadIns t p sgn post sz gd ga imm)) s) (hlg : legal = true) (h : Ready s t p [gd, ga])
    (he : CanEnter s t) (hal : (accessAddr s t p post ga imm).toNat % szBytes sz ≠ 0) : Raises c s t p 3 (accessAddr s t p post ga imm) := by
  refine raises_of_exc _ _ 3 _ hx h (legal_mem hlg) ?_ (by decide) he
  simp [loadIns, hal]
/-- A load that meets a bus error raises it once the error that it met is noted. -/
theorem loadIns_fails {sgn post : Bool} (hal : (accessAddr s t p post ga imm).toNat % szBytes sz = 0) (ha : 0x110000 ≤ (accessAddr s t p post ga imm).toNat)
    (hst : stalledIn s (thrAgent s t) (accessAddr s t p post ga imm).toNat (szBytes sz) = false)
    (hk : ∃ i, i < szBytes sz ∧ rdKey s (thrAgent s t) ((accessAddr s t p post ga imm).toNat + i) = none) : loadIns t p sgn post sz gd ga imm s =
      .exc (noteUeIn s (thrAgent s t) (accessAddr s t p post ga imm).toNat (szBytes sz)) xBUS (accessAddr s t p post ga imm) := by
  have hld : loadBytes s t (accessAddr s t p post ga imm).toNat (szBytes sz) = none := by
    rw [loadBytes, if_neg (Nat.not_lt.mpr ha), rdBytes_none _ hk]
    rfl
  have hlow : ¬(accessAddr s t p post ga imm).toNat < 0x11_0000 := by omega
  simp only [loadIns, hal, hlow, hst, hld, ne_eq, not_true_eq_false, if_false, false_and, Bool.false_eq_true, or_self]
theorem loadDataArrival_leaves {v : DWord} (hc : clocksOn s = true) (hf : (thrOf s t).loads.find? (fun l => l.1 = gd) = some (gd, v)) :
    Leaves (.loadDataArrival t gd) s t ((regsOf s t).setG gd v) { thrOf s t with loads := (thrOf s t).loads.filter fun l => l.1 ≠ gd } := by
  let s1 := setThr s t { thrOf s t with loads := (thrOf s t).loads.filter fun l => l.1 ≠ gd }
  refine ⟨putRegs s1 t ((regsOf s1 t).setG gd v), ?_, ?_, ?_, onlyThread_putRegs _ _ _ _ (onlyThread_setThr _ _ _ _ (onlyThread_refl s t))⟩
  · change execLoadDataArrival t gd s = _
    rw [execLoadDataArrival, onCore_on _ hc, loadArrives, hf]
  · rw [regsOf_putRegs_same, regsOf_setThr]
  · rw [thrOf_putRegs, thrOf_setThr_same]
/-- Settles O6: the four forms are one load, with its own word. -/
theorem loadsReadMemoryAndArrive : Obligations.LoadsReadMemoryAndArrive := by
  refine ⟨?_, ?_, fun s t gd v hc hf => loadDataArrival_leaves hc hf⟩
  · intro s t p sz gd ga imm post sgn bs r x n a c h hsz hne hal ha hlen hbs hw hst r1
    cases post with
    | false =>
      cases sgn with
      | false => exact load_leaves (post := false) rfl rfl h hal ha hlen hbs hw hst
      | true => exact load_leaves (post := false) rfl (decide_eq_true (hsz rfl)) h hal ha hlen hbs hw hst
    | true =>
      cases sgn with
      | false => exact load_leaves (post := true) rfl (decide_eq_true (hne rfl)) h hal ha hlen hbs hw hst
      | true => exact load_leaves (post := true) rfl (decide_eq_true ⟨hne rfl, hsz rfl⟩) h hal ha hlen hbs hw hst
  · intro s t p sz gd ga imm h a hal hst
    exact ⟨load_waits (post := false) rfl rfl h hal hst, fun hsz => load_waits (post := false) rfl (decide_eq_true hsz) h hal hst⟩

/-! Stores. -/
theorem leBytes_szBytes (sz : BitVec 2) (v : DWord) : leBytes (szBytes sz) v.toNat = lowBytes (szBytes sz) v := by
  obtain ⟨-, h8⟩ := szBytes_range sz
  rw [leBytes_eq_lowBytes h8, BitVec.ofNat_toNat, BitVec.setWidth_eq]
theorem store_leaves {c : Instr} {op : Nat} {post : Bool} (hx : exec c s = onCore (issue t p (memDec op sz gd ga imm true) (storeIns t p post sz gd ga imm)) s)
    (h : Ready s t p [gd, ga]) (hal : (accessAddr s t p post ga imm).toNat % szBytes sz = 0)
    (hm : storeMay s (thrAgent s t) (thrLvl s t) (accessAddr s t p post ga imm).toNat (szBytes sz) = true) (hsb : (thrOf s t).sb.length < 8)
    (hw : Unwatched s t 20 (accessAddr s t p post ga imm).toNat (szBytes sz)) :
    let e : SbEntry := { addr := BitVec.ofNat 64 (physAddr (thrAgent s t) (accessAddr s t p post ga imm).toNat), bytes := lowBytes (szBytes sz) ((regsOf s t).gr gd),
                         lvl := thrLvl s t }
    Leaves c s t (pastUnit p (accessRegs s t p post ga imm)) (afterUnit p (accessRegs s t p post ga imm) { thrOf s t with sb := (thrOf s t).sb ++ [e] }) := by
  intro e
  obtain ⟨ho, hr, ht⟩ := accessed_only (ga := ga) (canIssue_noSaved h.1) { thrOf s t with sb := (thrOf s t).sb ++ [e] } post ((regsOf s t).gr ga + immS p imm)
  refine leaves_done _ _ hx h (legal_mem rfl) ?_ ho hr ht
  have hsb' : ¬8 ≤ (thrOf s t).sb.length := by omega
  simp only [storeIns, hal, hm, hsb', ne_eq, not_true_eq_false, if_false, Bool.not_true, Bool.false_eq_true, leBytes_szBytes]
  exact congrArg Eff.done (watchOn_unwatched hw ho (hr.symm ▸ wen_accessRegs s t p post ga imm))
theorem store_misaligned {c : Instr} {op : Nat} {post : Bool} (hx : exec c s = onCore (issue t p (memDec op sz gd ga imm true) (storeIns t p post sz gd ga imm)) s)
    (h : Ready s t p [gd, ga]) (he : CanEnter s t) (hal : (accessAddr s t p post ga imm).toNat % szBytes sz ≠ 0) :
    Raises c s t p 3 (accessAddr s t p post ga imm) := by
  refine raises_of_exc _ _ 3 _ hx h (legal_mem rfl) ?_ (by decide) he
  simp [storeIns, hal]
theorem store_fails {c : Instr} {op : Nat} {post : Bool} (hx : exec c s = onCore (issue t p (memDec op sz gd ga imm true) (storeIns t p post sz gd ga imm)) s)
    (h : Ready s t p [gd, ga]) (he : CanEnter s t) (hal : (accessAddr s t p post ga imm).toNat % szBytes sz = 0)
    (hm : storeMay s (thrAgent s t) (thrLvl s t) (accessAddr s t p post ga imm).toNat (szBytes sz) = false) :
    Raises c s t p 4 (accessAddr s t p post ga imm) := by
  refine raises_of_exc _ _ 4 _ hx h (legal_mem rfl) ?_ (by decide) he
  simp [storeIns, hal, hm]
/-- Settles O7: both forms are one store. -/
theorem storesEnterTheStoreBuffer : Obligations.StoresEnterTheStoreBuffer := by
  intro s t p sz gd ga imm post r x n a c h hal hm hsb hw r1 e
  cases post with
  | false => exact store_leaves (post := false) rfl h hal hm hsb hw
  | true => exact store_leaves (post := true) rfl h hal hm hsb hw
end

end Sys2Proof.Machine
end

section
/-! The notes of an uncorrectable error that a load or a fetch meets (R131, R440, R446, R447), and the exceptions of misaligned and failing accesses. -/
namespace Sys2Proof.Machine

/-! What a note may change: the log of errors and their words, the counters, the event sources, the detections, and the next free value. -/
/-- u with those as in s. -/
def noteBack (s u : State) : State :=
  { u with
    memc := { u.memc with log := s.memc.log, widx := s.memc.widx, upset := s.memc.upset }
    reg := { u.reg with im := s.reg.im }
    evt := { u.evt with src := s.evt.src }
    flt := { u.flt with det := s.flt.det }
    free := s.free }
/-- Nothing has changed but those. -/
def NotesOnly (s u : State) : Prop := noteBack s u = s
theorem NotesOnly.refl (s : State) : NotesOnly s s := rfl
theorem NotesOnly.trans {s u w : State} (h : NotesOnly s u) (h' : NotesOnly u w) : NotesOnly s w := by
  have e : noteBack s w = noteBack s (noteBack u w) := rfl
  rw [NotesOnly, e, h', h]
theorem NotesOnly.frame {α : Type} (f : State → α) {s u : State} (h : NotesOnly s u) (hf : f (noteBack s u) = f u) : f u = f s :=
  hf.symm.trans (congrArg f h)
theorem NotesOnly.sameMemory {s u : State} (h : NotesOnly s u) : SameMemory s u := fun k => h.frame (memGet · k) rfl
theorem NotesOnly.regsOf {s u : State} (h : NotesOnly s u) (v : Thread) : regsOf u v = regsOf s v := h.frame (Machine.regsOf · v) (by cases v <;> rfl)
theorem NotesOnly.thrOf {s u : State} (h : NotesOnly s u) (v : Thread) : thrOf u v = thrOf s v := h.frame (Machine.thrOf · v) rfl
theorem NotesOnly.noSaved {s u : State} (h : NotesOnly s u) {t : Thread} (hn : NoSaved s t) : NoSaved u t := fun c hc => by
  rw [show stOf u c = stOf s c from h.frame (stOf · c) rfl]
  exact hn c hc
theorem NotesOnly.canEnter {s u : State} (h : NotesOnly s u) {t : Thread} (he : CanEnter s t) : CanEnter u t := by
  rw [CanEnter, h.regsOf]
  exact he
theorem notesOnly_evFire (s : State) (n : Nat) (info : Word) : NotesOnly s (evFire s n info) := evFire_frame (noteBack s) s n info fun _ => rfl
theorem notesOnly_logWrite (s : State) (m typ : Nat) (syn : Byte) (addr : Nat) : NotesOnly s (logWrite s m typ syn addr) := by
  unfold logWrite
  dsimp only
  refine NotesOnly.trans ?_ (notesOnly_evFire _ _ _)
  split <;> rfl
theorem notesOnly_upsetAdd (s : State) (k : Nat) : NotesOnly s (upsetAdd s k) := by
  unfold upsetAdd
  dsimp only
  split <;> rfl
theorem notesOnly_counted (s : State) (a n : Nat) : NotesOnly s (raise (bump s a) n) := rfl

/-! One note. -/
/-- An uncorrectable error of a memory on the chip that a read meets is logged, counted, and raises MEM_UE (R440, R447). -/
theorem eccNote_read {s : State} {m : Nat} (hm : m = 3 ∨ m = 4 ∨ m = 6 ∨ m = 8) (a k : Nat) (syn : Byte) :
    eccNote s m a k (.ue syn) .read = raise (bump (upsetAdd (logWrite s m 1 syn a) k) (aMEM + 0x2C)) 0x060 := by
  have hr : (List.range 16).reverse = [15, 14, 13, 12, 11, 10, 9, 8, 7, 6, 5, 4, 3, 2, 1, 0] := by decide
  have hg : (Ecc.ue syn != .good) = true := rfl
  have ho : eccOrder [⟨m, a, k, .ue syn, .read⟩] = [⟨m, a, k, .ue syn, .read⟩] := by
    obtain rfl | rfl | rfl | rfl := hm <;> simp [eccOrder, hr, hg]
  have h59 : m ≠ 5 ∧ m ≠ 9 := by omega
  simp [eccNote, eccAll, ho, eccPut, eccType, eccAct, h59]
theorem notesOnly_eccNote {s : State} {m : Nat} (hm : m = 3 ∨ m = 4 ∨ m = 6 ∨ m = 8) (a k : Nat) (syn : Byte) :
    NotesOnly s (eccNote s m a k (.ue syn) .read) := by
  rw [eccNote_read hm]
  exact ((notesOnly_logWrite s m 1 syn a).trans (notesOnly_upsetAdd _ k)).trans (notesOnly_counted _ _ _)
theorem notesOnly_noteWord (s : State) (kd : Kind) (u : Nat) : NotesOnly s (noteWord s kd u) := by
  cases kd with
  | orch => exact NotesOnly.trans (u := { s with free := s.free + 1 }) rfl (notesOnly_eccNote (by decide) _ _ _)
  | sram => exact NotesOnly.trans (u := { s with free := s.free + 1 }) rfl (notesOnly_eccNote (by decide) _ _ _)
  | scratch => exact NotesOnly.trans (u := { s with free := s.free + 1 }) rfl (notesOnly_eccNote (by decide) _ _ _)
  | tcm => exact NotesOnly.trans (u := { s with free := s.free + 1 }) rfl (notesOnly_eccNote (by decide) _ _ _)
  | reg => rfl
  | dram => rfl
  | flash => rfl
theorem mem_det_raise (s : State) (n : Nat) (i : Word) : (BitVec.ofNat 9 n, i) ∈ (raise s n i).flt.det := List.mem_append_right _ (List.mem_singleton.mpr rfl)
theorem noteWord_raises (s : State) {kd : Kind} (h : kd = .sram ∨ kd = .scratch ∨ kd = .tcm) (u : Nat) : ((0x060, 0) : BitVec 9 × Word) ∈ (noteWord s kd u).flt.det := by
  obtain rfl | rfl | rfl := h
  · exact (congrArg (_ ∈ ·.flt.det) (eccNote_read (m := 4) (by decide) _ _ _)).mpr (mem_det_raise _ _ _)
  · exact (congrArg (_ ∈ ·.flt.det) (eccNote_read (m := 6) (by decide) _ _ _)).mpr (mem_det_raise _ _ _)
  · exact (congrArg (_ ∈ ·.flt.det) (eccNote_read (m := 8) (by decide) _ _ _)).mpr (mem_det_raise _ _ _)
theorem notesOnly_noteUeIn (s : State) (ag : Agent) (a n : Nat) : NotesOnly s (noteUeIn s ag a n) := by
  unfold noteUeIn
  split
  · split
    · split
      · exact notesOnly_noteWord s _ _
      · rfl
    · rfl
  · rfl
theorem noteUeIn_noUpset {s : State} {ag : Agent} {a n : Nat} (h : NoUpset s ag a n) : noteUeIn s ag a n = s := by
  unfold noteUeIn
  split
  · next i hi =>
    have hlt : i < n := List.mem_range.mp (List.mem_of_find?_eq_some hi)
    split
    · next kd k hl => simp [h i hlt kd k hl]
    · rfl
  · rfl
/-- The first byte of an access meets the error. -/
theorem noteUeIn_first {s : State} {ag : Agent} {a n : Nat} {kd : Kind} {k : Nat} (hn : 0 < n) (hl : locate s ag a = some (kd, k)) (hu : isUpset s k = true) :
    rdKey s ag a = none ∧ noteUeIn s ag a n = noteWord s kd (k / 8 * 8) := by
  have hk : rdKey s ag a = none := by cases kd <;> simp [rdKey, hl, hu]
  refine ⟨hk, ?_⟩
  have hf : (List.range n).find? (fun i => (rdKey s ag (a + i)).isNone) = some 0 := by
    obtain ⟨m, rfl⟩ := Nat.exists_eq_succ_of_ne_zero (Nat.pos_iff_ne_zero.mp hn)
    rw [List.range_succ_eq_map]
    exact List.find?_cons_of_pos (by simp [hk])
  rw [noteUeIn, hf]
  simp [hl, hu]

/-! Exceptions after a note. -/
/-- An exception that is entered once an error has been noted. -/
theorem raiseExc_noted {s w : State} {t : Thread} {cause : Nat} (h : NotesOnly s w) (he : CanEnter s t) (hc : cause < 256) (eval : DWord)
    (pfx : Bool) : let u := raiseExc w t cause eval pfx
    regsOf u t = entered (regsOf s t) (entryLvl (regsOf s t) t) cause eval pfx false ∧ OtherThreads s u t ∧ SameMemory s u ∧ u.flt = w.flt := by
  have ho : OnlyThread w (raiseExc w t cause eval pfx) t := by
    rw [raiseExc_enters _ _ _ _ _ (h.canEnter he)]
    exact onlyThread_setRegs _ _ _ _ (onlyThread_setThr _ _ _ _ (onlyThread_refl w t))
  refine ⟨?_, fun v hv => ⟨(ho.1 v hv).1.trans (h.regsOf v), (ho.1 v hv).2.trans (h.thrOf v)⟩, h.sameMemory.trans ho.sameMemory, ho.frame State.flt rfl⟩
  rw [raiseExc_enters _ _ _ _ _ (h.canEnter he), regsOf_setRegs_same, enterRegs_eq _ _ _ _ _ _ hc, h.regsOf]
section
variable {s : State} {t : Thread} {p : Pfx} {sz : BitVec 2} {gd ga : Reg} {imm : Half}

theorem ld_fails (h : Ready s t p [gd, ga]) (hal : (accessAddr s t p false ga imm).toNat % szBytes sz = 0) (ha : 0x110000 ≤ (accessAddr s t p false ga imm).toNat)
    (hst : stalledIn s (thrAgent s t) (accessAddr s t p false ga imm).toNat (szBytes sz) = false)
    (hk : ∃ i, i < szBytes sz ∧ rdKey s (thrAgent s t) ((accessAddr s t p false ga imm).toNat + i) = none) : exec (.ld t p sz gd ga imm) s =
      .next (raiseExc (noteUeIn s (thrAgent s t) (accessAddr s t p false ga imm).toNat (szBytes sz)) t 4 (accessAddr s t p false ga imm) (p.rep || p.ext.isSome)) := by
  change onCore (issue t p (memDec 0x10 sz gd ga imm true) (loadIns t p false false sz gd ga imm)) s = _
  rw [issue_ready h, executeIns_ready (memDec 0x10 sz gd ga imm true) h (legal_mem rfl), loadIns_fails (post := false) hal ha hst hk]
/-- A place of the memories on the chip but for the Orchard lies above register space and below DRAM (R24). -/
theorem locate_onChip {ag : Agent} {a : Nat} {kd : Kind} {k : Nat} (hl : locate s ag a = some (kd, k)) (hkd : kd = .sram ∨ kd = .scratch ∨ kd = .tcm) :
    0x110000 ≤ a ∧ a < 0x2_0000_0000 := by
  unfold locate at hl
  split_ifs at hl <;> grind
theorem stalled_below {ag : Agent} {a : Nat} (h : a < 0x10_0000_0000) : stalled s ag a = false := by
  unfold stalled
  split
  · next k hl =>
    unfold locate at hl
    split_ifs at hl <;> grind
  · rfl
/-- Settles O8: a misaligned address raises first; a bus error raises once the error that it met is noted. -/
theorem faultingLoadsAndStoresRaise : Obligations.FaultingLoadsAndStoresRaise := by
  intro s t p sz gd ga imm h he r a q n
  refine ⟨fun hal => ⟨load_misaligned (post := false) rfl rfl h he hal, store_misaligned (post := false) rfl h he hal,
      fun hsz => load_misaligned (post := false) rfl (decide_eq_true hsz) h he hal⟩,
    fun hal => ⟨store_misaligned (post := true) rfl h he hal, fun hne => load_misaligned (post := true) rfl (decide_eq_true hne) h he hal,
      fun hne hsz => load_misaligned (post := true) rfl (decide_eq_true ⟨hne, hsz⟩) h he hal⟩,
    fun hal hm => store_fails (post := false) rfl h he hal hm, fun hal ha hk hst => ⟨fun hu => ?_, ?_⟩, fun kd k hal hl hkd hu => ?_⟩
  · refine raises_of_exc _ _ 4 _ rfl h (legal_mem rfl) ?_ (by decide) he
    have hu' : noteUeIn s (thrAgent s t) a.toNat (szBytes sz) = s := noteUeIn_noUpset hu
    exact (loadIns_fails (post := false) hal ha hst hk).trans (congrArg (Eff.exc · 4 a) hu')
  · obtain ⟨hr, ho, hm, -⟩ := raiseExc_noted (notesOnly_noteUeIn s (thrAgent s t) a.toNat n) he (cause := 4) (by decide) a (p.rep || p.ext.isSome)
    exact ⟨_, ld_fails h hal ha hst hk, hr, ho, hm⟩
  · obtain ⟨hpos, h8⟩ := szBytes_range sz
    obtain ⟨hlo, hhi⟩ := locate_onChip hl hkd
    obtain ⟨hk, hnote⟩ := noteUeIn_first hpos hl hu
    have hst : stalledIn s (thrAgent s t) a.toNat (szBytes sz) = false := by
      rw [stalledIn, stalled_below (by omega), stalled_below (by omega), Bool.or_false, Bool.and_false]
    obtain ⟨hr, -, -, hf⟩ := raiseExc_noted (notesOnly_noteUeIn s (thrAgent s t) a.toNat n) he (cause := 4) (by decide) a (p.rep || p.ext.isSome)
    refine ⟨_, ld_fails h hal hlo hst ⟨0, hpos, hk⟩, hr, ?_⟩
    exact (congrArg (_ ∈ ·.det) (hf.trans (congrArg State.flt hnote))).mpr (noteWord_raises s hkd _)
end

end Sys2Proof.Machine
end

section
/-! Branches, calls and returns (R95, R108, R113, R114, R116). -/
namespace Sys2Proof.Machine

/-! Conditions and targets. -/
theorem condHolds_eq (cond : BitVec 4) (sr : Word) : condHolds cond sr = condition cond sr := by
  obtain ⟨⟨n, hn⟩⟩ := cond
  interval_cases n <;> rfl
theorem target_alone {p : Pfx} (hp : p.rep = false) (he : p.ext = none) (pc off : DWord) : target pc p off = pc + 4 * off := by
  simp [target, pfxLen, hp, he, b2n]
theorem target_extended {p : Pfx} (hp : p.rep = false) (pc off : DWord) : target pc p off = pc + (if p.ext.isSome then 4 else 0) + 4 * off := by
  cases hx : p.ext.isSome <;> simp [target, pfxLen, hp, hx, b2n]
/-- A branch accepts no REP, and EXT where it says so. -/
theorem legal_flow {p : Pfx} {word : Word} {ext legal : Bool} {regs : List Reg} (hp : p.rep = false) (hl : legal = true) (he : ext = true ∨ p.ext = none) :
    illegal p (flowDec word ext legal regs) = false := by
  rcases he with he | he <;> simp [illegal, flowDec, hp, hl, he]

/-! Return tokens (R75, R114, R164). -/
theorem endsStep_plain {s : State} {t : Thread} {v : DWord} (h : ¬Token s t v) : endsStep s t v = false := by
  cases t with
  | mp n => rfl
  | ctx c =>
    by_contra hc
    simp only [endsStep, isMp, Bool.not_eq_false, Bool.and_eq_true, decide_eq_true_eq] at hc
    exact h ⟨hc.1.2, hc.2⟩
theorem branchTo_plain {s : State} {t : Thread} {v : DWord} (hal : v.toNat % 4 = 0) (h : ¬Token s t v) : branchTo t v s = .jump s v := by
  cases t with
  | mp n =>
    have hn : ¬(v = 0xFFFF_FFFF_FFFF_FFF8 ∧ (mpOf s n).depth ≠ 0) := h
    simp only [branchTo, hal, ne_eq, not_true_eq_false, if_false, if_neg hn]
  | ctx c => simp [branchTo, hal, endsStep_plain h]
theorem branchTo_misaligned {s : State} {t : Thread} {v : DWord} (hal : v.toNat % 4 ≠ 0) : branchTo t v s = .exc s 3 v := by
  simp [branchTo, hal]
/-- Whether a value is a return token of a thread depends on its STPA and on the processors alone. -/
theorem OnlyThread.notToken {s u : State} {t : Thread} {v : DWord} (ho : OnlyThread s u t) (hst : (regsOf u t).stpa = (regsOf s t).stpa)
    (h : ¬Token s t v) : ¬Token u t v := by
  cases t with
  | mp n =>
    have hm : mpOf u n = mpOf s n := ho.frame (mpOf · n) rfl
    rwa [Token, hm]
  | ctx c => rwa [Token, hst]

/-! Branches. -/
section
variable {s : State} {t : Thread} {p : Pfx} {ga : Reg} {imm : Half}

theorem bc_leaves {cond : BitVec 4} {off : BitVec 22} (hp : p.rep = false) (he : p.ext = none) (h : Ready s t p []) (h15 : cond ≠ 15) :
    (condition cond (regsOf s t).sr = true → Leaves (.bc t p cond off) s t { regsOf s t with pc := (regsOf s t).pc + 4 * off.signExtend 64 } (thrOf s t)) ∧
    (condition cond (regsOf s t).sr = false → Gives (.bc t p cond off) s t p (regsOf s t)) := by
  have hl := legal_flow (regs := []) (word := fmtC 0x18 cond off) (ext := false) hp (decide_eq_true h15) (.inr he)
  refine ⟨fun hc => leaves_of_jump _ _ s _ rfl h hl ?_ (onlyThread_refl s t), fun hc => gives_of_unchanged _ _ rfl h hl ?_⟩
  · simp [condHolds_eq, hc, target_alone hp he]
  · simp [condHolds_eq, hc]
theorem b_leaves {far : BitVec 26} (hp : p.rep = false) (he : p.ext = none) (h : Ready s t p []) :
    Leaves (.b t p far) s t { regsOf s t with pc := (regsOf s t).pc + 4 * far.signExtend 64 } (thrOf s t) :=
  leaves_of_jump (flowDec (fmtD 0x1A far) false true []) _ s _ rfl h (legal_flow hp rfl (.inr he)) (by simp [target_alone hp he]) (onlyThread_refl s t)
/-- CBZ and CBNZ are one branch on whether the register is 0. -/
theorem cb_leaves {c : Instr} {nz : Bool} (hx : exec c s = onCore (cbIns t p nz ga imm) s) (hp : p.rep = false) (h : Ready s t p [ga]) :
    ((decide ((regsOf s t).gr ga = 0) != nz) = true →
      Leaves c s t { regsOf s t with pc := (regsOf s t).pc + (if p.ext.isSome then 4 else 0) + 4 * immS p imm } (thrOf s t)) ∧
    ((decide ((regsOf s t).gr ga = 0) != nz) = false → Gives c s t p (regsOf s t)) := by
  have hl := legal_flow (regs := [ga]) (word := fmtB 0x1B 0 ga (b2n nz) imm) hp (legal := true) rfl (.inl rfl)
  refine ⟨fun hc => leaves_of_jump _ _ s _ hx h hl ?_ (onlyThread_refl s t), fun hc => gives_of_unchanged _ _ hx h hl ?_⟩
  · simp only [hc, if_true, target_extended hp]
  · simp only [hc, Bool.false_eq_true, if_false]
/-- Settles O9: a branch jumps or completes with nothing changed. -/
theorem branchesGoToTheirTargets : Obligations.BranchesGoToTheirTargets := by
  intro s t p cond off far ga imm hp r a near short
  refine ⟨fun h he h15 => bc_leaves hp he h h15, fun h he => b_leaves hp he h, fun h => ⟨fun ha => ⟨?_, ?_⟩, fun ha => ⟨?_, ?_⟩⟩,
    fun h he hal ht => ?_, fun h he hal hen => ⟨?_, ?_⟩⟩
  · exact (cb_leaves (nz := false) rfl hp h).1 (by simp [a, r] at ha ⊢; exact ha)
  · exact (cb_leaves (nz := true) rfl hp h).2 (by simp [a, r] at ha ⊢; exact ha)
  · exact (cb_leaves (nz := false) rfl hp h).2 (by simp [a, r] at ha ⊢; exact ha)
  · exact (cb_leaves (nz := true) rfl hp h).1 (by simp [a, r] at ha ⊢; exact ha)
  · exact leaves_of_jump (flowDec (fmtE 0x1C 0 ga 0 0 0) false true [ga]) _ s a rfl h (legal_flow hp rfl (.inr he)) (branchTo_plain hal ht) (onlyThread_refl s t)
  · exact raises_of_exc (flowDec (fmtE 0x1C 0 ga 0 0 0) false true [ga]) _ 3 a rfl h (legal_flow hp rfl (.inr he)) (branchTo_misaligned hal) (by decide) hen
  · exact raises_of_exc (flowDec (fmtE 0x1C 0 ga 0 0 1) false true [ga]) _ 3 a rfl h (legal_flow hp rfl (.inr he)) (if_pos hal) (by decide) hen
end

/-! The return stack (R95). -/
/-- The pointer of RSP without its reserved bits. -/
theorem rsPtr_eq (v : DWord) : rsPtr v = (v.extractLsb' 0 40 &&& ~~~0x7#40).toNat := by
  have hm : ∀ x : BitVec 40, x &&& ~~~0x7#40 = (x >>> 3) <<< 3 := fun x => BitVec.eq_of_getLsbD_eq fun i hi => by
    rw [BitVec.getLsbD_and, BitVec.getLsbD_shiftLeft, BitVec.getLsbD_ushiftRight]
    interval_cases i <;> simp
  have hx : (v.extractLsb' 0 40).toNat = v.toNat % 2 ^ 40 := by simp
  rw [hm, BitVec.toNat_shiftLeft, BitVec.toNat_ushiftRight, hx, rsPtr, Nat.shiftRight_eq_div_pow, Nat.shiftLeft_eq]
  omega
theorem rsMake_eq {a l d : Nat} {ptr : BitVec 40} {lim depth : BitVec 12} (ha : a % 2 ^ 40 = ptr.toNat) (hl : l = lim.toNat) (hd : d % 4096 = depth.toNat) :
    rsMake a l d = depth ++ lim ++ ptr := by
  refine BitVec.eq_of_toNat_eq ?_
  have h1 := ptr.isLt
  have h2 := lim.isLt
  have h3 := depth.isLt
  rw [rsMake, ha, hl, hd, BitVec.toNat_append, BitVec.toNat_append, ← Nat.shiftLeft_add_eq_or_of_lt h1, ← Nat.shiftLeft_add_eq_or_of_lt h2, BitVec.toNat_ofNat,
    Nat.shiftLeft_eq, Nat.shiftLeft_eq]
  omega
theorem rsMake_pushed (v : DWord) : rsMake (rsPtr v + 8) (rsLim v) (rsDepth v + 1) = moved v 8 (v.extractLsb' 52 12 + 1) := by
  refine rsMake_eq ?_ (fld_eq_extract v 40 12) ?_
  · rw [rsPtr_eq, BitVec.toNat_add]
    rfl
  · rw [rsDepth, fld_eq_extract, BitVec.toNat_add]
    rfl
theorem rsMake_popped {v w : DWord} (h : w.extractLsb' 52 12 ≠ 0) : rsMake (rsPtr v) (rsLim w) (rsDepth w - 1) =
    w.extractLsb' 52 12 - 1 ++ w.extractLsb' 40 12 ++ (v.extractLsb' 0 40 &&& ~~~0x7#40) := by
  refine rsMake_eq ?_ (fld_eq_extract w 40 12) ?_
  · rw [rsPtr_eq, Nat.mod_eq_of_lt (BitVec.isLt _)]
  · have hpos : (w.extractLsb' 52 12).toNat ≠ 0 := fun e => h (BitVec.eq_of_toNat_eq e)
    have hlt := (w.extractLsb' 52 12).isLt
    rw [rsDepth, fld_eq_extract, BitVec.toNat_sub]
    change _ = (2 ^ 12 - 1 + _) % 2 ^ 12
    omega

/-! Links (R116). -/
/-- What the device keeps for a thread once a return address is pushed. -/
abbrev pushed (s : State) (t : Thread) (ret : DWord) : Thr :=
  { thrOf s t with sb := (thrOf s t).sb ++
      [{ addr := BitVec.ofNat 64 (physAddr (thrAgent s t) (rsPtr (regsOf s t).rsp)), bytes := lowBytes 8 ret, lvl := thrLvl s t }] }
/-- BL and BLR link a return address, which leaves thread t with registers r and x beside them, and go on. -/
def Links (s : State) (t : Thread) (ret : DWord) (r : Regs) (x : Thr) : Prop :=
  ∃ u, (∀ f, linkThen s t ret f = f u) ∧ OnlyThread s u t ∧ regsOf u t = r ∧ thrOf u t = x
section
variable {s : State} {t : Thread} {p : Pfx} {ga : Reg} {ret : DWord} {r : Regs} {x : Thr}

theorem links_register (hn : NoSaved s t) (hm : (regsOf s t).sr.getLsbD 11 = false) (ret : DWord) :
    Links s t ret { regsOf s t with lr := ret } (thrOf s t) :=
  ⟨setRegs s t { regsOf s t with lr := ret }, fun f => by simp only [linkThen, bit, hm, Bool.not_false, if_true], onlyThread_setRegs _ _ _ _ (onlyThread_refl s t), regsOf_setRegs_same _ _ _,
    thrOf_setRegs hn _ _⟩
theorem rsDepth_eq_iff (v : DWord) : rsDepth v = rsLim v ↔ v.extractLsb' 52 12 = v.extractLsb' 40 12 := by
  rw [rsDepth, rsLim, fld_eq_extract, fld_eq_extract, BitVec.toNat_inj]
theorem links_stack (hn : NoSaved s t) (hm : (regsOf s t).sr.getLsbD 11 = true) (hd : (regsOf s t).rsp.extractLsb' 52 12 ≠ (regsOf s t).rsp.extractLsb' 40 12)
    (hl : (regsOf s t).rsp.extractLsb' 40 12 ≠ 0) (hst : storeMay s (thrAgent s t) (thrLvl s t) (rsPtr (regsOf s t).rsp) 8 = true)
    (hsb : (thrOf s t).sb.length < 8) (ret : DWord) :
    Links s t ret { regsOf s t with rsp := moved (regsOf s t).rsp 8 ((regsOf s t).rsp.extractLsb' 52 12 + 1) } (pushed s t ret) := by
  have hfull : ¬(rsDepth (regsOf s t).rsp = rsLim (regsOf s t).rsp ∨ rsLim (regsOf s t).rsp = 0) :=
    not_or.mpr ⟨fun e => hd ((rsDepth_eq_iff _).mp e), fun e => hl ((fld_eq_zero _ 40 12).mp e)⟩
  have hsb' : ¬8 ≤ (thrOf s t).sb.length := by omega
  refine ⟨setRegs (setThr s t (pushed s t ret)) t _, fun f => ?_, onlyThread_setRegs _ _ t _ (onlyThread_setThr _ _ t _ (onlyThread_refl s t)), regsOf_setRegs_same _ _ _, ?_⟩
  · simp only [linkThen, bit, hm, Bool.not_true, Bool.false_eq_true, if_false, hfull, show srPL (regsOf s t) = thrLvl s t from rfl, hst, hsb', leBytes_dword,
      rsMake_pushed]
  · rw [thrOf_setRegs (noSaved_setThr hn), thrOf_setThr_same]
theorem bl_links {far : BitVec 26} (hp : p.rep = false) (he : p.ext = none) (h : Ready s t p []) (hl : Links s t ((regsOf s t).pc + 4) r x) :
    Leaves (.bl t p far) s t { r with pc := (regsOf s t).pc + 4 * far.signExtend 64 } x := by
  obtain ⟨u, hf, ho, rfl, rfl⟩ := hl
  exact leaves_of_jump (flowDec (fmtD 0x19 far) false true []) _ u _ rfl h (legal_flow hp rfl (.inr he)) ((hf _).trans (by rw [target_alone hp he])) ho
theorem blr_links (hp : p.rep = false) (he : p.ext = none) (h : Ready s t p [ga]) (hal : ((regsOf s t).gr ga).toNat % 4 = 0)
    (ht : ¬Token s t ((regsOf s t).gr ga)) (hl : Links s t ((regsOf s t).pc + 4) r x) (hst : r.stpa = (regsOf s t).stpa) :
    Leaves (.blr t p ga) s t { r with pc := (regsOf s t).gr ga } x := by
  obtain ⟨u, hf, ho, rfl, rfl⟩ := hl
  have ht' := ho.notToken hst ht
  refine leaves_of_jump (flowDec (fmtE 0x1C 0 ga 0 0 1) false true [ga]) (blrIns t ga) u _ rfl h (legal_flow hp rfl (.inr he)) ?_ ho
  simp only [blrIns, hal, endsStep_plain ht, ne_eq, not_true_eq_false, if_false, Bool.false_and, Bool.false_eq_true]
  refine (hf _).trans ?_
  simp only [endsStep_plain ht', Bool.false_and, Bool.false_eq_true, if_false, branchTo_plain hal ht']
theorem bl_overflows {far : BitVec 26} (hp : p.rep = false) (he : p.ext = none) (h : Ready s t p []) (hen : CanEnter s t)
    (hm : (regsOf s t).sr.getLsbD 11 = true)
    (hd : (regsOf s t).rsp.extractLsb' 52 12 = (regsOf s t).rsp.extractLsb' 40 12 ∨ (regsOf s t).rsp.extractLsb' 40 12 = 0) :
    Raises (.bl t p far) s t p 6 (regsOf s t).rsp := by
  have hfull : rsDepth (regsOf s t).rsp = rsLim (regsOf s t).rsp ∨ rsLim (regsOf s t).rsp = 0 := hd.imp (rsDepth_eq_iff _).mpr (fld_eq_zero _ 40 12).mpr
  refine raises_of_exc (flowDec (fmtD 0x19 far) false true []) _ 6 _ rfl h (legal_flow hp rfl (.inr he)) ?_ (by decide) hen
  simp only [linkThen, bit, hm, hfull, Bool.not_true, Bool.false_eq_true, if_false, if_true]

/-! Returns (R116). -/
theorem ret_register (hp : p.rep = false) (he : p.ext = none) (h : Ready s t p []) (hm : (regsOf s t).sr.getLsbD 11 = false)
    (hal : (regsOf s t).lr.toNat % 4 = 0) (ht : ¬Token s t (regsOf s t).lr) : Leaves (.ret t p) s t { regsOf s t with pc := (regsOf s t).lr } (thrOf s t) := by
  refine leaves_of_jump (flowDec (fmtE 0x1C 0 0 0 0 2) false true []) (retIns t) s _ rfl h (legal_flow hp rfl (.inr he)) ?_ (onlyThread_refl s t)
  simp only [retIns, bit, hm, Bool.not_false, if_true, branchTo_plain hal ht]
theorem ret_underflows (hp : p.rep = false) (he : p.ext = none) (h : Ready s t p []) (hen : CanEnter s t) (hm : (regsOf s t).sr.getLsbD 11 = true)
    (hd : (regsOf s t).rsp.extractLsb' 52 12 = 0) : Raises (.ret t p) s t p 7 (regsOf s t).rsp := by
  have hz : rsDepth (regsOf s t).rsp = 0 := (fld_eq_zero _ 52 12).mpr hd
  refine raises_of_exc (flowDec (fmtE 0x1C 0 0 0 0 2) false true []) (retIns t) 7 _ rfl h (legal_flow hp rfl (.inr he)) ?_ (by decide) hen
  simp only [retIns, bit, hm, hz, Bool.not_true, Bool.false_eq_true, if_false, if_true]
/-- Eight bytes give one value. -/
theorem loadedAs_dword {bs : List Byte} {v : DWord} (hlen : bs.length = 8) (h : loadedAs false bs v) : v = BitVec.ofNat 64 (leNat bs) := by
  have h' := loadedAs_loadExt false (List.ne_nil_of_length_pos (by omega)) (by omega : bs.length ≤ 8)
  refine (BitVec.eq_of_getLsbD_eq fun i hi => ?_ : v = loadExt false bs)
  exact (h.1 i (by omega)).trans (h'.1 i (by omega)).symm
theorem ret_stack {bs : List Byte} {v : DWord} (hp : p.rep = false) (he : p.ext = none) (h : Ready s t p []) (hm : (regsOf s t).sr.getLsbD 11 = true)
    (hd : (regsOf s t).rsp.extractLsb' 52 12 ≠ 0) (ha : 0x110000 ≤ rsPtr ((regsOf s t).rsp - 8))
    (hst : stalledIn s (thrAgent s t) (rsPtr ((regsOf s t).rsp - 8)) 8 = false)
    (hlen : bs.length = 8) (hbs : ∀ i, i < 8 → ∃ k, rdKey s (thrAgent s t) (rsPtr ((regsOf s t).rsp - 8) + i) = some k ∧
      bs.getD i 0 = (sbByte (thrOf s t).sb (physAddr (thrAgent s t) (rsPtr ((regsOf s t).rsp - 8)) + i)).getD (memGet s k))
    (hv : loadedAs false bs v) (hal : v.toNat % 4 = 0) (ht : ¬Token s t v) :
    Leaves (.ret t p) s t { regsOf s t with
      rsp := (regsOf s t).rsp.extractLsb' 52 12 - 1 ++ (regsOf s t).rsp.extractLsb' 40 12 ++ (((regsOf s t).rsp - 8).extractLsb' 0 40 &&& ~~~0x7#40), pc := v }
      (thrOf s t) := by
  have hz : rsDepth (regsOf s t).rsp ≠ 0 := fun e => hd ((fld_eq_zero _ 52 12).mp e)
  have hld : loadBytes s t (rsPtr ((regsOf s t).rsp - 8)) 8 = some (bs, s) := hlen ▸ loadBytes_run ha (hlen.symm ▸ hbs)
  have hlow : ¬rsPtr ((regsOf s t).rsp - 8) < 0x11_0000 := by omega
  let r1 : Regs := { regsOf s t with rsp := rsMake (rsPtr ((regsOf s t).rsp - 8)) (rsLim (regsOf s t).rsp) (rsDepth (regsOf s t).rsp - 1) }
  have ho : OnlyThread s (setRegs s t r1) t := onlyThread_setRegs _ _ _ _ (onlyThread_refl s t)
  have hr1 := regsOf_setRegs_same s t r1
  have ht' : ¬Token (setRegs s t r1) t v := ho.notToken (by rw [hr1]) ht
  have hb : retIns t s = .jump (setRegs s t r1) v := by
    simp only [retIns, bit, hm, hz, hlow, hst, hld, ← loadedAs_dword hlen hv, hal, endsStep_plain ht, Bool.not_true, Bool.false_eq_true, Bool.false_and, if_false,
      false_and, or_self, ne_eq, not_true_eq_false]
    exact branchTo_plain hal ht'
  have hl := leaves_of_jump (c := .ret t p) (flowDec (fmtE 0x1C 0 0 0 0 2) false true []) (retIns t) (setRegs s t r1) v rfl h (legal_flow hp rfl (.inr he)) hb ho
  rw [hr1, thrOf_setRegs (canIssue_noSaved h.1)] at hl
  rw [← rsMake_popped hd]
  exact hl
/-- Settles O10: BL and BLR differ in where they go once they have linked. -/
theorem callsLinkAndReturn : Obligations.CallsLinkAndReturn := by
  intro s t p far ga bs v hp he r x a there ptr low lim depth
  refine ⟨fun hm => ⟨fun h => ?_, fun h hal ht => ?_, fun h hal ht => ret_register hp he h hm hal ht⟩, ?_, ?_,
    fun hm hen => ⟨fun hd h => bl_overflows hp he h hen hm hd, fun hd h => ret_underflows hp he h hen hm hd⟩⟩
  · exact bl_links hp he h (links_register (canIssue_noSaved h.1) hm _)
  · exact blr_links hp he h hal ht (links_register (canIssue_noSaved h.1) hm _) rfl
  · have hptr : ptr = rsPtr r.rsp := (rsPtr_eq r.rsp).symm
    rw [hptr]
    intro hm hd hl hst hsb e sp
    exact ⟨fun h => bl_links hp he h (links_stack (canIssue_noSaved h.1) hm hd hl hst hsb _),
      fun h hal ht => blr_links hp he h hal ht (links_stack (canIssue_noSaved h.1) hm hd hl hst hsb _) rfl⟩
  · have hlow : low.toNat = rsPtr (r.rsp - 8) := (rsPtr_eq (r.rsp - 8)).symm
    rw [hlow]
    exact fun hm hd ha h hst hlen hbs hv hal ht => ret_stack hp he h hm hd ha hst hlen hbs hv hal ht
end

end Sys2Proof.Machine
end

section
/-! Instructions and words that raise an exception by themselves, and the return from one (R97 to R102, R129, R131, R147, R154). -/
namespace Sys2Proof.Machine

/-! Words that are instructions (R97 to R99). -/
theorem aluWord_isSome (t : Thread) (p : Pfx) {w : Word} (h : fld w 0 8 ≤ 10 ∨ (12 ≤ fld w 0 8 ∧ fld w 0 8 ≤ 20) ∨ (24 ≤ fld w 0 8 ∧ fld w 0 8 ≤ 27)) :
    (aluWord t p w).isSome = true := by
  unfold aluWord
  generalize fld w 0 8 = f at h
  obtain h | ⟨h1, h2⟩ | ⟨h1, h2⟩ := h <;> interval_cases f <;> rfl
/-- The function codes of each group of format E. -/
def formCodes : Nat → Nat
  | 0x1C => 3 | 0x28 => 3 | 0x2A => 5 | 0x2B => 7 | 0x2C => 8 | 0x2D => 2 | _ => 0
theorem formWord_isSome (t : Thread) (p : Pfx) {w : Word} (h : fld w 0 6 < formCodes (fld w 26 6)) : (formWord t p w).isSome = true := by
  unfold formWord
  generalize fld w 26 6 = o at h
  generalize fld w 0 6 = f at h
  unfold formCodes at h
  split at h
  case h_7 => omega
  all_goals interval_cases f <;> rfl
theorem wordOk_formCode {mp step : Bool} {w : Word} (h : (wordOk mp step w).isSome = true) (ho : formCodes (fld w 26 6) ≠ 0) :
    fld w 0 6 < formCodes (fld w 26 6) := by
  unfold wordOk at h
  unfold formCodes at ho ⊢
  dsimp only at h
  split at ho <;> rename_i heq
  case h_5 =>
    simp only [heq] at h
    split at h <;> rename_i hf <;> simp at h ⊢ <;> omega
  all_goals
    simp only [heq, Option.isSome_ite, Bool.and_eq_true, Bool.or_eq_true, decide_eq_true_eq, beq_iff_eq] at h ⊢
    grind
/-- Every word whose fields are legal is an instruction. -/
theorem pickWord_isSome {t : Thread} {p : Pfx} {w : Word} {step : Bool} (h : (wordOk (isMp t) step w).isSome = true) : (pickWord t p w).isSome = true := by
  have hform := wordOk_formCode h
  unfold wordOk at h
  dsimp only at h
  unfold pickWord
  split at h <;> rename_i heq <;> simp only [heq, Option.isSome_some]
  case h_1 =>
    simp only [Option.isSome_ite, Bool.and_eq_true, Bool.or_eq_true, decide_eq_true_eq, beq_iff_eq] at h
    exact aluWord_isSome t p (by omega)
  case h_21 =>
    simp only [Option.isSome_ite, Bool.and_eq_true, decide_eq_true_eq] at h
    obtain ⟨-, hf⟩ := h
    generalize fld w 0 8 = f at hf
    interval_cases f <;> rfl
  case h_28 => cases h
  all_goals exact formWord_isSome t p (hform (by rw [heq]; decide))

section
variable {s : State} {t : Thread} {p : Pfx}

theorem illegal_of_decode {w : Word} (h : clanaDecode t p (decide ((regsOf s t).stpa ≠ 0)) w = none) :
    wordOk (isMp t) (decide ((regsOf s t).stpa ≠ 0)) w = none := by
  by_contra hne
  have hok := Option.isSome_iff_ne_none.mpr hne
  rw [clanaDecode, if_pos hok] at h
  exact Option.isSome_iff_ne_none.mp (pickWord_isSome hok) h
theorem illegalInstruction_raises {w : Word} (h : Ready s t p []) (hd : clanaDecode t p (decide ((regsOf s t).stpa ≠ 0)) w = none) (he : CanEnter s t) :
    Raises (.illegalInstruction t p w) s t p 1 ((firstWord p w).setWidth 64) := by
  have hnone := illegal_of_decode hd
  refine raises_of_illegal { word := w, ext := false, rep := false, legal := false, regs := [] } (fun s => .stay s) ?_ h rfl he
  change execIllegalInstruction t p w s = _
  have hc := canIssue_clocks h.1
  rw [execIllegalInstruction, onCore_on _ hc, onCore_on _ hc, hnone]
  rfl

/-! Fetches that fail (R114, R140). -/
/-- A command that raises an exception of the thread at once. -/
theorem raises_of_entry {c : Instr} {cause : Nat} {eval : DWord} (hx : exec c s = .next (raiseExc s t cause eval (p.rep || p.ext.isSome)))
    (hn : NoSaved s t) (hc : cause < 256) (he : CanEnter s t) : Raises c s t p cause eval := by
  refine ⟨_, hx, ?_⟩
  rw [raiseExc_enters _ _ _ _ _ he, enterRegs_eq _ _ _ _ _ _ hc]
  exact ⟨regsOf_setRegs_same _ _ _, by rw [thrOf_setRegs (noSaved_setThr hn), thrOf_setThr_same],
    onlyThread_setRegs _ _ _ _ (onlyThread_setThr _ _ _ _ (onlyThread_refl s t))⟩
theorem exec_instructionFetchFault (h : canIssue s t = true) (k : BitVec 2) : exec (.instructionFetchFault t k) s = .next (fetchFault t k.toNat s) :=
  onCore_on _ (canIssue_clocks h)
theorem fetchFault_misaligned (h : canIssue s t = true) (hal : (regsOf s t).pc.toNat % 4 ≠ 0) (k : Nat) :
    fetchFault t k s = raiseExc s t 3 (regsOf s t).pc false := by
  simp [fetchFault, canIssue_awake h, h, hal]
theorem fetchFault_unreadable (h : canIssue s t = true) (hal : (regsOf s t).pc.toNat % 4 = 0)
    (hrd : rdBytes s (thrAgent s t) (regsOf s t).pc.toNat 4 = none) (hst : codeStalled s t (regsOf s t).pc.toNat = false)
    (hu : NoUpset s (thrAgent s t) (regsOf s t).pc.toNat 4) : fetchFault t 0 s = raiseExc s t 4 (regsOf s t).pc false := by
  simp [fetchFault, canIssue_awake h, h, hal, hst, hrd, noteUeIn_noUpset hu]

/-! The return (R154). -/
theorem ceilThr_eq (s : State) (t : Thread) : ceilThr s t = entryLvl (regsOf s t) t := by cases t <;> rfl
theorem srPL_eq (r : Regs) : srPL r = r.sr.extractLsb' 8 2 := ofNat_fld _ _ _
/-- RETX may go back to a level that is no reserved one, and neither above the level in force nor above the ceiling. -/
theorem retxIns_eq (s : State) (t : Thread) : retxIns t s =
    if (regsOf s t).esr.extractLsb' 8 2 ≠ 3 ∧ ((regsOf s t).esr.extractLsb' 8 2).toNat ≤ ((regsOf s t).sr.extractLsb' 8 2).toNat ∧
        ((regsOf s t).esr.extractLsb' 8 2).toNat ≤ (entryLvl (regsOf s t) t).toNat
      then .jump (setRegs s t { regsOf s t with sr := (regsOf s t).esr }) (regsOf s t).epc
      else .exc s 10 ((regsOf s t).esr.setWidth 64) := by
  simp only [retxIns, srPL_eq, ceilThr_eq]
  generalize (regsOf s t).esr.extractLsb' 8 2 = pl
  generalize (regsOf s t).sr.extractLsb' 8 2 = cur
  generalize entryLvl (regsOf s t) t = top
  have hbad : (pl = 3 ∨ cur.toNat < pl.toNat ∨ top.toNat < pl.toNat) ↔ ¬(pl ≠ 3 ∧ pl.toNat ≤ cur.toNat ∧ pl.toNat ≤ top.toNat) := by
    simp only [not_and_or, ne_eq, not_not, Nat.not_le]
  simp only [hbad, ite_not]
theorem legal_sys {gd ga : Reg} {x : Byte} {fn : Nat} {rep legal : Bool} {regs : List Reg} (hl : legal = true) (he : p.ext = none)
    (hr : p.rep = true → rep = true) : illegal p (sysDec gd ga x fn rep legal regs) = false := by
  cases hp : p.rep <;> simp_all [illegal, sysDec]
theorem retx_leaves (hp : p.rep = false) (he : p.ext = none) (h : Ready s t p [])
    (hok : (regsOf s t).esr.extractLsb' 8 2 ≠ 3 ∧ ((regsOf s t).esr.extractLsb' 8 2).toNat ≤ ((regsOf s t).sr.extractLsb' 8 2).toNat ∧
        ((regsOf s t).esr.extractLsb' 8 2).toNat ≤ (entryLvl (regsOf s t) t).toNat) :
    Leaves (.retx t p) s t { regsOf s t with sr := (regsOf s t).esr, pc := (regsOf s t).epc } (thrOf s t) := by
  have hl := leaves_of_jump (c := .retx t p) (sysDec 0 0 0 1 false true []) (retxIns t) (setRegs s t { regsOf s t with sr := (regsOf s t).esr }) _ rfl h
    (legal_sys rfl he (by simp [hp])) ((retxIns_eq s t).trans (if_pos hok)) (onlyThread_setRegs _ _ _ _ (onlyThread_refl s t))
  rwa [regsOf_setRegs_same, thrOf_setRegs (canIssue_noSaved h.1)] at hl
end
/-- Settles O11: each cause by the way on which it is found. -/
theorem exceptionsEnterAndReturn : Obligations.ExceptionsEnterAndReturn := by
  refine ⟨?_, ?_⟩
  · intro s t p code w k hen r first
    have hplain : p.rep = false → p.rep = true → false = true := fun hp h => absurd (hp.symm.trans h) (by decide)
    refine ⟨fun h hp he => ⟨?_, ?_⟩, fun h hd => illegalInstruction_raises h hd hen, fun hc hal => ?_, fun hc hal hrd hst hu => ?_⟩
    · exact raises_of_exc (sysDec 0 0 code 0 false true []) _ 8 _ rfl h (legal_sys rfl he (hplain hp)) rfl (by decide) hen
    · exact raises_of_exc (sysDec 0 0 code 2 false true []) _ 9 _ rfl h (legal_sys rfl he (hplain hp)) rfl (by decide) hen
    · exact raises_of_entry ((exec_instructionFetchFault hc k).trans (congrArg _ (fetchFault_misaligned hc hal _))) (canIssue_noSaved hc) (by decide) hen
    · exact raises_of_entry ((exec_instructionFetchFault hc 0).trans (congrArg _ (fetchFault_unreadable hc hal hrd hst hu))) (canIssue_noSaved hc) (by decide) hen
  · intro s t p h hp he r pl ceil ok
    refine ⟨fun hok => retx_leaves hp he h hok, fun hno hen => ?_⟩
    exact raises_of_exc (sysDec 0 0 0 1 false true []) (retxIns t) 10 _ rfl h (legal_sys rfl he (by simp [hp])) ((retxIns_eq s t).trans (if_neg hno)) (by decide) hen

end Sys2Proof.Machine
end

section
/-! The special registers (R89 to R96, R133). -/
namespace Sys2Proof.Machine

/-! Reads. -/
section
variable {s : State} {t : Thread} {p : Pfx} {gd ga : Reg} {x : Byte}

theorem thrLvl_eq (s : State) (t : Thread) : thrLvl s t = (regsOf s t).sr.extractLsb' 8 2 := srPL_eq _
/-- MFS below its dispatch. -/
def mfsIns (t : Thread) (p : Pfx) (gd : Reg) (x : Byte) (s : State) : Eff :=
  match spReg (isMp t) x.toNat with
  | some (rd, _) =>
    if (thrLvl s t).toNat < rd then .exc s xPRIV (x.setWidth 64) else .done (setRegs s t ((regsOf s t).setG gd (spRead s t (pfxLen p) x.toNat)))
  | none => .stay s
theorem exec_mfs (s : State) (t : Thread) (p : Pfx) (gd : Reg) (x : Byte) : exec (.mfs t p gd x) s =
    onCore (issue t p (sysDec gd 0 x 3 true (spReg (isMp t) x.toNat).isSome [gd]) (mfsIns t p gd x)) s := rfl
theorem mfs_gives {rd : Nat} {wr : Option Nat} {v : DWord} (he : p.ext = none) (h : Ready s t p [gd]) (hs : spReg (isMp t) x.toNat = some (rd, wr))
    (hl : rd ≤ ((regsOf s t).sr.extractLsb' 8 2).toNat) (hv : spRead s t (pfxLen p) x.toNat = v) : Gives (.mfs t p gd x) s t p ((regsOf s t).setG gd v) := by
  refine gives_of_done _ (mfsIns t p gd x) _ (exec_mfs s t p gd x) h (legal_sys (by rw [hs]; rfl) he fun _ => rfl) ?_
  have hlvl : ¬(thrLvl s t).toNat < rd := by rw [thrLvl_eq]; omega
  rw [mfsIns, hs]
  simp only [hlvl, if_false, hv]
theorem mfs_raises {rd : Nat} {wr : Option Nat} (he : p.ext = none) (h : Ready s t p [gd]) (hen : CanEnter s t) (hs : spReg (isMp t) x.toNat = some (rd, wr))
    (hl : ((regsOf s t).sr.extractLsb' 8 2).toNat < rd) : Raises (.mfs t p gd x) s t p 2 (x.setWidth 64) := by
  refine raises_of_exc _ (mfsIns t p gd x) 2 _ (exec_mfs s t p gd x) h (legal_sys (by rw [hs]; rfl) he fun _ => rfl) ?_ (by decide) hen
  have hlvl : (thrLvl s t).toNat < rd := by rwa [thrLvl_eq]
  rw [mfsIns, hs]
  simp only [hlvl, if_true]
theorem Ready.weaken {regs : List Reg} (h : Ready s t p regs) : Ready s t p [] := by
  obtain ⟨hi, hf, hw, -, hr⟩ := h
  exact ⟨hi, hf, hw, by simp, hr⟩
/-- A reserved number is an illegal instruction. -/
theorem mfs_illegal (he : p.ext = none) (h : Ready s t p [gd]) (hen : CanEnter s t) (hs : spReg (isMp t) x.toNat = none) :
    Raises (.mfs t p gd x) s t p 1 (if p.rep then 0xFC000000 else (fmtE 0x2C gd 0 0 x 3).setWidth 64) := by
  have hl : illegal p (sysDec gd 0 x 3 true (spReg (isMp t) x.toNat).isSome [gd]) = true := by simp [illegal, sysDec, hs]
  have hr := raises_of_illegal _ (mfsIns t p gd x) (exec_mfs s t p gd x) h.weaken hl hen
  have hw : (firstWord p (fmtE 0x2C gd 0 0 x 3)).setWidth 64 = if p.rep then 0xFC000000 else (fmtE 0x2C gd 0 0 x 3).setWidth 64 := by
    cases hp : p.rep <;> simp [firstWord, hp, he]
  exact hw ▸ hr
theorem ctxWord_eq (s : State) (c : CtxId) : (ctxWord s c).setWidth 64 = (s.rm.addr ++ c).setWidth 64 := by
  have hl := c.isLt
  have ha := s.rm.addr.isLt
  refine BitVec.eq_of_toNat_eq ?_
  rw [ctxWord, BitVec.toNat_setWidth, BitVec.toNat_setWidth, BitVec.toNat_append, ← Nat.shiftLeft_add_eq_or_of_lt hl, Nat.shiftLeft_eq, BitVec.toNat_ofNat]
  omega

/-! Writes. -/
/-- MTS below its dispatch. -/
def mtsIns (t : Thread) (x : Byte) (ga : Reg) (s : State) : Eff :=
  match (spReg (isMp t) x.toNat).bind fun r => r.2 with
  | some wr =>
    if spMay s t x.toNat ((regsOf s t).gr ga) wr then
      .done (rsvdIf (decide ((regsOf s t).gr ga &&& spRsvd x.toNat ≠ 0)) (mtsRec (setRegs s t (spWrite (regsOf s t) x.toNat ((regsOf s t).gr ga))) t x.toNat))
    else .exc s xPRIV (x.setWidth 64)
  | none => .stay s
theorem exec_mts (s : State) (t : Thread) (p : Pfx) (x : Byte) (ga : Reg) : exec (.mts t p x ga) s =
    onCore (issue t p (sysDec 0 ga x 4 (decide (x ≠ 3)) ((spReg (isMp t) x.toNat).bind fun r => r.2).isSome [ga]) (mtsIns t x ga)) s := rfl
theorem legal_mts {wr : Nat} (he : p.ext = none) (hs : ((spReg (isMp t) x.toNat).bind fun r => r.2) = some wr) (hr : p.rep = true → x ≠ 3) :
    illegal p (sysDec 0 ga x 4 (decide (x ≠ 3)) ((spReg (isMp t) x.toNat).bind fun r => r.2).isSome [ga]) = false :=
  legal_sys (by rw [hs]; rfl) he fun h => decide_eq_true (hr h)
/-- A register other than SR is written from its level on. -/
theorem spMay_of_lvl {wr : Nat} (v : DWord) (hx : x ≠ 1) (hl : wr ≤ ((regsOf s t).sr.extractLsb' 8 2).toNat) : spMay s t x.toNat v wr = true := by
  have hx' : x.toNat ≠ 1 := fun e => hx (BitVec.eq_of_toNat_eq e)
  rw [spMay, thrLvl_eq, decide_eq_true hl, decide_eq_false hx']
  rfl
theorem spMay_below {wr : Nat} (v : DWord) (hl : ((regsOf s t).sr.extractLsb' 8 2).toNat < wr) : spMay s t x.toNat v wr = false := by
  rw [spMay, thrLvl_eq, decide_eq_false (Nat.not_le.mpr hl), Bool.false_and]
/-- SR is written at every level, at P0 without a change of EM (R92). -/
theorem spMay_sr (v : DWord) : spMay s t 1 v 0 =
    !(decide (((regsOf s t).sr.extractLsb' 8 2).toNat = 0) && (v.getLsbD 10 != (regsOf s t).sr.getLsbD 10)) := by
  simp only [spMay, thrLvl_eq, Nat.zero_le, decide_true, Bool.true_and]
  rfl
theorem mts_raises {wr : Nat} (he : p.ext = none) (h : Ready s t p [ga]) (hen : CanEnter s t) (hr : p.rep = true → x ≠ 3)
    (hs : ((spReg (isMp t) x.toNat).bind fun r => r.2) = some wr) (hm : spMay s t x.toNat ((regsOf s t).gr ga) wr = false) :
    Raises (.mts t p x ga) s t p 2 (x.setWidth 64) := by
  refine raises_of_exc _ (mtsIns t x ga) 2 _ (exec_mts s t p x ga) h (legal_mts he hs hr) ?_ (by decide) hen
  simp only [mtsIns, hs, hm, Bool.false_eq_true, if_false]
/-- What a permitted MTS leaves, before the end of its unit. -/
theorem exec_mts_may {wr : Nat} (he : p.ext = none) (h : Ready s t p [ga]) (hr : p.rep = true → x ≠ 3)
    (hs : ((spReg (isMp t) x.toNat).bind fun r => r.2) = some wr) (hm : spMay s t x.toNat ((regsOf s t).gr ga) wr = true) :
    exec (.mts t p x ga) s = .next (unitDone (rsvdIf (decide ((regsOf s t).gr ga &&& spRsvd x.toNat ≠ 0))
      (mtsRec (setRegs s t (spWrite (regsOf s t) x.toNat ((regsOf s t).gr ga))) t x.toNat)) t p) := by
  rw [exec_mts, issue_ready h, executeIns_ready (sysDec 0 ga x 4 (decide (x ≠ 3)) ((spReg (isMp t) x.toNat).bind fun r => r.2).isSome [ga]) h (legal_mts he hs hr)]
  simp only [mtsIns, hs, hm, if_true]
theorem mtsRec_same (hx : isMp t = true ∨ (x ≠ 0x14 ∧ x ≠ 0x15)) (s : State) : mtsRec s t x.toNat = s := by
  cases t with
  | mp n => rfl
  | ctx c =>
    obtain ⟨h14, h15⟩ := hx.resolve_left (by simp [isMp])
    have h14' : x.toNat ≠ 0x14 := fun e => h14 (BitVec.eq_of_toNat_eq e)
    have h15' : x.toNat ≠ 0x15 := fun e => h15 (BitVec.eq_of_toNat_eq e)
    simp [mtsRec, h14', h15']
/-- A register that is in the register set alone, written without a reserved bit. -/
theorem mts_gives {wr : Nat} (he : p.ext = none) (h : Ready s t p [ga]) (hr : p.rep = true → x ≠ 3) (hs : ((spReg (isMp t) x.toNat).bind fun r => r.2) = some wr)
    (hm : spMay s t x.toNat ((regsOf s t).gr ga) wr = true) (hx : isMp t = true ∨ (x ≠ 0x14 ∧ x ≠ 0x15)) (hv : (regsOf s t).gr ga &&& spRsvd x.toNat = 0) :
    Gives (.mts t p x ga) s t p (spWrite (regsOf s t) x.toNat ((regsOf s t).gr ga)) := by
  refine gives_of_done _ (mtsIns t x ga) _ (exec_mts s t p x ga) h (legal_mts he hs hr) ?_
  simp only [mtsIns, hs, hm, if_true, mtsRec_same hx, hv, ne_eq, not_true_eq_false, decide_false]
  rfl
theorem regsOf_rsvdIf (f : Bool) (s : State) (v : Thread) : regsOf (rsvdIf f s) v = regsOf s v := by
  rw [rsvdIf_eq]
  cases v <;> rfl
/-- One that sets a reserved bit: the register takes the rest, and GLB_RSVD_WR is set (R5). -/
theorem mts_reserved {wr : Nat} (he : p.ext = none) (h : Ready s t p [ga]) (hr : p.rep = true → x ≠ 3) (hs : ((spReg (isMp t) x.toNat).bind fun r => r.2) = some wr)
    (hm : spMay s t x.toNat ((regsOf s t).gr ga) wr = true) (hx : isMp t = true ∨ (x ≠ 0x14 ∧ x ≠ 0x15)) (hv : (regsOf s t).gr ga &&& spRsvd x.toNat ≠ 0) :
    Answers (.mts t p x ga) s fun u => regsOf u t = pastUnit p (spWrite (regsOf s t) x.toNat ((regsOf s t).gr ga)) ∧ u.reg.rsvd = true ∧ SameMemory s u := by
  let w := setRegs s t (spWrite (regsOf s t) x.toNat ((regsOf s t).gr ga))
  have hn : NoSaved (setRsvd w) t := fun c hc => noSaved_setRegs (canIssue_noSaved h.1) c hc
  have hw : OnlyThread s w t := onlyThread_setRegs _ _ _ _ (onlyThread_refl s t)
  have hu := onlyThread_unitDone (setRsvd w) (setRsvd w) t p (onlyThread_refl _ t)
  refine ⟨unitDone (setRsvd w) t p, ?_, ?_, hu.frame (·.reg.rsvd) rfl, SameMemory.trans hw.sameMemory (SameMemory.trans (fun _ => rfl) hu.sameMemory)⟩
  · rw [exec_mts_may he h hr hs hm, mtsRec_same hx, decide_eq_true hv]
    rfl
  · have hr1 : regsOf (setRsvd w) t = regsOf w t := regsOf_rsvdIf true w t
    rw [(unitDone_eq hn p).1, hr1, regsOf_setRegs_same]

/-! REPA and EXV of a context, which are in its record too (R170). -/
theorem recOf_setRegs (s : State) (c : CtxId) (r : Regs) (hn : NoSaved s (.ctx c)) : recOf (setRegs s (.ctx c) r) c = recOf s c ∨ recOf (setRegs s (.ctx c) r) c = r := by
  rw [setRegs_eq hn, putRegs]
  split
  · exact .inl rfl
  · exact .inr (recOf_setRec_same _ _ _)
/-- A field of the record that agrees with the register set goes on to agree when the registers move past the unit. -/
theorem recOf_unitDone {α : Type} (f : Regs → α) {s : State} {c : CtxId} (hn : NoSaved s (.ctx c)) (p : Pfx) (hf : ∀ r, f (pastUnit p r) = f r)
    (h : f (recOf s c) = f (regsOf s (.ctx c))) : f (recOf (unitDone s (.ctx c) p) c) = f (regsOf s (.ctx c)) := by
  have key : ∃ r, f r = f (regsOf s (.ctx c)) ∧ recOf (unitDone s (.ctx c) p) c = recOf (setRegs s (.ctx c) r) c := by
    have hp := hf (regsOf s (.ctx c))
    unfold pastUnit at hp
    unfold unitDone
    cases hr : p.rep
    · simp only [hr, Bool.false_eq_true, if_false] at hp ⊢
      exact ⟨_, by rw [unitBytes_eq]; exact hp, rfl⟩
    · simp only [hr, if_true] at hp ⊢
      exact ⟨_, by simp only [decide_eq_true_eq, unitBytes_eq]; exact hp, rfl⟩
  obtain ⟨r, hr, hu⟩ := key
  rw [hu]
  obtain e | e := recOf_setRegs s c r hn
  · rw [e, h]
  · rw [e, hr]
/-- What MTS puts in the record. -/
def recWith (x : Nat) (g r : Regs) : Regs := if x = 0x14 then { r with exv := g.exv } else { r with repa := g.repa }
theorem recWith_same (x : Nat) (r : Regs) : recWith x r r = r := by
  unfold recWith
  split <;> rfl
/-- What the device keeps for the context then: what its last save left takes the value too. -/
def savedWith (x : Nat) (g : Regs) (y : Thr) : Thr := { y with saved := { y.saved with regs := y.saved.regs.map (recWith x g) } }
theorem mtsRec_ctx {x : Nat} (hx : x = 0x14 ∨ x = 0x15) (s : State) (c : CtxId) : ∃ up corr, mtsRec s (.ctx c) x =
    setThr (setRec { s with memc := { s.memc with upset := up, corr := corr } } c (recWith x (regsOf s (.ctx c)) (recOf s c))) (.ctx c)
      (savedWith x (regsOf s (.ctx c)) (thrOf s (.ctx c))) := by
  obtain ⟨l, hl⟩ := healWords_eq s (recKey c (if x = 0x14 then 30 else 29)) 8
  obtain ⟨l', hl'⟩ := dropCorr_eq (healWords s (recKey c (if x = 0x14 then 30 else 29)) 8) (recKey c (if x = 0x14 then 30 else 29)) 8
  rw [hl] at hl'
  refine ⟨l, l', ?_⟩
  simp only [mtsRec, if_pos hx, hl, hl']
  rfl
theorem otherThreads_setRec (s : State) (c : CtxId) (r : Regs) : OtherThreads s (setRec s c r) (.ctx c) := fun v hv => by
  refine ⟨?_, rfl⟩
  cases v with
  | mp n => rfl
  | ctx d => exact congrArg (Option.getD (slotRegs s d.toNat)) (recOf_setRec_other _ _ _ _ fun e => hv (congrArg Thread.ctx e))
theorem mtsRec_effect {x : Nat} (hx : x = 0x14 ∨ x = 0x15) (s : State) (c : CtxId) : let u := mtsRec s (.ctx c) x
    regsOf u (.ctx c) = regsOf s (.ctx c) ∧ recOf u c = recWith x (regsOf s (.ctx c)) (recOf s c) ∧ OtherThreads s u (.ctx c) ∧ SameMemory s u ∧
      u.reg = s.reg ∧ u.gal.live = s.gal.live := by
  obtain ⟨up, corr, h⟩ := mtsRec_ctx hx s c
  let w : State := { s with memc := { s.memc with upset := up, corr := corr } }
  have hrec : recOf (setRec w c (recWith x (regsOf s (.ctx c)) (recOf s c))) c = recWith x (regsOf s (.ctx c)) (recOf s c) := recOf_setRec_same _ _ _
  have hw : OtherThreads s w (.ctx c) := fun v _ => ⟨by cases v <;> rfl, rfl⟩
  intro u
  have hu : u = _ := h
  rw [hu]
  refine ⟨?_, hrec, OtherThreads.trans hw (otherThreads_setThr _ _ _ _ (otherThreads_setRec w c _)), sameMemory_of_eq rfl rfl rfl, rfl, rfl⟩
  rw [regsOf_setThr]
  change (slotRegs s c.toNat).getD (recOf (setRec w c (recWith x (regsOf s (.ctx c)) (recOf s c))) c) = (slotRegs s c.toNat).getD (recOf s c)
  rw [hrec, regsOf]
  cases slotRegs s c.toNat with
  | some g => rfl
  | none => exact recWith_same x _
/-- MTS of REPA or EXV on a context: the register set and the record take the value. -/
theorem mts_record {c : CtxId} {wr : Nat} (he : p.ext = none) (h : Ready s (.ctx c) p [ga]) (hr : p.rep = true → x ≠ 3)
    (hs : ((spReg false x.toNat).bind fun r => r.2) = some wr) (hm : spMay s (.ctx c) x.toNat ((regsOf s (.ctx c)).gr ga) wr = true)
    (hx : x.toNat = 0x14 ∨ x.toNat = 0x15) {α : Type} (f : Regs → α) (hf : ∀ r, f (pastUnit p r) = f r) (hfr : ∀ g r, f (recWith x.toNat g r) = f g) :
    Answers (.mts (.ctx c) p x ga) s fun u => (regsOf u (.ctx c) = pastUnit p (spWrite (regsOf s (.ctx c)) x.toNat ((regsOf s (.ctx c)).gr ga)) ∧
      OtherThreads s u (.ctx c) ∧ SameMemory s u) ∧ f (recOf u c) = f (spWrite (regsOf s (.ctx c)) x.toNat ((regsOf s (.ctx c)).gr ga)) ∧
        u.reg = { s.reg with rsvd := s.reg.rsvd || decide ((regsOf s (.ctx c)).gr ga &&& spRsvd x.toNat ≠ 0) } := by
  let r1 := spWrite (regsOf s (.ctx c)) x.toNat ((regsOf s (.ctx c)).gr ga)
  let w := setRegs s (.ctx c) r1
  have hn := canIssue_noSaved h.1
  have hw : OnlyThread s w (.ctx c) := onlyThread_setRegs _ _ _ _ (onlyThread_refl s _)
  obtain ⟨hmr, hmrec, hmo, hmm, hmreg, hml⟩ := mtsRec_effect hx w c
  let b := decide ((regsOf s (.ctx c)).gr ga &&& spRsvd x.toNat ≠ 0)
  let y := rsvdIf b (mtsRec w (.ctx c) x.toNat)
  have hy : y = { mtsRec w (.ctx c) x.toNat with reg := { w.reg with rsvd := w.reg.rsvd || b } } := (rsvdIf_eq b _).trans (by rw [hmreg])
  have hyr : regsOf y (.ctx c) = r1 := (regsOf_rsvdIf _ _ _).trans (hmr.trans (regsOf_setRegs_same _ _ _))
  have hyrec : recOf y c = recWith x.toNat (regsOf w (.ctx c)) (recOf w c) := by
    rw [hy]
    exact hmrec
  have hyo : OtherThreads w y (.ctx c) := OtherThreads.trans hmo fun v _ => ⟨regsOf_rsvdIf _ _ _, by rw [hy]; rfl⟩
  have hym : SameMemory w y := SameMemory.trans hmm (by rw [hy]; exact fun _ => rfl)
  have hny : NoSaved y (.ctx c) := fun d hd => by
    have hl : stOf y d = stOf w d := by
      rw [hy]
      change (sget {} (mtsRec w (.ctx c) x.toNat).gal.live d.toNat).st = (sget {} w.gal.live d.toNat).st
      rw [hml]
    rw [hl]
    exact noSaved_setRegs hn d hd
  have hu := onlyThread_unitDone y y (.ctx c) p (onlyThread_refl y _)
  refine ⟨unitDone y (.ctx c) p, exec_mts_may he h hr hs hm, ⟨?_, OtherThreads.trans hw.1 (OtherThreads.trans hyo hu.1),
    SameMemory.trans hw.sameMemory (SameMemory.trans hym hu.sameMemory)⟩, ?_, ?_⟩
  · rw [(unitDone_eq hny p).1, hyr]
  · rw [recOf_unitDone f hny p hf (by rw [hyrec, hfr, hyr, regsOf_setRegs_same]), hyr]
  · rw [hu.frame State.reg rfl, hy]
    have hreg : w.reg = s.reg := hw.frame State.reg rfl
    rw [hreg]
theorem rep_moves (f : Regs → α) (hf : ∀ r rc pc, f { r with rc := rc, pc := pc } = f r) (p : Pfx) (r : Regs) : f (pastUnit p r) = f r := by
  unfold pastUnit
  split
  · exact hf r _ _
  · exact hf r r.rc _
theorem mts_exv {c : CtxId} (he : p.ext = none) (h : Ready s (.ctx c) p [ga]) (hl : 1 ≤ ((regsOf s (.ctx c)).sr.extractLsb' 8 2).toNat) :
    Answers (.mts (.ctx c) p 0x14 ga) s fun u =>
      (regsOf u (.ctx c) = pastUnit p { regsOf s (.ctx c) with exv := (regsOf s (.ctx c)).gr ga &&& 0xFFFFFFFFFF00 } ∧ OtherThreads s u (.ctx c) ∧ SameMemory s u) ∧
      (recOf u c).exv = (regsOf s (.ctx c)).gr ga &&& 0xFFFFFFFFFF00 ∧ u.reg = s.reg := by
  obtain ⟨u, hu, hk, hr, hg⟩ := mts_record (x := 0x14) he h (fun _ => by decide) rfl (spMay_of_lvl _ (by decide) hl) (.inl rfl) Regs.exv
    (rep_moves Regs.exv (fun _ _ _ => rfl) p) fun _ _ => rfl
  refine ⟨u, hu, hk, hr, hg.trans ?_⟩
  have hz : spRsvd (0x14 : Byte).toNat = 0 := rfl
  rw [hz]
  simp
theorem mts_repa {c : CtxId} (he : p.ext = none) (h : Ready s (.ctx c) p [ga]) (hl : 1 ≤ ((regsOf s (.ctx c)).sr.extractLsb' 8 2).toNat) :
    Answers (.mts (.ctx c) p 0x15 ga) s fun u =>
      (regsOf u (.ctx c) = pastUnit p { regsOf s (.ctx c) with repa := (regsOf s (.ctx c)).gr ga &&& 0xFFFFFFFFFFFF } ∧ OtherThreads s u (.ctx c) ∧ SameMemory s u) ∧
      (recOf u c).repa = (regsOf s (.ctx c)).gr ga &&& 0xFFFFFFFFFFFF ∧
        u.reg.rsvd = (s.reg.rsvd || decide ((regsOf s (.ctx c)).gr ga &&& 0xFFFF000000000000 ≠ 0)) := by
  obtain ⟨u, hu, hk, hr, hg⟩ := mts_record (x := 0x15) he h (fun _ => by decide) rfl (spMay_of_lvl _ (by decide) hl) (.inr rfl) Regs.repa
    (rep_moves Regs.repa (fun _ _ _ => rfl) p) fun _ _ => rfl
  exact ⟨u, hu, hk, hr, (congrArg (·.rsvd) hg :)⟩
/-- A register with reserved bits that is in the register set alone. -/
theorem mts_masked {wr : Nat} (he : p.ext = none) (h : Ready s t p [ga]) (hr : p.rep = true → x ≠ 3) (hs : ((spReg (isMp t) x.toNat).bind fun r => r.2) = some wr)
    (hm : spMay s t x.toNat ((regsOf s t).gr ga) wr = true) (hx : isMp t = true ∨ (x ≠ 0x14 ∧ x ≠ 0x15)) :
    ((regsOf s t).gr ga &&& spRsvd x.toNat = 0 → Gives (.mts t p x ga) s t p (spWrite (regsOf s t) x.toNat ((regsOf s t).gr ga))) ∧
    ((regsOf s t).gr ga &&& spRsvd x.toNat ≠ 0 → Answers (.mts t p x ga) s fun u =>
      regsOf u t = pastUnit p (spWrite (regsOf s t) x.toNat ((regsOf s t).gr ga)) ∧ u.reg.rsvd = true ∧ SameMemory s u) :=
  ⟨mts_gives he h hr hs hm hx, mts_reserved he h hr hs hm hx⟩
theorem mts_sr (he : p.ext = none) (h : Ready s t p [ga])
    (hm : ((regsOf s t).sr.extractLsb' 8 2).toNat = 0 → ((regsOf s t).gr ga).getLsbD 10 = (regsOf s t).sr.getLsbD 10) :
    Gives (.mts t p 0x01 ga) s t p { regsOf s t with sr := ((regsOf s t).sr &&& 0x300#32) ||| (((regsOf s t).gr ga).setWidth 32 &&& 0xC3F#32) } := by
  refine mts_gives (x := 0x01) (wr := 0) he h (fun _ => by decide) rfl ?_ (.inr (by decide)) BitVec.and_zero
  refine (spMay_sr _).trans ?_
  by_cases h0 : ((regsOf s t).sr.extractLsb' 8 2).toNat = 0
  · simp only [hm h0, bne_self_eq_false, Bool.and_false, Bool.not_false]
  · simp only [h0, decide_false, Bool.false_and, Bool.not_false]
theorem mts_sr_raises (he : p.ext = none) (h : Ready s t p [ga]) (hen : CanEnter s t) (h0 : ((regsOf s t).sr.extractLsb' 8 2).toNat = 0)
    (hv : ((regsOf s t).gr ga).getLsbD 10 ≠ (regsOf s t).sr.getLsbD 10) : Raises (.mts t p 0x01 ga) s t p 2 1 := by
  refine mts_raises (x := 0x01) (wr := 0) he h hen (fun _ => by decide) rfl ?_
  refine (spMay_sr _).trans ?_
  simp only [h0, decide_true, Bool.true_and, bne_iff_ne.mpr hv, Bool.not_true]
/-- A register without reserved bits that is written at every level. -/
theorem mts_open (he : p.ext = none) (h : Ready s t p [ga]) (hr : p.rep = true → x ≠ 3) (h1 : x ≠ 1) (hs : ((spReg (isMp t) x.toNat).bind fun r => r.2) = some 0)
    (hx : x ≠ 0x14 ∧ x ≠ 0x15) (hv : spRsvd x.toNat = 0) : Gives (.mts t p x ga) s t p (spWrite (regsOf s t) x.toNat ((regsOf s t).gr ga)) :=
  mts_gives he h hr hs (spMay_of_lvl _ h1 (Nat.zero_le _)) (.inr hx) (by rw [hv]; exact BitVec.and_zero)
end
/-- Settles O12: each number by its row of R89. -/
theorem specialRegistersReadAndWrite : Obligations.SpecialRegistersReadAndWrite := by
  intro s t p gd ga x he r v lvl mfs mts kept masked
  refine ⟨fun h => ?_, fun h => ?_⟩
  · have low {wr : Option Nat} {w : DWord} (y : Byte) (hs : spReg (isMp t) y.toNat = some (0, wr)) (hw : spRead s t (pfxLen p) y.toNat = w) (e : x = y) : mfs w :=
      mfs_gives he h (e ▸ hs) (Nat.zero_le _) (e ▸ hw)
    have high {wr : Option Nat} {w : DWord} (y : Byte) (hl : 1 ≤ lvl) (hs : spReg (isMp t) y.toNat = some (1, wr)) (hw : spRead s t (pfxLen p) y.toNat = w)
        (e : x = y) : mfs w := mfs_gives he h (e ▸ hs) hl (e ▸ hw)
    have hpc : spRead s t (pfxLen p) 0 = r.pc + (if p.rep then 4 else 0) := by cases hp : p.rep <;> simp [spRead, pfxLen, hp, he, b2n, r]
    refine ⟨low 0 rfl hpc, low 1 rfl rfl, low 2 rfl rfl, low 3 rfl rfl, low 4 rfl rfl, low 5 rfl rfl, low 0x0B rfl rfl, low 0x0C rfl rfl, low 0x18 rfl rfl,
      ?_, ?_, fun hl => ⟨high 8 hl rfl rfl, high 9 hl rfl rfl, high 0x0A hl rfl rfl, high 0x14 hl rfl rfl⟩, ?_, ?_⟩
    · rintro c rfl
      exact ⟨low 0x10 rfl rfl, low 0x11 rfl rfl, low 0x13 rfl rfl, fun e hl => high 0x15 hl rfl rfl e, low 0x12 rfl (ctxWord_eq s c), low 0x1C rfl rfl, low 0x1D rfl rfl⟩
    · rintro n rfl
      have hid : ∀ m : BitVec 2, BitVec.ofNat 64 (0x8000_0000 + m.toNat) = 0x80000000 + m.setWidth 64 := by decide
      exact ⟨fun e => e.elim (low 0x10 rfl rfl) (low 0x11 rfl rfl), low 0x13 rfl rfl, low 0x12 rfl (hid n), low 0x1C rfl rfl, low 0x1D rfl rfl⟩
    · intro h0 hx hen
      have hl : lvl < 1 := by omega
      obtain rfl | rfl | rfl | rfl := hx <;> exact mfs_raises he h hen rfl hl
    · rintro rfl hen
      exact mfs_illegal he h hen rfl
  · have low (y : Byte) (hy : y ≠ 1 ∧ y ≠ 3 ∧ y ≠ 0x14 ∧ y ≠ 0x15) (hs : ((spReg (isMp t) y.toNat).bind fun r => r.2) = some 0) (hz : spRsvd y.toNat = 0)
        (e : x = y) : mts (spWrite r y.toNat v) := by
      subst e
      obtain ⟨h1, h3, hrec⟩ := hy
      exact mts_open he h (fun _ => h3) h1 hs hrec hz
    have high (y : Byte) (hl : 1 ≤ lvl) (hy : y ≠ 1 ∧ y ≠ 3) (hrec : isMp t = true ∨ (y ≠ 0x14 ∧ y ≠ 0x15))
        (hs : ((spReg (isMp t) y.toNat).bind fun r => r.2) = some 1) (e : x = y) : masked (spRsvd y.toNat) (spWrite r y.toNat v) := by
      subst e
      exact mts_masked he h (fun _ => hy.2) hs (spMay_of_lvl v hy.1 hl) hrec
    refine ⟨?_, ?_, ?_, low 2 (by decide) rfl rfl, ?_, low 4 (by decide) rfl rfl, low 5 (by decide) rfl rfl, fun hl => ⟨?_, ?_, ?_, ?_, ?_, ?_, ?_, ?_⟩, ?_⟩
    · rintro rfl hl
      exact mts_sr he h fun h0 => absurd h0 (Nat.ne_of_gt hl)
    · rintro rfl - hv
      exact mts_sr he h fun _ => hv
    · rintro rfl h0 hv hen
      exact mts_sr_raises he h hen h0 hv
    · rintro rfl hp
      exact mts_gives he h (fun hr => absurd (hp.symm.trans hr) (by decide)) rfl (spMay_of_lvl v (by decide) (Nat.zero_le _)) (.inr (by decide)) BitVec.and_zero
    · exact fun e => (high 8 hl (by decide) (.inr (by decide)) rfl e).1 BitVec.and_zero
    · exact high 0x0A hl (by decide) (.inr (by decide)) rfl
    · exact high 9 hl (by decide) (.inr (by decide)) rfl
    · exact fun e => (high 0x0B hl (by decide) (.inr (by decide)) rfl e).1 BitVec.and_zero
    · exact high 0x0C hl (by decide) (.inr (by decide)) rfl
    · rintro n rfl e
      exact (high 0x14 hl (by decide) (.inl rfl) rfl e).1 BitVec.and_zero
    · rintro c rfl rfl
      exact mts_exv he h hl
    · rintro c rfl rfl
      exact mts_repa he h hl
    · intro h0 hx hen
      have hl : lvl < 1 := by omega
      obtain rfl | rfl | rfl | rfl | rfl | rfl := hx <;> exact mts_raises he h hen (fun _ => by decide) rfl (spMay_below v hl)

end Sys2Proof.Machine
end

section
/-! Barriers (R129, R192) and locks (R130, R198, R199). -/
namespace Sys2Proof.Machine
section
variable {s : State} {t : Thread} {p : Pfx} {gd ga : Reg}

/-- What a thread alone has changed is not seen with the threads as they were. -/
theorem OnlyThread.threadsBack {w u : State} (h : OnlyThread w u t) (s : State) : threadsBack s u = threadsBack s w := by
  have e : Machine.threadsBack s u = Machine.threadsBack s (Machine.threadsBack w u) := rfl
  rw [e, h.2]

/-! Barriers. -/
theorem bar_gives (he : p.ext = none) (h : Ready s t p []) (hsb : (thrOf s t).sb = []) : Gives (.bar t p) s t p (regsOf s t) :=
  gives_of_unchanged (sysDec 0 0 0 5 true true []) _ rfl h (legal_sys rfl he fun _ => rfl) (by simp [hsb])
theorem bar_waits (he : p.ext = none) (h : Ready s t p []) (hsb : (thrOf s t).sb ≠ []) : exec (.bar t p) s = .next s :=
  exec_of_stay (sysDec 0 0 0 5 true true []) _ rfl h (legal_sys rfl he fun _ => rfl) (by simp [hsb])
/-- IBAR below its dispatch. -/
def ibarIns (t : Thread) (ga : Reg) (s : State) : Eff :=
  if (thrOf s t).sb.isEmpty then .done (dropLine s t ((regsOf s t).gr ga).toNat) else .stay s
theorem exec_ibar (s : State) (t : Thread) (p : Pfx) (ga : Reg) :
    exec (.ibar t p ga) s = onCore (issue t p (sysDec 0 ga 0 6 false true [ga]) (ibarIns t ga)) s := rfl
theorem ibarIns_empty (hsb : (thrOf s t).sb = []) : ibarIns t ga s = .done (dropLine s t ((regsOf s t).gr ga).toNat) := by simp [ibarIns, hsb]
theorem legal_ibar (he : p.ext = none) (hp : p.rep = false) (ga : Reg) : illegal p (sysDec 0 ga 0 6 false true [ga]) = false :=
  legal_sys rfl he fun hr => hp.symm.trans hr
theorem ibar_waits (he : p.ext = none) (h : Ready s t p [ga]) (hp : p.rep = false) (hsb : (thrOf s t).sb ≠ []) : exec (.ibar t p ga) s = .next s :=
  exec_of_stay _ _ (exec_ibar s t p ga) h (legal_ibar he hp ga) (by simp [ibarIns, hsb])
/-- A context's IBAR leaves the cluster that it is on without the line. -/
theorem ibar_drops {c : CtxId} (he : p.ext = none) (h : Ready s (.ctx c) p [ga]) (hp : p.rep = false) (hsb : (thrOf s (.ctx c)).sb = []) :
    Answers (.ibar (.ctx c) p ga) s fun u => regsOf u (.ctx c) = pastUnit p (regsOf s (.ctx c)) ∧ OtherThreads s u (.ctx c) ∧
      (clOf u (homeOf s c)).icache = (clOf s (homeOf s c)).icache.filter (fun l => l ≠ ((regsOf s (.ctx c)).gr ga).toNat / 64) ∧
      (∀ k, k ≠ homeOf s c → clOf u k = clOf s k) ∧ { threadsBack s u with eng := { (threadsBack s u).eng with cls := s.eng.cls } } = s := by
  let w := dropLine s (.ctx c) ((regsOf s (.ctx c)).gr ga).toNat
  have hn : NoSaved s (.ctx c) := canIssue_noSaved h.1
  have hu := onlyThread_unitDone w w (.ctx c) p (onlyThread_refl w _)
  have hcl : ∀ k, clOf (unitDone w (.ctx c) p) k = clOf w k := fun k => hu.frame (clOf · k) rfl
  refine ⟨unitDone w (.ctx c) p, ?_, (unitDone_eq (s := w) hn p).1, hu.1, ?_, fun k hk => ?_, ?_⟩
  · rw [exec_ibar, issue_ready h, executeIns_ready (sysDec 0 ga 0 6 false true [ga]) h (legal_ibar he hp ga), ibarIns_empty hsb]
  · rw [hcl]
    exact congrArg Cluster.icache (clOf_setCl_same _ _ _)
  · rw [hcl]
    exact clOf_setCl_other _ _ _ _ hk
  · rw [hu.threadsBack s]
    rfl
/-- Settles O13: the three instructions by whether the store buffer is empty. -/
theorem barriersWaitForStores : Obligations.BarriersWaitForStores := by
  intro s t p ga he
  refine ⟨fun h => ?_, fun h hsb => bar_gives he h hsb, fun h hsb => bar_waits he h hsb, fun h hp hsb => ibar_waits he h hp hsb, ?_, ?_⟩
  · exact gives_of_unchanged (sysDec 0 0 0 7 true true []) _ rfl h (legal_sys rfl he fun _ => rfl) rfl
  · rintro n rfl h hp hsb
    exact gives_of_unchanged _ _ (exec_ibar s _ p ga) h (legal_ibar he hp ga) (ibarIns_empty hsb)
  · rintro c rfl h hp hsb
    exact ibar_drops he h hp hsb

/-! Lock words. -/
/-- OWNER of a lock word that a thread holds (R198). -/
def ownerOf : Thread → BitVec 19
  | .ctx c => c.setWidth 19
  | .mp n => 0x40000 + n.setWidth 19
theorem tkey_owner (t : Thread) : tkey t = (ownerOf t).toNat := by
  cases t with
  | ctx c =>
    have hc := c.isLt
    simp only [tkey, ownerOf, BitVec.toNat_setWidth]
    omega
  | mp n =>
    have hn : ∀ m : BitVec 2, 0x40000 + m.toNat = (0x40000 + m.setWidth 19 : BitVec 19).toNat := by decide
    exact hn n
theorem lockTaken_eq (w : Word) (t : Thread) :
    BitVec.ofNat 32 (tkey t + 0x80000 + (fld w 21 11 + 1) % 2048 * 2 ^ 21) = (w.extractLsb' 21 11 + 1) ++ (0b01#2 ++ ownerOf t) := by
  have ho := (ownerOf t).isLt
  have hg : (w.extractLsb' 21 11 + 1).toNat = (fld w 21 11 + 1) % 2048 := by
    rw [fld_eq_extract, BitVec.toNat_add]
    rfl
  have hl : (0b01#2 ++ ownerOf t).toNat = 0x80000 + (ownerOf t).toNat := by
    rw [BitVec.toNat_append, ← Nat.shiftLeft_add_eq_or_of_lt ho]
    rfl
  have hlt := (0b01#2 ++ ownerOf t).isLt
  refine BitVec.eq_of_toNat_eq ?_
  rw [BitVec.toNat_append, ← Nat.shiftLeft_add_eq_or_of_lt hlt, hg, hl, tkey_owner, BitVec.toNat_ofNat, Nat.shiftLeft_eq]
  omega
theorem lockFreed_eq (w : Word) : setFld w 19 1 0 = w &&& ~~~0x80000#32 := BitVec.or_zero
theorem owner_iff (w : Word) (t : Thread) : fld w 0 19 = tkey t ↔ w.extractLsb' 0 19 = ownerOf t := by
  rw [fld_eq_extract, tkey_owner, BitVec.toNat_inj]

/-! The instructions. -/
/-- What the lock group leaves in the registers: gd and Z. -/
def lockRegs (r : Regs) (gd : Reg) (y : DWord) : Regs := { r.setG gd y with sr := srZ r.sr (y = 0) }
theorem putRes_eq {v : Nat} (hv : v < 2 ^ 64) (t : Thread) (gd : Reg) (s : State) : putRes t gd v s = .done (setRegs s t (lockRegs (regsOf s t) gd (BitVec.ofNat 64 v))) := by
  have hz : decide (v = 0) = decide (BitVec.ofNat 64 v = 0) := by
    rw [decide_eq_decide, ← BitVec.toNat_inj, BitVec.toNat_ofNat, Nat.mod_eq_of_lt hv]
    rfl
  simp only [putRes, lockRegs, setFld_one, hz, srZ]
theorem regsOf_setLock (s : State) (n : Nat) (w : Word) (v : Thread) : regsOf (setLock s n w) v = regsOf s v := by cases v <;> rfl
/-- One that answers a result alone. -/
theorem lock_gives {c : Instr} {fn v : Nat} {body : State → Eff} (hx : exec c s = onCore (issue t p (flowDec (fmtE 0x2D gd ga 0 0 fn) false true [gd, ga]) body) s)
    (h : Ready s t p [gd, ga]) (hp : p.rep = false) (he : p.ext = none) (hv : v < 2 ^ 64) (hb : body s = putRes t gd v s) :
    Gives c s t p (lockRegs (regsOf s t) gd (BitVec.ofNat 64 v)) :=
  gives_of_done _ body _ hx h (legal_flow hp rfl (.inr he)) (hb.trans (putRes_eq hv t gd s))
/-- One that writes the cell. -/
theorem lock_takes {c : Instr} {fn v n : Nat} {w1 : Word} {body : State → Eff}
    (hx : exec c s = onCore (issue t p (flowDec (fmtE 0x2D gd ga 0 0 fn) false true [gd, ga]) body) s)
    (h : Ready s t p [gd, ga]) (hp : p.rep = false) (he : p.ext = none) (hv : v < 2 ^ 64) (hb : body s = putRes t gd v (setLock s n w1)) :
    Answers c s fun u => regsOf u t = pastUnit p (lockRegs (regsOf s t) gd (BitVec.ofNat 64 v)) ∧ thrOf u t = thrOf s t ∧ OtherThreads s u t ∧ lockOf u n = w1 ∧
      (∀ m, m ≠ n → lockOf u m = lockOf s m) ∧ { threadsBack s u with gal := { (threadsBack s u).gal with locks := s.gal.locks } } = s := by
  have hn : NoSaved s t := canIssue_noSaved h.1
  obtain ⟨u, hu, hr, ht, ho⟩ := answers_of_done _ body hx h (legal_flow hp rfl (.inr he)) hp he (hb.trans (putRes_eq hv t gd _))
  have hpast : pastUnit p (lockRegs (regsOf s t) gd (BitVec.ofNat 64 v)) = { lockRegs (regsOf s t) gd (BitVec.ofNat 64 v) with pc := (regsOf s t).pc + 4 } := by
    simp [pastUnit, unitBytes, hp, he, lockRegs, Regs.setG]
  have hlo : ∀ m, lockOf u m = lockOf (setLock s n w1) m := fun m => ho.frame (lockOf · m) rfl
  refine ⟨u, hu, ?_, ht hn, fun x hx => ⟨(ho.1 x hx).1.trans (regsOf_setLock _ _ _ _), (ho.1 x hx).2⟩, ?_, fun m hm => ?_, ?_⟩
  · rw [hr, hpast, regsOf_setLock]
    rfl
  · rw [hlo, lockOf_setLock_same]
  · rw [hlo, lockOf_setLock_other _ _ _ _ hm]
  · rw [ho.threadsBack s]
    rfl
theorem lckIns_eq (t : Thread) (gd ga : Reg) (s : State) : lckIns t gd ga s =
    if 4096 ≤ ((regsOf s t).gr ga).toNat then putRes t gd 3 s
    else if (lockOf s ((regsOf s t).gr ga).toNat).getLsbD 19 then putRes t gd 1 s
    else putRes t gd (if (lockOf s ((regsOf s t).gr ga).toNat).getLsbD 20 then 2 else 0) (setLock s ((regsOf s t).gr ga).toNat
      (((lockOf s ((regsOf s t).gr ga).toNat).extractLsb' 21 11 + 1) ++ (0b01#2 ++ ownerOf t))) := by
  by_cases hv : ((regsOf s t).gr ga).toNat < 4096
  · rw [lckIns, cellOf, if_pos hv, if_neg (Nat.not_le.mpr hv)]
    simp only [bit, lockTaken_eq]
    rfl
  · rw [lckIns, cellOf, if_neg hv, if_pos (Nat.not_lt.mp hv)]
theorem ulkIns_eq (t : Thread) (gd ga : Reg) (s : State) : ulkIns t gd ga s =
    if 4096 ≤ ((regsOf s t).gr ga).toNat then putRes t gd 3 s
    else if (lockOf s ((regsOf s t).gr ga).toNat).getLsbD 19 = true ∧ (lockOf s ((regsOf s t).gr ga).toNat).extractLsb' 0 19 = ownerOf t then
      putRes t gd 0 (setLock s ((regsOf s t).gr ga).toNat (lockOf s ((regsOf s t).gr ga).toNat &&& ~~~0x80000#32))
    else putRes t gd 1 s := by
  by_cases hv : ((regsOf s t).gr ga).toNat < 4096
  · rw [ulkIns, cellOf, if_pos hv, if_neg (Nat.not_le.mpr hv)]
    simp only [bit, lockFreed_eq, owner_iff, Bool.and_eq_true, decide_eq_true_eq]
  · rw [ulkIns, cellOf, if_neg hv, if_pos (Nat.not_lt.mp hv)]
/-- Settles O14: each result of LCK and ULK by the cell that it finds. -/
theorem locksAreAcquiredAndReleased : Obligations.LocksAreAcquiredAndReleased := by
  intro s t p gd ga h hp he r v w mine put takes
  have hmine : mine = ownerOf t := by cases t <;> rfl
  rw [hmine]
  refine ⟨fun hv => ⟨lock_gives rfl h hp he (by decide) ((lckIns_eq t gd ga s).trans (if_pos hv)),
    lock_gives rfl h hp he (by decide) ((ulkIns_eq t gd ga s).trans (if_pos hv))⟩, fun hv => ?_⟩
  have hv' : ¬4096 ≤ v.toNat := Nat.not_le.mpr hv
  refine ⟨fun hb => ?_, fun hb => ?_, fun hb ho => ?_, fun hno => ?_⟩
  · exact lock_gives rfl h hp he (by decide) ((lckIns_eq t gd ga s).trans ((if_neg hv').trans (if_pos hb)))
  · have hbody := (lckIns_eq t gd ga s).trans ((if_neg hv').trans (if_neg (by rw [hb]; decide)))
    have hy : BitVec.ofNat 64 (if w.getLsbD 20 then 2 else 0) = if w.getLsbD 20 then 2 else 0 := by cases w.getLsbD 20 <;> rfl
    have ht := lock_takes (c := .lck t p gd ga) (fn := 0) rfl h hp he (by split <;> decide) hbody
    rw [hy] at ht
    exact ht
  · exact lock_takes rfl h hp he (by decide) ((ulkIns_eq t gd ga s).trans ((if_neg hv').trans (if_pos ⟨hb, ho⟩)))
  · refine lock_gives rfl h hp he (by decide) ((ulkIns_eq t gd ga s).trans ((if_neg hv').trans (if_neg fun hyes => ?_)))
    obtain ⟨hb, ho⟩ := hyes
    exact hno.elim (fun hf => absurd (hf.symm.trans hb) (by decide)) (· ho)
end

end Sys2Proof.Machine
end

section
/-! MOVE and the port instructions (R120, R125, R126, R520). -/
namespace Sys2Proof.Machine

/-! Channels that an instruction requests (R205, R206). -/
theorem tkey_lt (t : Thread) : tkey t < 0x80000 := by
  rw [tkey_owner]
  exact (ownerOf t).isLt
theorem requestChan_holds (s : State) {k : Nat} (hk : k < 0x80000) (x : Xfer) : Requested (requestChan s k x) k x :=
  HoldsChan.requested (holdsChan_bindMovers (holdsChan_grantN hk _ _ (holdsChan_setChan _ _ rfl)))
/-- A thread takes its channel at once or waits for it; the request is there, and memory and the units are as they were. -/
theorem takeChan_effect (s : State) (t : Thread) (x : Xfer) : let u := takeChan s t x
    Requested u (tkey t) x ∧ SameMemory s u ∧ u.dpt = s.dpt := by
  have hr := requestChan_holds s (tkey_lt t) x
  obtain ⟨m, hm⟩ := requestChan_eq s (tkey t) x
  have hq : SameMemory s (requestChan s (tkey t) x) ∧ (requestChan s (tkey t) x).dpt = s.dpt := by
    rw [hm]
    exact ⟨fun _ => rfl, rfl⟩
  have hgo : takeChan s t x = requestChan s (tkey t) x ∨ ∃ c, takeChan s t x = beginWait (requestChan s (tkey t) x) c 6 {} := by
    unfold takeChan
    dsimp only
    split
    · split
      · exact .inl rfl
      · exact .inr ⟨_, rfl⟩
    · exact .inl rfl
  dsimp only
  obtain h | ⟨c, h⟩ := hgo <;> rw [h]
  · exact ⟨hr, hq⟩
  · have hw := CtxOnly.beginWait (requestChan s (tkey t) x) c 6 {}
    exact ⟨hr.congr hw.mov, hq.1.trans hw.sameMemory, hw.dpt.trans hq.2⟩
/-- An instruction that takes a channel and stays at its address. -/
theorem answers_takeChan {i : Instr} {s w : State} {t : Thread} {p : Pfx} {x : Xfer} (d : Dec) (body : State → Eff) (hx : exec i s = onCore (issue t p d body) s)
    (h : Ready s t p d.regs) (hl : illegal p d = false) (hb : body s = .stay (takeChan w t x)) (hw : SameMemory s w) :
    Answers i s fun v => SameMemory s v ∧ v.dpt = w.dpt ∧ Requested v (tkey t) x := by
  obtain ⟨hr, hm, hd⟩ := takeChan_effect w t x
  exact ⟨_, exec_of_stay d body hx h hl hb, hw.trans hm, hd, hr⟩

/-! MOVE (R118, R120). -/
section
variable {s : State} {t : Thread} {p : Pfx} {fs fd bar : Bool} {crc : BitVec 3} {gd ga gb : Reg}

theorem exec_move (s : State) (t : Thread) (p : Pfx) (fs fd bar : Bool) (crc : BitVec 3) (gd ga gb : Reg) : exec (.move t p fs fd bar crc gd ga gb) s =
    onCore (issue t p (flowDec (fmtA 0x29 gd ga gb false (b2n fs + 2 * b2n fd + 4 * b2n bar + 8 * crc.toNat)) false
      (decide (gd ≠ ga ∧ gd ≠ gb ∧ ga ≠ gb ∧ crc.toNat ≤ 4)) [gd, ga, gb]) (moveIns t fs fd bar crc gd ga gb)) s := rfl
theorem moveIns_free (hc : crc = 0 ∨ (thrOf s t).md = none) : ¬(crc ≠ 0 ∧ (thrOf s t).md.isSome = true) := fun h =>
  hc.elim h.1 fun hm => by simp [hm] at h
theorem move_nothing (hp : p.rep = false) (he : p.ext = none) (h : Ready s t p [gd, ga, gb]) (hne : gd ≠ ga ∧ gd ≠ gb ∧ ga ≠ gb ∧ crc.toNat ≤ 4)
    (hc : crc = 0 ∨ (thrOf s t).md = none) (hn : ((regsOf s t).gr gb).toNat = 0) :
    Gives (.move t p fs fd bar crc gd ga gb) s t p { regsOf s t with sr := srV (regsOf s t).sr false } := by
  refine gives_of_done _ (moveIns t fs fd bar crc gd ga gb) _ (exec_move s t p fs fd bar crc gd ga gb) h (legal_flow hp (decide_eq_true hne) (.inr he)) ?_
  simp only [moveIns, if_neg (moveIns_free hc), hn, if_true, ← setFld_three _ false]
  rfl
theorem move_requests (hp : p.rep = false) (he : p.ext = none) (h : Ready s t p [gd, ga, gb]) (hne : gd ≠ ga ∧ gd ≠ gb ∧ ga ≠ gb ∧ crc.toNat ≤ 4)
    (hc : crc = 0 ∨ (thrOf s t).md = none) (hn : ((regsOf s t).gr gb).toNat ≠ 0) :
    Answers (.move t p fs fd bar crc gd ga gb) s fun v => SameMemory s v ∧ Requested v (tkey t)
      { kind := .move, cl := thrCl s t, src := (regsOf s t).gr ga, dst := (regsOf s t).gr gd, count := ((regsOf s t).gr gb).toNat,
        left := ((regsOf s t).gr gb).toNat, fs := fs, fd := fd, barrier := bar, crcsel := crc, lvl := thrLvl s t, gd := gd, ga := ga, gb := gb } := by
  refine (answers_takeChan (w := s) _ (moveIns t fs fd bar crc gd ga gb) (exec_move s t p fs fd bar crc gd ga gb) h
    (legal_flow hp (decide_eq_true hne) (.inr he)) ?_ fun _ => rfl).imp fun v hv => ⟨hv.1, hv.2.2⟩
  simp only [moveIns, if_neg (moveIns_free hc), hn, if_false]
end

/-! The checks of a port instruction (R126). -/
section
variable {s : State} {c : CtxId} {p : Pfx} {gd ga gb : Reg} {unit : Byte}

theorem legal_port (hp : p.rep = false) (he : p.ext = none) (gd ga gb : Reg) (u : Byte) (fn : Nat) (regs : List Reg) :
    illegal p (portDec (.ctx c) gd ga gb u fn regs) = false := legal_flow hp rfl (.inr he)
theorem portCheck_passes {off : Bool} {vs : List DWord} {send : Bool} {ok : EnState → Bool} {k : CtxId → Eff}
    (hv : ∀ v ∈ vs, v.toNat % (if off then 4 else elemSize (unitClass unit.toNat)) = 0) (hu : unitOk unit.toNat = true)
    (hs : send = true → canSend (unitClass unit.toNat) = true) (ha : unitAcc s unit.toNat ≤ (thrLvl s (.ctx c)).toNat) (hok : ok (unitOf s unit.toNat).st = true) :
    portCheck s (.ctx c) unit off vs send ok k = k c := by
  have hf : vs.find? (fun v => v.toNat % (if off then 4 else elemSize (unitClass unit.toNat)) ≠ 0 && (off || unitOk unit.toNat)) = none :=
    List.find?_eq_none.mpr fun v hvm => by simp [hv v hvm]
  have hsend : (send && !canSend (unitClass unit.toNat)) = false := by
    cases send
    · rfl
    · simp [hs rfl]
  rw [portCheck, hf]
  simp only [hu, hsend, Nat.not_lt.mpr ha, hok, Bool.not_true, Bool.false_eq_true, if_false]
theorem portCheck_disabled {off : Bool} {vs : List DWord} {ok : EnState → Bool} {k : CtxId → Eff}
    (hv : ∀ v ∈ vs, v.toNat % (if off then 4 else elemSize (unitClass unit.toNat)) = 0) (hu : unitOk unit.toNat = true)
    (ha : unitAcc s unit.toNat ≤ (thrLvl s (.ctx c)).toNat) (hok : ok (unitOf s unit.toNat).st = false) :
    portCheck s (.ctx c) unit off vs false ok k = portEff s unit 0x12 := by
  have hf : vs.find? (fun v => v.toNat % (if off then 4 else elemSize (unitClass unit.toNat)) ≠ 0 && (off || unitOk unit.toNat)) = none :=
    List.find?_eq_none.mpr fun v hvm => by simp [hv v hvm]
  rw [portCheck, hf]
  simp only [hu, Nat.not_lt.mpr ha, hok, Bool.not_true, Bool.false_eq_true, if_false, Bool.false_and, Bool.not_false, if_true]
/-- An access of the window is aligned when its register is. -/
theorem offset_aligned {v : DWord} (h : v.extractLsb' 0 2 = 0) : ∀ x ∈ [(v.setWidth 16).setWidth 64], x.toNat % 4 = 0 := by
  intro x hx
  have h2 := congrArg BitVec.toNat h
  have hd := List.mem_singleton.mp hx
  simp at h2
  subst hd
  simp
  omega
theorem elements_aligned {a b : DWord} {n : Nat} (ha : a.toNat % n = 0) (hb : b.toNat % n = 0) : ∀ x ∈ [a, b], x.toNat % n = 0 := by simp [ha, hb]
theorem isActive_of {e : EnState} (h : e = .active) : isActive e = true := by rw [h]; rfl
theorem notDisabled_of {e : EnState} (h : e ≠ .disabled) : notDisabled e = true := by
  cases e with
  | disabled => exact absurd rfl h
  | _ => rfl
/-- EVAL of the port exception (R126). -/
theorem portEff_eq (s : State) (u r : Byte) : portEff s u r.toNat = .exc s 11 ((portSts s u.toNat ++ r ++ u).setWidth 64) := by
  have hu := u.isLt
  have hr := r.isLt
  have hs := (portSts s u.toNat).isLt
  refine congrArg (Eff.exc s 11) (BitVec.eq_of_toNat_eq ?_)
  rw [BitVec.toNat_setWidth, BitVec.toNat_append, BitVec.toNat_append, ← Nat.shiftLeft_add_eq_or_of_lt hu, ← Nat.shiftLeft_add_eq_or_of_lt hr, BitVec.toNat_ofNat,
    Nat.shiftLeft_eq, Nat.shiftLeft_eq]
  omega

/-! PSEND, PSEND.AT and PRECV (R125, R377). -/
/-- What a record that is sent asks for. -/
def sendXfer (s : State) (t : Thread) (unit : Byte) (launch : Option DWord) (ga gb : Reg) : Xfer :=
  { kind := if launch.isSome then .psendAt else .psend, cl := thrCl s t, src := (regsOf s t).gr ga, count := ((regsOf s t).gr gb).toNat,
    left := ((regsOf s t).gr gb).toNat, unit := unit.setWidth 7, lvl := thrLvl s t, launch := launch, flight := s.lnd.num }
theorem psendIns_takes (launch : Option DWord) (hu : unitOk unit.toNat = true) (ha : unitAcc s unit.toNat ≤ (thrLvl s (.ctx c)).toNat)
    (hal : ((regsOf s (.ctx c)).gr ga).toNat % elemSize (unitClass unit.toNat) = 0 ∧ ((regsOf s (.ctx c)).gr gb).toNat % elemSize (unitClass unit.toNat) = 0)
    (hs : canSend (unitClass unit.toNat) = true) (hst : (unitOf s unit.toNat).st = .active) :
    psendIns (.ctx c) unit launch ga gb s = .stay (takeChan s (.ctx c) (sendXfer s (.ctx c) unit launch ga gb)) := by
  unfold psendIns
  exact portCheck_passes (off := false) (elements_aligned hal.1 hal.2) hu (fun _ => hs) ha (isActive_of hst)
theorem precvIns_takes {d : RxRec} {rest : List RxRec} (hu : unitOk unit.toNat = true) (ha : unitAcc s unit.toNat ≤ (thrLvl s (.ctx c)).toNat)
    (hal : ((regsOf s (.ctx c)).gr ga).toNat % elemSize (unitClass unit.toNat) = 0 ∧ ((regsOf s (.ctx c)).gr gb).toNat % elemSize (unitClass unit.toNat) = 0)
    (hst : (unitOf s unit.toNat).st ≠ .disabled) (hc : notCapture s unit.toNat = false) (hrx : (unitOf s unit.toNat).rx = d :: rest) :
    precvIns (.ctx c) unit gd ga gb s = .stay (takeChan (setUnit s unit.toNat { unitOf s unit.toNat with rx := rest }) (.ctx c)
      { kind := .precv, cl := thrCl s (.ctx c), dst := (regsOf s (.ctx c)).gr ga, count := Nat.min ((regsOf s (.ctx c)).gr gb).toNat d.bytes.length,
        left := Nat.min ((regsOf s (.ctx c)).gr gb).toNat d.bytes.length, unit := unit.setWidth 7, data := d.bytes, rxEnd := some d.fin,
        lvl := thrLvl s (.ctx c), gd := gd }) := by
  unfold precvIns
  refine (portCheck_passes (off := false) (elements_aligned hal.1 hal.2) hu (fun h => (Bool.false_ne_true h).elim) ha (notDisabled_of hst)).trans ?_
  simp only [hc, hrx, Bool.false_eq_true, if_false]
theorem precvIns_waits (hu : unitOk unit.toNat = true) (ha : unitAcc s unit.toNat ≤ (thrLvl s (.ctx c)).toNat)
    (hal : ((regsOf s (.ctx c)).gr ga).toNat % elemSize (unitClass unit.toNat) = 0 ∧ ((regsOf s (.ctx c)).gr gb).toNat % elemSize (unitClass unit.toNat) = 0)
    (hst : (unitOf s unit.toNat).st ≠ .disabled) (hc : notCapture s unit.toNat = false) (hrx : (unitOf s unit.toNat).rx = []) :
    precvIns (.ctx c) unit gd ga gb s = .stay (beginWait (setThr s (.ctx c) { thrOf s (.ctx c) with pwait := some unit.toNat }) c 5 {}) := by
  unfold precvIns
  refine (portCheck_passes (off := false) (elements_aligned hal.1 hal.2) hu (fun h => (Bool.false_ne_true h).elim) ha (notDisabled_of hst)).trans ?_
  simp only [hc, hrx, Bool.false_eq_true, if_false]
theorem psend_requests (hp : p.rep = false) (he : p.ext = none) (h : Ready s (.ctx c) p [ga, gb])
    (hb : psendIns (.ctx c) unit none ga gb s = .stay (takeChan s (.ctx c) (sendXfer s (.ctx c) unit none ga gb))) :
    Answers (.psend (.ctx c) p unit ga gb) s fun v => SameMemory s v ∧ Requested v c.toNat (sendXfer s (.ctx c) unit none ga gb) :=
  (answers_takeChan (i := .psend (.ctx c) p unit ga gb) (portDec (.ctx c) 0 ga gb unit 2 [ga, gb]) (psendIns (.ctx c) unit none ga gb) rfl h
    (legal_port hp he _ _ _ _ _ _) hb fun _ => rfl).imp fun _ hv => ⟨hv.1, hv.2.2⟩
theorem psendAt_requests (hp : p.rep = false) (he : p.ext = none) (h : Ready s (.ctx c) p [gd, ga, gb])
    (hb : psendIns (.ctx c) unit (some ((regsOf s (.ctx c)).gr gd)) ga gb s =
      .stay (takeChan s (.ctx c) (sendXfer s (.ctx c) unit (some ((regsOf s (.ctx c)).gr gd)) ga gb))) : Answers (.psendAt (.ctx c) p unit gd ga gb) s fun v =>
      SameMemory s v ∧ Requested v c.toNat (sendXfer s (.ctx c) unit (some ((regsOf s (.ctx c)).gr gd)) ga gb) :=
  (answers_takeChan (i := .psendAt (.ctx c) p unit gd ga gb) (portDec (.ctx c) gd ga gb unit 3 [gd, ga, gb])
    (fun s => psendIns (.ctx c) unit (some ((regsOf s (.ctx c)).gr gd)) ga gb s) rfl h
    (legal_port hp he _ _ _ _ _ _) hb fun _ => rfl).imp fun _ hv => ⟨hv.1, hv.2.2⟩
theorem precv_requests {rest : List RxRec} {x : Xfer} (hp : p.rep = false) (he : p.ext = none) (h : Ready s (.ctx c) p [gd, ga, gb])
    (hb : precvIns (.ctx c) unit gd ga gb s = .stay (takeChan (setUnit s unit.toNat { unitOf s unit.toNat with rx := rest }) (.ctx c) x)) :
    Answers (.precv (.ctx c) p unit gd ga gb) s fun v => SameMemory s v ∧ (unitOf v unit.toNat).rx = rest ∧ Requested v c.toNat x := by
  refine (answers_takeChan (i := .precv (.ctx c) p unit gd ga gb) (portDec (.ctx c) gd ga gb unit 4 [gd, ga, gb]) (precvIns (.ctx c) unit gd ga gb) rfl h
    (legal_port hp he _ _ _ _ _ _) hb fun _ => rfl).imp fun v hv => ⟨hv.1, ?_, hv.2.2⟩
  rw [unitOf, hv.2.1]
  exact congrArg DUnit.rx (unitOf_setUnit_same s unit.toNat _)
theorem waitsForUnit_effect (s : State) (c : CtxId) (u : Nat) : let v := beginWait (setThr s (.ctx c) { thrOf s (.ctx c) with pwait := some u }) c 5 {}
    WaitsFor v c 5 {} ∧ (thrOf v (.ctx c)).pwait = some u ∧ OtherLive s v c ∧ SameMemory s v := by
  let w := setThr s (.ctx c) { thrOf s (.ctx c) with pwait := some u }
  obtain ⟨hw, -, -, ho, hm⟩ := beginWait_effect w c 5 {}
  obtain ⟨v, l, m, ht⟩ := thrOf_beginWait w c 5 {}
  refine ⟨hw, ?_, ho, hm⟩
  rw [ht, thrOf_setThr_same]

/-! PWR and PRD, and the end of their access (R125, R362, R363). -/
theorem pwr_bus (hp : p.rep = false) (he : p.ext = none) (h : Ready s (.ctx c) p [ga, gb]) (hu : unitOk unit.toNat = true)
    (ha : unitAcc s unit.toNat ≤ (thrLvl s (.ctx c)).toNat) (hal : ((regsOf s (.ctx c)).gr ga).extractLsb' 0 2 = 0)
    (hst : (unitOf s unit.toNat).st ≠ .disabled) (hs : suppressed s c = false) : Answers (.pwr (.ctx c) p unit ga gb) s fun v =>
      regsOf v (.ctx c) = regsOf s (.ctx c) ∧ OtherThreads s v (.ctx c) ∧ SameMemory s v ∧ (thrOf v (.ctx c)).bus =
        some { unit := unit.setWidth 7, off := ((regsOf s (.ctx c)).gr ga).setWidth 16, val := some (((regsOf s (.ctx c)).gr gb).setWidth 32) } := by
  let w := digCtl s c unit (((regsOf s (.ctx c)).gr ga).setWidth 16) (((regsOf s (.ctx c)).gr gb).setWidth 32)
  obtain ⟨hr, ho, hm⟩ := digest_effect s c s.lnd.num (unit :: leBytes 2 (((regsOf s (.ctx c)).gr ga).setWidth 16).toNat ++
    leBytes 4 (((regsOf s (.ctx c)).gr gb).setWidth 32).toNat)
  have hb : pwrIns (.ctx c) unit ga gb s = .stay (setThr w (.ctx c) { thrOf w (.ctx c) with
      bus := some { unit := unit.setWidth 7, off := ((regsOf s (.ctx c)).gr ga).setWidth 16, val := some (((regsOf s (.ctx c)).gr gb).setWidth 32) } }) := by
    unfold pwrIns
    refine (portCheck_passes (off := true) (offset_aligned hal) hu (fun h => (Bool.false_ne_true h).elim) ha (notDisabled_of hst)).trans ?_
    simp only [hs, Bool.false_eq_true, if_false]
    rfl
  exact ⟨_, exec_of_stay (portDec (.ctx c) 0 ga gb unit 0 [ga, gb]) _ rfl h (legal_port hp he _ _ _ _ _ _) hb, (regsOf_setThr _ _ _ _).trans (hr _),
    otherThreads_setThr _ _ _ _ ho, hm, congrArg Thr.bus (thrOf_setThr_same _ _ _)⟩
/-- The access of a PRD on the bus. -/
def prdBus (s : State) (c : CtxId) (unit : Byte) (gd ga : Reg) : Thr :=
  { thrOf s (.ctx c) with bus := some { unit := unit.setWidth 7, off := ((regsOf s (.ctx c)).gr ga).setWidth 16, val := none, gd := gd } }
theorem prdIns_bus (hu : unitOk unit.toNat = true) (ha : unitAcc s unit.toNat ≤ (thrLvl s (.ctx c)).toNat)
    (hal : ((regsOf s (.ctx c)).gr ga).extractLsb' 0 2 = 0) (hst : (unitOf s unit.toNat).st ≠ .disabled) :
    prdIns (.ctx c) unit gd ga s = .stay (setThr s (.ctx c) (prdBus s c unit gd ga)) := by
  unfold prdIns
  exact portCheck_passes (off := true) (offset_aligned hal) hu (fun h => (Bool.false_ne_true h).elim) ha (notDisabled_of hst)
theorem prdIns_disabled (hu : unitOk unit.toNat = true) (ha : unitAcc s unit.toNat ≤ (thrLvl s (.ctx c)).toNat)
    (hal : ((regsOf s (.ctx c)).gr ga).extractLsb' 0 2 = 0) (hst : (unitOf s unit.toNat).st = .disabled) :
    prdIns (.ctx c) unit gd ga s = .exc s 11 ((portSts s unit.toNat ++ 0x12#8 ++ unit).setWidth 64) := by
  have hd : notDisabled (unitOf s unit.toNat).st = false := by rw [hst]; rfl
  unfold prdIns
  exact (portCheck_disabled (off := true) (offset_aligned hal) hu ha hd).trans (portEff_eq s unit 0x12)
theorem prd_bus (hp : p.rep = false) (he : p.ext = none) (h : Ready s (.ctx c) p [gd, ga])
    (hb : prdIns (.ctx c) unit gd ga s = .stay (setThr s (.ctx c) (prdBus s c unit gd ga))) :
    Leaves (.prd (.ctx c) p unit gd ga) s (.ctx c) (regsOf s (.ctx c)) (prdBus s c unit gd ga) :=
  ⟨_, exec_of_stay (portDec (.ctx c) gd ga 0 unit 1 [gd, ga]) (prdIns (.ctx c) unit gd ga) rfl h (legal_port hp he _ _ _ _ _ _) hb,
    regsOf_setThr _ _ _ _, thrOf_setThr_same _ _ _, onlyThread_setThr _ _ _ _ (onlyThread_refl s _)⟩
/-- The end of a PRD of code. -/
theorem busDone_reads {b : BusOp} (hc : clocksOn s = true) (hst : stOf s c = .resident) (hf : ctxFenced s c = false) (hb : (thrOf s (.ctx c)).bus = some b)
    (hph : (thrOf s (.ctx c)).phase = .code) (hv : b.val = none) (hu : (unitOf s b.unit.toNat).st ≠ .disabled) : Leaves (.devicePortBusDone (.ctx c)) s (.ctx c)
      { (regsOf s (.ctx c)).setG b.gd ((winRead s b.unit.toNat b.off.toNat).setWidth 64) with pc := (regsOf s (.ctx c)).pc + 4 }
      { thrOf s (.ctx c) with bus := none } := by
  have hn : NoSaved s (.ctx c) := fun d hd => by
    cases hd
    simp [hst]
  have hx : exec (.devicePortBusDone (.ctx c)) s = .next (setRegs (setThr s (.ctx c) { thrOf s (.ctx c) with bus := none }) (.ctx c)
      { (regsOf s (.ctx c)).setG b.gd ((winRead s b.unit.toNat b.off.toNat).setWidth 64) with pc := (regsOf s (.ctx c)).pc + 4 }) := by
    change execDevicePortBusDone (.ctx c) s = _
    rw [execDevicePortBusDone, onCore_on _ hc]
    simp [portBusDone, hf, hb, accessDone, hph, hu, hv]
  exact ⟨_, hx, regsOf_setRegs_same _ _ _, by rw [thrOf_setRegs (noSaved_setThr hn), thrOf_setThr_same],
    onlyThread_setRegs _ _ _ _ (onlyThread_setThr _ _ _ _ (onlyThread_refl s _))⟩
end
/-- Settles O22: each instruction by what its checks let it do. -/
theorem movesAndPortInstructionsIssue : Obligations.MovesAndPortInstructionsIssue := by
  intro s t c p fs fd bar crc gd ga gb unit hp he r n u size open_ aligned record
  refine ⟨fun h hda hdb hab hcrc => ⟨fun hn hc => move_nothing hp he h ⟨hda, hdb, hab, hcrc⟩ hc hn,
    fun hn hc => move_requests hp he h ⟨hda, hdb, hab, hcrc⟩ hc hn⟩, ?_, ?_⟩
  · rintro rfl ⟨hu, ha⟩
    refine ⟨fun h hal hs hst => ?_, fun h hal hs hst => ?_, fun d rest h hal hst hnc hrx => ?_, fun h hal hst hnc hrx => ?_,
      fun h hal hst hs => pwr_bus hp he h hu ha hal hst hs, fun h hal hst => prd_bus hp he h (prdIns_bus hu ha hal hst), fun h hal hst hen => ?_⟩
    · exact psend_requests hp he h (psendIns_takes none hu ha hal hs hst)
    · exact psendAt_requests hp he h (psendIns_takes _ hu ha hal hs hst)
    · exact precv_requests hp he h (precvIns_takes hu ha hal hst hnc hrx)
    · exact ⟨_, exec_of_stay (portDec (.ctx c) gd ga gb unit 4 [gd, ga, gb]) (precvIns (.ctx c) unit gd ga gb) rfl h (legal_port hp he _ _ _ _ _ _)
        (precvIns_waits hu ha hal hst hnc hrx), waitsForUnit_effect s c u⟩
    · exact raises_of_exc (portDec (.ctx c) gd ga 0 unit 1 [gd, ga]) (prdIns (.ctx c) unit gd ga) 11 _ rfl h (legal_port hp he _ _ _ _ _ _)
        (prdIns_disabled hu ha hal hst) (by decide) hen
  · rintro b rfl hc hst hf hb hph hv hu
    exact busDone_reads hc hst hf hb hph hv hu

end Sys2Proof.Machine
end

section
/-! How an entry of a store buffer completes (R112, R303, R523). -/
namespace Sys2Proof.Machine

/-! Writes of memory. -/
section
variable {s : State} {ag : Agent} {lvl : Lvl} {a k : Nat} {bs : List Byte}

theorem writeBeat_runs (ha : 0x110000 ≤ a) (hk : ∀ j, j < bs.length → wrKey s ag lvl (a + j) = some (k + j)) (hp : partialUpset s ag lvl a bs.length = false) :
    writeBeat ag lvl a bs s = some (storeBytes s ag lvl a bs) := by
  have hok : wrOk s ag lvl a bs.length = true := wrOk_of_keys _ _ fun i hi => by rw [hk i hi]; rfl
  rw [writeBeat, if_neg (Nat.not_lt.mpr ha), hok, hp]
  rfl
/-- The state after a store whose reserved bits do not count (R523). -/
def landed (s : State) (ag : Agent) (lvl : Lvl) (a : Nat) (bs : List Byte) : State :=
  { storeBytes s ag lvl a bs with reg := { (storeBytes s ag lvl a bs).reg with rsvd := s.reg.rsvd } }
theorem landed_eq (s : State) (ag : Agent) (lvl : Lvl) (a : Nat) (bs : List Byte) : ∃ m up corr,
    landed s ag lvl a bs = { s with mem := m, memc := { s.memc with upset := up, corr := corr } } := by
  obtain ⟨m, up, corr, r, h⟩ := storeBytes_eq s ag lvl a bs
  exact ⟨m, up, corr, by rw [landed, h]⟩
theorem landed_run (h : ∀ j, j < bs.length → wrKey s ag lvl (a + j) = some (k + j)) : SameMemoryBut s (landed s ag lvl a bs) k bs.length := (storeBytes_run h).2
/-- A place of scratch waits for no interface, and no error of DRAM stands in the way. -/
theorem stalled_scratch (ha : 0x10000000 ≤ a) (hb : a < 0x10210000) : stalled s ag a = false := stalled_below (by omega)
theorem locate_dram {kd : Kind} {j : Nat} (hl : locate s ag a = some (kd, j)) (hd : kd = .dram) : 0x10_0000_0000 ≤ a := by
  unfold locate at hl
  split_ifs at hl <;> grind
theorem partialUpset_below {n : Nat} (hb : a + n ≤ 0x10_0000_0000) : partialUpset s ag lvl a n = false := by
  rw [partialUpset, List.any_eq_false]
  intro i hi
  split
  · next j hl =>
    have hge := locate_dram hl rfl
    have hlt := List.mem_range.mp hi
    omega
  · exact Bool.false_ne_true
end

/-! An entry of the buffer. -/
section
variable {s : State} {t : Thread} {c : CtxId} {e : SbEntry} {i : Nat}

/-- The state with entry i taken from the buffer. -/
def sbTaken (s : State) (t : Thread) (i : Nat) : State := setThr s t { thrOf s t with sb := (thrOf s t).sb.eraseIdx i }
theorem drainEntry_lands (he : (thrOf s t).sb[i]? = some e) (hm : mayDrain (thrOf s t).sb i = true) (hst : stalled s (thrAgent s t) e.addr.toNat = false) :
    drainEntry t i s = storesGone (storeLands (sbTaken s t i) t e) t := by
  rw [drainEntry]
  simp only [he, hm, hst]
  rfl
theorem storesGone_none (h : (thrOf s t).last = none) : storesGone s t = s := by
  cases t with
  | mp n => rfl
  | ctx c =>
    simp only [storesGone, lastReport, h]
    split <;> rfl
theorem thrAgent_sbTaken (s : State) (t v : Thread) (i : Nat) : thrAgent (sbTaken s t i) v = thrAgent s v := by cases v <;> rfl
theorem sendIgnored_plain (h : expressWord e.addr.toNat = false) : sendIgnored s t e = false := by
  cases t with
  | mp n => rfl
  | ctx c => simp [sendIgnored, h]
theorem storeLands_plain {k : Nat} (ha : 0x110000 ≤ e.addr.toNat) (hx : expressWord e.addr.toNat = false)
    (hk : ∀ j, j < e.bytes.length → wrKey s (thrAgent s t) e.lvl (e.addr.toNat + j) = some (k + j))
    (hp : partialUpset s (thrAgent s t) e.lvl e.addr.toNat e.bytes.length = false) :
    storeLands s t e = storeBytes s (thrAgent s t) e.lvl e.addr.toNat e.bytes := by
  simp [storeLands, sendIgnored_plain hx, writeBeat_runs ha hk hp, hx]
/-- An entry of plain memory completes. -/
theorem storeBufferDrain_plain {i : BitVec 3} {k : Nat} (hs : Settled s) (hc : clocksOn s = true) (hl : (thrOf s t).last = none)
    (he : (thrOf s t).sb[i.toNat]? = some e) (hm : mayDrain (thrOf s t).sb i.toNat = true) (ha : 0x110000 ≤ e.addr.toNat)
    (hx : expressWord e.addr.toNat = false) (hk : ∀ j, j < e.bytes.length → wrKey s (thrAgent s t) e.lvl (e.addr.toNat + j) = some (k + j))
    (hp : partialUpset s (thrAgent s t) e.lvl e.addr.toNat e.bytes.length = false) (hst : stalled s (thrAgent s t) e.addr.toNat = false) :
    Answers (.storeBufferDrain t i) s fun u => (∀ j, j < e.bytes.length → memGet u (k + j) = e.bytes.getD j 0) ∧ SameMemoryBut s u k e.bytes.length ∧
      (thrOf u t).sb = (thrOf s t).sb.eraseIdx i.toNat ∧ ∀ v, regsOf u v = regsOf s v := by
  let w := sbTaken s t i.toNat
  let u := storeBytes w (thrAgent w t) e.lvl e.addr.toNat e.bytes
  have hag : thrAgent w t = thrAgent s t := thrAgent_sbTaken s t t _
  have hk' : ∀ j, j < e.bytes.length → wrKey w (thrAgent w t) e.lvl (e.addr.toNat + j) = some (k + j) := fun j hj => hag ▸ hk j hj
  have hp' : partialUpset w (thrAgent w t) e.lvl e.addr.toNat e.bytes.length = false := hag ▸ hp
  obtain ⟨m, up, corr, r, hu⟩ : ∃ m up corr r, u = _ := storeBytes_eq w _ _ _ _
  have ht : thrOf u t = { thrOf s t with sb := (thrOf s t).sb.eraseIdx i.toNat } := by
    rw [hu]
    exact thrOf_setThr_same s t _
  have hset : Settled u := by
    rw [hu]
    exact hs
  refine ⟨u, ?_, (storeBytes_run hk').1, (storeBytes_run hk').2, congrArg Thr.sb ht, fun v => ?_⟩
  · change execStoreBufferDrain t i s = _
    rw [execStoreBufferDrain, onCore_on _ hc, drainEntry_lands he hm hst, storeLands_plain ha hx hk' hp', storesGone_none ((congrArg Thr.last ht).trans hl),
      settle_settled hset]
  · rw [hu]
    exact (by cases v <;> rfl : _ = regsOf w v).trans (regsOf_setThr _ _ _ _)

/-! The express area (R303, R523). -/
/-- The word of a slot at an offset of the express area of a cluster. -/
def slotWord (cl o slot : Nat) : Nat := 0x10000000 + cl * 0x10000 + o + 4 * slot
theorem slotWord_facts {cl o slot : Nat} (hc : cl ≤ 32) (hs : slot < 4) (ho : o = 0xFC00 ∨ o = 0xFC10) : let a := slotWord cl o slot
    0x10000000 ≤ a ∧ a + 4 ≤ 0x10210000 ∧ (a - 0x10000000) / 0x10000 = cl ∧ a % 0x10000 = o + 4 * slot ∧ expressWord a = true := by
  intro a
  have ha : a = 0x10000000 + cl * 0x10000 + o + 4 * slot := rfl
  have hm : a % 0x10000 = o + 4 * slot := by omega
  refine ⟨by omega, by omega, by omega, hm, ?_⟩
  rw [expressWord, hm, decide_eq_true_eq]
  omega
/-- The one entry of a buffer completes. -/
theorem drainFirst_only {p : SbEntry → Bool} (hy : (thrOf s (.ctx c)).sb = [e]) (hp : p e = true) (hlast : (thrOf s (.ctx c)).last = none)
    (hl : thrOf (storeLands (sbTaken s (.ctx c) 0) (.ctx c) e) (.ctx c) = { thrOf s (.ctx c) with sb := [] })
    (hst : stalled s (thrAgent s (.ctx c)) e.addr.toNat = false) :
    drainFirst (.ctx c) p s = storeLands (sbTaken s (.ctx c) 0) (.ctx c) e := by
  have hf : (thrOf s (.ctx c)).sb.findIdx? p = some 0 := by rw [hy]; simp [hp]
  have hm : mayDrain (thrOf s (.ctx c)).sb 0 = true := by rw [hy]; rfl
  rw [drainFirst, hf]
  exact (drainEntry_lands (by rw [hy]; rfl) hm hst).trans (storesGone_none ((congrArg Thr.last hl).trans hlast))
theorem storeLands_express (hx : expressWord e.addr.toNat = true) (hi : sendIgnored s (.ctx c) e = false)
    (hk : ∀ j, j < e.bytes.length → wrKey s (thrAgent s (.ctx c)) e.lvl (e.addr.toNat + j) = some (e.addr.toNat + j))
    (hp : partialUpset s (thrAgent s (.ctx c)) e.lvl e.addr.toNat e.bytes.length = false) (ha : 0x110000 ≤ e.addr.toNat) :
    storeLands s (.ctx c) e = expressAct (landed s (thrAgent s (.ctx c)) e.lvl e.addr.toNat e.bytes) (.ctx c) e := by
  simp [storeLands, hi, writeBeat_runs ha hk hp, hx, isMp, landed]

/-! A send word (R303, R316). -/
theorem sendOn_sct (s : State) (b : Bool) (f : Frame) (x : Bool) : (sendOn s b f x).sct = s.sct := enqueueAs_sct s b _ _ b _ false
theorem SendsOnly.thrOf {u : State} (h : SendsOnly s u) (v : Thread) : thrOf u v = thrOf s v := (congrArg (fun w => Machine.thrOf w v) h.rest :)
theorem SendsOnly.rsvd {u : State} (h : SendsOnly s u) : u.reg.rsvd = s.reg.rsvd := (congrArg (fun w => w.reg.rsvd) h.rest :)
/-- The bytes of the transmit buffer of a slot. -/
def sendBytes (s : State) (cl slot len : Nat) : List Byte := (List.range len).map fun o => memGet s (0x10000000 + cl * 0x10000 + 0xFA00 + 128 * slot + o)
/-- The express frame of a session takes the next R-TAG number and the session's next express SEQ. -/
theorem expressSend_effect {cl slot len j : Nat} (hlen : 16 ≤ len ∧ len ≤ 128) (hj : beNat (slice (sendBytes s cl slot len) 6 2) = j) (hj' : j < 0x40) :
    let u := expressSend s cl slot len
    SendsOnly s u ∧ u.sct.rtag = s.sct.rtag + 1 ∧ (sessOf u j).express = (sessOf s j).express + 1 := by
  have hbad : ¬(len < 16 ∨ 128 < len) := by omega
  let s1 := setSess s j { sessOf s j with express := (sessOf s j).express + 1 }
  have hx : ∃ f, expressSend s cl slot len = sendOn (sendOn (nextRtag s1) false f true) true f true := by
    unfold sendBytes at hj
    simp only [expressSend, if_neg hbad, hj, hdrKey, if_pos hj']
    exact ⟨_, rfl⟩
  obtain ⟨f, hf⟩ := hx
  have hsct : (expressSend s cl slot len).sct = (nextRtag s1).sct := by rw [hf, sendOn_sct, sendOn_sct]
  have hsess : sessOf (nextRtag s1) j = { sessOf s j with express := (sessOf s j).express + 1 } := sessOf_setSess_same s j _
  refine ⟨?_, congrArg Sct.rtag hsct, ?_⟩
  · rw [hf]
    exact (sendsOnly_setSess s j _).trans ((SendsOnly.of_sct_wq s1 { s1.sct with rtag := s1.sct.rtag + 1 } s1.wq).trans
      ((sendsOnly_sendOn _ false _ _).trans (sendsOnly_sendOn _ true _ _)))
  · rw [sessOf, hsct]
    exact congrArg Sess.express hsess
/-- A word whose value is below 256 has it in its first byte. -/
theorem leNat_low {bs : List Byte} (h : leNat bs < 256) : leNat (bs.drop 1) = 0 ∧ (byteAt bs 0).toNat = leNat bs := by
  cases bs with
  | nil => exact ⟨rfl, rfl⟩
  | cons b bs =>
    have hb := b.isLt
    have hr : leNat bs = 0 := by simp only [leNat] at h; omega
    have hz : byteAt (b :: bs) 0 = b := rfl
    rw [hz]
    simp [leNat, hr]
section
variable {slot : BitVec 2}

theorem expressAct_send (hon : expressOn s = true) (hc : homeOf s c ≤ 32) (ha : e.addr.toNat = slotWord (homeOf s c) 0xFC00 slot.toNat) (hn : e.bytes.length = 4)
    (hlen : leNat e.bytes < 256) : expressAct s (.ctx c) e = expressSend s (homeOf s c) slot.toNat (leNat e.bytes) := by
  obtain ⟨-, -, hcl, hm, hx⟩ := slotWord_facts hc slot.isLt (.inl rfl)
  obtain ⟨hz, hb⟩ := leNat_low hlen
  have hslot := slot.isLt
  have hlow : 0xFC00 + 4 * slot.toNat < 0xFC10 := by omega
  have hs : (0xFC00 + 4 * slot.toNat - 0xFC00) / 4 = slot.toNat := by rw [Nat.add_sub_cancel_left, Nat.mul_div_cancel_left _ (by decide)]
  rw [← ha] at hcl hm hx
  simp only [expressAct, hon, hx, hcl, hm, hn, hz, hb, hlow, hs, Bool.not_true, Bool.false_eq_true, or_self, if_false, ne_eq, not_true_eq_false, if_true]
theorem sendIgnored_eq (hon : expressOn s = true) (hc : homeOf s c ≤ 32) (ha : e.addr.toNat = slotWord (homeOf s c) 0xFC00 slot.toNat) (hn : e.bytes.length = 4) :
    sendIgnored s (.ctx c) e = decide (leNat e.bytes < 16 ∨ 128 < leNat e.bytes) := by
  obtain ⟨-, -, hcl, hm, hx⟩ := slotWord_facts hc slot.isLt (.inl rfl)
  have hslot := slot.isLt
  have hlow : 0xFC00 + 4 * slot.toNat < 0xFC10 := by omega
  rw [← ha] at hcl hm hx
  simp only [sendIgnored, hon, hx, hcl, hm, hn, hlow, decide_true, Bool.true_and]
/-- The state in which the store of the one entry has written its word. -/
def expressLanded (s : State) (c : CtxId) (e : SbEntry) : State :=
  landed (sbTaken s (.ctx c) 0) (thrAgent (sbTaken s (.ctx c) 0) (.ctx c)) e.lvl e.addr.toNat e.bytes
theorem expressLanded_keeps (hy : (thrOf s (.ctx c)).sb = [e]) : let w := expressLanded s c e
    thrOf w (.ctx c) = { thrOf s (.ctx c) with sb := [] } ∧ homeOf w c = homeOf s c ∧ expressOn w = expressOn s ∧ w.sct = s.sct ∧ w.reg.rsvd = s.reg.rsvd := by
  intro w
  obtain ⟨m, up, corr, hw⟩ : ∃ m up corr, w = _ := landed_eq _ _ _ _ _
  have ht : thrOf (sbTaken s (.ctx c) 0) (.ctx c) = { thrOf s (.ctx c) with sb := [] } := by
    rw [sbTaken, thrOf_setThr_same, hy]
    rfl
  rw [hw]
  exact ⟨ht, rfl, rfl, rfl, rfl⟩
theorem expressLanded_memory (hk : ∀ j, j < e.bytes.length → wrKey s (thrAgent s (.ctx c)) e.lvl (e.addr.toNat + j) = some (e.addr.toNat + j)) :
    SameMemoryBut s (expressLanded s c e) e.addr.toNat e.bytes.length :=
  landed_run (s := sbTaken s (.ctx c) 0) (thrAgent_sbTaken s (.ctx c) (.ctx c) 0 ▸ hk)
/-- The one entry of a buffer, a store to a word of the express area, writes its word and acts. -/
theorem drainFirst_express {p : SbEntry → Bool} {o : Nat} (hy : (thrOf s (.ctx c)).sb = [e]) (hpe : p e = true) (hlast : (thrOf s (.ctx c)).last = none)
    (hh : homeOf s c ≤ 32) (ho : o = 0xFC00 ∨ o = 0xFC10) (ha : e.addr.toNat = slotWord (homeOf s c) o slot.toNat) (hn : e.bytes.length = 4)
    (hi : sendIgnored s (.ctx c) e = false)
    (hk : ∀ j, j < e.bytes.length → wrKey s (thrAgent s (.ctx c)) e.lvl (e.addr.toNat + j) = some (e.addr.toNat + j))
    (hact : thrOf (expressAct (expressLanded s c e) (.ctx c) e) (.ctx c) = thrOf (expressLanded s c e) (.ctx c)) :
    drainFirst (.ctx c) p s = expressAct (expressLanded s c e) (.ctx c) e := by
  obtain ⟨hlo, hhi, -, -, hx⟩ := slotWord_facts hh slot.isLt ho
  rw [← ha] at hlo hhi hx
  have hland : storeLands (sbTaken s (.ctx c) 0) (.ctx c) e = expressAct (expressLanded s c e) (.ctx c) e :=
    storeLands_express hx hi (thrAgent_sbTaken s (.ctx c) (.ctx c) 0 ▸ hk) (partialUpset_below (by omega)) (by omega)
  have hst : stalled s (thrAgent s (.ctx c)) e.addr.toNat = false := stalled_scratch hlo (by omega)
  refine (drainFirst_only hy hpe hlast ?_ hst).trans hland
  rw [hland, hact, (expressLanded_keeps hy).1]
theorem isSend_word (ha : e.addr.toNat = slotWord (homeOf s c) 0xFC00 slot.toNat) (hn : e.bytes.length = 4) : isSend s c slot.toNat e = true := by
  rw [isSend, hn, ha, slotWord]
  simp
/-- The transmit buffer lies below the send words. -/
theorem sendBytes_landed {len : Nat} (hm : SameMemoryBut s (expressLanded s c e) e.addr.toNat e.bytes.length)
    (ha : e.addr.toNat = slotWord (homeOf s c) 0xFC00 slot.toNat) (hlen : len ≤ 128) :
    sendBytes (expressLanded s c e) (homeOf s c) slot.toNat len = sendBytes s (homeOf s c) slot.toNat len := by
  refine List.map_congr_left fun o ho => hm _ ?_
  have hlt := List.mem_range.mp ho
  have hslot := slot.isLt
  rw [ha, slotWord]
  omega
/-- A store to the send word with a length that a frame may have sends the buffer. -/
theorem sendWordStore_sends (hc : clocksOn s = true) (hlast : (thrOf s (.ctx c)).last = none) (hy : (thrOf s (.ctx c)).sb = [e]) (hh : homeOf s c ≤ 32)
    (hon : expressOn s = true) (ha : e.addr.toNat = slotWord (homeOf s c) 0xFC00 slot.toNat) (hn : e.bytes.length = 4)
    (hk : ∀ j, j < e.bytes.length → wrKey s (thrAgent s (.ctx c)) e.lvl (e.addr.toNat + j) = some (e.addr.toNat + j))
    (hlen : 16 ≤ leNat e.bytes ∧ leNat e.bytes ≤ 128) {j : Nat} (hj : beNat (slice (sendBytes s (homeOf s c) slot.toNat (leNat e.bytes)) 6 2) = j) (hj' : j < 0x40) :
    Answers (.sendWordStore c slot) s fun u => (thrOf u (.ctx c)).sb = [] ∧ u.sct.rtag = s.sct.rtag + 1 ∧ (sessOf u j).express = (sessOf s j).express + 1 ∧
      SameMemoryBut s u e.addr.toNat 4 ∧ u.reg.rsvd = s.reg.rsvd := by
  obtain ⟨hwt, hwh, hwo, hws, hwr⟩ := expressLanded_keeps hy
  have hm := expressLanded_memory hk
  have hact : expressAct (expressLanded s c e) (.ctx c) e = expressSend (expressLanded s c e) (homeOf s c) slot.toNat (leNat e.bytes) := by
    rw [← hwh]
    exact expressAct_send (hwo.trans hon) (hwh ▸ hh) (hwh ▸ ha) hn (by omega)
  obtain ⟨hso, hrt, hex⟩ := expressSend_effect (s := expressLanded s c e) hlen ((sendBytes_landed hm ha hlen.2).symm ▸ hj) hj'
  rw [← hact] at hso hrt hex
  have hi : sendIgnored s (.ctx c) e = false := by
    rw [sendIgnored_eq hon hh ha hn, decide_eq_false_iff_not]
    omega
  refine ⟨expressAct (expressLanded s c e) (.ctx c) e, ?_, ?_, ?_, ?_, fun k hkk => ?_, hso.rsvd.trans hwr⟩
  · change execSendWordStore c slot s = _
    rw [execSendWordStore, onCore_on _ hc]
    exact congrArg _ (drainFirst_express hy (isSend_word ha hn) hlast hh (.inl rfl) ha hn hi hk (hso.thrOf _))
  · rw [hso.thrOf, hwt]
  · rw [hrt, hws]
  · rw [hex, sessOf, sessOf, hws]
  · exact (hso.sameMemory k).trans (hm k (hn.symm ▸ hkk))
/-- One with another length is ignored. -/
theorem sendWordStore_ignored (hc : clocksOn s = true) (hlast : (thrOf s (.ctx c)).last = none) (hy : (thrOf s (.ctx c)).sb = [e]) (hh : homeOf s c ≤ 32)
    (hon : expressOn s = true) (ha : e.addr.toNat = slotWord (homeOf s c) 0xFC00 slot.toNat) (hn : e.bytes.length = 4)
    (hlen : leNat e.bytes < 16 ∨ 128 < leNat e.bytes) : Answers (.sendWordStore c slot) s fun u =>
      (thrOf u (.ctx c)).sb = [] ∧ u.reg.rsvd = true ∧ u.sct = s.sct ∧ SameMemory s u := by
  obtain ⟨hlo, hhi, -⟩ := slotWord_facts hh slot.isLt (.inl rfl)
  rw [← ha] at hlo hhi
  have hst : stalled s (thrAgent s (.ctx c)) e.addr.toNat = false := stalled_scratch hlo (by omega)
  have hi : sendIgnored (sbTaken s (.ctx c) 0) (.ctx c) e = true := (sendIgnored_eq (s := s) hon hh ha hn).trans (decide_eq_true hlen)
  have hland : storeLands (sbTaken s (.ctx c) 0) (.ctx c) e = setRsvd (sbTaken s (.ctx c) 0) := by rw [storeLands, hi]; rfl
  have ht : thrOf (setRsvd (sbTaken s (.ctx c) 0)) (.ctx c) = { thrOf s (.ctx c) with sb := [] } := by
    refine (thrOf_setThr_same s _ _).trans ?_
    rw [hy]
    rfl
  refine ⟨setRsvd (sbTaken s (.ctx c) 0), ?_, by rw [ht], rfl, rfl, fun _ => rfl⟩
  change execSendWordStore c slot s = _
  rw [execSendWordStore, onCore_on _ hc]
  exact congrArg _ ((drainFirst_only hy (isSend_word ha hn) hlast (hland ▸ ht) hst).trans hland)

/-! A release word (R303). -/
theorem isRelease_word (ha : e.addr.toNat = slotWord (homeOf s c) 0xFC10 slot.toNat) (hn : e.bytes.length = 4) : isRelease s c slot.toNat e = true := by
  rw [isRelease, hn, ha, slotWord]
  simp
/-- A store of the release word of a slot touches no other. -/
theorem expressAct_release (hon : expressOn s = true) (hh : homeOf s c ≤ 32) (ha : e.addr.toNat = slotWord (homeOf s c) 0xFC10 slot.toNat) (hn : e.bytes.length = 4) :
    expressAct s (.ctx c) e = releaseMbox s (4 * homeOf s c + slot.toNat) := by
  obtain ⟨-, -, hcl, hm, hx⟩ := slotWord_facts hh slot.isLt (.inr rfl)
  rw [← ha] at hcl hm hx
  have hlow : ¬0xFC10 + 4 * slot.toNat < 0xFC10 := by omega
  have hr : List.range 4 = [0, 1, 2, 3] := rfl
  simp only [expressAct, hon, hx, hcl, hm, hn, hlow, hr, List.foldl_cons, List.foldl_nil, Bool.not_true, Bool.false_eq_true, or_self, if_false, ne_eq, not_true_eq_false]
  obtain h | h | h | h : slot.toNat = 0 ∨ slot.toNat = 1 ∨ slot.toNat = 2 ∨ slot.toNat = 3 := by omega
  all_goals rw [h]; rfl
theorem releaseMbox_whole {k : Nat} (hf : (mboxOf s k).full = true) (hw : (mboxOf s k).complete = true) : releaseMbox s k = setMbox s k {} := by
  simp [releaseMbox, hf, hw]
theorem sendIgnored_release (hh : homeOf s c ≤ 32) (ha : e.addr.toNat = slotWord (homeOf s c) 0xFC10 slot.toNat) : sendIgnored s (.ctx c) e = false := by
  obtain ⟨-, -, -, hm, -⟩ := slotWord_facts hh slot.isLt (.inr rfl)
  have hlow : ¬0xFC10 + 4 * slot.toNat < 0xFC10 := by omega
  rw [← ha] at hm
  simp [sendIgnored, hm]
theorem releaseWordStore_releases (hc : clocksOn s = true) (hlast : (thrOf s (.ctx c)).last = none) (hy : (thrOf s (.ctx c)).sb = [e]) (hh : homeOf s c ≤ 32)
    (hon : expressOn s = true) (ha : e.addr.toNat = slotWord (homeOf s c) 0xFC10 slot.toNat) (hn : e.bytes.length = 4)
    (hk : ∀ j, j < e.bytes.length → wrKey s (thrAgent s (.ctx c)) e.lvl (e.addr.toNat + j) = some (e.addr.toNat + j))
    (hf : (mboxOf s (4 * homeOf s c + slot.toNat)).full = true) (hw : (mboxOf s (4 * homeOf s c + slot.toNat)).complete = true) :
    Answers (.releaseWordStore c slot) s fun u => (thrOf u (.ctx c)).sb = [] ∧ mboxOf u (4 * homeOf s c + slot.toNat) = {} ∧
      (∀ j, j ≠ 4 * homeOf s c + slot.toNat → mboxOf u j = mboxOf s j) ∧ SameMemoryBut s u e.addr.toNat 4 := by
  obtain ⟨hwt, hwh, hwo, hws, -⟩ := expressLanded_keeps hy
  have hm := expressLanded_memory hk
  have hbox : ∀ j, mboxOf (expressLanded s c e) j = mboxOf s j := fun j => by rw [mboxOf, hws, mboxOf]
  have hact : expressAct (expressLanded s c e) (.ctx c) e = setMbox (expressLanded s c e) (4 * homeOf s c + slot.toNat) {} := by
    have hr := expressAct_release (hwo.trans hon) (hwh.symm ▸ hh) (hwh.symm ▸ ha) hn
    rw [hwh] at hr
    exact hr.trans (releaseMbox_whole (by rw [hbox, hf]) (by rw [hbox, hw]))
  refine ⟨expressAct (expressLanded s c e) (.ctx c) e, ?_, ?_, ?_, fun j hj => ?_, fun k hkk => ?_⟩
  · change execReleaseWordStore c slot s = _
    rw [execReleaseWordStore, onCore_on _ hc]
    exact congrArg _ (drainFirst_express hy (isRelease_word ha hn) hlast hh (.inr rfl) ha hn (sendIgnored_release hh ha) hk (by rw [hact]; rfl))
  · rw [hact]
    exact congrArg Thr.sb hwt
  · rw [hact, mboxOf_setMbox_same]
  · rw [hact, mboxOf_setMbox_other _ _ _ _ hj, hbox]
  · rw [hact]
    exact hm k (hn.symm ▸ hkk)
end
end
/-- Settles O25: an entry by the word that it is for. -/
theorem storesReachMemory : Obligations.StoresReachMemory := by
  intro s t c i slot e k hs hc hlt hlc x y a n send release len lands
  refine ⟨fun he hm ha hx hk hp hst => storeBufferDrain_plain hs hc hlt he hm ha hx hk hp hst, fun hy hh hon ha hn hk => ⟨fun h16 h128 j hj => ?_, fun hlen => ?_⟩,
    fun hy hh hon ha hn hk hf hw => releaseWordStore_releases hc hlc hy hh hon ha hn hk hf hw⟩
  · exact sendWordStore_sends hc hlc hy hh hon ha hn hk ⟨h16, h128⟩ hj j.isLt
  · exact sendWordStore_ignored hc hlc hy hh hon ha hn hlen

end Sys2Proof.Machine
end

section
/-! How a channel moves its bytes (R209, R211, R212): beats that cover a stretch in order, the reads that the next write beat needs, and the writes. -/
namespace Sys2Proof.Machine

/-! Beats (R209). -/
/-- Beats that cover n bytes from address a, in order and without a gap. -/
def Covers : List (Nat × Nat) → Nat → Nat → Prop
  | [], _, n => n = 0
  | (b, m) :: bs, a, n => b = a ∧ 0 < m ∧ m ≤ n ∧ Covers bs (a + m) (n - m)
theorem covers_beatsInc {f a n : Nat} (h : 0 < n → (a % 64 + n + 63) / 64 ≤ f) : Covers (beatsInc f a n) a n := by
  induction f generalizing a n with
  | zero =>
    show n = 0
    omega
  | succ f ih =>
    unfold beatsInc
    split
    · assumption
    · have hm : Nat.min n (64 - a % 64) = n ∨ Nat.min n (64 - a % 64) = 64 - a % 64 := by
        rcases Nat.le_total n (64 - a % 64) with h | h
        · exact .inl (Nat.min_eq_left h)
        · exact .inr (Nat.min_eq_right h)
      have hle : Nat.min n (64 - a % 64) ≤ n := Nat.min_le_left _ _
      exact ⟨rfl, by omega, hle, ih fun hn => by omega⟩
theorem covers_pieceBeats (a n : Nat) : Covers (pieceBeats { addr := a, len := n, w := 0 }) a n := by
  refine covers_beatsInc fun _ => ?_
  dsimp only
  omega
/-- The beats of an advancing side between two of its offsets. -/
theorem covers_planBeats {a n o e : Nat} (ho : o ≤ e) (he : e ≤ n) : Covers (planBeats [{ addr := a, len := n, w := 0 }] o e) (a + o) (e - o) := by
  have hone : ∀ m, e - o ≤ m → Covers ((takePieces (e - o) [{ addr := a + o, len := m, w := 0 }]).flatMap pieceBeats) (a + o) (e - o) := fun m hm => by
    simp only [takePieces]
    split
    · assumption
    · split
      · rw [List.flatMap_singleton]
        exact covers_pieceBeats _ _
      · rw [show e - o = m by omega, List.flatMap_singleton]
        exact covers_pieceBeats _ _
  simp only [planBeats, dropPieces, if_true]
  split
  · exact hone _ (by omega)
  · show e - o = 0
    omega
theorem planBeats_nothing (ps : List Piece) (o : Nat) : planBeats ps o o = [] := by
  rw [planBeats, Nat.sub_self]
  cases dropPieces o ps <;> rfl
/-- Beats of a stretch of no bytes: there are none. -/
theorem Covers.nil {rs : List (Nat × Nat)} {a : Nat} (h : Covers rs a 0) : rs = [] := by
  cases rs with
  | nil => rfl
  | cons r rs =>
    obtain ⟨-, hp, hm, -⟩ := h
    omega

/-! Stretches of bytes. -/
/-- The n bytes of f from offset o. -/
def stretch (f : Nat → Byte) (o n : Nat) : List Byte := (List.range n).map fun i => f (o + i)
section
variable {f : Nat → Byte} {o n : Nat}

@[simp] theorem length_stretch : (stretch f o n).length = n := by simp [stretch]
@[simp] theorem stretch_zero : stretch f o 0 = [] := rfl
@[simp] theorem getD_stretch {i : Nat} (h : i < n) : (stretch f o n).getD i 0 = f (o + i) := by simp [stretch, List.getD_eq_getElem?_getD, h]
theorem stretch_append (m : Nat) : stretch f o n ++ stretch f (o + n) m = stretch f o (n + m) := by
  simp [stretch, List.range_add, Nat.add_assoc]
theorem take_stretch {m : Nat} (h : m ≤ n) : (stretch f o n).take m = stretch f o m := by
  rw [← Nat.add_sub_of_le h, ← stretch_append, List.take_left' length_stretch]
theorem drop_stretch {m : Nat} (h : m ≤ n) : (stretch f o n).drop m = stretch f (o + m) (n - m) := by
  conv_lhs => rw [← Nat.add_sub_of_le h, ← stretch_append, List.drop_left' length_stretch]
theorem eq_stretch (bs : List Byte) : bs = stretch (fun i => bs.getD i 0) 0 bs.length :=
  List.ext_getElem (by simp) fun i h _ => by simp [stretch, h]
end

/-! Reads. -/
section
variable {s : State} {ag : Agent} {lvl : Lvl} {old : Option State} {a k n p : Nat} {f : Nat → Byte}

/-- The source holds the bytes of f from offset p to offset n: they are readable at address a and lie at key k. -/
def Sourced (s : State) (ag : Agent) (a k : Nat) (f : Nat → Byte) (p n : Nat) : Prop :=
  ∀ i, p ≤ i → i < n → rdKey s ag (a + i) = some (k + i) ∧ memGet s (k + i) = f i
theorem Sourced.later {q : Nat} (h : Sourced s ag a k f p n) (hq : p ≤ q) : Sourced s ag a k f q n := fun i hi => h i (hq.trans hi)
theorem readBeat_run {m : Nat} (h : Sourced s ag a k f p n) (ha : p < n → 0x110000 ≤ a) (hm : 0 < m) (hn : p + m ≤ n) :
    readBeat ag lvl (a + p) m s = some (stretch f p m, s) := by
  have hr : rdBytes s ag (a + p) (stretch f p m).length = some (stretch f p m) := rdBytes_run _ _ fun i hi => by
    rw [length_stretch] at hi
    obtain ⟨hk, hb⟩ := h (p + i) (Nat.le_add_right p i) (by omega)
    exact ⟨k + (p + i), by rw [Nat.add_assoc]; exact hk, by rw [getD_stretch hi, hb]⟩
  have ha' := ha (by omega)
  rw [length_stretch] at hr
  rw [readBeat, if_neg (by omega), hr]
  rfl
/-- What the source held before the transfer is what it holds now when nothing is written in between. -/
theorem readFlow_run {m : Nat} (hold : old.getD s = s) (h : Sourced s ag a k f p n) (ha : p < n → 0x110000 ≤ a) (hm : 0 < m) (hn : p + m ≤ n) :
    readFlow ag lvl old (a + p) m s = some (stretch f p m, s) := by
  have hr := readBeat_run (lvl := lvl) h ha hm hn
  cases old with
  | none => exact hr
  | some s0 =>
    obtain rfl : s0 = s := hold
    simp [readFlow, hr]
/-- Reads fetch the bytes of the source in order, as many as the next write beat needs. -/
theorem fillTo_run {rs : List (Nat × Nat)} {m q : Nat} (hold : old.getD s = s) (h : Sourced s ag a k f p n) (ha : p < n → 0x110000 ≤ a)
    (hc : Covers rs (a + p) (n - p)) (hq : q ≤ p) (hp : p ≤ n) : ∃ p' rs', fillTo ag lvl old m rs (stretch f q (p - q)) s = (stretch f q (p' - q), rs', none, s) ∧
      p ≤ p' ∧ p' ≤ n ∧ Covers rs' (a + p') (n - p') ∧ (q + m ≤ n → q + m ≤ p') := by
  induction rs generalizing p with
  | nil =>
    have hn : n - p = 0 := hc
    exact ⟨p, [], rfl, Nat.le_refl p, hp, hc, fun _ => by omega⟩
  | cons r rs ih =>
    obtain ⟨b, c⟩ := r
    unfold fillTo
    split
    · next hm =>
      rw [length_stretch] at hm
      exact ⟨p, _, rfl, Nat.le_refl p, hp, hc, fun _ => by omega⟩
    · obtain ⟨rfl, hpos, hle, hc'⟩ := hc
      have hnext : stretch f q (p - q) ++ stretch f p c = stretch f q (p + c - q) := by
        rw [show p + c - q = (p - q) + c by omega, ← stretch_append, show q + (p - q) = p by omega]
      rw [readFlow_run hold h ha hpos (by omega)]
      simp only [hnext]
      rw [Nat.add_assoc, Nat.sub_sub] at hc'
      obtain ⟨p', rs', hf, hpp, hpn, hcov, hm⟩ := ih (h.later (Nat.le_add_right p c)) (fun hlt => ha (by omega)) hc' (by omega) (by omega)
      exact ⟨p', rs', hf, by omega, hpn, hcov, hm⟩
theorem readBeats_run {rs : List (Nat × Nat)} {m : Nat} (hold : old.getD s = s) (h : Sourced s ag a k f p n) (ha : p < n → 0x110000 ≤ a)
    (hc : Covers rs (a + p) m) (hm : p + m ≤ n) : readBeats ag lvl old rs s = (stretch f p m, none, s) := by
  induction rs generalizing p m with
  | nil =>
    have hz : m = 0 := hc
    rw [hz]
    rfl
  | cons r rs ih =>
    obtain ⟨b, c⟩ := r
    obtain ⟨rfl, hpos, hle, hc'⟩ := hc
    rw [Nat.add_assoc] at hc'
    have hrest := ih (h.later (Nat.le_add_right p c)) (fun hlt => ha (by omega)) hc' (by omega)
    have hall : stretch f p c ++ stretch f (p + c) (m - c) = stretch f p m := by rw [stretch_append, show c + (m - c) = m by omega]
    rw [readBeats, readFlow_run hold h ha hpos (by omega)]
    simp only [hrest, hall]
end

/-! Writes. -/
/-- Nothing has changed but memory, the corrections noted of it and the flag of R5. -/
def WritesOnly (s u : State) : Prop := ∃ m corr r, u = { s with mem := m, memc := { s.memc with corr := corr }, reg := { s.reg with rsvd := r } }
theorem WritesOnly.refl (s : State) : WritesOnly s s := ⟨s.mem, s.memc.corr, s.reg.rsvd, rfl⟩
theorem WritesOnly.trans {s u w : State} (h : WritesOnly s u) (h' : WritesOnly u w) : WritesOnly s w := by
  obtain ⟨m, corr, r, rfl⟩ := h
  obtain ⟨m', corr', r', rfl⟩ := h'
  exact ⟨m', corr', r', rfl⟩
/-- A store where no uncorrectable error stands ends none. -/
theorem storeBytes_writesOnly {s : State} (ag : Agent) (lvl : Lvl) (a : Nat) (bs : List Byte) (hu : s.memc.upset = []) : WritesOnly s (storeBytes s ag lvl a bs) := by
  unfold storeBytes
  split
  · next k _ =>
    have hheal : healWords s k bs.length = s := by simp [healWords, hu]
    obtain ⟨corr, hcorr⟩ := dropCorr_eq s k bs.length
    obtain ⟨m, hm⟩ := wrBytes_eq ag lvl bs { s with memc := { s.memc with corr := corr } } a
    exact ⟨m, corr, s.reg.rsvd || touchesSend s k bs.length, by rw [hheal, hcorr, hm, rsvdIf_eq]⟩
  · obtain ⟨m, hm⟩ := wrBytes_eq ag lvl bs s a
    exact ⟨m, s.memc.corr, s.reg.rsvd, hm⟩
theorem partialUpset_calm {s : State} (ag : Agent) (lvl : Lvl) (a n : Nat) (hu : s.memc.upset = []) : partialUpset s ag lvl a n = false := by
  rw [partialUpset, List.any_eq_false]
  intro i _
  split <;> simp [isUpset, hu]

section
variable {ag : Agent} {lvl : Lvl} {a b k d n : Nat} {f : Nat → Byte}

/-- A destination: writable at address b, and its bytes lie at key d. -/
def Targeted (s : State) (ag : Agent) (lvl : Lvl) (b d n : Nat) : Prop := 0x110000 ≤ b ∧ ∀ i, i < n → wrKey s ag lvl (b + i) = some (d + i)
theorem Targeted.after {s u : State} (h : Targeted s ag lvl b d n) (hw : WritesOnly s u) : Targeted u ag lvl b d n := by
  obtain ⟨m, corr, r, rfl⟩ := hw
  exact h
/-- A write outside the source leaves it as it is. -/
theorem Sourced.after {s u : State} {p q m : Nat} (h : Sourced s ag a k f p n) (hw : WritesOnly s u) (hm : SameMemoryBut s u (d + q) m)
    (hd : ∀ i j, p ≤ i → i < n → j < n → k + i ≠ d + j) (hq : q + m ≤ n) : Sourced u ag a k f p n := fun i hp hi => by
  obtain ⟨hk, hb⟩ := h i hp hi
  refine ⟨?_, (hm _ fun hin => ?_).trans hb⟩
  · obtain ⟨m, corr, r, rfl⟩ := hw
    exact hk
  · exact hd i (k + i - d) hp hi (by omega) (by omega)
/-- One write beat. -/
theorem writeBeat_stretch {s : State} {q m : Nat} (h : Targeted s ag lvl b d n) (hu : s.memc.upset = []) (hq : q + m ≤ n) : ∃ u,
    writeBeat ag lvl (b + q) (stretch f q m) s = some u ∧ WritesOnly s u ∧ (∀ i, q ≤ i → i < q + m → memGet u (d + i) = f i) ∧
      SameMemoryBut s u (d + q) m := by
  obtain ⟨hb, hk⟩ := h
  have hkeys : ∀ j, j < (stretch f q m).length → wrKey s ag lvl (b + q + j) = some (d + q + j) := fun j hj => by
    rw [length_stretch] at hj
    rw [Nat.add_assoc, Nat.add_assoc]
    exact hk (q + j) (by omega)
  obtain ⟨hget, hsame⟩ := storeBytes_run hkeys
  rw [length_stretch] at hget hsame
  refine ⟨_, writeBeat_runs (by omega) hkeys (partialUpset_calm _ _ _ _ hu), storeBytes_writesOnly _ _ _ _ hu, fun i hqi hi => ?_, hsame⟩
  have hg := hget (i - q) (by omega)
  rwa [getD_stretch (by omega), show d + q + (i - q) = d + i by omega, show q + (i - q) = i by omega] at hg
/-- The writes of a channel put the bytes of its source in place, while the reads that they need find the source as it was. -/
theorem flow_run {s : State} {ws rs : List (Nat × Nat)} {q p : Nat} (hw : Covers ws (b + q) (n - q)) (hq : q ≤ p) (hp : p ≤ n) (hr : Covers rs (a + p) (n - p))
    (hs : Sourced s ag a k f p n) (ha : p < n → 0x110000 ≤ a) (ht : Targeted s ag lvl b d n) (hu : s.memc.upset = [])
    (hd : ∀ i j, p ≤ i → i < n → j < n → k + i ≠ d + j) : ∃ u,
      flow ag lvl none none ws q rs (stretch f q (p - q)) s = { out := stretch f q (n - q), held := [], beats := [], fail := none, st := u } ∧ WritesOnly s u ∧
        (∀ i, q ≤ i → i < n → memGet u (d + i) = f i) ∧ SameMemoryBut s u (d + q) (n - q) := by
  induction ws generalizing s rs q p with
  | nil =>
    have hz : n - q = 0 := hw
    obtain rfl : p = q := by omega
    rw [show n - p = 0 from hz] at hr
    rw [hr.nil, hz, Nat.sub_self]
    exact ⟨s, rfl, .refl s, fun i _ _ => by omega, fun _ _ => rfl⟩
  | cons w ws ih =>
    obtain ⟨c, m⟩ := w
    obtain ⟨rfl, hpos, hle, hw'⟩ := hw
    obtain ⟨p', rs', hfill, hpp, hpn, hcov, hreach⟩ := fillTo_run (lvl := lvl) (old := none) (m := m) rfl hs ha hr hq hp
    have hm : q + m ≤ p' := hreach (by omega)
    have htake : (stretch f q (p' - q)).take m = stretch f q m := take_stretch (by omega)
    have hdrop : (stretch f q (p' - q)).drop m = stretch f (q + m) (p' - (q + m)) := by rw [drop_stretch (by omega), Nat.sub_sub]
    have hne : (stretch f q m).isEmpty = false := by
      cases m with
      | zero => omega
      | succ m => simp [stretch, List.range_succ_eq_map]
    obtain ⟨u, hb, hwo, hget, hsame⟩ := writeBeat_stretch (f := f) ht hu (show q + m ≤ n by omega)
    rw [Nat.add_assoc, Nat.sub_sub] at hw'
    obtain ⟨v, hv, hvo, hvget, hvsame⟩ := ih hw' hm hpn hcov
      ((hs.later hpp).after hwo hsame (fun i j hi => hd i j (hpp.trans hi)) (by omega)) (fun hlt => ha (by omega)) (ht.after hwo)
      (by obtain ⟨_, _, _, rfl⟩ := hwo; exact hu) fun i j hi => hd i j (hpp.trans hi)
    refine ⟨v, ?_, hwo.trans hvo, fun i hqi hi => ?_, fun j hj => (hvsame j (by omega)).trans (hsame j (by omega))⟩
    · have hall : stretch f q m ++ stretch f (q + m) (n - (q + m)) = stretch f q (n - q) := by rw [stretch_append, show m + (n - (q + m)) = n - q by omega]
      simp only [flow, hfill, htake, hne, blur, hb, hdrop, length_stretch, hv, hall, Bool.false_eq_true, if_false, Option.isSome_none]
    · rcases Nat.lt_or_ge i (q + m) with h | h
      · exact (hvsame _ (by omega)).trans (hget i hqi h)
      · exact hvget i h hi
end

end Sys2Proof.Machine
end

section
/-! What an advance of a channel leaves (R209, R214, R217, R228): the bytes that it moves and the channel with its new offsets. -/
namespace Sys2Proof.Machine

/-! Advances. -/
section
variable {s : State} {k : Nat} {x : Xfer} {f : Nat → Byte}

theorem dstPlan_plain (hn : toData x = false) (hd : x.drop = false) (hl : x.dstList = false) (hf : x.fd = false) :
    dstPlan s k x = ([{ addr := x.dst.toNat, len := x.count, w := 0 }], none) := by simp [dstPlan, sidePlan, hn, hd, hl, hf]
theorem srcPlan_plain (hn : fromData x = false) (hl : x.srcList = false) (hf : x.fs = false) :
    srcPlan s k x = ([{ addr := x.src.toNat, len := x.count, w := 0 }], none) := by simp [srcPlan, sidePlan, hn, hl, hf]
/-- The read beats of an advance to offset rd. -/
abbrev advanceBeats (s : State) (k : Nat) (x : Xfer) (rd : Nat) : List (Nat × Nat) := if fromData x ∨ rd ≤ x.read then [] else planBeats (srcPlan s k x).1 x.read rd
/-- The bytes of a unit, which the channel holds, that an advance to offset rd takes. -/
abbrev advanceGiven (x : Xfer) (rd : Nat) : List Byte := if fromData x then (x.data.drop x.read).take (rd - x.read) else []
/-- An advance whose writes meet no error, nor the reads that follow them. -/
theorem advance_of_flow {rd wr : Nat} {y : Flow} {more : List Byte} {u : State} (hn : toData x = false) (hx : x.drop = false)
    (hflow : flow (chanAgent k x) x.lvl (overlapAt s k x) ((overlapAt s k x).map fun _ => s)
      (planBeats (dstPlan s k x).1 (written x) (Nat.min wr (written x + x.kept.length + (rd - x.read)))) (written x) (advanceBeats s k x rd)
        (x.kept ++ advanceGiven x rd) s = y) (hf : y.fail = none)
    (hr : readBeats (chanAgent k x) x.lvl ((overlapAt s k x).map fun _ => s) y.beats y.st = (more, none, u)) :
    advance s k x rd wr = (u, (y.out ++ (y.held ++ more)).drop x.kept.length, y.out, none) := by
  simp only [advance, hn, hx, Bool.or_self, Bool.false_eq_true, if_false, List.append_nil, hflow, hf, hr, Option.isSome_none, Option.none_or]
/-- A channel that stands at its start and goes to its end: p bytes of a unit it holds, and its read beats cover the rest of its source. -/
theorem advance_copies {a ks kd p : Nat} (hn : toData x = false) (hx : x.drop = false) (hl : x.dstList = false) (hf : x.fd = false) (hw : written x = 0)
    (hk : x.kept = []) (hr : x.read = 0) (hlap : overlapAt s k x = none) (hgiven : advanceGiven x x.count = stretch f 0 p)
    (hbeats : Covers (advanceBeats s k x x.count) (a + p) (x.count - p)) (hp : p ≤ x.count)
    (hs : Sourced s (chanAgent k x) a ks f p x.count) (ha : p < x.count → 0x110000 ≤ a) (ht : Targeted s (chanAgent k x) x.lvl x.dst.toNat kd x.count)
    (hu : s.memc.upset = []) (hd : ∀ i j, p ≤ i → i < x.count → j < x.count → ks + i ≠ kd + j) : ∃ u,
      advance s k x x.count x.count = (u, stretch f 0 x.count, stretch f 0 x.count, none) ∧ WritesOnly s u ∧
        (∀ i, i < x.count → memGet u (kd + i) = f i) ∧ SameMemoryBut s u kd x.count := by
  have hplan : Covers (planBeats (dstPlan s k x).1 0 x.count) (x.dst.toNat + 0) (x.count - 0) := by
    rw [dstPlan_plain hn hx hl hf]
    exact covers_planBeats (Nat.zero_le _) (Nat.le_refl _)
  obtain ⟨u, hflow, hwo, hget, hsame⟩ := flow_run (q := 0) hplan (Nat.zero_le p) hp hbeats hs ha ht hu hd
  refine ⟨u, ?_, hwo, fun i hi => hget i (Nat.zero_le i) hi, hsame⟩
  have hmin : Nat.min x.count (written x + x.kept.length + (x.count - x.read)) = x.count := by simp [hw, hk, hr]
  have hbuf : x.kept ++ advanceGiven x x.count = stretch f 0 (p - 0) := by rw [hk, hgiven]; rfl
  rw [Nat.sub_zero] at hflow
  have h := advance_of_flow (rd := x.count) (wr := x.count) (more := []) (y := { out := stretch f 0 x.count, st := u }) hn hx
    (by rw [hmin, hbuf, hw, hlap]; exact hflow) rfl rfl
  simpa [hk] using h
/-- A channel that writes nothing more: it reads to offset rd. -/
theorem advance_reads {a ks rd : Nat} (hn : toData x = false) (hd : fromData x = false) (hx : x.drop = false)
    (hbeats : Covers (advanceBeats s k x rd) (a + x.read) (rd - x.read)) (hrd : x.read ≤ rd) (hs : Sourced s (chanAgent k x) a ks f x.read rd)
    (ha : x.read < rd → 0x110000 ≤ a) : advance s k x rd (written x) = (s, stretch f x.read (rd - x.read), [], none) := by
  have hmin : Nat.min (written x) (written x + x.kept.length + (rd - x.read)) = written x := Nat.min_eq_left (by omega)
  have hold : ((overlapAt s k x).map fun _ => s).getD s = s := by cases overlapAt s k x <;> rfl
  have hgiven : advanceGiven x rd = [] := by simp [hd]
  have h := advance_of_flow (rd := rd) (wr := written x) (y := { held := x.kept, beats := advanceBeats s k x rd, st := s }) hn hx
    (by rw [hmin, planBeats_nothing, hgiven, List.append_nil]; rfl) rfl (readBeats_run hold hs ha hbeats (by omega))
  simpa using h
/-- A channel that is told to go no further moves nothing. -/
theorem advance_rests (hn : toData x = false) (hd : fromData x = false) (hk : x.kept = []) (hw : x.read = written x) :
    advance s k x x.read x.read = (s, [], [], none) := by
  cases hx : x.drop with
  | true => simp [advance, hn, hd, hx, hk, readBeats]
  | false =>
    have h := advance_reads (f := fun _ => 0) (a := 0) (ks := 0) hn hd hx (s := s) (k := k) (rd := x.read)
      (by rw [advanceBeats, if_pos (.inr (Nat.le_refl _)), Nat.sub_self]; rfl) (Nat.le_refl _) (fun i _ _ => by omega) fun h => absurd h (Nat.lt_irrefl _)
    rw [← hw, Nat.sub_self] at h
    exact h

/-! Credit (R225). -/
theorem limCharge_eq (s : State) (k : Nat) (x : Xfer) (n : Nat) : ∃ l : Sparse Nat, limCharge s k x n = { s with mov := { s.mov with cred := l } } := by
  unfold limCharge
  refine List.foldlRecOn _ _ (motive := fun u => ∃ l : Sparse Nat, u = { s with mov := { s.mov with cred := l } }) ⟨s.mov.cred, rfl⟩ fun u hu l _ => ?_
  obtain ⟨c, rfl⟩ := hu
  dsimp only
  split
  · exact ⟨_, rfl⟩
  · exact ⟨c, rfl⟩
theorem limCharge_free {n : Nat} (h : limiters s k x = []) : limCharge s k x n = s := by rw [limCharge, h]; rfl
theorem limReach_free {e : Nat} (h : limiters s k x = []) : limReach s k x e = e := by rw [limReach, h]; rfl

/-! Progress (R209, R228). -/
/-- The channel after an advance that read some bytes and wrote some. -/
def progressed (x : Xfer) (new wrote : List Byte) : Xfer :=
  { x with read := x.read + new.length, left := x.left - wrote.length, kept := (x.kept ++ new).drop wrote.length, data := if toData x then x.data ++ wrote else x.data }
theorem progressed_nothing (hn : toData x = false) : progressed x [] [] = x := by
  unfold progressed
  rw [hn]
  simp
/-- The CRC of the run of a step has gone on, where there is a run. -/
def RunNoted (s u : State) (c : CtxId) : Prop :=
  (thrOf s (.ctx c)).run = none ∧ u = s ∨
    ∃ r v, (thrOf s (.ctx c)).run = some r ∧ u = setThr s (.ctx c) { thrOf s (.ctx c) with run := some { r with crc := v } }
theorem progress_move {t : Thread} {rd wr : Nat} {u : State} {new wrote : List Byte} (h : advance s k x rd wr = (u, new, wrote, none))
    (ho : ownerThread k = some t) (hm : x.kind = .move) (hl : limiters u k x = []) :
    progress s k x rd wr = (moveRegs (setChan u k (progressed x new wrote)) t x wrote, progressed x new wrote, none) := by
  simp only [progress, h, limCharge_free hl, ho, if_pos hm]
  rfl
theorem progress_step {c : CtxId} {rd wr : Nat} {u : State} {new wrote : List Byte} (h : advance s k x rd wr = (u, new, wrote, none))
    (ho : ownerThread k = some (.ctx c)) (hm : x.kind ≠ .move) (hi : isPortInstr x = false) : ∃ (l : Sparse Nat) (v : State),
      RunNoted (setChan { u with mov := { u.mov with cred := l } } k (progressed x new wrote)) v c ∧ progress s k x rd wr = (v, progressed x new wrote, none) := by
  obtain ⟨l, hl⟩ := limCharge_eq u k x (issued s k x rd new.length none)
  cases hrun : (thrOf (setChan { u with mov := { u.mov with cred := l } } k (progressed x new wrote)) (.ctx c)).run with
  | none =>
    refine ⟨l, _, .inl ⟨hrun, rfl⟩, ?_⟩
    unfold progressed at hrun
    simp only [progress, h, hl, ho, if_neg hm, hi, hrun, Bool.false_eq_true, if_false]
    rfl
  | some r =>
    refine ⟨l, _, .inr ⟨r, BitVec.ofNat 32 (crcFold r.crcsel r.crc.toNat new), hrun, rfl⟩, ?_⟩
    unfold progressed at hrun
    simp only [progress, h, hl, ho, if_neg hm, hi, hrun, Bool.false_eq_true, if_false]
    rfl
end

end Sys2Proof.Machine
end

section
/-! The table of channels (R205, R206, R216): what a grant leaves of a channel that has its entry, and how channels are preempted and paused. -/
namespace Sys2Proof.Machine

/-! The channels of one owner. -/
/-- The channels of owner key k. -/
def chansAt (s : State) (k : Nat) : List (Nat × Xfer) := s.mov.chans.filter fun e => e.1 = k
section
variable {s : State} {k : Nat}

theorem chanOf_eq_head (s : State) (k : Nat) : chanOf s k = (chansAt s k).head?.map (·.2) := by rw [chanOf, chansAt, List.head?_filter]
@[simp] theorem chansAt_setChan_same (s : State) (k : Nat) (x : Xfer) : chansAt (setChan s k x) k = [(k, x)] := by
  simp [chansAt, setChan, List.filter_filter]
@[simp] theorem chansAt_freeChan_same (s : State) (k : Nat) : chansAt (freeChan s k) k = [] := by simp [chansAt, freeChan, List.filter_filter]
theorem chansAt_setChan_other {j : Nat} (h : j ≠ k) (x : Xfer) : chansAt (setChan s j x) k = chansAt s k := by
  have hf : (s.mov.chans.filter fun e => decide (e.1 = k) && !decide (e.1 = j)) = s.mov.chans.filter fun e => e.1 = k :=
    List.filter_congr fun e _ => by by_cases he : e.1 = k <;> simp [he, h.symm]
  simpa [chansAt, setChan, List.filter_filter, h] using hf
theorem chansAt_freeChan_other {j : Nat} (h : j ≠ k) : chansAt (freeChan s j) k = chansAt s k := by
  have hf : (s.mov.chans.filter fun e => decide (e.1 = k) && !decide (e.1 = j)) = s.mov.chans.filter fun e => e.1 = k :=
    List.filter_congr fun e _ => by by_cases he : e.1 = k <;> simp [he, h.symm]
  simpa [chansAt, freeChan, List.filter_filter] using hf
@[simp] theorem chanOf_setChan_same (s : State) (k : Nat) (x : Xfer) : chanOf (setChan s k x) k = some x := by rw [chanOf_eq_head, chansAt_setChan_same]; rfl
theorem chanOf_setChan_other {j : Nat} (h : j ≠ k) (x : Xfer) : chanOf (setChan s j x) k = chanOf s k := by
  rw [chanOf_eq_head, chansAt_setChan_other h, ← chanOf_eq_head]

/-! Grants. -/
/-- The request that is granted next waits. -/
theorem nextGrant_waits {e : Nat × Xfer} (h : nextGrant s = some e) : e.2.granted = false := by
  have hall : ∀ f, nextGrant s = some f → f.2.granted = false := by
    unfold nextGrant
    refine List.foldlRecOn _ _ (motive := fun b => ∀ f : Nat × Xfer, b = some f → f.2.granted = false) (fun _ hf => by cases hf) fun b hb g hg f hf => ?_
    have hw := List.of_mem_filter hg
    rw [Bool.and_eq_true, Bool.not_eq_true'] at hw
    cases b with
    | none => exact Option.some.inj hf ▸ hw.1
    | some d =>
      dsimp only at hf
      split at hf
      · exact Option.some.inj hf ▸ hw.1
      · exact hb f hf
  exact hall e h
theorem chansAt_grantOne {e : Nat × Xfer} (hk : k < 0x80000) (he : e.1 ≠ k) : chansAt (grantOne s e.1 e.2) k = chansAt s k := by
  unfold grantOne
  split
  · have hf : ∀ l : List (Nat × Xfer), (l.map fun d => if d.1 = e.1 then (e.1, { e.2 with granted := true }) else d).filter (fun d => d.1 = k) =
        l.filter fun d => d.1 = k := fun l => by
      induction l with
      | nil => rfl
      | cons d l ih =>
        by_cases hd : d.1 = e.1
        · simp [hd, he, ih]
        · rw [List.map_cons, if_neg hd, List.filter_cons, List.filter_cons, ih]
    exact hf _
  · split
    · next i hi =>
      have hik := sctEntry_ge hi
      rw [chansAt_setChan_other (by omega), chansAt_freeChan_other he]
    · rfl
/-- A channel that has its entry keeps it. -/
theorem chansAt_grantN (hk : k < 0x80000) (n : Nat) (s : State) (hg : ∀ e ∈ chansAt s k, e.2.granted = true) : chansAt (grantN n s) k = chansAt s k := by
  induction n generalizing s with
  | zero => rfl
  | succ n ih =>
    unfold grantN
    split
    · rfl
    · next i x hn =>
      have hne : i ≠ k := fun e => by
        have hmem : (i, x) ∈ chansAt s k := List.mem_filter.mpr ⟨nextGrant_mem hn, decide_eq_true e⟩
        exact Bool.false_ne_true ((nextGrant_waits hn).symm.trans (hg _ hmem))
      have hone := chansAt_grantOne (s := s) (e := (i, x)) hk hne
      rw [ih _ (hone ▸ hg), hone]
/-- A paused channel has no mover. -/
theorem chansAt_bindMovers (hp : ∀ e ∈ chansAt s k, e.2.paused = true) :
    chansAt (bindMovers s) k = (chansAt s k).map fun e => (e.1, { e.2 with running := false }) := by
  simp only [chansAt, bindMovers, List.filter_map, List.map_map]
  refine List.map_congr_left fun e he => ?_
  have hpe := hp e he
  simp [keepsMover, chanReady, hpe]
theorem chansAt_grantAll (hk : k < 0x80000) (h : ∀ e ∈ chansAt s k, e.2.granted = true ∧ e.2.paused = true) :
    chansAt (grantAll s) k = (chansAt s k).map fun e => (e.1, { e.2 with running := false }) := by
  have hg := chansAt_grantN hk s.mov.chans.length s fun e he => (h e he).1
  rw [grantAll, chansAt_bindMovers (hg ▸ fun e he => (h e he).2), hg]
/-- A paused channel stays with its entry, without a mover. -/
theorem chanOf_grantAll_paused {x : Xfer} (hk : k < 0x80000) (hg : x.granted = true) (hp : x.paused = true) :
    chanOf (grantAll (setChan s k x)) k = some { x with running := false } := by
  rw [chanOf_eq_head, chansAt_grantAll hk fun e he => ?_, chansAt_setChan_same]
  · rfl
  · rw [chansAt_setChan_same] at he
    rw [List.mem_singleton.mp he]
    exact ⟨hg, hp⟩
/-- A channel that is freed is gone. -/
theorem chanOf_grantAll_freed (hk : k < 0x80000) : chanOf (grantAll (freeChan s k)) k = none := by
  have hnone := chansAt_freeChan_same s k
  rw [chanOf_eq_head, chansAt_grantAll hk fun e he => absurd (hnone ▸ he) (List.not_mem_nil), hnone]
  rfl
/-- A grant changes the entries alone, and ends no more than a command that waits for a channel. -/
def GrantsOnly (s u : State) : Prop := ∃ l b, u = { s with mov := { s.mov with chans := l, cmdBusy := s.mov.cmdBusy && b } }
theorem GrantsOnly.refl (s : State) : GrantsOnly s s := ⟨s.mov.chans, true, by rw [Bool.and_true]⟩
theorem GrantsOnly.trans {s u w : State} (h : GrantsOnly s u) (h' : GrantsOnly u w) : GrantsOnly s w := by
  obtain ⟨l, b, rfl⟩ := h
  obtain ⟨l', b', rfl⟩ := h'
  exact ⟨l', b && b', by rw [← Bool.and_assoc]⟩
theorem grantsOnly_chans (s : State) (l : List (Nat × Xfer)) : GrantsOnly s { s with mov := { s.mov with chans := l } } := ⟨l, true, by rw [Bool.and_true]⟩
theorem grantsOnly_freeChan (s : State) (k : Nat) : GrantsOnly s (freeChan s k) := ⟨_, _, rfl⟩
theorem grantsOnly_grantOne (s : State) (k : Nat) (x : Xfer) : GrantsOnly s (grantOne s k x) := by
  unfold grantOne
  split
  · exact grantsOnly_chans s _
  · split
    · exact (grantsOnly_freeChan s k).trans (grantsOnly_chans _ _)
    · exact .refl s
theorem grantsOnly_grantN (n : Nat) (s : State) : GrantsOnly s (grantN n s) := by
  induction n generalizing s with
  | zero => exact .refl s
  | succ n ih =>
    unfold grantN
    split
    · exact .refl s
    · exact (grantsOnly_grantOne s _ _).trans (ih _)
theorem grantsOnly_grantAll (s : State) : GrantsOnly s (grantAll s) := (grantsOnly_grantN _ s).trans (grantsOnly_chans _ _)
end

end Sys2Proof.Machine
end

section
/-! Channels of steps that are preempted, paused and stopped (R214, R216 to R219). -/
namespace Sys2Proof.Machine

/-! The owner of a channel (R205). -/
theorem ownerThread_tkey (t : Thread) : ownerThread (tkey t) = some t := by
  cases t with
  | ctx c =>
    have hc := c.isLt
    change ownerThread c.toNat = _
    rw [ownerThread, isCtxKey, decide_eq_true (by omega), if_pos rfl, BitVec.ofNat_toNat, BitVec.setWidth_eq]
  | mp n =>
    have hn := n.isLt
    have hk : BitVec.ofNat 2 (0x40000 + n.toNat) = n := by
      apply BitVec.eq_of_toNat_eq
      rw [BitVec.toNat_ofNat]
      omega
    change ownerThread (0x40000 + n.toNat) = _
    rw [ownerThread, isCtxKey, decide_eq_false (by omega), if_neg Bool.false_ne_true, if_pos (by omega), hk]
theorem tkey_ctx_lt (c : CtxId) : c.toNat < 0x80000 := tkey_lt (.ctx c)

/-! What a channel that moves no more leaves of its transfer. -/
section
variable {s : State} {k : Nat} {x : Xfer}

theorem limReach_here (hd : fromData x = false) : limReach s k x x.read = x.read := by
  unfold limReach
  split
  · rfl
  · simp [readPlan, hd, planBeats_nothing]
theorem beatEnd_here (hd : fromData x = false) : beatEnd s k x x.read = x.read := by simp [beatEnd, hd]
theorem noteWatch_step (hm : x.kind ≠ .move) (e : Nat) : noteWatch s k x e = (s, none) := by simp [noteWatch, moveWatch, hm]
/-- Both interfaces are in service and no uncorrectable error stands (R215, R440). -/
def Calm (s : State) : Prop := (memIf s false).retraining = false ∧ (memIf s true).retraining = false ∧ s.memc.upset = []
theorem chanStalled_calm (h : Calm s) (e : Nat) : chanStalled s k x e = false := by
  obtain ⟨h0, h1, -⟩ := h
  simp [chanStalled, h0, h1]
theorem reach_plain (hs : x.srcList = false) (hd : x.dstList = false) : reach s k x = (x.count, none) := by
  have h1 : (srcPlan s k x).2 = none := by
    unfold srcPlan
    split
    · rfl
    · simp [sidePlan, hs]
  have h2 : (dstPlan s k x).2 = none := by
    unfold dstPlan
    split
    · rfl
    · simp [sidePlan, hd]
  simp [reach, h1, h2]
end

/-! The CRC of a run (R228). -/
section
variable {s u : State} {c : CtxId}

theorem RunNoted.frame {α : Type} (f : State → α) (h : RunNoted s u c) (hf : ∀ x, f (setThr s (.ctx c) x) = f s) : f u = f s := by
  obtain ⟨-, rfl⟩ | ⟨r, v, -, rfl⟩ := h
  · rfl
  · exact hf _
theorem RunNoted.regsOf (h : RunNoted s u c) (v : Thread) : regsOf u v = regsOf s v := h.frame (Machine.regsOf · v) fun _ => regsOf_setThr _ _ _ _
theorem RunNoted.mov (h : RunNoted s u c) : u.mov = s.mov := h.frame State.mov fun _ => rfl
theorem RunNoted.liveOf (h : RunNoted s u c) (d : CtxId) : liveOf u d = liveOf s d := h.frame (Machine.liveOf · d) fun _ => rfl
theorem RunNoted.sameMemory (h : RunNoted s u c) : SameMemory s u := fun j => h.frame (memGet · j) fun _ => rfl
theorem RunNoted.settled (h : RunNoted s u c) (hs : Settled s) : Settled u := (h.frame Settled fun _ => rfl) ▸ hs
/-- Beside the run, what the device keeps for the context is the same. -/
theorem RunNoted.thr (h : RunNoted s u c) : ∃ r, thrOf u (.ctx c) = { thrOf s (.ctx c) with run := r } := by
  obtain ⟨-, rfl⟩ | ⟨r, v, -, rfl⟩ := h
  · exact ⟨_, rfl⟩
  · exact ⟨_, thrOf_setThr_same _ _ _⟩
end

/-! Preemption (R216, R217). -/
section
variable {s : State} {c : CtxId} {x z : Xfer} {ks rd : Nat} {w : Owner}

theorem takesMover_ne (h : takesMover s (okey w) c.toNat z x = true) (hz : chanOf s (okey w) = some z) (hx : chanOf s c.toNat = some x) :
    okey w ≠ c.toNat := fun e => by
  rw [e, hx] at hz
  cases hz
  have hrun : x.running = true ∧ x.running = false := by
    simp only [takesMover, hasMover, Bool.and_eq_true, Bool.not_eq_true'] at h
    exact ⟨h.1.1.1.1.2.1, h.1.1.1.1.1.2⟩
  exact Bool.false_ne_true (hrun.2.symm.trans hrun.1)
/-- The mover goes from the victim to the winner. -/
theorem handMover_swaps {y : Xfer} {wk : Nat} (hne : wk ≠ k) (hz : chanOf s wk = some z) :
    handMover s wk k y = setChan (setChan { s with stamp := s.stamp + 1 } k { y with age := s.stamp, running := false }) wk { z with running := true } := by
  have hz' : chanOf (setChan { s with stamp := s.stamp + 1 } k { y with age := s.stamp, running := false }) wk = some z :=
    (chanOf_setChan_other hne.symm _).trans hz
  simp only [handMover, nextStamp, hz']
/-- The victim of a preemption reads to offset rd and keeps what it has not written. -/
theorem channelPreempt_keeps (hs : Settled s) (hz : chanOf s (okey w) = some z) (hx : chanOf s c.toNat = some x)
    (htake : takesMover s (okey w) c.toNat z x = true) (hl : limiters s c.toNat x = []) (hcalm : Calm s) (hk : x.kind = .moveMem) (hreq : x.req = none)
    (hsl : x.srcList = false) (hdl : x.dstList = false) (hfs : x.fs = false) (hdr : x.drop = false) (hrd : x.read ≤ rd ∧ rd ≤ x.count)
    (hwr : written x ≤ rd ∧ rd - written x ≤ 128) (hat : atBeat (srcPlan s c.toNat x).1 x.read rd = true) (ha : 0x110000 ≤ x.src.toNat)
    (hsrc : ∀ i, i < x.count → rdKey s (chanAgent c.toNat x) (x.src.toNat + i) = some (ks + i)) : let u := channelPreempt w (.ctx c) rd (written x) s
      chanOf u c.toNat = some { x with
        read := rd, age := s.stamp, running := false, kept := x.kept ++ (List.range (rd - x.read)).map fun i => memGet s (ks + x.read + i) } ∧
        chanOf u (okey w) = some { z with running := true } ∧ (∀ j, j ≠ c.toNat → j ≠ okey w → chanOf u j = chanOf s j) ∧
        imr u (aMOV + 0x20) = satAdd (imr s (aMOV + 0x20)) 1 ∧ (∀ v, regsOf u v = regsOf s v) ∧ (∀ d, liveOf u d = liveOf s d) ∧ SameMemory s u := by
  have hne := takesMover_ne htake hz hx
  have htd : toData x = false := by simp [toData, hk]
  have hfd : fromData x = false := by simp [fromData, hk]
  have hnm : x.kind ≠ .move := by simp [hk]
  have hbeats : Covers (advanceBeats s c.toNat x rd) (x.src.toNat + x.read) (rd - x.read) := by
    rw [advanceBeats, srcPlan_plain hfd hsl hfs]
    split
    · next h =>
      rw [hfd] at h
      show rd - x.read = 0
      simp at h
      omega
    · exact covers_planBeats hrd.1 hrd.2
  have hadv := advance_reads (f := fun i => memGet s (ks + i)) htd hfd hdr hbeats hrd.1 (fun i _ hi => ⟨hsrc i (by omega), rfl⟩) fun _ => ha
  obtain ⟨l, v, hv, hp⟩ := progress_step hadv (ownerThread_tkey (.ctx c)) hnm (by simp [isPortInstr, hk])
  let y := progressed x (stretch (fun i => memGet s (ks + i)) x.read (rd - x.read)) []
  have hy : y = { x with read := rd, kept := x.kept ++ (List.range (rd - x.read)).map fun i => memGet s (ks + x.read + i) } := by
    simp only [y, progressed, htd, length_stretch, List.length_nil, Nat.sub_zero, List.drop_zero, Bool.false_eq_true, if_false,
      show x.read + (rd - x.read) = rd by omega]
    simp only [stretch, Nat.add_assoc]
  have hvz : chanOf v (okey w) = some z := by
    rw [chanOf, hv.mov]
    exact (chanOf_setChan_other hne.symm _).trans hz
  have hvo : ∀ j, j ≠ c.toNat → chanOf v j = chanOf s j := fun j hj => by
    rw [chanOf, hv.mov]
    exact chanOf_setChan_other hj.symm _
  have hvs : v.stamp = s.stamp := hv.frame State.stamp fun _ => rfl
  let h := setChan (setChan { v with stamp := v.stamp + 1 } c.toNat { y with age := v.stamp, running := false }) (okey w) { z with running := true }
  have hu : channelPreempt w (.ctx c) rd (written x) s = bump h (aMOV + 0x20) := by
    have hset : Settled (bump h (aMOV + 0x20)) := hv.settled hs
    have hhand : handMover v (okey w) c.toNat y = h := handMover_swaps hne hvz
    have hown : okey (.ctx c) = c.toNat := rfl
    have hstop : atBeat (dstPlan s c.toNat x).1 (written x) (written x) = true := by simp [atBeat]
    have hread : decide (x.read ≤ rd ∧ rd ≤ x.count) = true := decide_eq_true hrd
    have hkeep : decide (written x ≤ written x ∧ written x ≤ rd ∧ rd - written x ≤ 128) = true := decide_eq_true ⟨Nat.le_refl _, hwr⟩
    rw [channelPreempt, hown, hz, hx]
    simp only [htake, reach_plain hsl hdl, limReach_free hl, chanStalled_calm hcalm, hat, hstop, hread, hkeep, noteWatch_step hnm, hp, sctFrames, hreq]
    simp [y, hhand, settle_settled hset]
  have hmem : SameMemory s (bump h (aMOV + 0x20)) := hv.sameMemory
  have hregs : ∀ t, regsOf (bump h (aMOV + 0x20)) t = regsOf v t := fun t => by cases t <;> rfl
  have hreg : v.reg = s.reg := hv.frame State.reg fun _ => rfl
  intro u
  rw [show u = bump h (aMOV + 0x20) from hu]
  refine ⟨?_, chanOf_setChan_same _ _ _, fun j hj hjw => ?_, ?_, fun t => ?_, fun d => hv.liveOf d, hmem⟩
  · refine (chanOf_setChan_other hne _).trans ((chanOf_setChan_same _ _ _).trans ?_)
    rw [hy, hvs]
  · exact (chanOf_setChan_other hjw.symm _).trans ((chanOf_setChan_other hj.symm _).trans (hvo j hj))
  · rw [imr_bump_same]
    exact congrArg (satAdd · 1) (by simp only [imr, hreg, h, setChan])
  · rw [hregs, hv.regsOf]
    cases t <;> rfl
end

/-! STOP (R218 to R221). -/
section
variable {s : State} {c : CtxId} {x : Xfer}

/-- A channel of a MOVE-MEM step that is stopped and has written what it has read. -/
structure StoppedAt (s : State) (c : CtxId) (x : Xfer) (why : Stop) : Prop where
  chan : chanOf s c.toNat = some x
  kind : x.kind = .moveMem
  why : x.stopping = some why
  kept : x.kept = []
  read : x.read = written x
  calm : Calm s
/-- A STOP of a channel that has written what it has read, without going further. -/
theorem stopEnd_here {why : Stop} (h : StoppedAt s c x why) : ∃ (l : Sparse Nat) (v : State),
    RunNoted (setChan { s with mov := { s.mov with cred := l } } c.toNat x) v c ∧
      stopEnd s c x .bulk x.read = stopPause { v with mov := { v.mov with cmdBusy := false, cmdRes := 0 } } c x none true ∧
      (s.mov.cmdCtx = c → stopEnd s c x .timed x.read = stopAbort { v with mov := { v.mov with cmdBusy := false, cmdRes := 0 } } c x none) := by
  obtain ⟨-, hk, -, hkept, hw, -⟩ := h
  have htd : toData x = false := by simp [toData, hk]
  have hfd : fromData x = false := by simp [fromData, hk]
  have hnm : x.kind ≠ .move := by simp [hk]
  have hadv := advance_rests (s := s) (k := c.toNat) htd hfd hkept hw
  obtain ⟨l, v, hv, hp⟩ := progress_step hadv (ownerThread_tkey (.ctx c)) hnm (by simp [isPortInstr, hk])
  rw [progressed_nothing htd] at hv hp
  have hmax : ∀ n, Nat.max x.read (Nat.min x.read n) = x.read := fun n => Nat.max_eq_left (Nat.min_le_left _ _)
  have hself : Nat.max x.read x.read = x.read := Nat.max_self _
  refine ⟨l, v, hv, ?_, fun hc => ?_⟩
  · simp only [stopEnd, hmax, beatEnd_here hfd, limReach_here hfd, noteWatch_step hnm, Option.getD_none, hself, hp]
  · have hvc : v.mov.cmdCtx = c := (congrArg Mov.cmdCtx hv.mov).trans hc
    simp only [stopEnd, hmax, beatEnd_here hfd, limReach_here hfd, noteWatch_step hnm, Option.getD_none, hself, hp, hvc, if_true]
theorem stopDone_ends {why : Stop} {rd : Nat} (h : StoppedAt s c x why) : stopDone c rd s = settle (stopEnd s c x why rd) := by
  simp only [stopDone, h.chan, h.why, chanStalled_calm h.calm, Bool.false_eq_true, if_false]
theorem liveOf_setSt_here {st : CtxState} {k : BitVec 4} (hst : stOf s c = st) (hk : (liveOf s c).waitk = k) (d : CtxId) :
    liveOf (setSt s c st k) d = liveOf s d := by
  by_cases hd : d = c
  · rw [hd, liveOf_setSt_same, ← hst, ← hk]
    rfl
  · exact (CtxOnly.setSt s c st k).live d hd
/-- A BULK channel is paused. -/
theorem stopDone_pauses (hs : Settled s) (hstop : StoppedAt s c x .bulk) (hg : x.granted = true)
    (hwait : stOf s c = .waiting → (liveOf s c).waitk = 6) : let u := stopDone c x.read s
      chanOf u c.toNat = some { x with paused := true, stopping := none, running := false } ∧ (chstOf u c).paused = true ∧ u.mov.cmdBusy = false ∧
        u.mov.cmdRes = 0 ∧ (∀ d, liveOf u d = liveOf s d) ∧ (∀ v, regsOf u v = regsOf s v) ∧ SameMemory s u := by
  obtain ⟨l, v, hv, hend, -⟩ := stopEnd_here hstop
  have hk := hstop.kind
  let w : State := setChst { v with mov := { v.mov with cmdBusy := false, cmdRes := 0 } } c { chstOf v c with paused := true }
  let r := if stOf v c = .waiting then setSt w c .waiting 6 else w
  have hlive : ∀ d, liveOf r d = liveOf s d := fun d => by
    have hst : stOf v c = stOf s c := congrArg Live.st (hv.liveOf c)
    refine Eq.trans ?_ (hv.liveOf d)
    simp only [r]
    split
    · next h => exact liveOf_setSt_here (s := w) h ((congrArg Live.waitk (hv.liveOf c)).trans (hwait (hst.symm.trans h))) d
    · rfl
  have hmov : r.mov = w.mov := by simp only [r]; split <;> rfl
  have hregs : ∀ t, regsOf r t = regsOf s t := fun t => by
    refine Eq.trans ?_ (hv.regsOf t)
    simp only [r]
    split <;> cases t <;> rfl
  have hmem : SameMemory s r := fun j => by
    refine Eq.trans ?_ (hv.sameMemory j)
    simp only [r]
    split <;> rfl
  have hset : Settled r := by
    have h := hv.settled hs
    simp only [r]
    split <;> exact h
  let y : Xfer := { x with paused := true, stopping := none }
  have hpause : stopEnd s c x .bulk x.read = grantAll (setChan r c.toNat y) := by
    have hnm : x.kind ≠ .move := by simp [hk]
    rw [hend, stopPause]
    exact if_neg hnm
  obtain ⟨ch, b, hga⟩ := grantsOnly_grantAll (setChan r c.toNat y)
  have hchan := chanOf_grantAll_paused (s := r) (x := y) (tkey_ctx_lt c) hg rfl
  intro u
  have hu : u = grantAll (setChan r c.toNat y) := by
    have h : Settled (grantAll (setChan r c.toNat y)) := by
      rw [hga]
      exact hset
    rw [← settle_settled h, ← hpause]
    exact stopDone_ends hstop
  have hcmd : (grantAll (setChan r c.toNat y)).mov = { w.mov with chans := ch, cmdBusy := false } := by
    rw [hga]
    simp [setChan, hmov, w, setChst]
  rw [hu]
  refine ⟨hchan, ?_, by rw [hcmd], by rw [hcmd]; rfl, fun d => ?_, fun t => ?_, fun j => ?_⟩
  · rw [chstOf, hcmd]
    simp [w, setChst]
  · rw [hga]
    exact hlive d
  · rw [hga]
    exact (by cases t <;> rfl : _ = regsOf r t).trans (hregs t)
  · rw [hga]
    exact hmem j
end

end Sys2Proof.Machine
end

section
/-! The end of a step whose channel has ended (R41, R43, R49, R177, R214, R220): its context has work again and its chain goes on. -/
namespace Sys2Proof.Machine

/-! A context that has work again (R177, R187). -/
section
variable {s : State} {c : CtxId}

theorem recOf_boundLvl (s : State) (c : CtxId) : ∃ sr cpl, recOf (boundLvl s c) c = { recOf s c with sr := sr, cpl := cpl } := by
  unfold boundLvl
  dsimp only
  split
  · exact ⟨_, _, rfl⟩
  · exact ⟨_, _, recOf_setRec_same _ _ _⟩
/-- A context that has work keeps its registers, but for a level above its ceiling. -/
theorem regsOf_becomeReady_own (s : State) (c : CtxId) : ∃ sr cpl, regsOf (becomeReady s c) (.ctx c) = { regsOf s (.ctx c) with sr := sr, cpl := cpl } := by
  by_cases h : inSlot s c = true → (slotRegs s c.toNat).isSome = true
  · exact ⟨_, _, regsOf_becomeReady h _⟩
  · obtain ⟨hi, hn⟩ := Classical.not_imp.mp h
    have hnone : slotRegs s c.toNat = none := by simpa using hn
    obtain ⟨sr, cpl, hb⟩ := recOf_boundLvl (nextStamp s).2 c
    have hload : withWork s c = loadRec (nextStamp s).2 c := by
      refine if_pos ?_
      show (inSlot s c && (slotRegs s c.toNat).isNone) = true
      rw [hi, hnone]
      rfl
    have hregs : regsOf (loadRec (nextStamp s).2 c) (.ctx c) = recOf (boundLvl (nextStamp s).2 c) c := by
      simp only [loadRec, regsOf, slotRegs_setSlotRegs_same, Option.getD_some]
    refine ⟨sr, cpl, ?_⟩
    rw [becomeReady_eq, if_pos hi, regsOf_setThr, regsOf_setSt, hload, hregs, hb, regsOf, hnone]
    rfl
theorem thrOf_becomeReady (s : State) (c : CtxId) : ∃ a b,
    thrOf (becomeReady s c) (.ctx c) = { thrOf s (.ctx c) with wait := none, pwait := none, resAt := a, readyAt := b } := by
  rw [becomeReady_eq]
  split
  · exact ⟨_, _, thrOf_setThr_same _ _ _⟩
  · exact ⟨_, _, thrOf_setThr_same _ _ _⟩
theorem GoesOn.congr {x y : Thr} (h : GoesOn x) (hc : y.cur = x.cur) (hw : y.wqMove = x.wqMove) : GoesOn y := by
  obtain ⟨h8, h9, h12, h13, h1, h5, hq⟩ := h
  refine ⟨?_, ?_, ?_, ?_, ?_, ?_, hw.trans hq⟩
  all_goals simpa only [stepFlag, stepAct, hc]

/-! The chain goes on. -/
theorem CtxOnly.goOn (s : State) (c : CtxId) (a : DWord) (keep skip : Bool) : CtxOnly s (goOn s c a keep skip) c :=
  (CtxOnly.setRegs s c _).trans (.setThr _ c _)
theorem goOn_fetches (s : State) (c : CtxId) (a : DWord) : let u := goOn s c a false false
    regsOf u (.ctx c) = { regsOf s (.ctx c) with stpa := a } ∧ (thrOf u (.ctx c)).phase = .fetch ∧ (thrOf u (.ctx c)).run = none ∧
      liveOf u c = liveOf s c := by
  have ht := thrOf_setThr_same (setRegs s (.ctx c) { regsOf s (.ctx c) with stpa := a }) (.ctx c) { thrOf (setRegs s (.ctx c) { regsOf s (.ctx c) with stpa := a })
    (.ctx c) with phase := .fetch, run := none, skip := false, wait := none }
  exact ⟨by simp [Machine.goOn], congrArg Thr.phase ht, congrArg Thr.run ht, by simp [Machine.goOn]⟩
theorem ctxEvent_eq (s : State) (c : CtxId) (kind reason : Nat) : ∃ l, ctxEvent s c kind reason = { s with evt := { s.evt with src := l } } := by
  have h : { ctxEvent s c kind reason with evt := { (ctxEvent s c kind reason).evt with src := [] } } = { s with evt := { s.evt with src := [] } } :=
    ctxEvent_frame (fun u : State => { u with evt := { u.evt with src := [] } }) s c kind reason fun _ => rfl
  exact ⟨(ctxEvent s c kind reason).evt.src, congrArg (fun u : State => { u with evt := { u.evt with src := (ctxEvent s c kind reason).evt.src } }) h⟩
/-- A chain has gone on by n bytes after a step that waited: its context has work, and nothing else but the event sources and the ages has changed. -/
structure ChainWentOn (s u : State) (c : CtxId) (n : DWord) : Prop where
  works : stOf u c = .ready ∨ stOf u c = .resident
  stpa : (regsOf u (.ctx c)).stpa = (regsOf s (.ctx c)).stpa + n
  phase : (thrOf u (.ctx c)).phase = .fetch
  run : (thrOf u (.ctx c)).run = none
  live : OtherLive s u c
  memory : SameMemory s u
  mov : u.mov = s.mov
  reg : u.reg = s.reg
  flt : u.flt = s.flt
  boot : u.boot = s.boot
theorem ChainWentOn.settled {u : State} {n : DWord} (h : ChainWentOn s u c n) (hs : Settled s) : Settled u := by
  rw [Settled, h.flt, h.boot]
  exact hs
theorem chainWentOn {s e : State} {c : CtxId} {l : Sparse EvSrc} (n : DWord) (he : e = { becomeReady s c with evt := { (becomeReady s c).evt with src := l } }) :
    ChainWentOn s (goOn e c ((regsOf (becomeReady s c) (.ctx c)).stpa + n) false false) c n := by
  obtain ⟨hr, hp, hn, hl⟩ := goOn_fetches e c ((regsOf (becomeReady s c) (.ctx c)).stpa + n)
  have hb : CtxOnly s (becomeReady s c) c := .becomeReady s c
  have hg := CtxOnly.goOn e c ((regsOf (becomeReady s c) (.ctx c)).stpa + n) false false
  obtain ⟨sr, cpl, hregs⟩ := regsOf_becomeReady_own s c
  have hlive : ∀ d, liveOf e d = liveOf (becomeReady s c) d := fun d => by rw [he]; rfl
  have hmem : SameMemory (becomeReady s c) e := fun j => by rw [he]; rfl
  have hrest : e.mov = (becomeReady s c).mov ∧ e.reg = (becomeReady s c).reg ∧ e.flt = (becomeReady s c).flt ∧ e.boot = (becomeReady s c).boot := by
    rw [he]
    exact ⟨rfl, rfl, rfl, rfl⟩
  obtain ⟨hmov, hreg, hflt, hboot⟩ := hrest
  refine ⟨?_, ?_, hp, hn, fun d hd => (hg.live d hd).trans ((hlive d).trans (hb.live d hd)), (hb.sameMemory.trans hmem).trans hg.sameMemory,
    hg.mov.trans (hmov.trans hb.mov), (hg.frame State.reg rfl).trans (hreg.trans (hb.frame State.reg rfl)),
    (hg.frame State.flt rfl).trans (hflt.trans (hb.frame State.flt rfl)), (hg.frame State.boot rfl).trans (hboot.trans (hb.frame State.boot rfl))⟩
  · rw [stOf, hl, hlive, ← stOf, (becomeReady_awake s c).1]
    split <;> simp
  · rw [hr, hregs]

/-! The end of a step that waited. -/
theorem finishWait_next (n : Nat) (hst : stOf s c = .waiting) (hg : GoesOn (thrOf s (.ctx c))) (h4 : stepAct (thrOf s (.ctx c)) ≠ 4)
    (hA : stepAct (thrOf s (.ctx c)) ≠ 0xA) : ChainWentOn s (finishWait s c 0 n 0) c 16 := by
  obtain ⟨a, b, ht⟩ := thrOf_becomeReady s c
  have hact : stepAct (thrOf (becomeReady s c) (.ctx c)) = stepAct (thrOf s (.ctx c)) := by rw [ht]; rfl
  have hgo : GoesOn (thrOf (becomeReady s c) (.ctx c)) := hg.congr (by rw [ht]) (by rw [ht])
  rw [finishWait, if_pos hst, finishStep_next n hgo (hact ▸ h4), stepSize_of_act (hact ▸ hA)]
  exact chainWentOn (l := (becomeReady s c).evt.src) 16 rfl
/-- A step that fails while REPA is 0, and does not mark its cell: its event fires and its chain goes on. -/
theorem finishWait_fails {st reason : Nat} (n : Nat) (hst : stOf s c = .waiting) (hg : GoesOn (thrOf s (.ctx c))) (hf : ∀ b, failed st b = true)
    (hm : st &&& (sBUS ||| sALIGN ||| sPROT ||| sCHAIN) = 0) (hr : (regsOf s (.ctx c)).repa = 0) : let u := finishWait s c st n reason
      ChainWentOn s u c (BitVec.ofNat 64 (stepSize (thrOf s (.ctx c)))) ∧
        Fired s u (evlOf s c) (BitVec.ofNat 32 (c.toNat + 0x100000 + reason * 0x1000000)) := by
  intro u
  let r := becomeReady s c
  obtain ⟨a, b, ht⟩ := thrOf_becomeReady s c
  obtain ⟨sr, cpl, hregs⟩ := regsOf_becomeReady_own s c
  have hgo : GoesOn (thrOf r (.ctx c)) := hg.congr (by rw [ht]) (by rw [ht])
  have hsize : stepSize (thrOf r (.ctx c)) = stepSize (thrOf s (.ctx c)) := by rw [ht]; rfl
  have hmark : markBad r c st = r := markBad_none hm
  have hrepa : (regsOf (markBad r c st) (.ctx c)).repa = 0 := by
    rw [hmark, hregs]
    exact hr
  obtain ⟨l, he⟩ := ctxEvent_eq r c 1 reason
  have hu : u = goOn (ctxEvent r c 1 reason) c ((regsOf r (.ctx c)).stpa + BitVec.ofNat 64 (stepSize (thrOf s (.ctx c)))) false false := by
    have h := finishStep_fails n reason hgo (hf _) hrepa
    rw [hmark, hsize] at h
    exact (congrArg (fun w => finishStep w c st n reason) (if_pos hst)).trans h
  have hb : CtxOnly s r c := .becomeReady s c
  have hevl : evlOf r c = evlOf s c := hb.frame (evlOf · c) rfl
  have hfire := ctxEvent_fired r c 1 reason
  rw [hevl] at hfire
  have hg := CtxOnly.goOn (ctxEvent r c 1 reason) c ((regsOf r (.ctx c)).stpa + BitVec.ofNat 64 (stepSize (thrOf s (.ctx c)))) false false
  refine ⟨?_, ?_⟩
  · rw [hu]
    exact chainWentOn _ he
  · rw [hu]
    exact hfire.congr (hb.frame (·.evt.src) rfl) (hb.frame (·.reg.tabA) rfl) (hb.frame State.time rfl) (hg.frame (·.evt.src) rfl)
end

/-! A STOP of a TIMED channel (R220). -/
section
variable {s : State} {c : CtxId} {x : Xfer}

/-- What the end of a step channel finds of the context once the channel is freed. -/
theorem freed_keeps (s : State) (k : Nat) : let u := grantAll (freeChan s k)
    (∀ v, regsOf u v = regsOf s v) ∧ (∀ v, thrOf u v = thrOf s v) ∧ (∀ d, liveOf u d = liveOf s d) ∧ SameMemory s u ∧ (∀ d, evlOf u d = evlOf s d) ∧
      u.reg = s.reg ∧ u.evt = s.evt ∧ u.time = s.time ∧ u.flt = s.flt ∧ u.boot = s.boot := by
  obtain ⟨l, b, h⟩ := (grantsOnly_freeChan s k).trans (grantsOnly_grantAll _)
  intro u
  rw [show u = _ from h]
  exact ⟨fun v => by cases v <;> rfl, fun _ => rfl, fun _ => rfl, fun _ => rfl, fun _ => rfl, rfl, rfl, rfl, rfl, rfl⟩
theorem freed_command (s : State) (k : Nat) : (grantAll (freeChan s k)).mov.cmdRes = s.mov.cmdRes ∧
    (s.mov.cmdBusy = false → (grantAll (freeChan s k)).mov.cmdBusy = false) := by
  obtain ⟨l, b, h⟩ := (grantsOnly_freeChan s k).trans (grantsOnly_grantAll _)
  rw [h]
  exact ⟨rfl, fun hb => by simp [hb]⟩
/-- A TIMED channel of a MOVE-MEM step is aborted: its step fails and its chain goes on. -/
theorem stopDone_aborts (hs : Settled s) (hstop : StoppedAt s c x .timed) (hcmd : s.mov.cmdCtx = c) (hst : stOf s c = .waiting)
    (hact : (thrOf s (.ctx c)).cur.lo.extractLsb' 0 8 = 0xA) (hsrc : (thrOf s (.ctx c)).src.lo.extractLsb' 0 8 = 0xB) (hn : HasNextOnly (thrOf s (.ctx c)))
    (hq : (thrOf s (.ctx c)).wqMove = none) (hr : (regsOf s (.ctx c)).repa = 0) : let u := stopDone c x.read s
      chanOf u c.toNat = none ∧ u.mov.cmdBusy = false ∧ u.mov.cmdRes = 0 ∧ imr u (aMOV + 0x24) = satAdd (imr s (aMOV + 0x24)) 1 ∧
        (stOf u c = .ready ∨ stOf u c = .resident) ∧ (regsOf u (.ctx c)).stpa = (regsOf s (.ctx c)).stpa + 32 ∧
        Fired s u (evlOf s c) (BitVec.ofNat 32 (c.toNat + 0x100000 + 0x18 * 0x1000000)) ∧ OtherLive s u c ∧ SameMemory s u := by
  obtain ⟨l, v, hv, -, hend⟩ := stopEnd_here hstop
  have hk := hstop.kind
  let w := bump { v with mov := { v.mov with cmdBusy := false, cmdRes := 0 } } (aMOV + 0x24)
  let f := grantAll (freeChan w c.toNat)
  have habort : stopEnd s c x .timed x.read = finishWait f c sABORT (stepCount (thrOf w (.ctx c)) - written x) 0x18 := by
    have hnm : x.kind ≠ .move := by simp [hk]
    have hni : x.kind ≠ .moveIn := by simp [hk]
    rw [hend hcmd]
    simp only [stopAbort, noteBus, Option.isSome_none, Bool.false_eq_true, if_false, if_neg hnm, stepChanEnd, if_neg hni, Nat.add_zero]
    rfl
  obtain ⟨hfr, hft, hfl, hfm, hfe, hfreg, hfevt, hftime, hfflt, hfboot⟩ := freed_keeps w c.toNat
  obtain ⟨hres, hbusy⟩ := freed_command w c.toNat
  obtain ⟨r, hvt⟩ := hv.thr
  have hthr : thrOf f (.ctx c) = { thrOf s (.ctx c) with run := r } := (hft _).trans hvt
  have hgo : GoesOn (thrOf f (.ctx c)) := by
    have ha : stepAct (thrOf s (.ctx c)) = 0xA := by rw [stepAct_eq, hact]; rfl
    exact (hn.goesOn (by rw [ha]; decide) (by rw [ha]; decide) hq).congr (by rw [hthr]) (by rw [hthr])
  have hsize : stepSize (thrOf f (.ctx c)) = 32 := by
    rw [hthr, stepSize, if_pos]
    refine ⟨?_, ?_⟩
    · show stepAct (thrOf s (.ctx c)) = 0xA
      rw [stepAct_eq, hact]
      rfl
    · show fld (thrOf s (.ctx c)).src.lo 0 8 = 0xB
      rw [fld_eq_extract, hsrc]
      rfl
  have hlive : ∀ d, liveOf f d = liveOf s d := fun d => (hfl d).trans (hv.liveOf d)
  have hregs : regsOf f (.ctx c) = regsOf s (.ctx c) := (hfr _).trans ((by rfl : _ = regsOf v (.ctx c)).trans (hv.regsOf _))
  obtain ⟨hchain, hfired⟩ := finishWait_fails (reason := 0x18) (stepCount (thrOf w (.ctx c)) - written x) ((congrArg Live.st (hlive c)).trans hst) hgo
    (st := sABORT) (by decide) (by decide) (hregs ▸ hr)
  intro u
  have hu : u = finishWait f c sABORT (stepCount (thrOf w (.ctx c)) - written x) 0x18 := by
    have hset : Settled f := by
      have h := hv.settled hs
      rw [Settled, hfflt, hfboot]
      exact h
    rw [← settle_settled (hchain.settled hset), ← habort]
    exact stopDone_ends hstop
  rw [hu]
  have hreg : v.reg = s.reg := hv.frame State.reg fun _ => rfl
  refine ⟨?_, ?_, ?_, ?_, hchain.works, ?_, ?_, fun d hd => (hchain.live d hd).trans (hlive d), fun j => ?_⟩
  · rw [chanOf, hchain.mov]
    exact chanOf_grantAll_freed (tkey_ctx_lt c)
  · rw [hchain.mov]
    exact hbusy rfl
  · rw [hchain.mov]
    exact hres
  · have himr : imr w (aMOV + 0x24) = satAdd (imr s (aMOV + 0x24)) 1 := by
      rw [imr_bump_same]
      exact congrArg (satAdd · 1) (by simp only [imr, hreg])
    rw [← himr, imr, imr, hchain.reg, hfreg]
  · rw [hchain.stpa, hregs, hsize]
    rfl
  · have hevl : evlOf f c = evlOf s c := (hfe c).trans (hv.frame (evlOf · c) fun _ => rfl)
    rw [hevl] at hfired
    refine hfired.congr ?_ ?_ ?_ rfl
    · rw [hfevt]
      exact hv.frame (·.evt.src) fun _ => rfl
    · rw [hfreg]
      exact hv.frame (·.reg.tabA) fun _ => rfl
    · rw [hftime]
      exact hv.frame State.time fun _ => rfl
  · exact (hchain.memory j).trans ((hfm j).trans (hv.sameMemory j))
end

end Sys2Proof.Machine
end

section
/-! Channels that go to their end (R41, R121, R122, R214). -/
namespace Sys2Proof.Machine

/-! The end of a channel. -/
section
variable {s : State} {k : Nat} {x : Xfer}

/-- A channel that no limiter and no watch holds back runs to its end. -/
theorem runChan_ends {v : State} {y : Xfer} (hr : reach s k x = (x.count, none)) (hl : limiters s k x = []) (hw : moveWatch s k x x.count = none)
    (hp : progress s k x x.count x.count = (v, y, none)) : runChan s k x = chanDone v k y none := by
  simp only [runChan, hr, limReach_free hl, noteWatch, hw, runChan.runTo, hp, Nat.lt_irrefl, if_false]
/-- The owner of the channel of a thread. -/
def chanOwner : Thread → Owner
  | .ctx d => .ctx d
  | .mp m => .mp m
theorem moverComplete_runs {t : Thread} (hx : chanOf s (tkey t) = some x) (hrun : chanRuns s (tkey t) x = true) (hheld : endHeld s (tkey t) x = false) (hc : Calm s) :
    moverComplete (chanOwner t) s = settle (runChan s (tkey t) x) := by
  cases t with
  | ctx d =>
    have ho : okey (.ctx d) = tkey (.ctx d) := rfl
    simp only [chanOwner, moverComplete, ho, hx, hrun, hheld, chanStalled_calm hc, Bool.not_true, Bool.or_self, Bool.false_eq_true, if_false]
  | mp m =>
    have ho : okey (.mp m) = tkey (.mp m) := rfl
    simp only [chanOwner, moverComplete, ho, hx, hrun, hheld, chanStalled_calm hc, Bool.not_true, Bool.or_self, Bool.false_eq_true, if_false]
theorem WritesOnly.settled {u : State} (h : WritesOnly s u) (hs : Settled s) : Settled u := by
  obtain ⟨_, _, _, rfl⟩ := h
  exact hs
theorem WritesOnly.regsOf {u : State} (h : WritesOnly s u) (v : Thread) : regsOf u v = regsOf s v := by
  obtain ⟨_, _, _, rfl⟩ := h
  cases v <;> rfl
theorem WritesOnly.thrOf {u : State} (h : WritesOnly s u) (v : Thread) : thrOf u v = thrOf s v := by
  obtain ⟨_, _, _, rfl⟩ := h
  rfl
theorem WritesOnly.liveOf {u : State} (h : WritesOnly s u) (d : CtxId) : liveOf u d = liveOf s d := by
  obtain ⟨_, _, _, rfl⟩ := h
  rfl
theorem WritesOnly.limiters {u : State} (h : WritesOnly s u) (k : Nat) (x : Xfer) : limiters u k x = limiters s k x := by
  obtain ⟨_, _, _, rfl⟩ := h
  rfl
end

/-- A transfer that has not begun, with plain sides that advance. -/
def NotBegun (x : Xfer) : Prop :=
  x.left = x.count ∧ x.read = 0 ∧ x.kept = [] ∧ x.srcList = false ∧ x.dstList = false ∧ x.fs = false ∧ x.fd = false ∧ x.drop = false
/-- A channel runs on a mover, and neither a limiter nor memory holds it back. -/
def CanRun (s : State) (k : Nat) (x : Xfer) : Prop := chanOf s k = some x ∧ chanRuns s k x = true ∧ limiters s k x = [] ∧ Calm s

/-! MOVE (R120 to R122). -/
section
variable {s : State} {t : Thread} {x : Xfer} {ks kd : Nat}

theorem rdKey_located {ag : Agent} {a k : Nat} (h : rdKey s ag a = some k) : ∃ kd, locate s ag a = some (kd, k) := by
  unfold rdKey at h
  split at h
  · cases h
  · next kd j _ hl =>
    split at h
    · cases h
    · exact ⟨kd, hl.trans (Option.some.inj h ▸ rfl)⟩
  · cases h
theorem wrKey_located {ag : Agent} {lvl : Lvl} {a k : Nat} (h : wrKey s ag lvl a = some k) : ∃ kd, locate s ag a = some (kd, k) := by
  unfold wrKey at h
  split at h
  · next kd j hl =>
    split at h
    · exact ⟨kd, hl.trans (Option.some.inj h ▸ rfl)⟩
    · cases h
  · cases h
/-- Where neither side overlaps the other, a transfer finds its source as it was (R212). -/
theorem overlapAt_disjoint {k : Nat} (hfs : x.fs = false) (hsrc : ∀ i, i < x.count → rdKey s (chanAgent k x) (x.src.toNat + i) = some (ks + i))
    (hdst : ∀ i, i < x.count → wrKey s (chanAgent k x) x.lvl (x.dst.toNat + i) = some (kd + i)) (hd : ks + x.count ≤ kd ∨ kd + x.count ≤ ks) :
    overlapAt s k x = none := by
  unfold overlapAt
  split
  · rfl
  · split
    · next k1 a k2 b ha hb =>
      refine if_neg fun h => ?_
      obtain ⟨-, -, hab, hlt, hc⟩ := h
      rw [hfs, if_neg Bool.false_ne_true] at hlt
      obtain ⟨_, hls⟩ := rdKey_located (hsrc 0 (by omega))
      obtain ⟨_, hld⟩ := wrKey_located (hdst 0 (by omega))
      cases ha.symm.trans hls
      cases hb.symm.trans hld
      omega
    · rfl
/-- The registers that a MOVE of n bytes shows when it is done (R120 to R122). -/
def movedRegs (g : Regs) (x : Xfer) (n : Nat) : Regs :=
  let m : DWord := BitVec.ofNat 64 n
  { ((g.setG x.ga (g.gr x.ga + m)).setG x.gd (g.gr x.gd + m)).setG x.gb (g.gr x.gb - m) with sr := srV g.sr false, pc := g.pc + 4 }
theorem moveRegs_shown {bs : List Byte} (hfs : x.fs = false) (hfd : x.fd = false) (hcrc : x.crcsel = 0) (h1 : x.gd ≠ x.ga) (h2 : x.gd ≠ x.gb) (h3 : x.ga ≠ x.gb) :
    let m : DWord := BitVec.ofNat 64 bs.length
    let g := regsOf s t
    moveRegs s t x bs = setRegs s t (((g.setG x.ga (g.gr x.ga + m)).setG x.gd (g.gr x.gd + m)).setG x.gb (g.gr x.gb - m)) := by
  simp only [moveRegs, hfs, hfd, hcrc, Bool.false_eq_true, if_false, if_true, gr_setG_other _ _ _ _ h1, gr_setG_other _ _ _ _ h2.symm, gr_setG_other _ _ _ _ h3.symm]
/-- The registers that a MOVE shows and V are written, and its thread goes on. -/
theorem moveEnd_effect (s : State) (t : Thread) (v : Bool) : let u := moveEnd s t v
    regsOf u t = { regsOf s t with sr := srV (regsOf s t).sr v, pc := (regsOf s t).pc + 4 } ∧ (∀ w, w ≠ t → regsOf u w = regsOf s w) ∧ u.mov = s.mov ∧
      SameMemory s u ∧ (Settled s → Settled u) := by
  let r : Regs := { regsOf s t with sr := srV (regsOf s t).sr v, pc := (regsOf s t).pc + 4 }
  have ho : OnlyThread s (setRegs s t r) t := onlyThread_setRegs _ _ _ _ (onlyThread_refl s t)
  have hend : moveEnd s t v = resumeThr (setRegs s t r) t := by simp only [moveEnd, setFld_three, r]
  have hgo : (∀ w, regsOf (resumeThr (setRegs s t r) t) w = regsOf (setRegs s t r) w) ∧ (resumeThr (setRegs s t r) t).mov = (setRegs s t r).mov ∧
      SameMemory (setRegs s t r) (resumeThr (setRegs s t r) t) ∧ (Settled (setRegs s t r) → Settled (resumeThr (setRegs s t r) t)) := by
    cases t with
    | mp n => exact ⟨fun _ => rfl, rfl, fun _ => rfl, id⟩
    | ctx c =>
      simp only [resumeThr]
      split
      · have hb := CtxOnly.becomeReady (setRegs s (.ctx c) r) c
        refine ⟨regsOf_becomeReady fun hi => ?_, hb.mov, hb.sameMemory, fun h => ?_⟩
        · rw [inSlot_setRegs] at hi
          rw [slotRegs_setRegs r hi]
          rfl
        · exact (hb.frame Settled rfl) ▸ h
      · exact ⟨fun _ => rfl, rfl, fun _ => rfl, id⟩
  obtain ⟨hregs, hmov, hmem, hset⟩ := hgo
  intro u
  rw [show u = _ from hend]
  refine ⟨(hregs t).trans (regsOf_setRegs_same _ _ _), fun w hw => (hregs w).trans (regsOf_setRegs_other _ _ _ _ hw), hmov.trans (ho.frame State.mov rfl),
    ho.sameMemory.trans hmem, fun h => hset ((ho.frame Settled rfl) ▸ h)⟩
theorem chanDone_move {v : State} {y : Xfer} (hy : y.kind = .move) : chanDone v (tkey t) y none = moveEnd (grantAll (freeChan v (tkey t))) t false := by
  rw [chanDone, ownerThread_tkey]
  cases t with
  | mp n => rfl
  | ctx c => simp only [hy]
/-- A MOVE of plain memory goes to its end. -/
theorem moverComplete_moves (hs : Settled s) (hgo : CanRun s (tkey t) x) (hnew : NotBegun x) (hk : x.kind = .move) (hcrc : x.crcsel = 0)
    (ha : 0x110000 ≤ x.src.toNat)
    (hsrc : ∀ i, i < x.count → rdKey s (chanAgent (tkey t) x) (x.src.toNat + i) = some (ks + i))
    (hdst : Targeted s (chanAgent (tkey t) x) x.lvl x.dst.toNat kd x.count) (hd : ks + x.count ≤ kd ∨ kd + x.count ≤ ks)
    (hw : moveWatch s (tkey t) x x.count = none) (h1 : x.gd ≠ x.ga) (h2 : x.gd ≠ x.gb) (h3 : x.ga ≠ x.gb) :
    let u := moverComplete (chanOwner t) s
    (∀ i, i < x.count → memGet u (kd + i) = memGet s (ks + i)) ∧ SameMemoryBut s u kd x.count ∧ chanOf u (tkey t) = none ∧
      regsOf u t = movedRegs (regsOf s t) x x.count ∧ ∀ v, v ≠ t → regsOf u v = regsOf s v := by
  obtain ⟨hx, hrun, hl, hcalm⟩ := hgo
  obtain ⟨hleft, hread, hkept, hsl, hdl, hfs, hfd, hdr⟩ := hnew
  have htd : toData x = false := by simp [toData, hk]
  have hfdt : fromData x = false := by simp [fromData, hk]
  have hbeats : Covers (advanceBeats s (tkey t) x x.count) (x.src.toNat + 0) (x.count - 0) := by
    rw [advanceBeats, srcPlan_plain hfdt hsl hfs, hread]
    split
    · next h =>
      rw [hfdt] at h
      show x.count - 0 = 0
      simp at h
      omega
    · exact covers_planBeats (Nat.zero_le _) (Nat.le_refl _)
  obtain ⟨w, hadv, hwo, hget, hsame⟩ := advance_copies (f := fun i => memGet s (ks + i)) (p := 0) (kd := kd) htd hdr hdl hfd
    (by rw [written, hleft, Nat.sub_self]) hkept hread (overlapAt_disjoint hfs hsrc hdst.2 hd) (by simp [hfdt]) hbeats (Nat.zero_le _) (fun i _ hi => ⟨hsrc i hi, rfl⟩) (fun _ => ha) hdst hcalm.2.2
    fun i j _ hi hj => by omega
  have hp := progress_move hadv (ownerThread_tkey t) hk ((hwo.limiters _ _).trans hl)
  let y := progressed x (stretch (fun i => memGet s (ks + i)) 0 x.count) (stretch (fun i => memGet s (ks + i)) 0 x.count)
  let z := setChan w (tkey t) y
  have hz : ∀ v, regsOf z v = regsOf s v := fun v => (by cases v <;> rfl : _ = regsOf w v).trans (hwo.regsOf v)
  let m : DWord := BitVec.ofNat 64 x.count
  let g := regsOf s t
  let r : Regs := ((g.setG x.ga (g.gr x.ga + m)).setG x.gd (g.gr x.gd + m)).setG x.gb (g.gr x.gb - m)
  have hshow : moveRegs z t x (stretch (fun i => memGet s (ks + i)) 0 x.count) = setRegs z t r := by
    have h := moveRegs_shown (s := z) (t := t) (bs := stretch (fun i => memGet s (ks + i)) 0 x.count) hfs hfd hcrc h1 h2 h3
    rw [length_stretch, hz] at h
    exact h
  have ho : OnlyThread z (setRegs z t r) t := onlyThread_setRegs _ _ _ _ (onlyThread_refl z t)
  obtain ⟨hfr, -, -, hfm, -, -, -, -, hfflt, hfboot⟩ := freed_keeps (setRegs z t r) (tkey t)
  let f := grantAll (freeChan (setRegs z t r) (tkey t))
  obtain ⟨her, heo, hemov, hem, hes⟩ := moveEnd_effect f t false
  have hset : Settled (moveEnd f t false) := by
    refine hes ?_
    rw [Settled, hfflt, hfboot]
    have hz : Settled (setRegs z t r) := (ho.frame Settled rfl) ▸ hwo.settled hs
    exact hz
  intro u
  have hu : u = moveEnd f t false := by
    rw [← settle_settled hset]
    refine (moverComplete_runs hx hrun (by simp [endHeld, servesStep, hk]) hcalm).trans (congrArg settle ?_)
    rw [runChan_ends (reach_plain hsl hdl) hl hw hp]
    exact (chanDone_move (y := y) hk).trans (congrArg (fun v => moveEnd (grantAll (freeChan v (tkey t))) t false) hshow)
  have hmem : SameMemory w (moveEnd f t false) := fun j => (hem j).trans ((hfm j).trans ((ho.sameMemory j).trans rfl))
  rw [hu]
  refine ⟨fun i hi => (hmem _).trans (hget i hi), fun j hj => (hmem j).trans (hsame j hj), ?_, ?_, fun v hv => ?_⟩
  · rw [chanOf, hemov]
    exact chanOf_grantAll_freed (tkey_lt t)
  · have hr : regsOf f t = r := (hfr t).trans (regsOf_setRegs_same _ _ _)
    rw [her, hr]
    rfl
  · exact (heo v hv).trans ((hfr v).trans ((regsOf_setRegs_other _ _ _ _ hv).trans (hz v)))
end

/-! MOVE-IN (R41, R56 to R58). -/
section
variable {s : State} {c : CtxId} {x : Xfer} {q : Run} {kd n : Nat}

theorem RunNoted.someRun {u : State} {r : Run} (h : RunNoted s u c) (hr : (thrOf s (.ctx c)).run = some r) : ∃ v,
    thrOf u (.ctx c) = { thrOf s (.ctx c) with run := some { r with crc := v } } := by
  obtain ⟨hn, -⟩ | ⟨z, v, hz, rfl⟩ := h
  · exact absurd (hn.symm.trans hr) nofun
  · cases hz.symm.trans hr
    exact ⟨v, thrOf_setThr_same _ _ _⟩
/-- The whole of a unit, whose end is without fault, has been moved: the step succeeds. -/
theorem moveInEnd_whole (hr : (thrOf s (.ctx c)).run = some q) (h8 : stepFlag (thrOf s (.ctx c)) 8 = false) (hd : q.inData.length = n)
    (hc : stepCount (thrOf s (.ctx c)) = n) (he : q.inEnd = some { crcBad := false, portErr := false, code := 0 }) :
    moveInEnd s c n 0 0 = finishWait (setThr s (.ctx c) { thrOf s (.ctx c) with run := some { q with inData := [] } }) c 0 0 0 := by
  have hrest : q.inData.drop n = [] := List.drop_eq_nil_of_le (Nat.le_of_eq hd)
  simp [moveInEnd, hr, h8, hc, he, hrest]
/-- The step then ends, and the chain goes on. -/
theorem stepChanEnd_whole (hk : x.kind = .moveIn) (hst : stOf s c = .waiting) (hact : stepAct (thrOf s (.ctx c)) = 8) (hn : HasNextOnly (thrOf s (.ctx c)))
    (hq : (thrOf s (.ctx c)).wqMove = none) (hr : (thrOf s (.ctx c)).run = some q) (hd : q.inData.length = n) (hc : stepCount (thrOf s (.ctx c)) = n)
    (he : q.inEnd = some { crcBad := false, portErr := false, code := 0 }) : let u := stepChanEnd s c x n 0 0
      chanOf u c.toNat = none ∧ (stOf u c = .ready ∨ stOf u c = .resident) ∧ (regsOf u (.ctx c)).stpa = (regsOf s (.ctx c)).stpa + 16 ∧
        (thrOf u (.ctx c)).phase = .fetch ∧ (thrOf u (.ctx c)).run = none ∧ OtherLive s u c ∧ SameMemory s u ∧ (Settled s → Settled u) := by
  let f := grantAll (freeChan s c.toNat)
  obtain ⟨hfr, hft, hfl, hfm, -, -, -, -, hfflt, hfboot⟩ := freed_keeps s c.toNat
  have hft' : thrOf f (.ctx c) = thrOf s (.ctx c) := hft _
  let e := setThr f (.ctx c) { thrOf f (.ctx c) with run := some { q with inData := [] } }
  have hend : stepChanEnd s c x n 0 0 = finishWait e c 0 0 0 := by
    rw [stepChanEnd, if_pos hk]
    exact moveInEnd_whole (hft' ▸ hr) (hft' ▸ hn.1) hd (hft' ▸ hc) he
  have het : thrOf e (.ctx c) = { thrOf s (.ctx c) with run := some { q with inData := [] } } := by
    rw [show thrOf e (.ctx c) = _ from thrOf_setThr_same _ _ _, hft']
  have hstep : stepAct (thrOf e (.ctx c)) = 8 := by
    rw [het]
    exact hact
  have hgo : GoesOn (thrOf e (.ctx c)) := (hn.goesOn (by rw [hact]; decide) (by rw [hact]; decide) hq).congr (by rw [het]) (by rw [het])
  have hchain := finishWait_next 0 (s := e) (c := c) ((congrArg Live.st (hfl c)).trans hst) hgo (by rw [hstep]; decide) (by rw [hstep]; decide)
  intro u
  rw [show u = _ from hend]
  refine ⟨?_, hchain.works, ?_, hchain.phase, hchain.run, fun d hd => (hchain.live d hd).trans (hfl d), fun j => (hchain.memory j).trans (hfm j), fun hs => ?_⟩
  · rw [chanOf, hchain.mov]
    exact chanOf_grantAll_freed (tkey_ctx_lt c)
  · rw [hchain.stpa, show regsOf e (.ctx c) = _ from regsOf_setThr _ _ _ _, hfr]
  · have hf : Settled f := by
      rw [Settled, hfflt, hfboot]
      exact hs
    exact hchain.settled hf
theorem chanDone_moveIn (hk : x.kind = .moveIn) : chanDone s c.toNat x none = stepChanEnd s c x (written x) 0 0 := by
  rw [chanDone, show ownerThread c.toNat = _ from ownerThread_tkey (.ctx c)]
  simp only [hk]
theorem endHeld_ctx (hf : fenceWait s c = false) : endHeld s c.toNat x = false := by
  have hc : BitVec.ofNat 18 c.toNat = c := by rw [BitVec.ofNat_toNat, BitVec.setWidth_eq]
  rw [endHeld, hc, hf, Bool.and_false]
/-- A MOVE-IN of a whole unit goes to its end. -/
theorem moverComplete_movesIn (hs : Settled s) (hgo : CanRun s c.toNat x) (hnew : NotBegun x) (hk : x.kind = .moveIn)
    (hdst : Targeted s (chanAgent c.toNat x) x.lvl x.dst.toNat kd x.count)
    (hst : stOf s c = .waiting) (hact : (thrOf s (.ctx c)).cur.lo.extractLsb' 0 8 = 8) (hn : HasNextOnly (thrOf s (.ctx c))) (hq : (thrOf s (.ctx c)).wqMove = none)
    (hr : (thrOf s (.ctx c)).run = some q) (hin : q.inData = x.data) (hlen : x.data.length = x.count)
    (hcount : ((thrOf s (.ctx c)).cur.lo.extractLsb' 32 32).toNat = x.count) (hend : q.inEnd = some { crcBad := false, portErr := false, code := 0 })
    (hf : fenceWait s c = false) : let u := moverComplete (.ctx c) s
      (∀ i, i < x.count → memGet u (kd + i) = x.data.getD i 0) ∧ SameMemoryBut s u kd x.count ∧ chanOf u c.toNat = none ∧
        (stOf u c = .ready ∨ stOf u c = .resident) ∧ (regsOf u (.ctx c)).stpa = (regsOf s (.ctx c)).stpa + 16 ∧ (thrOf u (.ctx c)).phase = .fetch ∧
        (thrOf u (.ctx c)).run = none ∧ OtherLive s u c := by
  obtain ⟨hx, hrun, hl, hcalm⟩ := hgo
  obtain ⟨hleft, hread, hkept, hsl, hdl, -, hfd, hdr⟩ := hnew
  have htd : toData x = false := by simp [toData, hk]
  have hfdt : fromData x = true := by simp [fromData, hk]
  have hlap : overlapAt s c.toNat x = none := by simp [overlapAt, hfdt]
  have hnm : x.kind ≠ .move := by simp [hk]
  have hgiven : advanceGiven x x.count = stretch (fun i => x.data.getD i 0) 0 x.count := by
    rw [advanceGiven, if_pos hfdt, hread, List.drop_zero, Nat.sub_zero, List.take_of_length_le (Nat.le_of_eq hlen), ← hlen]
    exact eq_stretch x.data
  obtain ⟨w, hadv, hwo, hget, hsame⟩ := advance_copies (f := fun i => x.data.getD i 0) (p := x.count) (a := 0) (ks := 0) (kd := kd) htd hdr hdl hfd
    (by rw [written, hleft, Nat.sub_self]) hkept hread hlap hgiven (by rw [advanceBeats, if_pos (.inl hfdt), Nat.sub_self]; rfl) (Nat.le_refl _)
    (fun i _ hi => by omega) (fun h => absurd h (Nat.lt_irrefl _)) hdst hcalm.2.2 fun i j hi hi' => by omega
  obtain ⟨l, v, hv, hp⟩ := progress_step hadv (ownerThread_tkey (.ctx c)) hnm (by simp [isPortInstr, hk])
  let y := progressed x (stretch (fun i => x.data.getD i 0) 0 x.count) (stretch (fun i => x.data.getD i 0) 0 x.count)
  have hwritten : written y = x.count := by simp [y, written, progressed, hleft]
  have hlive : ∀ d, liveOf v d = liveOf s d := fun d => (hv.liveOf d).trans (hwo.liveOf d)
  have hregs : regsOf v (.ctx c) = regsOf s (.ctx c) := (hv.regsOf _).trans (hwo.regsOf (.ctx c))
  obtain ⟨crc, hvt⟩ := hv.someRun (r := q) ((congrArg Thr.run (hwo.thrOf (.ctx c))).trans hr)
  have hthr : thrOf v (.ctx c) = { thrOf s (.ctx c) with run := some { q with crc := crc } } :=
    hvt.trans (congrArg (fun z : Thr => { z with run := some { q with crc := crc } }) (hwo.thrOf (.ctx c)))
  have hstep : stepAct (thrOf v (.ctx c)) = 8 := by
    rw [stepAct_eq, hthr]
    exact congrArg BitVec.toNat hact
  obtain ⟨hnone, hworks, hstpa, hphase, hnorun, hother, hmem, hset⟩ := stepChanEnd_whole (q := { q with crc := crc }) (n := x.count) (x := y) hk
    ((congrArg Live.st (hlive c)).trans hst) hstep (by rw [hthr]; exact hn) (by rw [hthr]; exact hq) (by rw [hthr]) ((congrArg _ hin).trans hlen)
    (by rw [hthr]; exact (fld_eq_extract _ _ _).trans hcount) hend
  intro u
  have hu : u = stepChanEnd v c y x.count 0 0 := by
    rw [← settle_settled (hset (hv.settled (hwo.settled hs)))]
    refine (moverComplete_runs (t := .ctx c) hx hrun (endHeld_ctx hf) hcalm).trans (congrArg settle ?_)
    refine (runChan_ends (k := c.toNat) (reach_plain hsl hdl) hl (by simp [moveWatch, hnm]) hp).trans ?_
    exact (chanDone_moveIn (x := y) hk).trans (congrArg (fun m => stepChanEnd v c y m 0 0) hwritten)
  have hwv : SameMemory w v := hv.sameMemory
  rw [hu]
  exact ⟨fun i hi => (hmem _).trans ((hwv _).trans (hget i hi)), fun j hj => (hmem j).trans ((hwv j).trans (hsame j hj)), hnone, hworks,
    by rw [hstpa, hregs], hphase, hnorun, fun d hd => (hother d hd).trans (hlive d)⟩
end

theorem exec_moverComplete {s : State} (o : Owner) (hc : clocksOn s = true) : exec (.moverComplete o) s = .next (moverComplete o s) := onCore_on _ hc
theorem exec_channelPreempt {s : State} (w v : Owner) (rd wr : Nat) (hc : clocksOn s = true) :
    exec (.channelPreempt w v rd wr) s = .next (channelPreempt w v rd wr s) := onCore_on _ hc
theorem exec_stopDone {s : State} (c : CtxId) (rd : Nat) (hc : clocksOn s = true) : exec (.stopDone c rd) s = .next (stopDone c rd s) := onCore_on _ hc

/-- Settles O34: a transfer goes on in beats that cover its two sides in order, reads ahead of writes; each end of a channel then frees it and lets its thread
go on. -/
theorem channelsCompleteAndStop : Obligations.ChannelsCompleteAndStop := by
  intro s t c x ks kd hs hc n fresh calm runs source dest y r nothing
  refine ⟨?_, ?_, ?_, ?_, ?_⟩
  · rintro hgo hnew hk hcrc ⟨ha, hsrc⟩ hdst hd hw h1 h2 h3
    exact ⟨_, exec_moverComplete (chanOwner t) hc, moverComplete_moves hs hgo hnew hk hcrc ha hsrc hdst hd hw h1 h2 h3⟩
  · rintro q hgo hnew hk hdst hst - hact hn hq hr hin hlen hcount hend hf
    exact ⟨_, exec_moverComplete _ hc, moverComplete_movesIn hs hgo hnew hk hdst hst hact hn hq hr hin hlen hcount hend hf⟩
  · rintro w z rd hz hx htake hl hcalm hk hreq hsl hdl hfs hdr hrd hrn - hwr hw128 hat ⟨ha, hsrc⟩
    exact ⟨_, exec_channelPreempt _ _ _ _ hc, channelPreempt_keeps hs hz hx htake hl hcalm hk hreq hsl hdl hfs hdr ⟨hrd, hrn⟩ ⟨hwr, hw128⟩ hat ha hsrc⟩
  · rintro ⟨hx, hk, hwhy, hkept, hw, -, -, -, hg, hcalm⟩ hwait
    exact ⟨_, exec_stopDone _ _ hc, stopDone_pauses hs ⟨hx, hk, hwhy, hkept, hw, hcalm⟩ hg hwait⟩
  · rintro ⟨hx, hk, hwhy, hkept, hw, -, hcmd, -, -, hcalm⟩ hst - hact hsrc hn hq hr
    exact ⟨_, exec_stopDone _ _ hc, stopDone_aborts hs ⟨hx, hk, hwhy, hkept, hw, hcalm⟩ hcmd hst hact hsrc hn hq hr⟩

end Sys2Proof.Machine
end

section
/-! Asynchronous causes (R139 to R152): a context at a boundary enters the pending cause that wins. -/
namespace Sys2Proof.Machine

section
variable {s : State} {c : CtxId}

/-- A context at a boundary where an asynchronous cause can be taken: it runs code, and neither an access nor a channel holds it there. -/
structure AtBoundary (s : State) (c : CtxId) : Prop where
  run : inRun s = true
  resident : stOf s c = .resident
  code : (thrOf s (.ctx c)).phase = .code
  unfenced : ctxFenced s c = false
  bus : (thrOf s (.ctx c)).bus = none
  egress : (thrOf s (.ctx c)).egress = none
  chan : chanOf s c.toNat = none
  last : (thrOf s (.ctx c)).last = none
  can : CanEnter s (.ctx c)

theorem inRun_clocks (h : inRun s = true) : clocksOn s = true := (Bool.and_eq_true_iff.mp h).1
theorem noSaved_resident (h : stOf s c = .resident) : NoSaved s (.ctx c) := by
  rintro d ⟨rfl⟩
  simp [h]
theorem AtBoundary.takeable (h : AtBoundary s c) (hp : asyncPending s c = true) : asyncTakeable s c = true := by
  have hem : srEM (regsOf s (.ctx c)) = false := h.can.1
  have hexv : decide ((regsOf s (.ctx c)).exv ≠ 0) = true := decide_eq_true h.can.2
  simp only [asyncTakeable, hem, hexv, hp, Bool.not_false, Bool.and_true]
theorem asyncPending_watch {a : DWord} (h : (thrOf s (.ctx c)).watch = some a) : asyncPending s c = true := by simp [asyncPending, h]
theorem asyncPending_limit {l : DWord} (h : (thrOf s (.ctx c)).limit = some l) : asyncPending s c = true := by simp [asyncPending, h]
theorem asyncPending_signals (h : sigBits s c ≠ 0) : asyncPending s c = true := by simp only [asyncPending, decide_eq_true h, Bool.or_true]
/-- The entry at a boundary: the cause that wins is taken from what is pending, the destination of an abandoned WAITE gets its value, and the handler starts. -/
theorem AtBoundary.exec_asyncEntry (h : AtBoundary s c) (hp : asyncPending s c = true) (k : Nat) {cause : Nat} {v : DWord} {w : State}
    (hw : asyncCause s c = (cause, v, w)) : exec (.asyncEntry (.ctx c) k) s =
      .next (takeAsync (abandonedGets w c v) c cause v (prefixAt s c || (thrOf s (.ctx c)).inRep) (thrOf s (.ctx c)).inRep) := by
  refine (onCore_on _ (inRun_clocks h.run)).trans (congrArg _ ?_)
  simp [asyncTake, h.run, h.resident, h.code, h.unfenced, h.bus, h.egress, h.chan, h.last, h.takeable hp, hw]

theorem asyncCause_watch {a : DWord} (h : (thrOf s (.ctx c)).watch = some a) :
    asyncCause s c = (0x12, a, setThr s (.ctx c) { thrOf s (.ctx c) with watch := none }) := by simp only [asyncCause, h]
theorem asyncCause_limit {l : DWord} (hw : (thrOf s (.ctx c)).watch = none) (h : (thrOf s (.ctx c)).limit = some l) :
    asyncCause s c = (0x11, l, setThr s (.ctx c) { thrOf s (.ctx c) with limit := none }) := by simp only [asyncCause, hw, h]
theorem asyncCause_signals (hw : (thrOf s (.ctx c)).watch = none) (h : (thrOf s (.ctx c)).limit = none) :
    asyncCause s c = (0x10, (sigBits s c).setWidth 64, setLive s c { liveOf s c with pend := (liveOf s c).pend &&& ~~~(sigBits s c) }) := by
  simp only [asyncCause, hw, h]

/-- The registers of a context with the value of a cause in the destination of an abandoned WAITE (R152). -/
def gotAbandoned (x : Thr) (r : Regs) (v : DWord) : Regs := match x.abandoned with | some gd => r.setG gd v | none => r
theorem abandonedGets_effect {w : State} (hn : NoSaved w (.ctx c)) (v : DWord) : let u := abandonedGets w c v
    regsOf u (.ctx c) = gotAbandoned (thrOf w (.ctx c)) (regsOf w (.ctx c)) v ∧ thrOf u (.ctx c) = { thrOf w (.ctx c) with abandoned := none } ∧
      OnlyThread w u (.ctx c) := by
  unfold abandonedGets gotAbandoned
  dsimp only
  cases ha : (thrOf w (.ctx c)).abandoned with
  | some gd =>
    exact ⟨regsOf_setRegs_same _ _ _, (thrOf_setRegs (noSaved_setThr hn) _ _).trans (thrOf_setThr_same _ _ _),
      onlyThread_setRegs _ _ _ _ (onlyThread_setThr _ _ _ _ (onlyThread_refl w _))⟩
  | none =>
    refine ⟨rfl, ?_, onlyThread_refl w _⟩
    change thrOf w (.ctx c) = _
    rw [← ha]
/-- What the entry leaves beside the cause that has been taken. -/
theorem takeAsync_effect {w : State} (hn : NoSaved w (.ctx c)) {cause : Nat} (hc : cause < 256) (v : DWord) (pfx inrep : Bool) :
    let r := regsOf w (.ctx c)
    let u := takeAsync (abandonedGets w c v) c cause v pfx inrep
    regsOf u (.ctx c) = entered (gotAbandoned (thrOf w (.ctx c)) r v) (entryLvl r (.ctx c)) cause v pfx inrep ∧
      thrOf u (.ctx c) = { thrOf w (.ctx c) with inRep := false, abandoned := none } ∧ OnlyThread w u (.ctx c) := by
  obtain ⟨hr, hx, ho⟩ := abandonedGets_effect hn v
  have hceil : ceilOf (gotAbandoned (thrOf w (.ctx c)) (regsOf w (.ctx c)) v) = entryLvl (regsOf w (.ctx c)) (.ctx c) := by
    unfold gotAbandoned
    split <;> rfl
  refine ⟨?_, ?_, onlyThread_setRegs _ _ _ _ (onlyThread_setThr _ _ _ _ ho)⟩
  · rw [takeAsync, regsOf_setRegs_same, hr, enterRegs_eq _ _ _ _ _ _ hc, hceil]
  · rw [takeAsync, thrOf_setRegs (noSaved_setThr (noSaved_of_only hn ho)), thrOf_setThr_same, hx]

/-- A pending cause that is kept with the thread, the watch or the limit, is entered. -/
theorem AtBoundary.enters (h : AtBoundary s c) (hp : asyncPending s c = true) (k : Nat) {cause : Nat} {v : DWord} {y : Thr} (hc : cause < 256)
    (hw : asyncCause s c = (cause, v, setThr s (.ctx c) y)) (ha : y.abandoned = (thrOf s (.ctx c)).abandoned) :
    Leaves (.asyncEntry (.ctx c) k) s (.ctx c)
      (entered (gotAbandoned (thrOf s (.ctx c)) (regsOf s (.ctx c)) v) (entryLvl (regsOf s (.ctx c)) (.ctx c)) cause v
        (prefixAt s c || (thrOf s (.ctx c)).inRep) (thrOf s (.ctx c)).inRep) { y with inRep := false, abandoned := none } := by
  obtain ⟨hr, hx, ho⟩ := takeAsync_effect (noSaved_setThr (x := y) (v := .ctx c) (noSaved_resident h.resident)) hc v
    (prefixAt s c || (thrOf s (.ctx c)).inRep) (thrOf s (.ctx c)).inRep
  rw [thrOf_setThr_same, regsOf_setThr, gotAbandoned, ha, ← gotAbandoned] at hr
  rw [thrOf_setThr_same] at hx
  exact ⟨_, h.exec_asyncEntry hp k hw, hr, hx, (onlyThread_setThr s s (.ctx c) y (onlyThread_refl s _)).trans ho⟩
/-- Without a watch and a limit the signals of SIGA that are pending are entered, and leave PEND. -/
theorem AtBoundary.entersSignals (h : AtBoundary s c) (k : Nat) (hwatch : (thrOf s (.ctx c)).watch = none) (hlimit : (thrOf s (.ctx c)).limit = none)
    (hb : sigBits s c ≠ 0) : Answers (.asyncEntry (.ctx c) k) s fun u =>
      regsOf u (.ctx c) = entered (gotAbandoned (thrOf s (.ctx c)) (regsOf s (.ctx c)) ((sigBits s c).setWidth 64)) (entryLvl (regsOf s (.ctx c)) (.ctx c)) 0x10
        ((sigBits s c).setWidth 64) (prefixAt s c || (thrOf s (.ctx c)).inRep) (thrOf s (.ctx c)).inRep ∧
      thrOf u (.ctx c) = { thrOf s (.ctx c) with inRep := false, abandoned := none } ∧
      liveOf u c = { liveOf s c with pend := (liveOf s c).pend &&& ~~~(sigBits s c) } ∧ OtherLive s u c ∧ OtherThreads s u (.ctx c) ∧ SameMemory s u := by
  let l : Live := { liveOf s c with pend := (liveOf s c).pend &&& ~~~(sigBits s c) }
  have hw : asyncCause s c = (0x10, (sigBits s c).setWidth 64, setLive s c l) := asyncCause_signals hwatch hlimit
  have hl : CtxOnly s (setLive s c l) c := .setLive s c l
  obtain ⟨hr, hx, ho⟩ := takeAsync_effect (noSaved_setLive (noSaved_resident h.resident) c l rfl) (cause := 0x10) (by decide) ((sigBits s c).setWidth 64)
    (prefixAt s c || (thrOf s (.ctx c)).inRep) (thrOf s (.ctx c)).inRep
  simp only [regsOf_setLive, thrOf_setLive] at hr hx
  refine ⟨_, h.exec_asyncEntry (asyncPending_signals hb) k hw, hr, hx, ?_, fun d hd => ?_, fun v hv => ?_, fun j => ?_⟩
  · rw [ho.liveOf, liveOf_setLive_same]
  · rw [ho.liveOf, liveOf_setLive_other _ _ _ _ hd]
  · rw [(ho.1 v hv).1, (ho.1 v hv).2, regsOf_setLive, thrOf_setLive]
    exact ⟨rfl, rfl⟩
  · exact (ho.sameMemory j).trans (hl.sameMemory j)
theorem runLimit_pends (hrun : inRun s = true) (hst : stOf s c = .resident) (hcode : (thrOf s (.ctx c)).phase = .code)
    (hrlen : (regsOf s (.ctx c)).rlen = true) (hlim : act s (aENG + 0x200) ≠ 0) (hnone : (thrOf s (.ctx c)).limit = none) :
    exec (.runLimit c) s = .next (setThr s (.ctx c) { thrOf s (.ctx c) with limit := some s.time.now }) := by
  refine (onCore_on _ (inRun_clocks hrun)).trans (congrArg _ ?_)
  exact if_pos (by rw [hrun, hst, hcode, hrlen, decide_eq_true hlim, hnone]; rfl)
end

/-- Settles O26: the run limit is noted with its time; at a boundary the watch, the limit and the signals are entered in that order. -/
theorem asynchronousCausesAreEntered : Obligations.AsynchronousCausesAreEntered := by
  intro s c k t r x bits ready into
  have boundary : ready → AtBoundary s c := fun ⟨run, resident, code, unfenced, bus, egress, chan, last, can⟩ =>
    { run, resident, code, unfenced, bus, egress, chan, last, can }
  refine ⟨?_, ?_, ?_, ?_⟩
  · intro hrun hst hcode hrlen hlim hnone
    exact ⟨_, runLimit_pends hrun hst hcode hrlen hlim hnone, regsOf_setThr _ _ _ _, thrOf_setThr_same _ _ _, onlyThread_setThr _ _ _ _ (onlyThread_refl s _)⟩
  · intro a hready ha
    exact (boundary hready).enters (asyncPending_watch ha) k (by decide) (asyncCause_watch ha) rfl
  · intro l hready hwatch hl
    exact (boundary hready).enters (asyncPending_limit hl) k (by decide) (asyncCause_limit hwatch hl) rfl
  · intro hready hwatch hlimit hb
    exact (boundary hready).entersSignals k hwatch hlimit hb

end Sys2Proof.Machine
end

section
/-! The entry of an interrupt on a management processor (R133, R157 to R162): the wake from WFI, the frame, the handler. -/
namespace Sys2Proof.Machine

/-! What belongs to one processor. -/
/-- u with the processors, the register sets and what the device keeps for threads as in s. -/
def mpBack (s u : State) : State := { u with eng := { u.eng with slots := s.eng.slots, thr := s.eng.thr, mps := s.eng.mps } }
/-- Nothing has changed but processors and what belongs to the thread of processor n. -/
structure MpOnly (s u : State) (n : BitVec 2) : Prop where
  rest : mpBack s u = s
  threads : OtherThreads s u (.mp n)

theorem MpOnly.refl (s : State) (n : BitVec 2) : MpOnly s s n := ⟨rfl, fun _ _ => ⟨rfl, rfl⟩⟩
theorem MpOnly.trans {s u w : State} {n : BitVec 2} (h : MpOnly s u n) (h' : MpOnly u w n) : MpOnly s w n where
  rest := by
    have e : mpBack s w = mpBack s (mpBack u w) := rfl
    rw [e, h'.rest, h.rest]
  threads := h.threads.trans h'.threads
/-- What reads none of that is as it was. -/
theorem MpOnly.frame {α : Type} (f : State → α) {s u : State} {n : BitVec 2} (h : MpOnly s u n) (hf : f (mpBack s u) = f u) : f u = f s :=
  hf.symm.trans (congrArg f h.rest)
theorem MpOnly.sameMemory {s u : State} {n : BitVec 2} (h : MpOnly s u n) : SameMemory s u := fun k => h.frame (memGet · k) rfl
theorem regsOf_setMp (s : State) (n : BitVec 2) (m : Mp) (v : Thread) : regsOf (setMp s n m) v = regsOf s v := by cases v <;> rfl
theorem mpOf_setRegs_mp (s : State) (n k : BitVec 2) (r : Regs) : mpOf (setRegs s (.mp n) r) k = mpOf s k := rfl
theorem MpOnly.setMp (s : State) (n : BitVec 2) (m : Mp) : MpOnly s (setMp s n m) n := ⟨rfl, fun v _ => ⟨regsOf_setMp s n m v, rfl⟩⟩
theorem MpOnly.setRegs (s : State) (n : BitVec 2) (r : Regs) : MpOnly s (setRegs s (.mp n) r) n :=
  ⟨rfl, otherThreads_setRegs _ _ _ _ (MpOnly.refl s n).threads⟩
theorem MpOnly.setThr (s : State) (n : BitVec 2) (x : Thr) : MpOnly s (setThr s (.mp n) x) n :=
  ⟨rfl, otherThreads_setThr _ _ _ _ (MpOnly.refl s n).threads⟩

/-! The wake from WFI (R133). -/
section
variable {s : State} {n : BitVec 2} {l : Nat}

theorem qualifies_requested {lvl : Nat} {em : Bool} (h : qualifies s n lvl em = some l) : mpRequests s n ≠ [] := by
  intro he
  simp [qualifies, he] at h
/-- The registers of a processor past a WFI in which it waits. -/
def pastWfi (m : Mp) (r : Regs) : Regs := { r with pc := r.pc + (if m.wfi then 4 else 0) }
theorem mpWake_requested (h : mpRequests s n ≠ []) : let u := mpWake s n
    MpOnly s u n ∧ regsOf u (.mp n) = pastWfi (mpOf s n) (regsOf s (.mp n)) ∧ mpOf u n = { mpOf s n with wfi := false } ∧ thrOf u (.mp n) = thrOf s (.mp n) ∧
      ∀ k, (mpOf u k).fenced = (mpOf s k).fenced := by
  cases hw : (mpOf s n).wfi with
  | true =>
    have hu : mpWake s n = setRegs (setMp s n { mpOf s n with wfi := false }) (.mp n) { regsOf s (.mp n) with pc := (regsOf s (.mp n)).pc + 4 } := by
      simp [mpWake, hw, h]
    rw [hu]
    refine ⟨(MpOnly.setMp s n _).trans (.setRegs _ n _), ?_, ?_, rfl, fun k => ?_⟩
    · rw [regsOf_setRegs_same, pastWfi, hw]
      rfl
    · rw [mpOf_setRegs_mp, mpOf_setMp_same]
    · rw [mpOf_setRegs_mp]
      by_cases hk : k = n
      · rw [hk, mpOf_setMp_same]
      · rw [mpOf_setMp_other _ _ _ _ hk]
  | false =>
    have hu : mpWake s n = s := by simp [mpWake, hw]
    rw [hu]
    refine ⟨.refl s n, ?_, ?_, rfl, fun _ => rfl⟩
    · simp [pastWfi, hw]
    · rw [← hw]
/-- The requests at a processor and which of them qualify depend, of the processors, only on which are fenced (R157, R461). -/
theorem qualifies_mpOnly {u : State} (h : MpOnly s u n) (hf : ∀ k, (mpOf u k).fenced = (mpOf s k).fenced) (lvl : Nat) (em : Bool) :
    qualifies u n lvl em = qualifies s n lvl em := by
  have hpair : nmtPair u = nmtPair s := by
    have ha : act u aFLT = act s aFLT := h.frame (act · aFLT) rfl
    simp only [nmtPair, nextPair, hf, ha]
  have hline : mpLine u n = mpLine s n := h.frame (mpLine · n) rfl
  have hpend : u.flt.nmtPend = s.flt.nmtPend := h.frame (·.flt.nmtPend) rfl
  have hact : ∀ a, act u a = act s a := fun a => h.frame (act · a) rfl
  simp only [qualifies, mpRequests, hpair, hline, hpend, hact]
end

/-! The frame (R159, R160). -/
theorem foldl_setG_pc (l : List (Reg × DWord)) (r : Regs) (p : DWord) :
    l.foldl (fun g e => g.setG e.1 e.2) { r with pc := p } = { l.foldl (fun g e => g.setG e.1 e.2) r with pc := p } := by
  induction l generalizing r with
  | nil => rfl
  | cons e l ih => exact ih (r.setG e.1 e.2)
theorem foldl_setG_sr (l : List (Reg × DWord)) (r : Regs) : (l.foldl (fun g e => g.setG e.1 e.2) r).sr = r.sr :=
  List.foldlRecOn l _ (motive := fun q : Regs => q.sr = r.sr) rfl fun _ hq _ _ => hq
/-- The outstanding loads complete into the registers past WFI as into those before it. -/
theorem settleRegs_pastWfi (x : Thr) (m : Mp) (r : Regs) :
    settleRegs { x with md := none } (pastWfi m r) = pastWfi m (x.loads.foldl (fun g e => g.setG e.1 e.2) r) := by
  have hpc : (x.loads.foldl (fun g e => g.setG e.1 e.2) r).pc = r.pc := settleRegs_pc { x with md := none } r
  rw [pastWfi, pastWfi, hpc]
  exact foldl_setG_pc x.loads r _
/-- The frame by its double words and words. -/
theorem frameOf_eq (r : Regs) (v : BitVec 4) : frameOf r v =
    lowBytes 8 r.pc ++ lowBytes 4 (r.sr.setWidth 64) ++ lowBytes 4 (v.setWidth 64) ++ lowBytes 8 r.lr ++ lowBytes 8 r.rc ++ lowBytes 8 r.ml ++
      lowBytes 8 r.mh ++ lowBytes 8 0 ++ lowBytes 8 (r.gr 0) ++ lowBytes 8 (r.gr 1) ++ lowBytes 8 (r.gr 2) ++ lowBytes 8 (r.gr 3) ++ lowBytes 8 (r.gr 12) ++
      lowBytes 8 (r.gr 13) ++ lowBytes 8 (r.gr 14) ++ lowBytes 16 0 := by
  have hsr : leBytes 4 r.sr.toNat = lowBytes 4 (r.sr.setWidth 64) :=
    (leBytes_eq_lowBytes (by decide) _).trans (congrArg _ (BitVec.eq_of_toNat_eq (by simp)))
  have hv : leBytes 4 v.toNat = lowBytes 4 (v.setWidth 64) :=
    (leBytes_eq_lowBytes (by decide) _).trans (congrArg _ (BitVec.eq_of_toNat_eq (by simp)))
  have hpad : lowBytes 8 0 ++ lowBytes 8 0 = lowBytes 16 0 := rfl
  simp only [frameOf, leBytes_dword, hsr, hv, List.append_assoc, ← hpad]
theorem length_frameOf (r : Regs) (v : BitVec 4) : (frameOf r v).length = 128 := by simp [frameOf, length_leBytes]

/-! The handler (R160, R162). -/
/-- The address of a handler by its bits in the vector table. -/
theorem getLsbD_vectorOf (s : State) (n : BitVec 2) (l i : Nat) (hi : i < 64) : (vectorOf s n l).getLsbD i =
    (memGet s (tcmKey n ((((act s (aMPC + 0x100 * n.toNat)).extractLsb' 7 11).toNat * 128 + 8 * (l - 1) + i / 8) % 0x40000))).getLsbD (i % 8) := by
  have hb : i / 8 < 8 := by omega
  rw [vectorOf, BitVec.getLsbD_ofNat, testBit_leNat, List.getD_eq_getElem?_getD, List.getElem?_map, List.getElem?_range hb, fld_eq_extract]
  simp [hi]
/-- SR of a handler: P2, with EM and RSM clear. -/
theorem handler_sr (sr : Word) : setFld (setFld (setFld sr 8 2 2) 10 1 0) 11 1 0 = (sr &&& ~~~0xF00#32) ||| 0x200#32 := by
  apply BitVec.eq_of_getLsbD_eq
  intro i hi
  simp only [setFld, BitVec.getLsbD_and, BitVec.getLsbD_or, BitVec.getLsbD_not]
  interval_cases i <;> simp
theorem startHandler_effect (s : State) (n : BitVec 2) (l : Nat) : let u := startHandler s n l
    MpOnly s u n ∧ mpOf u n = { mpOf s n with lvl := BitVec.ofNat 4 l, wfi := false } ∧ thrOf u (.mp n) = thrOf s (.mp n) ∧
      regsOf u (.mp n) = { regsOf s (.mp n) with
        sr := ((regsOf s (.mp n)).sr &&& ~~~0xF00#32) ||| 0x200#32, lr := 0xFFFFFFFFFFFFFFF8, pc := vectorOf s n l } := by
  refine ⟨(MpOnly.setMp s n _).trans (.setRegs _ n _), mpOf_setMp_same s n _, rfl, ?_⟩
  rw [startHandler, regsOf_setRegs_same, handler_sr]

/-! The entry. -/
/-- The result that the multiplier owes, and the place in the frame at an address that it goes to (R160). -/
def owedTo (x : Thr) (a : Nat) : List (DWord × DWord × Nat) := (x.md.map fun p => (p.1, p.2, a + 0x20)).toList
theorem owedTo_eq (x : Thr) (a : Nat) : owedTo x a = match x.md with | some (lo, hi) => [(lo, hi, a + 0x20)] | none => [] := by
  unfold owedTo
  cases x.md <;> rfl
/-- What the device keeps for a processor whose frame has been pushed at an address. -/
def framedThr (x : Thr) (a : Nat) : Thr := { x with loads := [], inRep := false, md := none, mdFrame := x.mdFrame ++ owedTo x a }
/-- The registers of a processor with its outstanding loads complete, and without the result that the multiplier owes. -/
def loaded (s : State) (n : BitVec 2) : Regs := settleRegs { thrOf s (.mp n) with md := none } (regsOf s (.mp n))
/-- A processor that is awake with its frame pushed, before its handler starts. -/
def framed (s : State) (n : BitVec 2) : State :=
  let m := mpOf s n
  let x := thrOf s (.mp n)
  let s3 := storeBytes s (.mp n) 2 (0x3000_0000 + m.isp.toNat) (frameOf (loaded s n) m.lvl)
  let s4 := setThr s3 (.mp n) (framedThr x m.isp.toNat)
  let s5 := setMp s4 n { mpOf s4 n with isp := m.isp + 128, depth := m.depth + 1 }
  setRegs s5 (.mp n) (settleRegs { x with md := none } (regsOf s5 (.mp n)))

section
variable {s : State} {n : BitVec 2} {l : Nat}

theorem interruptMove_noChannel {t : Thread} (h : chanOf s (tkey t) = none) (rd : Nat) : interruptMove s t rd = (s, false) := by
  simp only [interruptMove, h]
/-- What reads neither memory, nor what it notes, nor the flag of R5 is as it was before a store. -/
theorem storeBytes_frame {α : Type} (f : State → α) (s : State) (ag : Agent) (lvl : Lvl) (a : Nat) (bs : List Byte)
    (h : ∀ m up corr r, f { s with mem := m, memc := { s.memc with upset := up, corr := corr }, reg := { s.reg with rsvd := r } } = f s) :
    f (storeBytes s ag lvl a bs) = f s := by
  obtain ⟨m, up, corr, r, hs⟩ := storeBytes_eq s ag lvl a bs
  rw [hs]
  exact h m up corr r
theorem regsOf_storeBytes (s : State) (ag : Agent) (lvl : Lvl) (a : Nat) (bs : List Byte) (v : Thread) : regsOf (storeBytes s ag lvl a bs) v = regsOf s v :=
  storeBytes_frame (regsOf · v) s ag lvl a bs fun _ _ _ _ => by cases v <;> rfl

/-- The frame is pushed at the top of the frame stack. -/
theorem framed_effect (hroom : (mpOf s n).isp.toNat + 128 ≤ 0x40000) : let u := framed s n
    let a := (mpOf s n).isp.toNat
    (∀ i, i < 128 → memGet u (tcmKey n (a + i)) = (frameOf (loaded s n) (mpOf s n).lvl).getD i 0) ∧ SameMemoryBut s u (tcmKey n a) 128 ∧
      mpOf u n = { mpOf s n with isp := (mpOf s n).isp + 128, depth := (mpOf s n).depth + 1 } ∧ regsOf u (.mp n) = loaded s n ∧
      thrOf u (.mp n) = framedThr (thrOf s (.mp n)) a ∧ OtherThreads s u (.mp n) ∧ ∀ b, act u b = act s b := by
  intro u a
  let bs := frameOf (loaded s n) (mpOf s n).lvl
  have hlen : bs.length = 128 := length_frameOf _ _
  have hkeys : ∀ i, i < bs.length → wrKey s (.mp n) 2 (0x3000_0000 + a + i) = some (tcmKey n a + i) := fun i hi => by
    rw [Nat.add_assoc, wrKey_tcm s n 2 (by omega), tcmKey_add]
  obtain ⟨hget, hbut⟩ := storeBytes_run hkeys
  rw [hlen] at hget hbut
  let s3 := storeBytes s (.mp n) 2 (0x3000_0000 + a) bs
  let s4 := setThr s3 (.mp n) (framedThr (thrOf s (.mp n)) a)
  have ho : MpOnly s3 u n := (MpOnly.setThr s3 n _).trans ((MpOnly.setMp s4 n _).trans (.setRegs _ n _))
  have hm : mpOf s4 n = mpOf s n := storeBytes_frame (mpOf · n) s _ _ _ _ fun _ _ _ _ => rfl
  have hr : ∀ m, regsOf (setMp s4 n m) (.mp n) = regsOf s (.mp n) := fun m =>
    (regsOf_setMp s4 n m _).trans ((regsOf_setThr s3 _ _ _).trans (regsOf_storeBytes s _ _ _ _ _))
  refine ⟨fun i hi => ?_, fun k hk => (ho.sameMemory k).trans (hbut k hk), ?_, ?_, thrOf_setThr_same s3 _ _, fun v hv => ⟨?_, ?_⟩, fun b => ?_⟩
  · rw [tcmKey_add]
    exact (ho.sameMemory _).trans (hget i hi)
  · refine (mpOf_setMp_same s4 n _).trans ?_
    rw [hm]
  · change regsOf (setRegs _ (.mp n) (settleRegs _ (regsOf (setMp s4 n _) (.mp n)))) (.mp n) = _
    rw [regsOf_setRegs_same, hr, loaded]
  · exact (ho.threads v hv).1.trans (regsOf_storeBytes s _ _ _ _ v)
  · exact (ho.threads v hv).2.trans (storeBytes_frame (thrOf · v) s _ _ _ _ fun _ _ _ _ => rfl)
  · exact (ho.frame (act · b) rfl).trans (storeBytes_frame (act · b) s _ _ _ _ fun _ _ _ _ => rfl)

/-- A processor takes an interrupt at once: nothing stops it, its channel is free, and its frame stack has room. -/
structure CanTake (s : State) (n : BitVec 2) : Prop where
  run : inRun s = true
  going : (mpOf s n).stopped = false
  unfenced : (mpOf s n).fenced = false
  egress : (thrOf s (.mp n)).egress = none
  chan : chanOf s (tkey (.mp n)) = none
  room : (mpOf s n).isp.toNat + 128 ≤ ((act s (aMPC + 0x100 * n.toNat + 8)).extractLsb' 7 11).toNat * 128

theorem CanTake.fits (h : CanTake s n) : (mpOf s n).isp.toNat + 128 ≤ 0x40000 := by
  have := h.room
  have := ((act s (aMPC + 0x100 * n.toNat + 8)).extractLsb' 7 11).isLt
  omega
theorem CanTake.awake (h : CanTake s n) (hr : mpRequests s n ≠ []) : CanTake (mpWake s n) n := by
  obtain ⟨ho, -, hm, hx, -⟩ := mpWake_requested hr
  exact
    { run := (ho.frame inRun rfl).trans h.run
      going := (congrArg Mp.stopped hm).trans h.going
      unfenced := (congrArg Mp.fenced hm).trans h.unfenced
      egress := (congrArg Thr.egress hx).trans h.egress
      chan := (ho.frame (chanOf · (tkey (.mp n))) rfl).trans h.chan
      room := by
        rw [hm, ho.frame (act · _) rfl]
        exact h.room }
/-- A processor that is awake, after a WFI or without one, pushes its frame and starts the handler. -/
theorem interruptTake_awake {w : State} (hw : mpWake s n = w) (h : CanTake w n)
    (hq : qualifies w n (mpOf w n).lvl.toNat (srEM (regsOf w (.mp n))) = some l) : interruptTake n s = startHandler (framed w n) n l := by
  obtain ⟨run, going, unfenced, egress, chan, room⟩ := h
  have hroom : ¬ fld (act w (aMPC + 0x100 * n.toNat + 8)) 7 11 * 128 < (mpOf w n).isp.toNat + 128 := by
    rw [fld_eq_extract]
    exact Nat.not_lt.mpr room
  unfold interruptTake
  simp only [hw, hq, run, going, unfenced, egress, chan, interruptMove_noChannel chan, Option.any_none, Option.isSome_none, Bool.not_true, Bool.false_eq_true,
    or_self, if_false, if_neg hroom, framed, loaded, framedThr, owedTo]
  cases (thrOf w (.mp n)).md <;> rfl
/-- The highest request that qualifies is taken. -/
theorem interruptTake_eq (h : CanTake s n) (hq : qualifies s n (mpOf s n).lvl.toNat (srEM (regsOf s (.mp n))) = some l) :
    interruptTake n s = startHandler (framed (mpWake s n) n) n l := by
  have hr := qualifies_requested hq
  obtain ⟨ho, hregs, hm, -, hf⟩ := mpWake_requested hr
  refine interruptTake_awake rfl (h.awake hr) ?_
  rw [qualifies_mpOnly ho hf, hm, hregs]
  exact hq
theorem exec_interruptEntry (h : CanTake s n) (hq : qualifies s n (mpOf s n).lvl.toNat (srEM (regsOf s (.mp n))) = some l) :
    exec (.interruptEntry n) s = .next (startHandler (framed (mpWake s n) n) n l) :=
  (onCore_on _ (inRun_clocks h.run)).trans (congrArg _ (interruptTake_eq h hq))
end

/-- Settles O27: the processor, awake, pushes the frame of the registers with its loads completed, and starts the handler in the state that this leaves. -/
theorem interruptPushesItsFrame : Obligations.InterruptPushesItsFrame := by
  intro s n l t x m r isp vec frame hrun hgoing hfence hegress hchan hq hroom
  have hcan : CanTake s n := ⟨hrun, hgoing, hfence, hegress, hchan, hroom⟩
  have hq' : qualifies s n (mpOf s n).lvl.toNat (srEM (regsOf s (.mp n))) = some l := by
    rw [srEM, bit, ← foldl_setG_sr x.loads]
    exact hq
  obtain ⟨hwake, hwr, hwm, hwx, -⟩ := mpWake_requested (qualifies_requested hq')
  have hload : loaded (mpWake s n) n = r := by
    rw [loaded, hwr, hwx]
    exact settleRegs_pastWfi x m _
  obtain ⟨hget, hbut, hfm, hfr, hfx, hfo, hfa⟩ := framed_effect (hcan.awake (qualifies_requested hq')).fits
  obtain ⟨hstart, hsm, hsx, hsr'⟩ := startHandler_effect (framed (mpWake s n) n) n l
  rw [hwm] at hget hbut hfm hfx
  rw [hload] at hget hfr
  rw [hwx] at hfx
  rw [hfm] at hsm
  rw [hfx, framedThr, owedTo_eq] at hsx
  rw [hfr] at hsr'
  refine ⟨_, exec_interruptEntry hcan hq', fun i hi => ?_, fun k hk => ?_, hsm, fun i hi => ?_, ?_, hsx, ?_⟩
  · rw [hstart.sameMemory, hget i hi, frameOf_eq]
  · rw [hstart.sameMemory, hbut k hk, hwake.sameMemory]
  · rw [hsr', getLsbD_vectorOf _ _ _ _ hi, hstart.sameMemory, hfa, hwake.frame (act · _) rfl]
  · rw [hsr']
    rfl
  · exact hwake.threads.trans (hfo.trans hstart.threads)

end Sys2Proof.Machine
end

section
/-! The event controller (R405 to R415): what moderation may change, and how a record is put into a queue of a target. -/
namespace Sys2Proof.Machine

/-! Moderation (R412, R414). -/
/-- u with the sources and the targets of the event controller as in s. -/
def evtBack (s u : State) : State := { u with evt := { u.evt with src := s.evt.src, tgt := s.evt.tgt } }
/-- A source but for its claim window. -/
def sansWindow (x : EvSrc) : EvSrc := { x with window := none, opened := 0 }
theorem sansWindow_eq {x y : EvSrc} (h : sansWindow x = sansWindow y) : x = { y with window := x.window, opened := x.opened } := by
  cases x
  cases y
  simpa [sansWindow] using h
/-- Nothing has changed but claim windows and target t, which keeps IDLE. -/
structure Moderates (s u : State) (t : Nat) : Prop where
  rest : evtBack s u = s
  src : ∀ n, sansWindow (evSrc u n) = sansWindow (evSrc s n)
  others : ∀ j, j ≠ t → tgtOf u j = tgtOf s j
  idle : (tgtOf u t).idle = (tgtOf s t).idle

theorem Moderates.refl (s : State) (t : Nat) : Moderates s s t := ⟨rfl, fun _ => rfl, fun _ _ => rfl, rfl⟩
theorem Moderates.trans {s u w : State} {t : Nat} (h : Moderates s u t) (h' : Moderates u w t) : Moderates s w t where
  rest := by
    have e : evtBack s w = evtBack s (evtBack u w) := rfl
    rw [e, h'.rest, h.rest]
  src n := (h'.src n).trans (h.src n)
  others j hj := (h'.others j hj).trans (h.others j hj)
  idle := h'.idle.trans h.idle
/-- What reads none of that is as it was. -/
theorem Moderates.frame {α : Type} (f : State → α) {s u : State} {t : Nat} (h : Moderates s u t) (hf : f (evtBack s u) = f u) : f u = f s :=
  hf.symm.trans (congrArg f h.rest)
theorem Moderates.sameMemory {s u : State} {t : Nat} (h : Moderates s u t) : SameMemory s u := fun k => h.frame (memGet · k) rfl
theorem Moderates.evQ {s u : State} {t : Nat} (h : Moderates s u t) (j g : Nat) : evQ u j g = evQ s j g := h.frame (Machine.evQ · j g) rfl
theorem Moderates.imr {s u : State} {t : Nat} (h : Moderates s u t) (a : Nat) : imr u a = imr s a := h.frame (Machine.imr · a) rfl
theorem Moderates.st {s u : State} {t : Nat} (h : Moderates s u t) (n : Nat) : (evSrc u n).st = (evSrc s n).st := (congrArg EvSrc.st (h.src n) :)

section
variable (s : State) (t : Nat)

theorem moderates_openWindow (n g : Nat) : Moderates s (openWindow s n g) t := by
  unfold openWindow
  dsimp only
  split
  · refine ⟨rfl, fun m => ?_, fun _ _ => rfl, rfl⟩
    by_cases hm : m = n
    · rw [hm, evSrc_setEvSrc_same]
      rfl
    · rw [evSrc_setEvSrc_other _ _ _ _ hm]
  · exact .refl s t
theorem tgtOf_openWindow (n g : Nat) : tgtOf (openWindow s n g) t = tgtOf s t := by
  unfold openWindow
  dsimp only
  split <;> rfl
theorem moderates_openWindows : Moderates s (openWindows s t) t := by
  unfold openWindows
  split
  · refine List.foldlRecOn _ _ (motive := fun u => Moderates s u t) (.refl s t) fun u hu r _ => ?_
    split
    · exact hu
    · exact hu.trans (moderates_openWindow u t _ _)
  · exact .refl s t
theorem tgtOf_openWindows : tgtOf (openWindows s t) t = tgtOf s t := by
  unfold openWindows
  split
  · refine List.foldlRecOn _ _ (motive := fun u => tgtOf u t = tgtOf s t) rfl fun u hu r _ => ?_
    split
    · exact hu
    · exact (tgtOf_openWindow u t _ _).trans hu
  · rfl
theorem moderates_setTgt {x : EvTgt} (h : x.idle = (tgtOf s t).idle) : Moderates s (setTgt s t x) t :=
  ⟨rfl, fun _ => rfl, tgtOf_setTgt_other s t x, by rw [tgtOf_setTgt_same, h]⟩
theorem moderates_release : Moderates s (release s t) t :=
  (moderates_setTgt s t (x := { tgtOf s t with released := true, holdoff := none }) rfl).trans (moderates_openWindows _ t)
theorem tgtOf_release : tgtOf (release s t) t = { tgtOf s t with released := true, holdoff := none } :=
  (tgtOf_openWindows _ t).trans (tgtOf_setTgt_same s t _)
theorem moderates_moderate : Moderates s (moderate s t) t := by
  unfold moderate
  dsimp only
  split
  · exact moderates_setTgt s t rfl
  · split
    · exact moderates_openWindows s t
    · split
      · exact moderates_release s t
      · split
        · exact moderates_setTgt s t rfl
        · exact .refl s t
/-- A target that holds records and waits idle is released (R412). -/
theorem moderate_releases (hn : tgtLoad s t ≠ 0) (hw : tgtWaits s t = true) : (tgtOf (moderate s t) t).released = true := by
  unfold moderate
  dsimp only
  rw [if_neg hn]
  split
  · next hr => rw [tgtOf_openWindows, hr]
  · rw [if_pos (Or.inr hw), tgtOf_release]
end

/-! Group queues and record slots (R410, R411). -/
theorem evQ_setEvQ_same (s : State) (t g : Nat) (x : EvQ) : evQ (setEvQ s t g x) t g = x := sget_sset_same _ _ _ _
theorem evQ_setEvQ_other (s : State) (t g : Nat) (x : EvQ) {j h : Nat} (hk : 8 * j + h ≠ 8 * t + g) : evQ (setEvQ s t g x) j h = evQ s j h :=
  sget_sset_other _ _ _ _ _ _ hk
/-- A byte of shared SRAM, which the SCT block may write at P2 (R24). -/
theorem wrKey_shared (s : State) {a : Nat} (h : 0x1_0000_0000 ≤ a) (h' : a < 0x1_0100_0000) : wrKey s .sct 2 a = some a := by
  have hl : locate s .sct a = some (.sram, a) := by
    unfold locate
    rw [if_neg (by omega), if_neg (by omega), if_neg (by omega), if_neg (by omega), if_pos ⟨h, h'⟩]
  rw [wrKey, hl]
  rfl
/-- The 16 bytes of a slot lie in shared SRAM. -/
theorem slotAddr_bounds (s : State) (t g i : Nat) : 0x1_0000_0000 ≤ slotAddr s t g i ∧ slotAddr s t g i + 16 ≤ 0x1_0100_0000 := by
  have h : fld (tgtCfg s t) 16 12 * 4096 + g * 16 * 2 ^ tgtLog2 s t + 16 * i = 16 * (fld (tgtCfg s t) 16 12 * 256 + g * 2 ^ tgtLog2 s t + i) := by ring
  rw [slotAddr, h]
  omega
theorem length_recBytes (src : Nat) (offered more : Bool) (prio t : Nat) (info : Word) (time : DWord) :
    (recBytes src offered more prio t info time).length = 16 := by simp [recBytes, length_leBytes]

/-- The record that a source puts into a queue. -/
def newRecord (s : State) (n t g prio : Nat) (offered : Bool) : EvRec :=
  { slot := (evQ s t g).wr % 2 ^ tgtLog2 s t, src := BitVec.ofNat 11 n, offered := offered, gen := (evSrc s n).gen, prio := BitVec.ofNat 8 prio,
    time := (evSrc s n).time, num := (evQ s t g).num }
/-- The bytes of that record. -/
def newBytes (s : State) (n t prio : Nat) (offered : Bool) : List Byte :=
  recBytes n offered (evSrc s n).more prio t (evSrc s n).info (evSrc s n).time
/-- The state with the record in memory and in its queue, before moderation. -/
def recorded (s : State) (n t g prio : Nat) (offered : Bool) : State :=
  setEvQ (storeBytes s .sct 2 (slotAddr s t g ((evQ s t g).wr % 2 ^ tgtLog2 s t)) (newBytes s n t prio offered)) t g
    { wr := (evQ s t g).wr % 2 ^ tgtLog2 s t + 1, num := (evQ s t g).num + 1, recs := (evQ s t g).recs ++ [newRecord s n t g prio offered] }

section
variable (s : State) (n t g prio : Nat) (offered : Bool)

theorem moderates_putRecord : Moderates (recorded s n t g prio offered) (putRecord s n t g prio offered) t := moderates_moderate _ t
/-- What reads neither memory nor the group queues is as it was before the record. -/
theorem recorded_frame {α : Type} (f : State → α)
    (h : ∀ m up corr r q, f { s with
      mem := m, memc := { s.memc with upset := up, corr := corr }, reg := { s.reg with rsvd := r }, evt := { s.evt with q := q } } = f s) :
    f (recorded s n t g prio offered) = f s := by
  obtain ⟨m, up, corr, r, hs⟩ := storeBytes_eq s .sct 2 (slotAddr s t g ((evQ s t g).wr % 2 ^ tgtLog2 s t)) (newBytes s n t prio offered)
  rw [recorded, hs]
  exact h m up corr r _
theorem evQ_putRecord_same : evQ (putRecord s n t g prio offered) t g =
    { wr := (evQ s t g).wr % 2 ^ tgtLog2 s t + 1, num := (evQ s t g).num + 1, recs := (evQ s t g).recs ++ [newRecord s n t g prio offered] } :=
  ((moderates_putRecord s n t g prio offered).evQ t g).trans (evQ_setEvQ_same _ t g _)
theorem evQ_putRecord_other {j h : Nat} (hk : 8 * j + h ≠ 8 * t + g) : evQ (putRecord s n t g prio offered) j h = evQ s j h := by
  rw [(moderates_putRecord s n t g prio offered).evQ, recorded, evQ_setEvQ_other _ _ _ _ hk]
  exact storeBytes_frame (evQ · j h) s _ _ _ _ fun _ _ _ _ => rfl
theorem imr_putRecord (a : Nat) : imr (putRecord s n t g prio offered) a = imr s a :=
  ((moderates_putRecord s n t g prio offered).imr a).trans (recorded_frame s n t g prio offered (imr · a) fun _ _ _ _ _ => rfl)
theorem time_putRecord : (putRecord s n t g prio offered).time = s.time :=
  ((moderates_putRecord s n t g prio offered).frame State.time rfl).trans (recorded_frame s n t g prio offered State.time fun _ _ _ _ _ => rfl)
theorem evSrc_putRecord (m : Nat) : sansWindow (evSrc (putRecord s n t g prio offered) m) = sansWindow (evSrc s m) :=
  ((moderates_putRecord s n t g prio offered).src m).trans
    (recorded_frame s n t g prio offered (fun v => sansWindow (evSrc v m)) fun _ _ _ _ _ => rfl)
/-- The record's bytes stand in its slot, and no other byte of memory has changed. -/
theorem memory_putRecord : let u := putRecord s n t g prio offered
    let a := slotAddr s t g ((evQ s t g).wr % 2 ^ tgtLog2 s t)
    (∀ j, j < 16 → memGet u (a + j) = (newBytes s n t prio offered).getD j 0) ∧ SameMemoryBut s u a 16 := by
  intro u a
  have hlen : (newBytes s n t prio offered).length = 16 := length_recBytes _ _ _ _ _ _ _
  obtain ⟨hlo, hhi⟩ := slotAddr_bounds s t g ((evQ s t g).wr % 2 ^ tgtLog2 s t)
  have hkeys : ∀ j, j < (newBytes s n t prio offered).length → wrKey s .sct 2 (a + j) = some (a + j) := fun j hj => wrKey_shared s (by omega) (by omega)
  obtain ⟨hget, hbut⟩ := storeBytes_run hkeys
  rw [hlen] at hget hbut
  have hm : SameMemory (storeBytes s .sct 2 a (newBytes s n t prio offered)) u := (moderates_putRecord s n t g prio offered).sameMemory
  exact ⟨fun j hj => (hm _).trans (hget j hj), fun k hk => (hm k).trans (hbut k hk)⟩
end

end Sys2Proof.Machine
end

section
/-! The commands of the event controller (R405 to R415, R418, R420, R421, R424), each by what it leaves. -/
namespace Sys2Proof.Machine

/-! Selection (R408 to R410). -/
section
variable {s : State} {n t g : Nat}

theorem exec_eventRecordWrite_held (hc : clocksOn s = true) (h : s.evt.hold = true) : exec .eventRecordWrite s = .next s := by
  change execEventRecordWrite s = _
  rw [execEventRecordWrite, onCore_on _ hc, if_pos h]
theorem exec_eventRecordWrite (hc : clocksOn s = true) (h : s.evt.hold = false) : exec .eventRecordWrite s = .next (selectFrom (candidates s) s) := by
  change execEventRecordWrite s = _
  rw [execEventRecordWrite, onCore_on _ hc, h]
  rfl
theorem pickTarget_eligible (h : pickTarget s n g = some t) : eligible s t g = true := by
  have hmem : t ∈ (maskTargets s n).filter fun t => eligible s t g := by
    unfold pickTarget at h
    dsimp only at h
    split at h
    · next heq =>
      obtain rfl := Option.some.inj h
      exact (List.mem_filter.mp (List.mem_of_getLast? heq)).1
    · exact List.mem_of_getLast? h
  exact (List.mem_filter.mp hmem).2
/-- The oldest unclaimed record of an eligible queue is less than its size behind the write index (R411). -/
theorem qFill_of_eligible (h : eligible s t g = true) : qFill (evQ s t g) < 2 ^ tgtLog2 s t := by
  simp only [eligible, hasRoom, Bool.and_eq_true, decide_eq_true_eq] at h
  exact h.1.2
/-- INFO of a source as its record shows it: a WAKE_IN source gives its level (R404). -/
def shownInfo (s : State) (n : Nat) : Word := if 0x4D0 ≤ n ∧ n ≤ 0x4D3 then (if (evSrc s n).level then 1 else 0) else (evSrc s n).info
/-- A source whose record goes to target t. -/
def selected (s : State) (n t : Nat) : EvSrc :=
  { evSrc s n with queued := true, info := shownInfo s n, rrptr := BitVec.ofNat 5 t, gen := (evSrc s n).gen + 1, window := none }
theorem selectFrom_picked {ns : List Nat} {prio : Nat} (hp : fld (evW0 s n) 0 8 = prio) (h : pickTarget s n (prioGroup s prio) = some t) :
    selectFrom (n :: ns) s = putRecord (setEvSrc s n (selected s n t)) n t (prioGroup s prio) prio false := by
  simp only [selectFrom, hp, h, writeRecord, selected, shownInfo, bitVec_ofNat_b2n]
  rfl
/-- A candidate without an eligible target changes nothing but the count of selections that full queues hold back. -/
theorem selectFrom_unpicked {prio : Nat} (hp : fld (evW0 s n) 0 8 = prio) (h : pickTarget s n (prioGroup s prio) = none) :
    selectFrom [n] s = if !((maskTargets s n).filter fun t => tgtEn s t).isEmpty &&
      ((maskTargets s n).filter fun t => tgtEn s t).all (fun t => !hasRoom s t (prioGroup s prio)) then bump s (aEVT + 0x58) else s := by
  simp only [selectFrom, hp, h]
theorem unpicked_counts (hne : maskTargets s n ≠ []) (hfull : ∀ j ∈ maskTargets s n, tgtEn s j = true ∧ hasRoom s j g = false) :
    (!((maskTargets s n).filter fun t => tgtEn s t).isEmpty && ((maskTargets s n).filter fun t => tgtEn s t).all (fun t => !hasRoom s t g)) = true := by
  have hall : (maskTargets s n).filter (fun t => tgtEn s t) = maskTargets s n := List.filter_eq_self.mpr fun j hj => (hfull j hj).1
  have hroom : (maskTargets s n).all (fun t => !hasRoom s t g) = true := List.all_eq_true.mpr fun j hj => by rw [(hfull j hj).2]; rfl
  rw [hall, hroom]
  simpa using hne
end

/-! Claims and EOI (R413, R415). -/
section
variable {s : State} {n t g : Nat} {r : EvRec} {lvl : Lvl}

theorem exec_claim {t : BitVec 5} {g : BitVec 3} (hc : clocksOn s = true) (hl : Reaches lvl 1) (ht : t.toNat < 20) :
    exec (.claim lvl t g) s = .next (doClaim s t.toNat g.toNat).2 :=
  (onReg_reaches _ hc hl).trans (congrArg _ (if_pos ht))
theorem exec_claim_noTarget {t : BitVec 5} {g : BitVec 3} (hc : clocksOn s = true) (hl : Reaches lvl 1) (ht : 20 ≤ t.toNat) :
    exec (.claim lvl t g) s = .next s := (onReg_reaches _ hc hl).trans (congrArg _ (if_neg (Nat.not_lt.mpr ht)))
theorem doClaim_empty (h : ((evQ s t g).recs.find? fun d => decide (t < 4) || d.offered) = none) : (doClaim s t g).2 = s := by simp only [doClaim, h]
/-- The queue without the record that a claim read takes. -/
def unqueued (s : State) (t g : Nat) (r : EvRec) : State := setEvQ s t g { evQ s t g with recs := (evQ s t g).recs.erase r }
theorem doClaim_claims (h : ((evQ s t g).recs.find? fun d => decide (t < 4) || d.offered) = some r) (hr : (evSrc s r.src.toNat).claimed < r.gen) :
    (doClaim s t g).2 = moderate (claimSrc (unqueued s t g r) t r) t := by
  simp only [doClaim, h]
  exact congrArg Prod.snd (if_neg (Nat.not_le.mpr hr))
theorem doClaim_stale (h : ((evQ s t g).recs.find? fun d => decide (t < 4) || d.offered) = some r) (hr : r.gen ≤ (evSrc s r.src.toNat).claimed) :
    (doClaim s t g).2 = moderate (bump (unqueued s t g r) (aEVT + 0x54)) t := by
  simp only [doClaim, h]
  exact congrArg Prod.snd (if_pos hr)
/-- A claim takes the record out of its queue and makes its source ACTIVE, owned by the target. -/
theorem claim_effect (s : State) (t g : Nat) (r : EvRec) : let u := moderate (claimSrc (unqueued s t g r) t r) t
    (evQ u t g).recs = (evQ s t g).recs.erase r ∧
      (∃ w o, evSrc u r.src.toNat = { evSrc s r.src.toNat with
        st := .active, queued := false, owner := BitVec.ofNat 5 t, runprio := r.prio, claimed := r.gen, window := w, opened := o, more := false }) ∧
      (∀ m, m ≠ r.src.toNat → (evSrc u m).st = (evSrc s m).st) ∧ SameMemory s u := by
  intro u
  have hm : Moderates (claimSrc (unqueued s t g r) t r) u t := moderates_moderate _ t
  refine ⟨?_, ⟨(evSrc u r.src.toNat).window, (evSrc u r.src.toNat).opened, ?_⟩, fun m hne => ?_, hm.sameMemory⟩
  · rw [hm.evQ]
    exact congrArg EvQ.recs (evQ_setEvQ_same s t g _)
  · have h := hm.src r.src.toNat
    rw [claimSrc, evSrc_setEvSrc_same] at h
    exact sansWindow_eq h
  · rw [hm.st, claimSrc, evSrc_setEvSrc_other _ _ _ _ hne]
    rfl
theorem stale_effect (s : State) (t g : Nat) (r : EvRec) : let u := moderate (bump (unqueued s t g r) (aEVT + 0x54)) t
    (evQ u t g).recs = (evQ s t g).recs.erase r ∧ (∀ m, (evSrc u m).st = (evSrc s m).st) ∧
      imr u (aEVT + 0x54) = satAdd (imr s (aEVT + 0x54)) 1 ∧ SameMemory s u := by
  intro u
  have hm : Moderates (bump (unqueued s t g r) (aEVT + 0x54)) u t := moderates_moderate _ t
  refine ⟨?_, fun m => hm.st m, (hm.imr _).trans (imr_bump_same (unqueued s t g r) _), hm.sameMemory⟩
  rw [hm.evQ]
  exact congrArg EvQ.recs (evQ_setEvQ_same s t g _)

/-- The state with EOI_BAD set or clear. -/
def eoiNoted (s : State) (b : Bool) : State := { s with evt := { s.evt with eoiBad := b } }
/-- A source that is claimed no longer and was claimed when its EOI came (R406, R415). -/
def afterEoi (s : State) (n : Nat) : EvSrc :=
  if levelHolds s n then { evSrc s n with st := .pending, queued := false, info := levelInfo s n, time := s.time.now, more := false }
  else { evSrc s n with st := .inactive }
theorem doEoi_notOwner (h : (evSrc s n).owner.toNat ≠ t) : doEoi s n t = eoiNoted s true := by
  unfold doEoi
  exact if_pos h
theorem doEoi_notClaimed (ho : (evSrc s n).owner.toNat = t) (h : (evSrc s n).st = .pending ∨ (evSrc s n).st = .inactive) :
    doEoi s n t = eoiNoted s true := by
  simp only [doEoi, ho, ne_eq, not_true, if_false]
  rcases h with h | h <;> rw [h] <;> rfl
theorem doEoi_active (ho : (evSrc s n).owner.toNat = t) (h : (evSrc s n).st = .active) : doEoi s n t = setEvSrc (eoiNoted s false) n (afterEoi s n) := by
  simp only [doEoi, ho, ne_eq, not_true, if_false, h, afterEoi]
  split <;> rfl
theorem doEoi_activePending (ho : (evSrc s n).owner.toNat = t) (h : (evSrc s n).st = .activePending) :
    doEoi s n t = setEvSrc (eoiNoted s false) n { evSrc s n with st := .pending, queued := false } := by
  simp only [doEoi, ho, ne_eq, not_true, if_false, h]
  rfl
theorem exec_eoi {v : BitVec 11} {t : BitVec 5} (hc : clocksOn s = true) (hl : Reaches lvl 1) (ht : t.toNat < 20) :
    exec (.eoi lvl v t) s = .next (doEoi s v.toNat t.toNat) := by
  change execEoi lvl v t s = _
  rw [execEoi, onReg_reaches _ hc hl, eoiWrite, if_pos ht]
theorem exec_eoi_noTarget {v : BitVec 11} {t : BitVec 5} (hc : clocksOn s = true) (hl : Reaches lvl 1) (ht : 20 ≤ t.toNat) :
    exec (.eoi lvl v t) s = .next (doEoi (setRsvd s) v.toNat t.toNat) := by
  change execEoi lvl v t s = _
  rw [execEoi, onReg_reaches _ hc hl, eoiWrite, if_neg (Nat.not_lt.mpr ht)]
/-- An EOI that is accepted changes its source alone. -/
theorem eoi_accepted (s : State) (n : Nat) (x : EvSrc) : let u := setEvSrc (eoiNoted s false) n x
    u.evt.eoiBad = false ∧ (∀ m, m ≠ n → evSrc u m = evSrc s m) ∧ SameMemory s u ∧ evSrc u n = x :=
  ⟨rfl, evSrc_setEvSrc_other (eoiNoted s false) n x, fun _ => rfl, evSrc_setEvSrc_same _ n x⟩
end

/-! Offers (R414). -/
section
variable {s : State} {n : Nat}

/-- The offered copies of a record reach every target of a list without repetition. -/
theorem offers_reach (n g prio : Nat) (l : List Nat) (hl : l.Nodup) (s : State) :
    let u := l.foldl (fun s t => putRecord s n t g prio true) s
    u.time = s.time ∧ (∀ a, imr u a = imr s a) ∧ (∀ j, j ∉ l → evQ u j g = evQ s j g) ∧
      ∀ j ∈ l, ∃ d, (evQ u j g).recs = (evQ s j g).recs ++ [d] ∧ d.src = BitVec.ofNat 11 n ∧ d.offered = true := by
  induction l generalizing s with
  | nil => exact ⟨rfl, fun _ => rfl, fun _ _ => rfl, fun _ h => absurd h List.not_mem_nil⟩
  | cons t l ih =>
    obtain ⟨hnot, hl⟩ := List.nodup_cons.mp hl
    obtain ⟨htime, himr, hother, hput⟩ := ih hl (putRecord s n t g prio true)
    have hkeep : ∀ j, j ≠ t → evQ (putRecord s n t g prio true) j g = evQ s j g := fun j hj => evQ_putRecord_other s n t g prio true (by omega)
    refine ⟨htime.trans (time_putRecord s n t g prio true), fun a => (himr a).trans (imr_putRecord s n t g prio true a), fun j hj => ?_, fun j hj => ?_⟩
    · obtain ⟨hjt, hjl⟩ := not_or.mp (mt List.mem_cons.mpr hj)
      exact (hother j hjl).trans (hkeep j hjt)
    · by_cases hjt : j = t
      · subst hjt
        refine ⟨newRecord s n j g prio true, ?_, rfl, rfl⟩
        exact (congrArg EvQ.recs (hother j hnot)).trans (congrArg EvQ.recs (evQ_putRecord_same s n j g prio true))
      · obtain ⟨d, hd, hsrc, hoff⟩ := hput j ((List.mem_cons.mp hj).resolve_left hjt)
        exact ⟨d, by rw [← hkeep j hjt]; exact hd, hsrc, hoff⟩
/-- A source whose claim window has ended. -/
def windowEnded (s : State) (n : Nat) : State := setEvSrc (bump s (aEVT + 0x50)) n { evSrc s n with window := none }
theorem offer_offers {k : Nat} {r : EvRec} (hst : (evSrc s n).st = .pending) (hq : (evSrc s n).queued = true) (hw : fld (act s (aEVT + 4)) 0 16 ≠ 0)
    (hf : findRecord s n = some (k, r)) : offer s n =
      ((maskTargets s n).filter fun t => t ≠ k && eligible s t (prioGroup s r.prio.toNat)).foldl
        (fun v t => putRecord v n t (prioGroup s r.prio.toNat) r.prio.toNat true) (windowEnded s n) := by
  have hgo : ¬((evSrc s n).st ≠ .pending ∨ !(evSrc s n).queued ∨ fld (act s (aEVT + 4)) 0 16 = 0) := by simp [hst, hq, hw]
  unfold offer
  dsimp only
  rw [if_neg hgo, hf]
  rfl
theorem nodup_maskTargets (s : State) (n : Nat) : (maskTargets s n).Nodup := List.nodup_range.filter _
theorem exec_claimWindowEnd {v : BitVec 11} {a : DWord} (hc : clocksOn s = true) (hx : (evSrc s v.toNat).window = some a)
    (hw : fld (act s (aEVT + 4)) 0 16 ≠ 0) (hh : s.evt.hold = false) : exec (.claimWindowEnd v) s =
      .next (offer (atTime s (a + BitVec.ofNat 64 (fld (act s (aEVT + 4)) 0 16 * 1000))) v.toNat) := by
  refine (onCore_on _ hc).trans (congrArg _ ?_)
  simp only [doWindowEnd, hx, hw, hh, Bool.false_eq_true, or_self, if_false]
end

/-! Moderation by time, and IDLE (R412). -/
section
variable {s : State} {t : BitVec 5}

theorem exec_modTimeExpiry {a : DWord} (hc : clocksOn s = true) (hx : (tgtOf s t.toNat).holdoff = some a) (hm : fld (tgtMod s t.toNat) 16 16 ≠ 0)
    (hh : s.evt.hold = false) (ht : t.toNat < 20) : exec (.modTimeExpiry t) s =
      .next (release (atTime s (a + BitVec.ofNat 64 (64 * fld (tgtMod s t.toNat) 16 16))) t.toNat) := by
  refine (onCore_on _ hc).trans (congrArg _ ?_)
  simp only [doModTime, hx, hm, hh, Nat.not_le.mpr ht, Bool.false_eq_true, or_self, if_false]
theorem exec_evtTIdle {lvl : Lvl} (hc : clocksOn s = true) (hl : Reaches lvl 1) :
    exec (.evtTIdle lvl t) s = .next (doTIdle t.toNat s) := onReg_reaches _ hc hl
theorem doTIdle_effect {k : Nat} (h4 : 4 ≤ k) (hk : k < 20) : let u := doTIdle k s
    (tgtOf u k).idle = true ∧ (tgtLoad s k ≠ 0 → (tgtOf u k).released = true) ∧ SameMemory s u := by
  let s1 := setTgt s k { tgtOf s k with idle := true }
  have hidle : (tgtOf s1 k).idle = true := congrArg EvTgt.idle (tgtOf_setTgt_same s k _)
  have hu : doTIdle k s = if tgtLoad s k = 0 then s1 else moderate s1 k := if_pos ⟨h4, hk⟩
  have hwaits : tgtWaits s1 k = true := by rw [tgtWaits, if_neg (Nat.not_lt.mpr h4), hidle]
  intro u
  have hm : Moderates s1 (moderate s1 k) k := moderates_moderate s1 k
  by_cases h0 : tgtLoad s k = 0
  · rw [show u = s1 from hu.trans (if_pos h0)]
    exact ⟨hidle, fun h => absurd h0 h, fun _ => rfl⟩
  · rw [show u = moderate s1 k from hu.trans (if_neg h0)]
    exact ⟨hm.idle.trans hidle, fun _ => moderate_releases s1 k h0 hwaits, hm.sameMemory⟩
end

end Sys2Proof.Machine
end

section
/-! Host targets (R420), the hold of delivery (R418), software sources (R404) and the wake latch (R421, R424). -/
namespace Sys2Proof.Machine

/-! A message of any type on a session that can send (R297, R299). -/
theorem sct_pubSent (s : State) (bs : List Byte) : (pubSent s bs).sct = s.sct := by
  induction s, bs using pubSent.induct with
  | case1 s a b c d e f g h r q x ih =>
    rw [pubSent]
    exact ih
  | case2 bs s h =>
    rw [pubSent]
    exact h
theorem sct_sendSess {s v : State} (hv : v.sct = s.sct) (k : Nat) (z : Sess) (typ flags : Byte) (seq : Word) (body : List Byte) :
    (sendSess (setSess v k z) k typ flags seq body).sct = { (setSess s k z).sct with rtag := s.sct.rtag + 1 } := by
  rw [sendSess, sendSct_sct, setSess, setSess, hv]
/-- The message that leaves takes the session's next SEQ and the next R-TAG number. -/
theorem sct_transmit (s : State) (k : Nat) (m : TxMsg) (ack : Bool) : ∃ z : Sess,
    (transmit s k m ack).sct = { (setSess s k z).sct with rtag := s.sct.rtag + 1 } ∧ z.next = (sessOf s k).next + 1 ∧
      z.unacked = (sessOf s k).unacked ++ [{ m with seq := (sessOf s k).next, sent := s.time.now }] := by
  have hpub : (if m.typ = 0x17 then pubSent s m.body else s).sct = s.sct := by
    split
    · exact sct_pubSent s m.body
    · rfl
  unfold transmit
  dsimp only
  generalize (if m.typ = 0x17 then pubSent s m.body else s) = v at hpub
  split_ifs <;> exact ⟨_, sct_sendSess hpub k _ _ _ _ _, rfl, rfl⟩
/-- A session that can send sends one message, which stays until it is acknowledged. -/
theorem sessSend_sent {s : State} {k : Nat} (typ : Byte) (body : List Byte) (h : CanSend s k) : Sent s (sessSend s k typ body) k typ body := by
  let m : TxMsg := { typ := typ, body := body }
  obtain ⟨z, hsct, hnext, hun⟩ := sct_transmit (oneWaiting s k m) k m true
  have hz : sessOf (oneWaiting s k m) k = { sessOf s k with waitq := [m] } := sessOf_setSess_same s k _
  rw [sessSend_canSend typ body h]
  have ht : sessOf (transmit (oneWaiting s k m) k m true) k = z := by
    rw [sessOf, hsct]
    exact sget_sset_same _ _ _ _
  refine ⟨(congrArg Sct.rtag hsct :), ?_, { m with seq := (sessOf s k).next, sent := s.time.now }, ?_, rfl, rfl, rfl⟩
  · rw [noneWaiting, sessOf_setSess_same, ht, hnext, hz]
  · rw [noneWaiting, sessOf_setSess_same, ht, hun, hz]
    rfl

/-! EVENT_SEND (R420). -/
section
variable {s : State} {t : Nat}

/-- What a fold over queues of a target does to the state is a change of the group queues. -/
theorem foldl_setEvQ_eq (t : Nat) (f : State → Nat → EvQ) (l : List Nat) (s : State) :
    ∃ q : Sparse EvQ, l.foldl (fun s g => setEvQ s t g (f s g)) s = { s with evt := { s.evt with q := q } } := by
  refine List.foldlRecOn l _ (motive := fun u => ∃ q : Sparse EvQ, u = { s with evt := { s.evt with q := q } }) ⟨s.evt.q, rfl⟩ fun u hu g _ => ?_
  obtain ⟨q, rfl⟩ := hu
  exact ⟨_, rfl⟩
theorem foldl_emptied (t j : Nat) (l : List Nat) (s : State) (h : (evQ s t j).recs = [] ∨ j ∈ l) :
    (evQ (l.foldl (fun s g => setEvQ s t g { evQ s t g with recs := [] }) s) t j).recs = [] := by
  induction l generalizing s with
  | nil => exact h.resolve_right List.not_mem_nil
  | cons g l ih =>
    refine ih _ ?_
    by_cases hj : j = g
    · exact .inl (by rw [hj, evQ_setEvQ_same])
    · rw [evQ_setEvQ_other _ _ _ _ (by omega)]
      exact h.imp_right fun hm => (List.mem_cons.mp hm).resolve_left hj
/-- The records of a target whose session is gone are discarded. -/
theorem discardRecords_effect (s : State) (t : Nat) : let u := discardRecords s t
    (∀ j, j < 8 → (evQ u t j).recs = []) ∧ SameMemory s u := by
  unfold discardRecords
  dsimp only
  obtain ⟨q, hq⟩ := foldl_setEvQ_eq t (fun s g => { evQ s t g with recs := [] }) (List.range 8) s
  have hempty := fun j (hj : j < 8) => foldl_emptied t j (List.range 8) s (.inr (List.mem_range.mpr hj))
  generalize (List.range 8).foldl (fun s g => setEvQ s t g { evQ s t g with recs := [] }) s = s1 at hq hempty
  refine ⟨fun j hj => ?_, fun k => ?_⟩
  · rw [(moderates_moderate _ t).evQ]
    refine List.foldlRecOn _ _ (motive := fun u => (evQ u t j).recs = []) (hempty j hj) fun u hu r _ => ?_
    split <;> exact hu
  · refine ((moderates_moderate _ t).sameMemory k).trans ?_
    refine List.foldlRecOn _ _ (motive := fun u => memGet u k = memGet s k) (by rw [hq]; rfl) fun u hu r _ => ?_
    split <;> exact hu

/-- A host target in service whose delivery is not held. -/
structure Delivers (s : State) (t : BitVec 5) : Prop where
  host : 4 ≤ t.toNat
  target : t.toNat < 20
  going : s.evt.hold = false

theorem exec_eventSend {t : BitVec 5} (hc : clocksOn s = true) : exec (.eventSend t) s = .next (doEventSend t.toNat s) := onCore_on _ hc
theorem Delivers.acts {t : BitVec 5} (h : Delivers s t) : ¬(t.toNat < 4 ∨ 20 ≤ t.toNat ∨ s.evt.hold) := by
  simp [Nat.not_lt.mpr h.host, Nat.not_le.mpr h.target, h.going]
theorem Delivers.discards {t : BitVec 5} (h : Delivers s t) (hs : isOpen s (tgtSess s t.toNat) = false) :
    doEventSend t.toNat s = discardRecords s t.toNat := by
  simp only [doEventSend, if_neg h.acts, hs, Bool.not_false, if_true]
/-- The records that one EVENT carries: the oldest unsent ones, one for a session below version 0x21 (R420). -/
def carried (s : State) (t : Nat) : List (Nat × EvRec) := (unsent s t).take (if (sessOf s (tgtSess s t)).ver.toNat < 0x21 then 1 else 32)
/-- The body of that EVENT. -/
def eventBody (s : State) (t : Nat) : List Byte :=
  [BitVec.ofNat 8 (t - 4), BitVec.ofNat 8 (carried s t).length, 0, 0] ++ (carried s t).flatMap fun e => recMem s t e.1 e.2.slot
/-- A record of group g, noted as sent when the EVENT carries it. -/
def markSent (s : State) (t g : Nat) (r : EvRec) : EvRec :=
  if (carried s t).contains (g, r) then { r with sent := true, seq := (sessOf s (tgtSess s t)).next, sess := tgtSess s t } else r
/-- The state in which that EVENT has been sent and noted at its records, whose claim windows start, before moderation. -/
def eventGone (s : State) (t : Nat) : State :=
  let s1 := sessSend s (tgtSess s t) 0x18 (eventBody s t)
  let s2 := (List.range 8).foldl (fun u g => setEvQ u t g { evQ u t g with recs := (evQ u t g).recs.map (markSent s t g) }) s1
  let s3 := (carried s t).foldl (fun u e => if e.2.offered then u else openWindow u e.2.src.toNat e.2.gen) s2
  setTgt s3 t { tgtOf s3 t with idle := false }
theorem idle_eventGone (s : State) (t : Nat) : (tgtOf (eventGone s t) t).idle = false := congrArg EvTgt.idle (tgtOf_setTgt_same _ t _)
theorem eventGone_eq (s : State) (t : Nat) : ∃ e, eventGone s t = { sessSend s (tgtSess s t) 0x18 (eventBody s t) with evt := e } := by
  obtain ⟨q, hq⟩ := foldl_setEvQ_eq t (fun u g => { evQ u t g with recs := (evQ u t g).recs.map (markSent s t g) }) (List.range 8)
    (sessSend s (tgtSess s t) 0x18 (eventBody s t))
  unfold eventGone
  dsimp only
  rw [hq]
  generalize sessSend s (tgtSess s t) 0x18 (eventBody s t) = s1
  have hfold (e0 : Evt) : ∃ e, (carried s t).foldl (fun u e => if e.2.offered then u else openWindow u e.2.src.toNat e.2.gen) { s1 with evt := e0 } =
      { s1 with evt := e } := by
    refine List.foldlRecOn _ _ (motive := fun u => ∃ e, u = { s1 with evt := e }) ⟨e0, rfl⟩ fun u hu r _ => ?_
    obtain ⟨e, rfl⟩ := hu
    split
    · exact ⟨e, rfl⟩
    · exact openWindow_eq _ _ _
  obtain ⟨e, he⟩ := hfold _
  rw [he]
  exact ⟨_, rfl⟩
theorem Delivers.doEventSend_eq {t : BitVec 5} (h : Delivers s t) (hr : (tgtOf s t.toNat).released = true) (hu : unsent s t.toNat ≠ [])
    (hk : CanSend s (tgtSess s t.toNat)) : doEventSend t.toNat s = moderate (eventGone s t.toNat) t.toNat := by
  have hopen : isOpen s (tgtSess s t.toNat) = true := by simp [isOpen, hk.1]
  have hroom : hasWindow s (tgtSess s t.toNat) = true := decide_eq_true hk.2.2
  have hsome : (unsent s t.toNat).isEmpty = false := by simpa using hu
  simp only [doEventSend, if_neg h.acts, hopen, hr, hsome, hroom, Bool.not_true, Bool.false_eq_true, or_self, if_false]
  rfl
/-- A released host target with records sends one EVENT; beside the session, the event controller alone changes, and the target is no longer idle. -/
theorem Delivers.sends {t : BitVec 5} (h : Delivers s t) (hr : (tgtOf s t.toNat).released = true) (hu : unsent s t.toNat ≠ [])
    (hk : CanSend s (tgtSess s t.toNat)) : ∃ e, doEventSend t.toNat s = { sessSend s (tgtSess s t.toNat) 0x18 (eventBody s t.toNat) with evt := e } ∧
      (tgtOf (doEventSend t.toNat s) t.toNat).idle = false := by
  obtain ⟨e1, hgone⟩ := eventGone_eq s t.toNat
  obtain ⟨e, he⟩ := moderate_eq (eventGone s t.toNat) t.toNat
  rw [h.doEventSend_eq hr hu hk]
  refine ⟨e, ?_, (moderates_moderate _ _).idle.trans (idle_eventGone s t.toNat)⟩
  rw [he, hgone]
end

/-! The hold of delivery (R418). -/
section
variable {s : State} {lvl : Lvl}

/-- A sparse table whose entries are all rewritten reads as rewritten, where the default stays. -/
theorem sget_map {α : Type} (d : α) (f : α → α) (hd : f d = d) (m : Sparse α) (k : Nat) : sget d (m.map fun e => (e.1, f e.2)) k = f (sget d m k) := by
  induction m with
  | nil => exact hd.symm
  | cons e m ih =>
    obtain ⟨j, w⟩ := e
    simp only [List.map_cons, sget, ih]
    split_ifs
    · exact hd.symm
    · rfl
    · rfl
theorem exec_hold (hc : clocksOn s = true) (hl : Reaches lvl 1) : exec (.hold lvl) s = .next (evtHold s) := onReg_reaches _ hc hl
theorem exec_releaseHold (hc : clocksOn s = true) (hl : Reaches lvl 1) : exec (.releaseHold lvl) s = .next (evtUnhold s) := onReg_reaches _ hc hl
/-- The claim windows go on where they stopped. -/
theorem evtUnhold_effect (h : s.evt.hold = true) : let u := evtUnhold s
    u.evt.hold = false ∧ SameMemory s u ∧
      (∀ m, evSrc u m = { evSrc s m with window := (evSrc s m).window.map (heldTimer s.evt.holdAt s.time.now) }) ∧ u.evt.q = s.evt.q := by
  unfold evtUnhold
  rw [if_pos h]
  exact ⟨rfl, fun _ => rfl, fun m => sget_map ({} : EvSrc) (fun x => { x with window := x.window.map (heldTimer s.evt.holdAt s.time.now) }) rfl s.evt.src m, rfl⟩

/-! Software sources (R404) and the latch of the wake watcher (R4, R424). -/
theorem exec_evtSwset {idx : BitVec 7} {info : Half} (hc : clocksOn s = true) (hl : Reaches lvl 1) :
    exec (.evtSwset lvl idx info) s = .next (evFire s (0x680 + idx.toNat) (info.setWidth 32)) := by
  change execEvtSwset lvl idx info s = _
  rw [execEvtSwset, onReg_reaches _ hc hl]
theorem evFire_srcBack (s : State) (n : Nat) (info : Word) : let u := evFire s n info
    { u with evt := { u.evt with src := s.evt.src } } = s := evFire_frame (fun u : State => { u with evt := { u.evt with src := s.evt.src } }) s n info fun _ => rfl
/-- EVT_WK_STS defines bits 5 to 0. -/
theorem and_not_low6_eq_zero (v : Word) : v &&& 0xFFFFFFC0#32 = 0#32 ↔ v >>> 6 = 0#32 := by
  have h : v &&& 0xFFFFFFC0#32 = (v >>> 6) <<< 6 := by
    apply BitVec.eq_of_getLsbD_eq
    intro i hi
    interval_cases i <;> simp
  rw [h, ← BitVec.toNat_inj, ← BitVec.toNat_inj]
  simp only [BitVec.toNat_shiftLeft, BitVec.toNat_ushiftRight, Nat.shiftLeft_eq, Nat.shiftRight_eq_div_pow, BitVec.toNat_ofNat]
  have := v.isLt
  omega
theorem mergeReg_wkSts (v : Word) : (mergeReg 0 v [F 0 5, F 5 1]).2 = decide (v >>> 6 ≠ 0) := by
  simp [mergeReg, mergeFlds, F, Fld.takes, Fld.valid, and_not_low6_eq_zero]
theorem exec_evtWkStsClear {v : Word} (hc : clocksOn s = true) (hl : Reaches lvl 1) :
    exec (.evtWkStsClear lvl v) s = .next (rsvdIf (decide (v >>> 6 ≠ 0)) (wkClear v s)) := by
  have hr : regAt (aEVT + 0x884) = some ({ addr := 0x0884, acc := .w1c, ls := false, flds := fun _ => [F 0 5, F 5 1] }, 0) := by rfl
  change execEvtWkStsClear lvl v s = _
  rw [execEvtWkStsClear, onReg_reaches _ hc hl, withRsvd, hr]
  simp only [mergeReg_wkSts]
theorem wkClear_wkValid (v : Word) (s : State) : (wkClear v s).evt.wkValid = (s.evt.wkValid && !v.getLsbD 5) := by
  unfold wkClear bit
  cases v.getLsbD 5 <;> simp
end

/-! The wake (R421, R493). -/
section
variable {s : State} {k : BitVec 5}

/-- The last number below n with a property. -/
theorem getLast_filter_range {n j : Nat} (p : Nat → Bool) (hj : j < n) (hp : p j = true) (h : ∀ i, j < i → i < n → p i = false) :
    ((List.range n).filter p).getLast? = some j := by
  obtain ⟨m, rfl⟩ : ∃ m, n = j + 1 + m := ⟨n - (j + 1), by omega⟩
  have hrest : ((List.range m).map (j + 1 + ·)).filter p = [] := by
    refine List.filter_eq_nil_iff.mpr fun i hi => ?_
    obtain ⟨l, hl, rfl⟩ := List.mem_map.mp hi
    rw [h _ (by omega) (by have := List.mem_range.mp hl; omega)]
    exact Bool.false_ne_true
  rw [List.range_add, List.filter_append, hrest, List.append_nil, List.range_succ, List.filter_append, List.filter_singleton, hp]
  simp
theorem wakeSlot_alone {n : Nat} (h : ∀ j, n < j → j < 32 → wakeWith s n j = false) : wakeSlot s n = n := by
  have hnil : (List.range 32).filter (fun j => decide (n < j) && wakeWith s n j) = [] := by
    refine List.filter_eq_nil_iff.mpr fun j hj => ?_
    by_cases hn : n < j
    · simp [h j hn (List.mem_range.mp hj)]
    · simp [hn]
  rw [wakeSlot, hnil]
  rfl
theorem wakeSlot_highest {n j : Nat} (hn : n < j) (hj : j < 32) (hw : wakeWith s n j = true) (h : ∀ i, j < i → i < 32 → wakeWith s n i = false) :
    wakeSlot s n = j := by
  rw [wakeSlot, getLast_filter_range _ hj (by simp [hn, hw]) fun i hi hi' => by simp [h i hi hi']]
  rfl
/-- Whether a WAKE_IN pin meets SENSE (R405, R421). -/
def Sensed (s : State) (pin sense : Nat) : Prop :=
  match sense with
  | 0 => s.boot.wakeIn.getLsbD pin = true | 1 => s.boot.wakeIn.getLsbD pin = false
  | 2 => s.evt.wkRose.getLsbD pin = true | 3 => s.evt.wkFell.getLsbD pin = true
  | 4 => s.evt.wkRose.getLsbD pin = true ∨ s.evt.wkFell.getLsbD pin = true | _ => False
theorem wakeSense_iff (s : State) (pin sense : Nat) : wakeSense s pin sense = true ↔ Sensed s pin sense := by
  unfold wakeSense Sensed bit
  split <;> simp
/-- A wake slot in use matches, at KIND 2 when its pin meets SENSE. -/
theorem wakeMet_iff {n kind : Nat} (hon : (act s (aEVT + 0x800 + 4 * n)).getLsbD 11 = true) (hk : ((act s (aEVT + 0x800 + 4 * n)).extractLsb' 0 4).toNat = kind)
    (h1 : 1 ≤ kind) (h4 : kind ≤ 4) : wakeMet s n = true ↔
      kind ≠ 2 ∨ Sensed s ((act s (aEVT + 0x800 + 4 * n)).extractLsb' 4 4).toNat ((act s (aEVT + 0x800 + 4 * n)).extractLsb' 8 3).toNat := by
  have hkind : wakeKind s n = kind := by
    rw [← hk, ← fld_eq_extract]
    exact if_pos hon
  simp only [wakeMet, hkind, fld_eq_extract, Bool.and_eq_true, Bool.or_eq_true, decide_eq_true_eq, wakeSense_iff, h1, h4, and_self, true_and]
theorem exec_wakeMatch_unmet (h : wakeMet s k.toNat = false) : exec (.wakeMatch k) s = .next s := by
  change Host.Outcome.next (doWake k s) = _
  rw [doWake, if_neg (by simp [h])]
/-- The wake of an armed watcher whose slot n is latched ends STANDBY or OFF. -/
theorem exec_wakeMatch {n : Nat} (ha : s.evt.wkArmed = true) (hm : wakeMet s k.toNat = true) (hn : wakeSlot s k.toNat = n) :
    (s.boot.st = .standby → exec (.wakeMatch k) s = .next { s with
      evt := { s.evt with wkValid := true, wkSlot := BitVec.ofNat 5 n, wkArmed := false }, boot := { s.boot with st := .resume } }) ∧
    (s.boot.st = .off → exec (.wakeMatch k) s = .next { s with
      evt := { s.evt with wkValid := true, wkSlot := BitVec.ofNat 5 n, wkArmed := false }, boot := { s.boot with inh := true } }) := by
  refine ⟨fun hst => ?_, fun hst => ?_⟩
  · change Host.Outcome.next (doWake k s) = _
    rw [doWake, if_pos ⟨ha, .inl hst, hm⟩, hn]
    exact congrArg _ (if_pos hst)
  · change Host.Outcome.next (doWake k s) = _
    rw [doWake, if_pos ⟨ha, .inr hst, hm⟩, hn]
    exact congrArg _ (if_neg (by rw [hst]; decide))
end

end Sys2Proof.Machine
end

section
/-! O50: the commands of the event controller answer what the manual says of them. -/
namespace Sys2Proof.Machine

section
variable {s : State} {v : BitVec 11} {t : BitVec 5}

theorem ofNat_toNat_same {w : Nat} (x : BitVec w) : BitVec.ofNat w x.toNat = x := by rw [BitVec.ofNat_toNat, BitVec.setWidth_eq]
/-- The record of a selected source: the source waits with it outstanding, and it stands in its queue and in its slot. -/
theorem selected_effect (s : State) (v : BitVec 11) (t : BitVec 5) (g prio : Nat) :
    let n := v.toNat
    let k := t.toNat
    let x := evSrc s n
    let i := (evQ s k g).wr % 2 ^ tgtLog2 s k
    let a := slotAddr s k g i
    let u := putRecord (setEvSrc s n (selected s n k)) n k g prio false
    (evSrc u n).queued = true ∧ (evSrc u n).info = shownInfo s n ∧ (evSrc u n).st = x.st ∧ (evSrc u n).rrptr = t ∧ (evSrc u n).gen = x.gen + 1 ∧
      (evQ u k g).wr = i + 1 ∧
      (∃ d, (evQ u k g).recs = (evQ s k g).recs ++ [d] ∧ d.src = v ∧ d.slot = i ∧ d.offered = false ∧ d.gen = x.gen + 1 ∧ d.time = x.time) ∧
      (∀ j, j < 16 → memGet u (a + j) = (recBytes n false x.more prio k (shownInfo s n) x.time).getD j 0) ∧ SameMemoryBut s u a 16 := by
  intro n k x i a u
  let s1 := setEvSrc s n (selected s n k)
  have hsel : evSrc s1 n = selected s n k := evSrc_setEvSrc_same s n _
  have hsrc : sansWindow (evSrc u n) = sansWindow (selected s n k) := by
    rw [← hsel]
    exact evSrc_putRecord s1 n k g prio false n
  have hq : evQ u k g = { wr := i + 1, num := (evQ s k g).num + 1, recs := (evQ s k g).recs ++ [newRecord s1 n k g prio false] } :=
    evQ_putRecord_same s1 n k g prio false
  have hbytes : newBytes s1 n k prio false = recBytes n false x.more prio k (shownInfo s n) x.time := by
    rw [newBytes, hsel]
    rfl
  obtain ⟨hget, hbut⟩ := memory_putRecord s1 n k g prio false
  rw [hbytes] at hget
  refine ⟨(congrArg EvSrc.queued hsrc :), (congrArg EvSrc.info hsrc :), (congrArg EvSrc.st hsrc :), ?_, (congrArg EvSrc.gen hsrc :), congrArg EvQ.wr hq,
    ⟨newRecord s1 n k g prio false, congrArg EvQ.recs hq, ofNat_toNat_same v, rfl, rfl, (congrArg EvSrc.gen hsel :), (congrArg EvSrc.time hsel :)⟩, hget, hbut⟩
  exact (congrArg EvSrc.rrptr hsrc : (evSrc u n).rrptr = BitVec.ofNat 5 k).trans (ofNat_toNat_same t)
/-- The end of a claim window counts, and the record is offered to every other eligible target. -/
theorem claimWindowEnd_offers {a : DWord} {k : Nat} {r : EvRec} (hc : clocksOn s = true) (hx : (evSrc s v.toNat).window = some a)
    (hw : (act s (aEVT + 4)).extractLsb' 0 16 ≠ 0) (hh : s.evt.hold = false) (hst : (evSrc s v.toNat).st = .pending)
    (hq : (evSrc s v.toNat).queued = true) (hf : findRecord s v.toNat = some (k, r)) : Answers (.claimWindowEnd v) s fun u =>
      (a + BitVec.ofNat 64 (((act s (aEVT + 4)).extractLsb' 0 16).toNat * 1000)).toNat ≤ u.time.now.toNat ∧
        imr u (aEVT + 0x50) = satAdd (imr s (aEVT + 0x50)) 1 ∧
        ∀ j, j ∈ maskTargets s v.toNat → j ≠ k → eligible s j (prioGroup s r.prio.toNat) = true →
          ∃ d, (evQ u j (prioGroup s r.prio.toNat)).recs = (evQ s j (prioGroup s r.prio.toNat)).recs ++ [d] ∧ d.src = v ∧ d.offered = true := by
  have hw' : fld (act s (aEVT + 4)) 0 16 ≠ 0 := fun h => hw ((fld_eq_zero _ _ _).mp h)
  let due := a + BitVec.ofNat 64 (fld (act s (aEVT + 4)) 0 16 * 1000)
  have hnow : due.toNat ≤ (atTime s due).time.now.toNat := (Nat.le_max_right _ _).trans_eq (atTime_now s due).symm
  refine ⟨_, exec_claimWindowEnd hc hx hw' hh, ?_⟩
  rw [← fld_eq_extract]
  change due.toNat ≤ (offer (atTime s due) v.toNat).time.now.toNat ∧ _
  obtain ⟨m, hm⟩ := atTime_eq s due
  have hoffer := offer_offers (s := atTime s due) (n := v.toNat) (k := k) (r := r)
    (by rw [hm]; exact hst) (by rw [hm]; exact hq) (by rw [hm]; exact hw') (by rw [hm]; exact hf)
  obtain ⟨htime, himr, -, hput⟩ := offers_reach v.toNat (prioGroup (atTime s due) r.prio.toNat) r.prio.toNat _
    ((nodup_maskTargets (atTime s due) v.toNat).filter fun j => j ≠ k && eligible (atTime s due) j (prioGroup (atTime s due) r.prio.toNat))
    (windowEnded (atTime s due) v.toNat)
  rw [← hoffer] at htime himr hput
  refine ⟨?_, ?_, fun j hj hjk he => ?_⟩
  · rw [htime]
    exact hnow
  · rw [himr, hm]
    exact imr_bump_same s _
  · rw [hm] at hput ⊢
    obtain ⟨d, hd, hsrc, hoff⟩ := hput j (List.mem_filter.mpr ⟨hj, Bool.and_eq_true_iff.mpr ⟨decide_eq_true hjk, he⟩⟩)
    exact ⟨d, hd, hsrc.trans (ofNat_toNat_same v), hoff⟩
theorem modTimeExpiry_releases {a : DWord} (hc : clocksOn s = true) (hx : (tgtOf s t.toNat).holdoff = some a)
    (hm : (tgtMod s t.toNat).extractLsb' 16 16 ≠ 0) (hh : s.evt.hold = false) (ht : t.toNat < 20) : Answers (.modTimeExpiry t) s fun u =>
      (tgtOf u t.toNat).released = true ∧ (tgtOf u t.toNat).holdoff = none ∧ (∀ j, j ≠ t.toNat → tgtOf u j = tgtOf s j) ∧ SameMemory s u ∧
        (a + BitVec.ofNat 64 (64 * ((tgtMod s t.toNat).extractLsb' 16 16).toNat)).toNat ≤ u.time.now.toNat := by
  have hm' : fld (tgtMod s t.toNat) 16 16 ≠ 0 := fun h => hm ((fld_eq_zero _ _ _).mp h)
  let due := a + BitVec.ofNat 64 (64 * fld (tgtMod s t.toNat) 16 16)
  have hr : Moderates (atTime s due) (release (atTime s due) t.toNat) t.toNat := moderates_release _ _
  have htgt : tgtOf (release (atTime s due) t.toNat) t.toNat = _ := tgtOf_release (atTime s due) t.toNat
  obtain ⟨m, hat⟩ := atTime_eq s due
  refine ⟨_, exec_modTimeExpiry hc hx hm' hh ht, congrArg EvTgt.released htgt, congrArg EvTgt.holdoff htgt, fun j hj => ?_, fun k => ?_, ?_⟩
  · refine (hr.others j hj).trans ?_
    rw [hat]
    rfl
  · refine (hr.sameMemory k).trans ?_
    rw [hat]
    rfl
  · rw [← fld_eq_extract, hr.frame State.time rfl]
    exact (Nat.le_max_right _ _).trans_eq (atTime_now s due).symm
end

/-- Settles O50: each command by what it leaves. -/
theorem eventsAreRecordedAndClaimed : Obligations.EventsAreRecordedAndClaimed := by
  intro s lvl v t g r ns idx info w slot hc n x prio grp k q deepK shown set resumed window
  have hp : fld (evW0 s n) 0 8 = prio := fld_eq_extract _ _ _
  have hown : ∀ {a b : BitVec 5}, a ≠ b → a.toNat ≠ b.toNat := fun h e => h (BitVec.eq_of_toNat_eq e)
  have hfill : ∀ y : EvQ, qFill y = match y.recs with | [] => 0 | d :: _ => y.num - d.num := fun y => by
    unfold qFill
    cases y.recs <;> rfl
  refine ⟨exec_eventRecordWrite_held hc, ?_, ?_, ?_, ?_, ?_, ?_, ?_, ?_, ?_, ?_, ?_⟩
  · intro hh hnone
    rw [exec_eventRecordWrite hc hh, hnone]
    rfl
  · intro hh hcand hpick
    refine ⟨_, exec_eventRecordWrite hc hh, ?_⟩
    rw [hcand, selectFrom_picked hp hpick]
    refine ⟨?_, selected_effect s v t grp prio⟩
    exact (hfill _).symm.trans_lt (qFill_of_eligible (pickTarget_eligible hpick))
  · intro hh hcand hpick
    refine ⟨_, exec_eventRecordWrite hc hh, ?_⟩
    rw [hcand, selectFrom_unpicked hp hpick]
    refine ⟨by split <;> rfl, fun j => by split <;> rfl, fun hne hfull => ?_⟩
    rw [if_pos (unpicked_counts hne hfull)]
    exact imr_bump_same s _
  · intro hl hk
    refine ⟨exec_claim_noTarget hc hl hk, fun ho => ?_⟩
    exact (exec_eoi_noTarget hc hl hk).trans (congrArg _ (doEoi_notOwner (s := setRsvd s) (hown ho)))
  · intro hl hk
    refine ⟨fun hnone => ?_, fun hsome hgen => ?_, fun hsome hgen => ?_, fun ho => ?_, fun ho hst => ?_, fun ho hst => ?_, fun ho hst => ?_⟩
    · rw [exec_claim hc hl hk, doClaim_empty hnone]
    · obtain ⟨hq, ⟨z, o, hsrc⟩, hst, hmem⟩ := claim_effect s k g.toNat r
      refine ⟨_, (exec_claim hc hl hk).trans (congrArg _ (doClaim_claims hsome hgen)), hq, ?_, ?_, ?_, ?_, hst, hmem⟩
      all_goals rw [hsrc]
      exact ofNat_toNat_same t
    · exact ⟨_, (exec_claim hc hl hk).trans (congrArg _ (doClaim_stale hsome hgen)), stale_effect s k g.toNat r⟩
    · exact (exec_eoi hc hl hk).trans (congrArg _ (doEoi_notOwner (hown ho)))
    · exact (exec_eoi hc hl hk).trans (congrArg _ (doEoi_notClaimed (congrArg _ ho) hst))
    · exact ⟨_, (exec_eoi hc hl hk).trans (congrArg _ (doEoi_active (congrArg _ ho) hst)), eoi_accepted s n _⟩
    · exact ⟨_, (exec_eoi hc hl hk).trans (congrArg _ (doEoi_activePending (congrArg _ ho) hst)), eoi_accepted s n _⟩
  · exact fun a hx hw hh hst hq hf => claimWindowEnd_offers hc hx hw hh hst hq hf
  · exact fun a hx hm hh hk => modTimeExpiry_releases hc hx hm hh hk
  · intro h4 hk hh hclosed
    exact ⟨_, (exec_eventSend hc).trans (congrArg _ (Delivers.discards ⟨h4, hk, hh⟩ hclosed)), discardRecords_effect s k⟩
  · intro h4 hk hh hrel hu hcan
    obtain ⟨e, he, hidle⟩ := Delivers.sends ⟨h4, hk, hh⟩ hrel hu hcan
    refine ⟨_, exec_eventSend hc, ?_, hidle, ?_⟩
    · rw [he]
      exact sessSend_sent 0x18 (eventBody s k) hcan
    · rw [he]
      exact (sendsOnly_sessSend s _ _ _).sameMemory
  · intro hl
    refine ⟨fun hh => ?_, fun hh => ?_, fun hh => ?_, fun hh => ?_, ?_, fun h4 hk => ?_, fun hw h5 => ?_, fun hw h5 => ?_, fun hw => ?_⟩
    · exact (exec_hold hc hl).trans (congrArg _ (if_neg (by rw [hh]; decide)))
    · exact (exec_hold hc hl).trans (congrArg _ (if_pos hh))
    · exact ⟨_, exec_releaseHold hc hl, evtUnhold_effect hh⟩
    · exact (exec_releaseHold hc hl).trans (congrArg _ (if_neg (by rw [hh]; decide)))
    · exact ⟨_, exec_evtSwset hc hl, evFire_fired _ _ _, evFire_srcBack _ _ _⟩
    · exact ⟨_, exec_evtTIdle hc hl, doTIdle_effect h4 hk⟩
    · rw [exec_evtWkStsClear hc hl, decide_eq_false (not_not.mpr hw)]
      exact congrArg _ (if_pos h5)
    · rw [exec_evtWkStsClear hc hl, decide_eq_false (not_not.mpr hw)]
      exact congrArg _ (if_neg (ne_true_of_eq_false h5))
    · refine ⟨_, exec_evtWkStsClear hc hl, ?_⟩
      rw [decide_eq_true hw]
      exact ⟨rfl, wkClear_wkValid w s⟩
  · intro z ha c kind pin sensed latched ends hon h1 h4
    have hmet : wakeMet z slot.toNat = true ↔ kind ≠ 2 ∨ sensed := wakeMet_iff hon rfl h1 h4
    refine ⟨fun hs => ⟨fun halone => ?_, fun j hj hj' hw hhigh => ?_⟩, fun h2 hs => ?_⟩
    · exact exec_wakeMatch ha (hmet.mpr hs) (wakeSlot_alone halone)
    · exact exec_wakeMatch ha (hmet.mpr hs) (wakeSlot_highest hj hj' hw hhigh)
    · exact exec_wakeMatch_unmet (Bool.eq_false_iff.mpr fun h => (hmet.mp h).elim (fun hk => hk h2) hs)

end Sys2Proof.Machine
end

section
/-! Refutations: a record load that ends a RESET in progress (R179, R440), a copy that abandons the corrections of its table (R175, R442), and a lost
link that a segment manager is told of (R352, R355). -/
namespace Sys2Proof.Machine

/-- Context 7 is READY on cluster 0, and a RESET of it is in progress (R179). -/
def readyUnderReset : State := { boot := { st := .run }, gal := { live := [(7, { st := .ready })], cmdBusy := some (7, 3) } }
/-- The load of its record meets an uncorrectable error and halts it, with which the RESET goes on to its end: the context is IDLE. -/
theorem recordLoad_readyUnderReset : ∃ u, exec (.recordLoad 7 [(0, .ue 0)]) readyUnderReset = .next u ∧ stOf u 7 = .idle :=
  ⟨_, rfl, by decide +kernel⟩
/-- Refutes O28: an uncorrectable error in the record of a context on which a RESET is in progress leaves the context IDLE, not HALTED, since its entry into
HALTED ends the RESET. -/
theorem not_schedulingMovesContexts : ¬ Obligations.SchedulingMovesContexts := by
  intro h
  obtain ⟨-, -, -, -, hload, -⟩ := h readyUnderReset 0 7 7 0 {} (by decide +kernel)
  obtain ⟨-, hue⟩ := hload (by decide +kernel) (by decide +kernel) (by decide +kernel) (by decide +kernel) (by decide +kernel) (by decide +kernel)
    (by decide +kernel)
  obtain ⟨u, hu, hidle⟩ := recordLoad_readyUnderReset
  obtain ⟨u', hu', hhalted, -⟩ := hue 0 0
  cases hu.symm.trans hu'
  exact absurd (hidle.symm.trans hhalted) (by decide)

/-- The copy of the control table runs, and the correction of its first entry waits for its write-back. -/
def copyUnderCorrection : State := { boot := { st := .run }, gal := { cctBusy := true }, memc := { corr := [(9, [0x6000000000])] } }
/-- The copy writes the entry, so that the correction is abandoned (R442). -/
theorem cctCopyDone_copyUnderCorrection : ∃ u, exec .cctCopyDone copyUnderCorrection = .next u ∧ u.memc.corr = [] :=
  ⟨_, rfl, by decide +kernel⟩
/-- Refutes O31: the end of a copy of the control table abandons the corrections that wait for its entries (R442), so that it changes more than the STAGED bank. -/
theorem not_copiesAndCachesRunToTheirEnd : ¬ Obligations.CopiesAndCachesRunToTheirEnd := by
  intro h
  obtain ⟨-, -, hcct, -⟩ := h copyUnderCorrection 2 0 false 0 0 (by decide)
  obtain ⟨u, hu, hcorr⟩ := cctCopyDone_copyUnderCorrection
  obtain ⟨u', hu', -, -, hrest⟩ := hcct rfl
  cases hu.symm.trans hu'
  exact absurd (hcorr.symm.trans (congrArg (·.memc.corr) hrest)) (by decide)

/-- Station 3 tells with an SCT FAULT that its neighbour, station 4, is lost (R294, R469). -/
def lostNeighbour : RxMsg := { typ := 0x38, src := 3, dst := 2, session := 0x8000, seq := 1, body := [0, 0x80, 1, 0] ++ List.replicate 10 0 ++ [4, 0] }
/-- Device 2 is a segment manager with RM_SEGMENT enabled; station 5, on the other side of station 4, has told of its loss before. -/
def segmentManager : State :=
  { boot := { st := .run }, reg := { tabA := [(tkeyOf .evt 0x4B0 0, 0x800)] },
    rm := {
      addr := 2, role := .segManager, mgr := 2, links := [(5, 4)],
      table := [{ addr := 3, pos := 1 }, { addr := 4, present := false, pos := 2 }, { addr := 5, pos := 3 }] },
    sct := { sess := [(0x43, { st := .opened, ver := 0x22, win := 4, rxq := [lostNeighbour] })] } }
/-- The report shows that the ring is segmented, and RM_SEGMENT, which a manager alone raises, does not fire. -/
theorem sctFault_segmentManager : ∃ u, exec (.sctFault (.peer 3)) segmentManager = .next u ∧ segmented u = true ∧ (evSrc u 0x4B0).st = .inactive :=
  ⟨_, rfl, by decide +kernel, by decide +kernel⟩
/-- Refutes O42: a segment manager takes the FAULT of a lost link too, and RM_SEGMENT fires at a manager alone (R352). -/
theorem not_sessionMessagesAct : ¬ Obligations.SessionMessagesAct := by
  intro h
  have hheads : Heads segmentManager 0x43 lostNeighbour := ⟨by decide +kernel, by decide +kernel, by decide +kernel⟩
  obtain ⟨-, -, -, -, -, -, -, -, -, -, -, hfault⟩ := h segmentManager (.peer 3) 3 lostNeighbour 0 0 0 0 (by decide) hheads
  obtain ⟨u, hu, hseg, hquiet⟩ := sctFault_segmentManager
  obtain ⟨u', hu', -, -, hfired, -⟩ := hfault rfl (by decide) (by decide) (by decide) (by decide)
  cases hu.symm.trans hu'
  obtain ⟨hsrc, -⟩ := hfired (by decide +kernel) hseg
  exact absurd (hquiet.symm.trans (congrArg EvSrc.st hsrc)) (by decide +kernel)

end Sys2Proof.Machine
end

section
/-! Lock cells that break (R198, R200), and a context that is freed: its locks broken, its channel not PAUSED (R177, R179, R200, R224). -/
namespace Sys2Proof.Machine

/-! Entries of a table in its canonical form. -/
section
variable {α : Type}

theorem le_of_mem_swfFrom [DecidableEq α] {d : Nat → α} {m : Sparse α} {a : Nat} (h : swfFrom d a m = true) : ∀ e ∈ m, a ≤ e.1 := by
  induction m generalizing a with
  | nil => exact fun _ he => absurd he List.not_mem_nil
  | cons f m ih =>
    simp only [swfFrom, Bool.and_eq_true, decide_eq_true_eq] at h
    obtain ⟨⟨hlo, -⟩, hm⟩ := h
    refine List.forall_mem_cons.mpr ⟨hlo, fun e he => ?_⟩
    have := ih hm e he
    omega
theorem sget_of_mem [DecidableEq α] {d : Nat → α} {m : Sparse α} {a k : Nat} {v : α} (h : swfFrom d a m = true) (hk : (k, v) ∈ m) (d' : α) :
    sget d' m k = v := by
  induction m generalizing a with
  | nil => exact absurd hk List.not_mem_nil
  | cons f m ih =>
    simp only [swfFrom, Bool.and_eq_true] at h
    obtain rfl | hm := List.mem_cons.mp hk
    · simp [sget]
    · have hlt : f.1 + 1 ≤ k := le_of_mem_swfFrom h.2 _ hm
      rw [sget, if_neg (by omega), if_neg (by omega)]
      exact ih h.2 hm
theorem mem_of_sget_ne {d : α} {m : Sparse α} {k : Nat} (h : sget d m k ≠ d) : (k, sget d m k) ∈ m := by
  induction m with
  | nil => exact absurd rfl h
  | cons f m ih =>
    rw [sget] at h ⊢
    split at h
    · exact absurd rfl h
    · next hle =>
      rw [if_neg hle]
      split at h
      · next hk => simp [hk]
      · next hk =>
        rw [if_neg hk]
        exact List.mem_cons_of_mem _ (ih h)
end

/-! What breaking locks may change: the cells, GAL_LOCK_BRK and the event sources. -/
/-- u with the lock cells, the counters and the event sources as in s. -/
def locksBack (s u : State) : State :=
  { u with gal := { u.gal with locks := s.gal.locks }, reg := { u.reg with im := s.reg.im }, evt := { u.evt with src := s.evt.src } }
/-- Nothing has changed but lock cells, GAL_LOCK_BRK and the event sources. -/
structure LocksOnly (s u : State) : Prop where
  rest : locksBack s u = s
  counts : ∀ a, a ≠ aGAL + 0x54 → imr u a = imr s a
theorem LocksOnly.refl (s : State) : LocksOnly s s := ⟨rfl, fun _ _ => rfl⟩
theorem LocksOnly.trans {s u w : State} (h : LocksOnly s u) (h' : LocksOnly u w) : LocksOnly s w where
  rest := by
    have e : locksBack s w = locksBack s (locksBack u w) := rfl
    rw [e, h'.rest, h.rest]
  counts a ha := (h'.counts a ha).trans (h.counts a ha)
theorem LocksOnly.frame {α : Type} (f : State → α) {s u : State} (h : LocksOnly s u) (hf : f (locksBack s u) = f u) : f u = f s :=
  hf.symm.trans (congrArg f h.rest)
theorem locksOnly_evFire (s : State) (n : Nat) (info : Word) : LocksOnly s (evFire s n info) :=
  ⟨evFire_frame (locksBack s) s n info fun _ => rfl, fun a _ => evFire_frame (imr · a) s n info fun _ => rfl⟩
theorem locksOnly_breakCell (s : State) (n : Nat) : LocksOnly s (breakCell s n) := by
  unfold breakCell
  split
  · have hset : LocksOnly s (bump16 (setLock s n (setFld (setFld (lockOf s n) 19 1 0) 20 1 1)) (aGAL + 0x54)) := ⟨rfl, fun a ha => imr_setIm_other _ _ _ a ha⟩
    exact hset.trans (locksOnly_evFire _ _ _)
  · exact .refl s
theorem locksOnly_breakLocks (s : State) (p : Nat → Bool) : LocksOnly s (breakLocks s p) :=
  List.foldlRecOn _ _ (motive := LocksOnly s) (.refl s) fun _ h e _ => h.trans (locksOnly_breakCell _ e.1)

/-! The cells. -/
theorem lockBroken_eq (w : Word) : setFld (setFld w 19 1 0) 20 1 1 = lockBroken w := by
  rw [lockFreed_eq]
  have hb : ∀ x : Word, (x &&& ~~~0x100000#32) ||| 0x100000#32 = x ||| 0x100000#32 := fun x => by
    ext i hi
    simp only [BitVec.getElem_or, BitVec.getElem_and, BitVec.getElem_not]
    cases (0x100000#32)[i] <;> simp
  exact hb _
theorem lockBroken_free (w : Word) : (lockBroken w).getLsbD 19 = false := by simp [lockBroken]
theorem lockOf_breakCell (s : State) (n m : Nat) :
    lockOf (breakCell s n) m = if n = m ∧ (lockOf s m).getLsbD 19 = true then lockBroken (lockOf s m) else lockOf s m := by
  unfold breakCell
  split
  · next hb =>
    rw [lockBroken_eq, evFire_frame (lockOf · m) _ _ _ fun _ => rfl]
    change lockOf (setLock s n (lockBroken (lockOf s n))) m = _
    by_cases hm : n = m
    · subst hm
      rw [lockOf_setLock_same, if_pos ⟨rfl, hb⟩]
    · rw [lockOf_setLock_other _ _ _ _ (Ne.symm hm), if_neg fun h => hm h.1]
  · next hb => rw [if_neg fun ⟨hm, h⟩ => hb (hm ▸ h)]
/-- A cell that is broken twice is broken once. -/
theorem lockOf_foldl_breakCell (l : List (Nat × Word)) (s : State) (n : Nat) : lockOf (l.foldl (fun s e => breakCell s e.1) s) n =
    if (∃ e ∈ l, e.1 = n) ∧ (lockOf s n).getLsbD 19 = true then lockBroken (lockOf s n) else lockOf s n := by
  induction l generalizing s with
  | nil => simp
  | cons e l ih =>
    have hex : (∃ f ∈ e :: l, f.1 = n) ↔ e.1 = n ∨ ∃ f ∈ l, f.1 = n := by simp only [List.mem_cons, exists_eq_or_imp]
    rw [List.foldl_cons, ih, lockOf_breakCell]
    by_cases he : e.1 = n ∧ (lockOf s n).getLsbD 19 = true
    · rw [if_pos he, if_neg fun h => Bool.false_ne_true ((lockBroken_free _).symm.trans h.2), if_pos ⟨hex.mpr (.inl he.1), he.2⟩]
    · rw [if_neg he]
      exact if_congr ⟨fun ⟨h, hb⟩ => ⟨hex.mpr (.inr h), hb⟩, fun ⟨h, hb⟩ => ⟨(hex.mp h).resolve_left fun h1 => he ⟨h1, hb⟩, hb⟩⟩ rfl rfl
theorem swf_locks_breakCell {s : State} (h : swf (fun _ => (0 : Word)) s.gal.locks = true) (n : Nat) :
    swf (fun _ => (0 : Word)) (breakCell s n).gal.locks = true := by
  unfold breakCell
  split
  · rw [evFire_frame (·.gal.locks) _ _ _ fun _ => rfl]
    exact swf_sset _ _ _ _ h
  · exact h
/-- The locks of context c are broken, and no other cell has changed; the table of cells keeps its canonical form. -/
def Broken (s u : State) (c : CtxId) : Prop :=
  swf (fun _ => (0 : Word)) s.gal.locks = true → swf (fun _ => (0 : Word)) u.gal.locks = true ∧ ∀ n, lockOf u n =
    if (lockOf s n).getLsbD 19 = true ∧ (lockOf s n).extractLsb' 0 19 = c.setWidth 19 then lockBroken (lockOf s n) else lockOf s n
theorem broken_breakLocks (s : State) (c : CtxId) : Broken s (breakLocks s fun o => o = c.toNat) c := fun hw => by
  refine ⟨List.foldlRecOn _ _ (motive := fun u : State => swf (fun _ => (0 : Word)) u.gal.locks = true) hw
    fun _ h e _ => swf_locks_breakCell h e.1, fun n => ?_⟩
  rw [breakLocks, lockOf_foldl_breakCell]
  have hheld : ((∃ e ∈ s.gal.locks.filter fun e => bit e.2 19 && decide (fld e.2 0 19 = c.toNat), e.1 = n) ∧ (lockOf s n).getLsbD 19 = true) ↔
      (lockOf s n).getLsbD 19 = true ∧ (lockOf s n).extractLsb' 0 19 = c.setWidth 19 := by
    have howner : fld (lockOf s n) 0 19 = c.toNat ↔ (lockOf s n).extractLsb' 0 19 = c.setWidth 19 := owner_iff _ (.ctx c)
    rw [and_comm, and_congr_right_iff, ← howner]
    intro hb
    constructor
    · rintro ⟨e, he, rfl⟩
      obtain ⟨hmem, hp⟩ := List.mem_filter.mp he
      have hv : lockOf s e.1 = e.2 := sget_of_mem hw hmem 0
      rw [hv]
      exact of_decide_eq_true (Bool.and_eq_true_iff.mp hp).2
    · intro ho
      have hne : lockOf s n ≠ 0 := fun h0 => by simp [h0] at hb
      exact ⟨_, List.mem_filter.mpr ⟨mem_of_sget_ne hne, Bool.and_eq_true_iff.mpr ⟨hb, decide_eq_true ho⟩⟩, rfl⟩
  simp only [hheld]
/-- Breaking the locks of a context again breaks nothing more. -/
theorem Broken.trans {s u w : State} {c : CtxId} (h : Broken s u c) (h' : Broken u w c) : Broken s w c := fun hs => by
  obtain ⟨hu, hn⟩ := h hs
  obtain ⟨hw, hn'⟩ := h' hu
  refine ⟨hw, fun n => ?_⟩
  rw [hn', hn]
  split
  · rw [lockBroken_free, if_neg fun hb => Bool.false_ne_true hb.1]
  · rfl
theorem Broken.congr {s s' u u' : State} {c : CtxId} (h : Broken s u c) (hs : s'.gal.locks = s.gal.locks) (hu : u'.gal.locks = u.gal.locks) : Broken s' u' c := by
  simp only [Broken, lockOf, hs, hu]
  exact h

/-! A context that is freed. -/
/-- u with the lock cells, the counters, the event sources, the device ports, the movers and what the device keeps for threads as in s. -/
def freedBack (s u : State) : State := { locksBack s u with dpt := s.dpt, mov := s.mov, eng := { u.eng with thr := s.eng.thr } }
/-- The locks of context c are broken, its channel is not PAUSED and the device keeps x for it; nothing else has changed but GAL_LOCK_BRK, the event
sources, the device ports, the movers and what the device keeps for threads. -/
structure Freed (s u : State) (c : CtxId) (x : Thr) : Prop where
  rest : freedBack s u = s
  thr : thrOf u (.ctx c) = x
  notPaused : (chstOf u c).paused = false
  counts : ∀ a, a ≠ aGAL + 0x54 → imr u a = imr s a
  locks : Broken s u c
theorem Freed.frame {α : Type} (f : State → α) {s u : State} {c : CtxId} {x : Thr} (h : Freed s u c x) (hf : f (freedBack s u) = f u) : f u = f s :=
  hf.symm.trans (congrArg f h.rest)
theorem Freed.sameMemory {s u : State} {c : CtxId} {x : Thr} (h : Freed s u c x) : SameMemory s u := fun k => h.frame (memGet · k) rfl
theorem Freed.liveOf {s u : State} {c : CtxId} {x : Thr} (h : Freed s u c x) (d : CtxId) : liveOf u d = liveOf s d := h.frame (Machine.liveOf · d) rfl
theorem Freed.recOf {s u : State} {c : CtxId} {x : Thr} (h : Freed s u c x) (d : CtxId) : recOf u d = recOf s d := h.frame (Machine.recOf · d) rfl
theorem Freed.regsOf {s u : State} {c : CtxId} {x : Thr} (h : Freed s u c x) (v : Thread) : regsOf u v = regsOf s v :=
  h.frame (Machine.regsOf · v) (by cases v <;> rfl)
theorem Freed.occ {s u : State} {c : CtxId} {x : Thr} (h : Freed s u c x) : u.eng.occ = s.eng.occ := h.frame (·.eng.occ) rfl
theorem Freed.cmdBusy {s u : State} {c : CtxId} {x : Thr} (h : Freed s u c x) : u.gal.cmdBusy = s.gal.cmdBusy := h.frame (·.gal.cmdBusy) rfl
/-- Locks that break after changes of the movers and the device ports that leave the channel not PAUSED. -/
theorem LocksOnly.freed {s w u : State} {c : CtxId} (h : LocksOnly w u) (hw : freedBack s w = s) (hp : (chstOf w c).paused = false)
    (hi : w.reg.im = s.reg.im) (hl : Broken s u c) : Freed s u c (thrOf w (.ctx c)) where
  rest := (h.frame (freedBack s) rfl).trans hw
  thr := h.frame (thrOf · (.ctx c)) rfl
  notPaused := (congrArg ChSt.paused (h.frame (chstOf · c) rfl)).trans hp
  counts a ha := (h.counts a ha).trans (by simp only [imr, hi])
  locks := hl
theorem freed_breakLocks (s : State) (c : CtxId) (y : ChSt) :
    Freed s (setChst (breakLocks s fun o => o = c.toNat) c { y with paused := false }) c (thrOf s (.ctx c)) := by
  have h := locksOnly_breakLocks s fun o => o = c.toNat
  exact {
    rest := h.frame (freedBack s) rfl
    thr := h.frame (thrOf · (.ctx c)) rfl
    notPaused := congrArg ChSt.paused (chstOf_setChst_same _ c _)
    counts := h.counts
    locks := broken_breakLocks s c }
theorem Freed.setThr {s u : State} {c : CtxId} {x : Thr} (h : Freed s u c x) (y : Thr) : Freed s (setThr u (.ctx c) y) c y :=
  ⟨h.rest, thrOf_setThr_same u _ y, h.notPaused, h.counts, h.locks⟩
theorem Freed.grants {s u w : State} {c : CtxId} {x : Thr} (h : Freed s u c x) (hg : GrantsOnly u w) : Freed s w c x := by
  obtain ⟨l, b, rfl⟩ := hg
  exact ⟨h.rest, h.thr, h.notPaused, h.counts, h.locks⟩

end Sys2Proof.Machine
end

section
/-! The entry into HALTED of a context that nothing holds back, and the end of RESET (R67, R80, R82, R148, R170, R177, R179). -/
namespace Sys2Proof.Machine

/-! A context that no queue entry waits for. -/
section
variable {s : State} {c : CtxId}

theorem endOrigin_none (h : (thrOf s (.ctx c)).origin = none) (bad : Option Nat) : endOrigin s c bad = s := by
  unfold endOrigin
  dsimp only
  rw [h]
theorem endHaltEntries_none (h : (thrOf s (.ctx c)).haltEnt = []) :
    ∃ x : Thr, x.sb = (thrOf s (.ctx c)).sb ∧ endHaltEntries s c = setThr s (.ctx c) x := by
  unfold endHaltEntries
  rw [h]
  exact ⟨{ thrOf s (.ctx c) with haltEnt := [] }, rfl, rfl⟩
theorem galCmdEnd_none (h : s.gal.cmdBusy = none) : galCmdEnd s c = s := by
  unfold galCmdEnd
  rw [h]
end

/-! The save of a context that enters HALTED (R170, R177). -/
/-- The context saved in HALTED, its slot given up. -/
def savedHalted (s : State) (c : CtxId) : State := setSt (leaveSlot (saveRec s c .halted) c) c .halted
/-- The record that the save leaves: the register set of the context with its outstanding results, or the record as it was. -/
def haltRec (s : State) (c : CtxId) : Regs :=
  match slotRegs s c.toNat with
  | some r => { settleRegs (thrOf s (.ctx c)) r with stb := 6, waitw := 0 }
  | none => recOf s c
section
variable (s : State) (c : CtxId)

theorem recOf_leaveSlot (d : CtxId) : recOf (leaveSlot s c) d = recOf s d := by
  obtain ⟨l, h⟩ := leaveSlot_eq s c
  rw [h]
  rfl
theorem occ_saveRec (st : CtxState) : (saveRec s c st).eng.occ = s.eng.occ := by
  cases h : slotRegs s c.toNat with
  | none => rw [saveRec_none st h]
  | some r =>
    obtain ⟨v, w, e⟩ := saveRec_some st h
    obtain ⟨l, m, hh⟩ := healRec_eq (setThr s (.ctx c) { thrOf s (.ctx c) with saved := v }) c
    rw [e, hh]
    rfl
theorem recOf_saveRec_halted : recOf (saveRec s c .halted) c = haltRec s c := by
  unfold saveRec haltRec
  cases slotRegs s c.toNat with
  | none => rfl
  | some r => exact recOf_setRec_same _ c _
theorem ctxOnly_savedHalted : CtxOnly s (savedHalted s c) c := ((CtxOnly.saveRec s c _).trans (.leaveSlot _ c)).trans (.setSt _ c _ _)
theorem liveOf_savedHalted : liveOf (savedHalted s c) c = { liveOf s c with st := .halted, waitk := 0 } := by
  rw [savedHalted, liveOf_setSt_same, liveOf_leaveSlot, liveOf_saveRec]
theorem thrOf_savedHalted : ∃ v, thrOf (savedHalted s c) (.ctx c) = { thrOf s (.ctx c) with saved := v, loads := [], md := none } := by
  obtain ⟨v, hv⟩ := thrOf_saveRec s c .halted
  exact ⟨v, by rw [savedHalted, thrOf_setSt, thrOf_leaveSlot, hv]⟩
theorem recOf_savedHalted : recOf (savedHalted s c) c = haltRec s c := (recOf_leaveSlot _ c c).trans (recOf_saveRec_halted s c)
theorem regsOf_savedHalted : regsOf (savedHalted s c) (.ctx c) = haltRec s c := by
  rw [savedHalted, regsOf_setSt, regsOf_leaveSlot, recOf_saveRec_halted]
theorem occ_savedHalted {k : Nat} (h : slotOf s c = some k) : sget none (savedHalted s c).eng.occ k = none := by
  have hslot : slotOf (saveRec s c .halted) c = some k := by rw [slotOf, occ_saveRec]; exact h
  change sget none (leaveSlot (saveRec s c .halted) c).eng.occ k = none
  rw [occ_leaveSlot hslot, sget_sset_same]
end

/-! The entry into HALTED. -/
/-- The state in which the waiters, the channel and the locks of a saved context are gone, and its halt has raised its event. -/
def haltBroken (w : State) (c : CtxId) (reason : Nat) : State :=
  breakLocks (ctxEvent (setChst (freeChan (dropWaiter w c) c.toNat) c { chstOf w c with paused := false }) c 2 reason) fun o => o = c.toNat
theorem haltBroken_freed (w : State) (c : CtxId) (reason : Nat) : Freed w (haltBroken w c reason) c (thrOf w (.ctx c)) := by
  let w2 := setChst (freeChan (dropWaiter w c) c.toNat) c { chstOf w c with paused := false }
  have h : LocksOnly w2 (haltBroken w c reason) := (locksOnly_evFire _ _ _).trans (locksOnly_breakLocks _ _)
  have hl : Broken w (haltBroken w c reason) c := (broken_breakLocks _ c).congr (ctxEvent_frame (·.gal.locks) w2 c 2 reason fun _ => rfl).symm rfl
  exact h.freed rfl (congrArg ChSt.paused (chstOf_setChst_same _ c _)) rfl hl
theorem haltedEntry_eq (s : State) (c : CtxId) (reason : Nat) : haltedEntry s c reason =
    let w := endHaltEntries (endOrigin (haltBroken (savedHalted s c) c reason) c (some reason)) c
    galCmdEnd (grantAll (setThr w (.ctx c) { sb := (thrOf w (.ctx c)).sb })) c := rfl
/-- The entry into HALTED of a context for which no queue entry and no command waits frees it, saved. -/
theorem haltedEntry_freed {s : State} {c : CtxId} (ho : (thrOf s (.ctx c)).origin = none) (hh : (thrOf s (.ctx c)).haltEnt = []) (hb : s.gal.cmdBusy = none)
    (reason : Nat) : Freed (savedHalted s c) (haltedEntry s c reason) c { sb := (thrOf s (.ctx c)).sb } := by
  obtain ⟨v, ht⟩ := thrOf_savedHalted s c
  have hbr := haltBroken_freed (savedHalted s c) c reason
  rw [ht] at hbr
  obtain ⟨x, hx, hwait⟩ := endHaltEntries_none (s := haltBroken (savedHalted s c) c reason) (by rw [hbr.thr]; exact hh)
  have hend := ((hbr.setThr x).setThr { sb := x.sb }).grants (grantsOnly_grantAll _)
  have hbusy := hend.cmdBusy.trans (((ctxOnly_savedHalted s c).frame (·.gal.cmdBusy) rfl).trans hb)
  have hsb : x.sb = (thrOf s (.ctx c)).sb := hx.trans (by rw [hbr.thr])
  rw [haltedEntry_eq, endOrigin_none (by rw [hbr.thr]; exact ho), hwait]
  dsimp only
  rw [thrOf_setThr_same, galCmdEnd_none hbusy, ← hsb]
  exact hend

/-! A halt with its report (R67, R80, R82). -/
/-- p with the live words, memory and its errors, GLB_RSVD_WR and the event sources as in s. -/
def postBack (s p : State) : State :=
  { p with
    mem := s.mem, memc := { p.memc with upset := s.memc.upset, corr := s.memc.corr }, reg := { p.reg with rsvd := s.reg.rsvd },
    evt := { p.evt with src := s.evt.src }, gal := { p.gal with live := s.gal.live } }
/-- Context c has RIDX ri; nothing else has changed but memory and its errors, GLB_RSVD_WR and the event sources. -/
structure Posted (s p : State) (c : CtxId) (ri : Half) : Prop where
  rest : postBack s p = s
  live : liveOf p c = { liveOf s c with ridx := ri }
  others : OtherLive s p c
theorem Posted.frame {α : Type} (f : State → α) {s p : State} {c : CtxId} {ri : Half} (h : Posted s p c ri) (hf : f (postBack s p) = f p) : f p = f s :=
  hf.symm.trans (congrArg f h.rest)
theorem Posted.event {s p : State} {c : CtxId} {ri : Half} (h : Posted s p c ri) (kind reason : Nat) : Posted s (ctxEvent p c kind reason) c ri where
  rest := (ctxEvent_frame (postBack s) p c kind reason fun _ => rfl).trans h.rest
  live := (liveOf_ctxEvent p c c _ _).trans h.live
  others d hd := (liveOf_ctxEvent p c d _ _).trans (h.others d hd)
theorem sameMemory_ctxEvent (s : State) (c : CtxId) (kind reason : Nat) : SameMemory s (ctxEvent s c kind reason) :=
  fun k => ctxEvent_frame (memGet · k) s c kind reason fun _ => rfl
/-- Without REPA there is no report, and RIDX stays (R80). -/
theorem posted_off {s : State} {c : CtxId} (h : (regsOf s (.ctx c)).repa = 0) (r : Rep) : let p := ctxEvent (putReport s c r).1 c 1 r.reason
    Posted s p c (liveOf s c).ridx ∧ SameMemory s p := by
  rw [putReport_off h]
  have hs : Posted s s c (liveOf s c).ridx := ⟨rfl, rfl, fun _ _ => rfl⟩
  exact ⟨hs.event 1 r.reason, sameMemory_ctxEvent s c 1 r.reason⟩
/-- A report whose 32 bytes may be written is in its ring, and RIDX has moved on. -/
theorem posted_written {s : State} {c : CtxId} {k : Nat} (r : Rep) (hr : (regsOf s (.ctx c)).repa ≠ 0)
    (hk : ∀ i, i < 32 → wrKey s (ctxAgent s c) (ceilOf (regsOf s (.ctx c))) (repAddr s c + i) = some (k + i)) :
    let p := ctxEvent (putReport s c r).1 c 1 r.reason
    Posted s p c ((liveOf s c).ridx + 1) ∧ (∀ i, i < 32 → memGet p (k + i) = (repBytes s c r).getD i 0) ∧ SameMemoryBut s p k 32 := by
  obtain ⟨u, hp, hb, hm, m, up, corr, f, hu⟩ := putReport_writes r hr hk
  have hlive : ∀ d, liveOf u d = liveOf s d := fun d => by rw [hu]; rfl
  have hring : Posted s (ringMoved u c) c ((liveOf s c).ridx + 1) := {
    rest := by rw [hu]; rfl
    live := by rw [ringMoved, liveOf_setLive_same, hlive]
    others d hd := (liveOf_setLive_other u c _ d hd).trans (hlive d) }
  have hmem := sameMemory_ctxEvent (ringMoved u c) c 1 r.reason
  rw [hp]
  exact ⟨hring.event 1 r.reason, fun i hi => (hmem _).trans (hb i hi), fun j hj => (hmem j).trans (hm j hj)⟩

end Sys2Proof.Machine
end

section
/-! RELEASE, RESET and HALT of a context (R67, R177, R179, R187, R200, R222). -/
namespace Sys2Proof.Machine

/-! The end of RESET and RELEASE (R179, R187). -/
section
variable {s : State} {c : CtxId}

/-- A record cleared but for its settings and its STATE (R179). -/
def clearedRec (r : Regs) : Regs :=
  { stb := r.stb, ceil := r.ceil, rlen := r.rlen, wen := r.wen, siga := r.siga, repa := r.repa, exv := r.exv, sw := r.sw }
/-- The context with its record cleared, IDLE, before its locks are broken. -/
def clearedState (s : State) (c : CtxId) : State :=
  let w := setRec (healRec (dropRegs s c) c) c (clearedRec (recOf s c))
  setThr (setLive w c { liveOf w c with pend := 0, waitk := 0, st := .idle }) (.ctx c) { sb := (thrOf w (.ctx c)).sb }
theorem resetTail_freed (h : stOf s c = .idle ∨ stOf s c = .halted) : Freed (clearedState s c) (resetTail s c) c { sb := (thrOf s (.ctx c)).sb } := by
  have he : resetTail s c = setChst (breakLocks (clearedState s c) fun o => o = c.toNat) c
      { chstOf (breakLocks (clearedState s c) fun o => o = c.toNat) c with paused := false } := by
    obtain h | h := h <;> (unfold resetTail; rw [h]; rfl)
  have hsb : thrOf (clearedState s c) (.ctx c) = { sb := (thrOf s (.ctx c)).sb } := by
    have ht : thrOf (setRec (healRec (dropRegs s c) c) c (clearedRec (recOf s c))) (.ctx c) = _ := (thrOf_healRec _ c _).trans (thrOf_dropRegs s c)
    rw [clearedState, thrOf_setThr_same, ht]
  rw [he, ← hsb]
  exact freed_breakLocks _ c _
theorem ctxOnly_clearedState (s : State) (c : CtxId) : CtxOnly s (clearedState s c) c :=
  ((((CtxOnly.dropRegs s c).trans (.healRec _ c)).trans (.setRec _ c _)).trans (.setLive _ c _)).trans (.setThr _ c _)
theorem liveOf_clearedState (s : State) (c : CtxId) : liveOf (clearedState s c) c = { liveOf s c with pend := 0, waitk := 0, st := .idle } := by
  have hl : liveOf (setRec (healRec (dropRegs s c) c) c (clearedRec (recOf s c))) c = liveOf s c := liveOf_healRec (dropRegs s c) c c
  rw [clearedState, liveOf_setThr, liveOf_setLive_same, hl]
theorem recOf_clearedState (s : State) (c : CtxId) : recOf (clearedState s c) c = clearedRec (recOf s c) := recOf_setRec_same (healRec (dropRegs s c) c) c _
theorem eng_healRec (s : State) (c : CtxId) : (healRec s c).eng = s.eng := by
  obtain ⟨l, m, h⟩ := healRec_eq s c
  rw [h]
theorem regsOf_clearedState (s : State) (c : CtxId) : regsOf (clearedState s c) (.ctx c) = clearedRec (recOf s c) := by
  have hn : slotRegs (clearedState s c) c.toNat = none := by
    change sget none (healRec (dropRegs s c) c).eng.slots c.toNat = none
    rw [eng_healRec]
    exact slotRegs_setSlotRegs_same _ _ _
  rw [regsOf, hn, recOf_clearedState]
  rfl
theorem occ_clearedState (s : State) (c : CtxId) : (clearedState s c).eng.occ = s.eng.occ := by
  change (healRec (dropRegs s c) c).eng.occ = s.eng.occ
  rw [eng_healRec]
  rfl
theorem resetTail_free (h : stOf s c = .free) : resetTail s c = s := by
  unfold resetTail
  rw [h]

/-- The context FREE, its slot given up, before its locks are broken. -/
def releasedState (s : State) (c : CtxId) : State := setLive (leaveSlot s c) c { liveOf s c with pend := 0, waitk := 0, st := .free }
theorem doRelease_freed (h : stOf s c = .idle ∨ stOf s c = .halted) : ∃ x, Freed (releasedState s c) (doRelease s c) c x := by
  have he : doRelease s c = setChst (breakLocks (releasedState s c) fun o => o = c.toNat) c
      { chstOf (breakLocks (releasedState s c) fun o => o = c.toNat) c with paused := false } := by
    obtain h | h := h <;> (unfold doRelease; rw [h]; rfl)
  rw [he]
  exact ⟨_, freed_breakLocks _ c _⟩
theorem ctxOnly_releasedState (s : State) (c : CtxId) : CtxOnly s (releasedState s c) c := (CtxOnly.leaveSlot s c).trans (.setLive _ c _)
theorem doRelease_free (h : stOf s c = .free) : doRelease s c = s := by
  unfold doRelease
  rw [h]

/-- What RELEASE leaves of a context at rest (R179, R200, R224). -/
theorem doRelease_effect (h : stOf s c = .idle ∨ stOf s c = .halted) : let u := doRelease s c
    liveOf u c = { liveOf s c with st := .free, pend := 0, waitk := 0 } ∧ OtherLive s u c ∧ (∀ k, slotOf s c = some k → sget none u.eng.occ k = none) ∧
      Broken s u c ∧ (chstOf u c).paused = false ∧ SameMemory s u ∧ ∀ a, a ≠ aGAL + 0x54 → imr u a = imr s a := by
  obtain ⟨x, hf⟩ := doRelease_freed h
  have hs := ctxOnly_releasedState s c
  refine ⟨(hf.liveOf c).trans (liveOf_setLive_same _ c _), fun d hd => (hf.liveOf d).trans (hs.live d hd), fun k hk => ?_,
    hf.locks.congr (hs.frame (·.gal.locks) rfl).symm rfl, hf.notPaused, hs.sameMemory.trans hf.sameMemory,
    fun a ha => (hf.counts a ha).trans (hs.frame (imr · a) rfl)⟩
  rw [hf.occ]
  exact (congrArg (sget none · k) (occ_leaveSlot hk)).trans (sget_sset_same _ _ _ _)
/-- What RESET leaves of a context at rest (R179, R187, R200): a pinned one keeps its slot. -/
theorem resetTail_effect (h : stOf s c = .idle ∨ stOf s c = .halted) : let u := resetTail s c
    liveOf u c = { liveOf s c with st := .idle, pend := 0, waitk := 0 } ∧ OtherLive s u c ∧ u.eng.occ = s.eng.occ ∧ Broken s u c ∧
      (chstOf u c).paused = false ∧ SameMemory s u ∧ thrOf u (.ctx c) = { sb := (thrOf s (.ctx c)).sb } ∧ recOf u c = clearedRec (recOf s c) ∧
      regsOf u (.ctx c) = recOf u c ∧ ∀ a, a ≠ aGAL + 0x54 → imr u a = imr s a := by
  have hf := resetTail_freed h
  have hs := ctxOnly_clearedState s c
  have hr := (hf.recOf c).trans (recOf_clearedState s c)
  exact ⟨(hf.liveOf c).trans (liveOf_clearedState s c), fun d hd => (hf.liveOf d).trans (hs.live d hd), hf.occ.trans (occ_clearedState s c),
    hf.locks.congr (hs.frame (·.gal.locks) rfl).symm rfl, hf.notPaused, hs.sameMemory.trans hf.sameMemory, hf.thr, hr,
    ((hf.regsOf _).trans (regsOf_clearedState s c)).trans hr.symm, fun a ha => (hf.counts a ha).trans (hs.frame (imr · a) rfl)⟩

/-! HALT and RESET by what the context does (R67, R177, R222). -/
/-- The context has work that a HALT ends (R177). -/
def Working (s : State) (c : CtxId) : Prop := stOf s c = .ready ∨ stOf s c = .resident ∨ stOf s c = .waiting ∨ stOf s c = .held
theorem haltable_iff (s : State) (c : CtxId) : haltable s c = true ↔ Working s c := by
  unfold haltable Working
  cases stOf s c <;> simp
theorem not_haltable (h : stOf s c = .free ∨ stOf s c = .idle ∨ stOf s c = .halted) : haltable s c = false := by
  unfold haltable
  obtain h | h | h := h <;> rw [h]
theorem haltCtx_rest (h : haltable s c = false) : haltCtx s c = s := by
  unfold haltCtx
  rw [h]
  rfl
theorem doHalt_rest (h : haltable s c = false) : doHalt s c = s := by
  unfold doHalt
  rw [haltCtx_rest h]
  simp only [h]
  rfl
theorem doReset_rest (h : haltable s c = false) : doReset s c = resetTail s c := by
  unfold doReset
  rw [haltCtx_rest h]
  simp only [h]
  rfl
/-- A channel that moves data stops first, and the command waits for it (R222). -/
theorem haltCtx_moving {ch : Xfer} (h : Working s c) (hc : chanOf s c.toNat = some ch) (hl : ch.left ≠ 0) (hg : ch.granted = true) (hp : ch.paused = false) :
    haltCtx s c = setChan s c.toNat { ch with stopping := some .halt } := by
  simp [haltCtx, (haltable_iff s c).mpr h, hc, hl, hg, hp]
/-- A command on a context that has work and neither a channel nor a store nor a halt to wait for halts it now, with ABORTED and reason HALT. -/
theorem haltCtx_still (h : Working s c) (hc : chanOf s c.toNat = none) (hsb : (thrOf s (.ctx c)).sb = []) (hl : (thrOf s (.ctx c)).last = none) :
    haltCtx s c = haltPost s c (repNow s c 0x1000 0x17 (haltResidual s c)) := by
  have hm : ∀ n : Nat, n &&& 0x2E0 = 0 → markBad s c n = s := fun n hn => by
    unfold markBad
    simp only [show sBUS ||| sALIGN ||| sPROT ||| sCHAIN = 0x2E0 from rfl, hn]
    simp
  have hd : drainPlain s c = s := by simp [drainPlain, hsb]
  simp [haltCtx, (haltable_iff s c).mpr h, hc, haltNow, hl, haltWith, storesDone, hsb, haltEnd, hd, hm sABORT rfl]

/-! What a halt and a RESET leave of a context that is still (R80, R170, R177, R179). -/
/-- Context c of s has halted: it is saved, its slot is free, its locks are broken, and RIDX is ri; memory is as in p, in which its report is stored. -/
structure Halts (s p u : State) (c : CtxId) (ri : Half) : Prop where
  live : liveOf u c = { liveOf s c with st := .halted, waitk := 0, ridx := ri }
  others : OtherLive s u c
  left : ∀ k, slotOf s c = some k → sget none u.eng.occ k = none
  locks : Broken s u c
  notPaused : (chstOf u c).paused = false
  thr : thrOf u (.ctx c) = {}
  record : recOf u c = haltRec s c
  memory : SameMemory p u
  counts : ∀ a, a ≠ aGAL + 0x54 → imr u a = imr s a
theorem halts_of_posted {p : State} {ri : Half} (h : Posted s p c ri) (hsb : (thrOf s (.ctx c)).sb = []) (ho : (thrOf s (.ctx c)).origin = none)
    (hh : (thrOf s (.ctx c)).haltEnt = []) (hb : s.gal.cmdBusy = none) : Halts s p (haltedEntry p c 0x17) c ri := by
  have ht : thrOf p (.ctx c) = thrOf s (.ctx c) := h.frame (thrOf · (.ctx c)) rfl
  have hf := haltedEntry_freed (by rw [ht]; exact ho) (by rw [ht]; exact hh) ((h.frame (·.gal.cmdBusy) rfl).trans hb) 0x17
  have hs := ctxOnly_savedHalted p c
  rw [ht, hsb] at hf
  exact {
    live := by rw [hf.liveOf, liveOf_savedHalted, h.live]
    others := fun d hd => (hf.liveOf d).trans ((hs.live d hd).trans (h.others d hd))
    left := fun k hk => by
      rw [hf.occ]
      exact occ_savedHalted p c ((h.frame (slotOf · c) rfl).trans hk)
    locks := hf.locks.congr ((h.frame (·.gal.locks) rfl).symm.trans (hs.frame (·.gal.locks) rfl).symm) rfl
    notPaused := hf.notPaused
    thr := hf.thr
    record := (hf.recOf c).trans ((recOf_savedHalted p c).trans (h.frame (haltRec · c) rfl))
    memory := hs.sameMemory.trans hf.sameMemory
    counts := fun a ha => (hf.counts a ha).trans ((hs.frame (imr · a) rfl).trans (h.frame (imr · a) rfl)) }
/-- Context c of s has halted and been reset. -/
structure Resets (s p u : State) (c : CtxId) (ri : Half) : Prop where
  live : liveOf u c = { liveOf s c with st := .idle, pend := 0, waitk := 0, ridx := ri }
  others : OtherLive s u c
  left : ∀ k, slotOf s c = some k → sget none u.eng.occ k = none
  locks : Broken s u c
  notPaused : (chstOf u c).paused = false
  thr : thrOf u (.ctx c) = {}
  record : recOf u c = clearedRec (haltRec s c)
  regs : regsOf u (.ctx c) = recOf u c
  memory : SameMemory p u
  counts : ∀ a, a ≠ aGAL + 0x54 → imr u a = imr s a
theorem Halts.resetTail {p u : State} {ri : Half} (h : Halts s p u c ri) : Resets s p (resetTail u c) c ri := by
  obtain ⟨hl, hd, hocc, hlk, hp, hm, ht, hr, hg, hcnt⟩ := resetTail_effect (s := u) (c := c) (.inr (by rw [stOf, h.live]))
  exact {
    live := hl.trans (by rw [h.live])
    others := fun d hd' => (hd d hd').trans (h.others d hd')
    left := fun k hk => (congrArg (sget none · k) hocc).trans (h.left k hk)
    locks := h.locks.trans hlk
    notPaused := hp
    thr := ht.trans (by rw [h.thr])
    record := hr.trans (congrArg clearedRec h.record)
    regs := hg
    memory := h.memory.trans hm
    counts := fun a ha => (hcnt a ha).trans (h.counts a ha) }
/-- HALT and RESET once the context has halted. -/
theorem doHalt_of_halts {p u : State} {ri : Half} (h : Halts s p u c ri) (he : haltCtx s c = u) : doHalt s c = u := by
  have hn : haltable u c = false := not_haltable (.inr (.inr (by rw [stOf, h.live])))
  unfold doHalt
  simp only [he, hn]
  rfl
theorem doReset_of_halts {p u : State} {ri : Half} (h : Halts s p u c ri) (he : haltCtx s c = u) : doReset s c = resetTail u c := by
  have hn : haltable u c = false := not_haltable (.inr (.inr (by rw [stOf, h.live])))
  unfold doReset
  simp only [he, hn]
  rfl
/-- A save keeps the settings of a record. -/
theorem clearedRec_settleRegs (x : Thr) (r : Regs) : clearedRec (settleRegs x r) = clearedRec r := by
  have hl : clearedRec (x.loads.foldl (fun r l => r.setG l.1 l.2) r) = clearedRec r :=
    List.foldlRecOn x.loads _ (motive := fun q : Regs => clearedRec q = clearedRec r) rfl fun _ hq _ _ => hq
  unfold settleRegs
  dsimp only
  split <;> exact hl
theorem clearedRec_haltRec (s : State) (c : CtxId) : { clearedRec (haltRec s c) with stb := 0 } = { clearedRec (regsOf s (.ctx c)) with stb := 0 } := by
  unfold haltRec regsOf
  dsimp only
  cases slotRegs s c.toNat with
  | none => rfl
  | some r => exact congrArg (fun q : Regs => { q with stb := 0 }) (clearedRec_settleRegs (thrOf s (.ctx c)) r)
end

end Sys2Proof.Machine
end

section
/-! O29: the context commands ALLOC, RELEASE, RESET and HALT (R177, R179, R180, R200, R203). -/
namespace Sys2Proof.Machine
section
variable {s : State} {c : CtxId} {lvl : Lvl} {op : Nat}

/-! GAL_CTX_CMD and GAL_CTX_STS (R203). -/
theorem ctxCmd_acts (h : s.gal.cmdBusy = none) (f : State → State) : ctxCmd s c op false f = f (ctxSts s c op false) := by simp [ctxCmd, h]
theorem ctxCmd_refuses (h : s.gal.cmdBusy = none) (f : State → State) : ctxCmd s c op true f = ctxSts s c op true := by simp [ctxCmd, h]
theorem ctxCmd_busy (h : s.gal.cmdBusy ≠ none) (refuse : Bool) (f : State → State) :
    ctxCmd s c op refuse f = setIm s (aGAL + 0x24) (imr s (aGAL + 0x24) ||| 0x400000) := by
  simp [ctxCmd, Option.isSome_iff_ne_none.mpr h]
theorem exec_alloc (hc : clocksOn s = true) (hl : Reaches lvl 2) : exec (.alloc lvl c) s = .next (ctxCmd s c 1 false (doAlloc · c)) :=
  onReg_reaches (fun s => ctxCmd s c 1 false (doAlloc · c)) hc hl
theorem exec_release (hc : clocksOn s = true) (hl : Reaches lvl 2) : exec (.release lvl c) s = .next (ctxCmd s c 2 (haltable s c) (doRelease · c)) :=
  onReg_reaches (fun s => ctxCmd s c 2 (haltable s c) (doRelease · c)) hc hl
theorem exec_reset (hc : clocksOn s = true) (hl : Reaches lvl 2) : exec (.reset lvl c) s = .next (ctxCmd s c 3 false (doReset · c)) :=
  onReg_reaches (fun s => ctxCmd s c 3 false (doReset · c)) hc hl
theorem exec_halt (hc : clocksOn s = true) (hl : Reaches lvl 2) : exec (.halt lvl c) s = .next (ctxCmd s c 4 false (doHalt · c)) :=
  onReg_reaches (fun s => ctxCmd s c 4 false (doHalt · c)) hc hl
theorem imr_ctxSts (s : State) (c : CtxId) (op : Nat) (refused : Bool) :
    imr (ctxSts s c op refused) (aGAL + 0x24) = BitVec.ofNat 32 (c.toNat + op * 0x40000 + (if refused then 0x400000 else 0)) := by
  rw [ctxSts, imr_setIm_same]
  cases refused <;> rfl
/-- HALT and RESET of a context whose channel moves data. -/
theorem doHalt_moving {ch : Xfer} (h : Working s c) (hc : chanOf s c.toNat = some ch) (hl : ch.left ≠ 0) (hg : ch.granted = true) (hp : ch.paused = false) :
    doHalt s c = { setChan s c.toNat { ch with stopping := some .halt } with gal := { s.gal with cmdBusy := some (c, 4) } } ∧
      doReset s c = { setChan s c.toNat { ch with stopping := some .halt } with gal := { s.gal with cmdBusy := some (c, 3) } } := by
  have hw : haltable (setChan s c.toNat { ch with stopping := some .halt }) c = true := (haltable_iff s c).mpr h
  unfold doHalt doReset
  simp only [haltCtx_moving h hc hl hg hp, hw]
  exact ⟨rfl, rfl⟩
end

/-- Context c has work, and neither a channel nor a store nor a halt nor a queue entry to wait for. -/
structure Still (s : State) (c : CtxId) : Prop where
  working : Working s c
  chan : chanOf s c.toNat = none
  stores : (thrOf s (.ctx c)).sb = []
  last : (thrOf s (.ctx c)).last = none
  origin : (thrOf s (.ctx c)).origin = none
  entries : (thrOf s (.ctx c)).haltEnt = []
/-- The state in which the report of a halt of c is posted. -/
def haltPosted (s : State) (c : CtxId) : State := ctxEvent (putReport s c (repNow s c 0x1000 0x17 (haltResidual s c))).1 c 1 0x17
/-- HALT and RESET of a context that is still, by the state in which its report is posted. -/
theorem Still.halts {s : State} {c : CtxId} {ri : Half} (h : Still s c) (hb : s.gal.cmdBusy = none) (hp : Posted s (haltPosted s c) c ri) :
    Halts s (haltPosted s c) (doHalt s c) c ri ∧ Resets s (haltPosted s c) (doReset s c) c ri := by
  have hu := halts_of_posted hp h.stores h.origin h.entries hb
  have he : haltCtx s c = haltedEntry (haltPosted s c) c 0x17 := haltCtx_still h.working h.chan h.stores h.last
  rw [doHalt_of_halts hu he, doReset_of_halts hu he]
  exact ⟨hu, hu.resetTail⟩

/-- Settles O29: each command by the state of its context, HALT and RESET of one with work by whether its channel moves data. -/
theorem contextCommandsMoveTheLifeCycle : Obligations.ContextCommandsMoveTheLifeCycle := by
  intro s c ch lvl kr hc hl t x l r status shown onlyStatus broken left atRest working still moving repAt reportable reported cleared resets halts stops
  have hst : ∀ op refused, imr (ctxSts s c op refused) status = BitVec.ofNat 32 (c.toNat + op * 0x40000 + (if refused then 0x400000 else 0)) :=
    imr_ctxSts s c
  have honly : ∀ op refused, shown (ctxSts s c op refused) op refused ∧ onlyStatus (ctxSts s c op refused) := fun op refused =>
    ⟨hst op refused, otherIm_setIm _ _ _, imBack_setIm _ _ _⟩
  have hstatus : status ≠ aGAL + 0x54 := by decide
  refine ⟨fun hb => ?_, fun hb i hi => ?_⟩
  · have hal := (exec_alloc (c := c) hc hl).trans (congrArg _ (ctxCmd_acts hb _))
    have hre := (exec_reset (c := c) hc hl).trans (congrArg _ (ctxCmd_acts hb _))
    have hha := (exec_halt (c := c) hc hl).trans (congrArg _ (ctxCmd_acts hb _))
    have hrel : haltable s c = false → exec (.release lvl c) s = .next (doRelease (ctxSts s c 2 false) c) := fun hn =>
      (exec_release hc hl).trans (congrArg _ (by rw [hn]; exact ctxCmd_acts hb _))
    have hbroken : ∀ op u, Broken (ctxSts s c op false) u c → broken u := fun op u h hw => (h hw).2
    have hrest : atRest → haltable s c = false := fun h => not_haltable (.inr h)
    have hhalts : ∀ p u ri, Halts (ctxSts s c 4 false) p u c ri → halts u := fun p u ri h =>
      ⟨(h.counts _ hstatus).trans (hst 4 false), congrArg Live.st h.live, (congrArg Live.pend h.live).trans rfl, congrArg Live.waitk h.live, h.others, h.left,
        hbroken 4 u h.locks, h.notPaused, h.thr,
        fun g hg => h.record.trans (by unfold haltRec; rw [show slotRegs (ctxSts s c 4 false) c.toNat = some g from hg]; rfl)⟩
    have hresets : ∀ p u ri, Resets (ctxSts s c 3 false) p u c ri → resets u := fun p u ri h =>
      ⟨(h.counts _ hstatus).trans (hst 3 false), congrArg Live.st h.live, congrArg Live.pend h.live, congrArg Live.waitk h.live, h.others, h.left,
        hbroken 3 u h.locks, h.notPaused, h.thr, (congrArg (fun q : Regs => { q with stb := 0 }) h.record).trans (clearedRec_haltRec _ c), h.regs⟩
    refine ⟨fun hf => ⟨_, hal, ?_⟩, fun hf => ⟨_, hal, ?_⟩, fun hr => ?_, fun hf => ⟨_, hrel (not_haltable (.inl hf)), ?_⟩,
      fun hw => ⟨_, exec_release hc hl, ?_⟩, fun hr => ⟨_, hre, ?_⟩, fun hf => ⟨_, hre, ?_⟩, fun hs => ?_, fun hm => ?_, fun hr => ⟨_, hha, ?_⟩⟩
    · have he : doAlloc (ctxSts s c 1 false) c = setLive (ctxSts s c 1 false) c { st := .idle } := if_pos hf
      rw [he]
      exact ⟨hst 1 false, otherIm_setIm _ _ _, liveOf_setLive_same _ c _, liveOf_setLive_other _ c _, rfl⟩
    · have he : doAlloc (ctxSts s c 1 false) c = ctxSts s c 1 false := if_neg hf
      rw [he]
      exact honly 1 false
    · obtain ⟨hlive, ho, hleft, hlk, hp, hm, hcnt⟩ := doRelease_effect (s := ctxSts s c 2 false) hr
      exact ⟨_, hrel (hrest hr), (hcnt _ hstatus).trans (hst 2 false), hlive, ho, hleft, hbroken 2 _ hlk, hp, hm⟩
    · have he : doRelease (ctxSts s c 2 false) c = ctxSts s c 2 false := doRelease_free hf
      rw [he]
      exact honly 2 false
    · rw [(haltable_iff s c).mpr hw, ctxCmd_refuses hb]
      exact honly 2 true
    · have he : doReset (ctxSts s c 3 false) c = resetTail (ctxSts s c 3 false) c := doReset_rest (hrest hr)
      obtain ⟨hlive, ho, hocc, hlk, hp, hm, ht, hrec, hregs, hcnt⟩ := resetTail_effect (s := ctxSts s c 3 false) hr
      rw [he]
      exact ⟨(hcnt _ hstatus).trans (hst 3 false), hlive, ho, hocc, hbroken 3 _ hlk, hp, hm, ht, hrec, hregs⟩
    · have he : doReset (ctxSts s c 3 false) c = ctxSts s c 3 false := (doReset_rest (s := ctxSts s c 3 false) (not_haltable (.inl hf))).trans (resetTail_free hf)
      rw [he]
      exact honly 3 false
    · obtain ⟨hw, hch, hsb, hlast, ho, hh⟩ := hs
      have hstill : ∀ op, Still (ctxSts s c op false) c := fun op => ⟨hw, hch, hsb, hlast, ho, hh⟩
      refine ⟨fun h0 => ?_, fun ⟨h0, hk⟩ => ?_⟩
      · have hp : ∀ op, let w := ctxSts s c op false; Posted w (haltPosted w c) c l.ridx ∧ SameMemory s (haltPosted w c) := fun op =>
          posted_off (s := ctxSts s c op false) h0 _
        obtain ⟨hu, -⟩ := (hstill 4).halts hb (hp 4).1
        obtain ⟨-, hv⟩ := (hstill 3).halts hb (hp 3).1
        exact ⟨⟨_, hha, hhalts _ _ _ hu, (congrArg Live.ridx hu.live).trans rfl, (hp 4).2.trans hu.memory⟩,
          ⟨_, hre, hresets _ _ _ hv, (congrArg Live.ridx hv.live).trans rfl, (hp 3).2.trans hv.memory⟩⟩
      · have hp : ∀ op, let w := ctxSts s c op false; Posted w (haltPosted w c) c (l.ridx + 1) ∧ reported (haltPosted w c) := fun op =>
          posted_written (s := ctxSts s c op false) _ h0 (by rw [repAddr_eq]; exact hk)
        have hrep : ∀ p u, reported p → SameMemory p u → reported u := fun p u ⟨hbytes, hbut⟩ hm =>
          ⟨fun i hi => (hm _).trans (hbytes i hi), fun j hj => (hm j).trans (hbut j hj)⟩
        obtain ⟨hu, -⟩ := (hstill 4).halts hb (hp 4).1
        obtain ⟨-, hv⟩ := (hstill 3).halts hb (hp 3).1
        exact ⟨⟨_, hha, hhalts _ _ _ hu, (congrArg Live.ridx hu.live).trans rfl, hrep _ _ (hp 4).2 hu.memory⟩,
          ⟨_, hre, hresets _ _ _ hv, (congrArg Live.ridx hv.live).trans rfl, hrep _ _ (hp 3).2 hv.memory⟩⟩
    · obtain ⟨hw, hch, hleft, hg, hp⟩ := hm
      have hidle : { s with gal := { s.gal with cmdBusy := none } } = s := by rw [← hb]
      obtain ⟨hu, -⟩ := doHalt_moving (s := ctxSts s c 4 false) hw hch hleft hg hp
      obtain ⟨-, hv⟩ := doHalt_moving (s := ctxSts s c 3 false) hw hch hleft hg hp
      exact ⟨⟨_, hha, hu ▸ ⟨hst 4 false, rfl, chanOf_setChan_same _ _ _, otherIm_setIm _ _ _, hidle⟩⟩,
        ⟨_, hre, hv ▸ ⟨hst 3 false, rfl, chanOf_setChan_same _ _ _, otherIm_setIm _ _ _, hidle⟩⟩⟩
    · have he : doHalt (ctxSts s c 4 false) c = ctxSts s c 4 false := doHalt_rest (not_haltable hr)
      rw [he]
      exact honly 4 false
  · have hbusy : ∀ op refuse f, exec i s = .next (ctxCmd s c op refuse f) → Answers i s fun u => imr u status = imr s status ||| 0x400000 ∧ onlyStatus u :=
      fun op refuse f h => ⟨_, h.trans (congrArg _ (ctxCmd_busy hb refuse f)), imr_setIm_same _ _ _, otherIm_setIm _ _ _, imBack_setIm _ _ _⟩
    simp only [List.mem_cons, List.not_mem_nil, or_false] at hi
    obtain rfl | rfl | rfl | rfl := hi
    · exact hbusy _ _ _ (exec_alloc hc hl)
    · exact hbusy _ _ _ (exec_release hc hl)
    · exact hbusy _ _ _ (exec_reset hc hl)
    · exact hbusy _ _ _ (exec_halt hc hl)

end Sys2Proof.Machine
end

section
/-! Refutation: a HALT entry of a queue for a context on which a RESET is in progress (R179, R244). -/
namespace Sys2Proof.Machine

/-- A HALT entry for context 7 (R239). -/
def haltEntryOfSeven : WqEntry := { cnt := 0, bytes := [1, 5, 0, 0, 7, 0, 0, 0] ++ List.replicate 56 0 }
/-- Context 7 is HELD, a RESET of it is in progress (R179), and queue 1, which the dispatcher visits, has a HALT of it to start. -/
def heldUnderReset : State :=
  { boot := { st := .run }
    gal := { live := [(7, { st := .held })], cmdBusy := some (7, 3) }
    wq := { q := [(1, { st := .active, ents := [haltEntryOfSeven], tokens := 1 })], visit := some (1, 0, 1) } }
/-- The entry halts the context, with which the RESET goes on to its end: the context is IDLE. -/
theorem wqHalt_heldUnderReset : ∃ u, exec (.wqHalt 1) heldUnderReset = .next u ∧ stOf u 7 = .idle :=
  ⟨_, rfl, by decide +kernel⟩
/-- Refutes O36: a HALT entry for a context on which a RESET is in progress leaves the context IDLE, not HALTED, since the entry into HALTED ends the RESET, as
R244 itself has it for the completion of the entry. -/
theorem not_queueEntriesAreStarted : ¬ Obligations.QueueEntriesAreStarted := by
  intro h
  obtain ⟨-, -, -, -, -, -, -, hhalt⟩ := h heldUnderReset heldUnderReset 1 haltEntryOfSeven (by decide +kernel) rfl (by decide +kernel)
  obtain ⟨u', hu', -, hhalted, -⟩ :=
    hhalt (by decide +kernel) (by decide +kernel) (by decide +kernel) (by decide +kernel) (by decide +kernel) (by decide +kernel) (by decide +kernel)
      (by decide +kernel)
  obtain ⟨u, hu, hidle⟩ := wqHalt_heldUnderReset
  cases hu.symm.trans hu'
  exact absurd (hidle.symm.trans hhalted) (by decide)

end Sys2Proof.Machine
end

section
/-! Refutation: a MOVE whose destination is a fragment list, which a landing with a commit interrupts (R60, R121, R194). -/
namespace Sys2Proof.Machine

/-- A commit for landing 2. -/
def commitForTwo : Commit := { tgt := 2, seq := 1, ring := false, rcv := 0 }
/-- Landing 2 comes with a commit that passed, which moves context 7 from cluster 0 to cluster 1. The context is in a MOVE at P2 that holds four bytes for its
destination, a fragment list in SRAM whose one entry names LND_GUARD. -/
def moveToListedRegister : State :=
  { boot := { st := .run }
    lnd := { num := 1, judged := some (2, some (commitForTwo, 0)) }
    time := { now := 19999 }
    mem := [(0x100000000, 0x60), (0x100000002, 0x03), (0x100000008, 4)]
    reg := { act := [(aPERIOD, 10000)], stg := [(aPERIOD, 10000)], tabS := [(tkeyOf .cct 7 0, 0x10)] }
    gal := { live := [(7, { st := .resident })] }
    eng := { occ := [(2, some 7)] }
    mov := { chans := [(7,
      { kind := .move, dst := 0x100000000, dstList := true, lvl := 2, count := 4, left := 4, read := 4, kept := [0xB8, 0x0B, 0, 0] })] } }
/-- The MOVE writes what it holds before its context gives up its slot: LND_GUARD is written in the bank that the swap has just made the STAGED one. -/
theorem landing_moveToListedRegister : ∃ u, exec (.landing {} {}) moveToListedRegister = .next u ∧ stg u aGUARD = 3000 :=
  ⟨_, rfl, by decide +kernel⟩
/-- Refutes O38: its premise on the destinations of MOVEs says nothing of the fragments of a list (R60), and a MOVE that the landing interrupts writes a register
through one, so that the STAGED bank after the landing is not the ACTIVE bank before it. -/
theorem not_landingsSwapTheBanks : ¬ Obligations.LandingsSwapTheBanks := by
  intro h
  obtain ⟨-, hswap, -⟩ := h moveToListedRegister 2 commitForTwo {} {} ⟨rfl, rfl, rfl⟩ (by decide) (.inl rfl) rfl rfl rfl rfl rfl (by decide +kernel)
    (by decide +kernel) (by decide +kernel) (by decide)
  obtain ⟨u', hu', -, -, -, -, -, hstg, -⟩ := hswap rfl rfl (by decide)
  obtain ⟨u, hu, hguard⟩ := landing_moveToListedRegister
  cases hu.symm.trans hu'
  rw [stg, hstg] at hguard
  exact absurd hguard (by decide +kernel)

end Sys2Proof.Machine
end

section
/-! Commits (R263, R266 to R268, R271): what their receipt leaves, and the judgement of the next landing. -/
namespace Sys2Proof.Machine

theorem running_of {s : State} (hc : clocksOn s = true) (h : s.boot.st = .run ∨ s.boot.st = .maint) : running s = true := by
  rcases h with h | h <;> simp [running, hc, h]

/-! A commit that misses (R268). -/
theorem sameMemory_missCommit (s : State) (l : DWord) (r : BitVec 4) : SameMemory s (missCommit s l r) := fun k =>
  evFire_frame (memGet · k) _ _ _ fun _ => rfl
theorem lnd_missCommit (s : State) (l : DWord) (r : BitVec 4) : (missCommit s l r).lnd = { s.lnd with last := 2, lreason := r } :=
  evFire_frame (·.lnd) _ _ _ fun _ => rfl
theorem time_missCommit (s : State) (l : DWord) (r : BitVec 4) : (missCommit s l r).time = s.time := evFire_frame (·.time) _ _ _ fun _ => rfl
theorem imr_missCommit (s : State) (l : DWord) (r : BitVec 4) (a : Nat) :
    imr (missCommit s l r) a = imr (setIm (bump16 s aMISS) aLASTMISS (l.setWidth 32)) a := evFire_frame (imr · a) _ _ _ fun _ => rfl
theorem fired_missCommit (s : State) (l : DWord) (r : BitVec 4) : Fired s (missCommit s l r) 0x491 (r.setWidth 32) := by
  refine (evFire_fired _ _ _).congr ?_ ?_ ?_ rfl <;> rfl
/-- LND_MISS counts the commit and LND_LAST_MISS names it. -/
theorem missCommit_counts (s : State) (l : DWord) (r : BitVec 4) :
    imr (missCommit s l r) aMISS = BitVec.ofNat 32 (Nat.min ((imr s aMISS).toNat + 1) 0xFFFF) ∧ imr (missCommit s l r) aLASTMISS = l.setWidth 32 := by
  rw [imr_missCommit, imr_missCommit, imr_setIm_same, imr_setIm_other _ _ _ _ (by decide)]
  exact ⟨imr_setIm_same _ _ _, rfl⟩

/-! The pending place (R266, R267). -/
theorem dropPend_empty {s : State} (h : s.lnd.pend = none) : dropPend s = s := by simp [dropPend, h]
/-- What is emptied of its commit keeps everything else but the VID code (R501). -/
theorem dropPend_eq (s : State) : ∃ v, dropPend s = { s with lnd := { s.lnd with pend := none }, boot := { s.boot with vid := v } } ∧
    (s.lnd.pend = none → v = s.boot.vid) := by
  cases h : s.lnd.pend with
  | none =>
    refine ⟨s.boot.vid, ?_, fun _ => rfl⟩
    rw [dropPend_empty h, ← h]
  | some c =>
    refine ⟨BitVec.ofNat 4 (vidCode s s.boot.profile.toNat), ?_, fun hn => nomatch hn⟩
    rw [dropPend, h]
    rfl
/-- The distance from the last landing to the one that LND_COMMIT_TGT names (R267). -/
def commitDistance (s : State) : Nat := (imr s aTGT - s.lnd.num.setWidth 32).toNat
/-- A commit for that landing as it is received. -/
def receivedCommit (s : State) (seq : Half) (ring : Bool) (cnt : Byte) : Commit :=
  { tgt := s.lnd.num + BitVec.ofNat 64 (commitDistance s), seq := seq, ring := ring, rcv := s.time.now, cnt := cnt }
theorem freqStart_same {s : State} (h : changesFreq s = false) : freqStart s = s := by simp [freqStart, h]
/-- The standby PLL starts to lock (R16). -/
theorem freqStart_locks {s : State} (h : changesFreq s = true) : ∃ b, freqStart s = { s with boot := b } ∧ b.stbyBusy = true ∧ b.stbyLock = false := by
  rw [freqStart, h]
  exact ⟨_, rfl, rfl, rfl⟩
theorem freqStart_eq (s : State) : ∃ b, freqStart s = { s with boot := b } := by
  unfold freqStart
  split <;> exact ⟨_, rfl⟩
/-- A commit for a later landing is pending, with the first check that it fails. -/
theorem recvCommit_pending {s : State} (seq : Half) (ring : Bool) (cnt : Byte) (h0 : commitDistance s ≠ 0) (h31 : commitDistance s < 2 ^ 31) :
    let c := receivedCommit s seq ring cnt
    let r := firstFail s c c.tgt.toNat false
    ∃ v, recvCommit s seq ring cnt = (freqStart { s with
        lnd := { s.lnd with wrdl := false, syncwr := false, pend := some { c with preason := r } }, boot := { s.boot with vid := v } }, r) ∧
      (s.lnd.pend = none → v = s.boot.vid) := by
  intro c r
  obtain ⟨v, hd, hv⟩ := dropPend_eq { s with lnd := { s.lnd with wrdl := false, syncwr := false } }
  refine ⟨v, ?_, hv⟩
  unfold recvCommit
  dsimp only
  rw [if_neg (by unfold commitDistance at h0 h31; omega), hd]
  rfl
/-- A pending commit that changes the processor clock starts the standby PLL (R16). -/
theorem recvCommit_locks {s : State} (seq : Half) (ring : Bool) (cnt : Byte) (h0 : commitDistance s ≠ 0) (h31 : commitDistance s < 2 ^ 31)
    (hf : changesFreq s = true) :
    let c := receivedCommit s seq ring cnt
    ∃ b, (recvCommit s seq ring cnt).1 = { s with
        lnd := { s.lnd with wrdl := false, syncwr := false, pend := some { c with preason := firstFail s c c.tgt.toNat false } }, boot := b } ∧
      b.stbyBusy = true ∧ b.stbyLock = false := by
  intro c
  obtain ⟨v, hv, -⟩ := recvCommit_pending (s := s) seq ring cnt h0 h31
  rw [hv]
  exact freqStart_locks (s := { s with
    lnd := { s.lnd with wrdl := false, syncwr := false, pend := some { c with preason := firstFail s c c.tgt.toNat false } },
    boot := { s.boot with vid := v } }) hf
/-- A commit for no later landing misses, and nothing is pending. -/
theorem recvCommit_late {s : State} (seq : Half) (ring : Bool) (cnt : Byte) (h : 2 ^ 31 ≤ commitDistance s ∨ commitDistance s = 0) :
    ∃ v, (recvCommit s seq ring cnt).1 = missCommit { s with
      lnd := { s.lnd with wrdl := false, syncwr := false, pend := none }, boot := { s.boot with vid := v } } ((imr s aTGT).setWidth 64) 1 := by
  obtain ⟨v, hd, -⟩ := dropPend_eq { s with lnd := { s.lnd with wrdl := false, syncwr := false } }
  refine ⟨v, ?_⟩
  unfold recvCommit
  dsimp only
  rw [if_pos (by unfold commitDistance at h; exact h.symm), hd]
theorem exec_commit {s : State} {lvl : Lvl} (seq : Half) (hc : clocksOn s = true) (hl : Reaches lvl 2) (hr : running s = true) :
    exec (.commit lvl seq) s = .next (recvCommit s seq false 0).1 := by
  change execCommit lvl seq s = _
  rw [execCommit, onReg_reaches _ hc hl, commitReg, if_pos hr]
theorem exec_cancel {s : State} {lvl : Lvl} (hc : clocksOn s = true) (hl : Reaches lvl 2) (hr : running s = true) :
    exec (.cancel lvl) s = .next (dropPend s) := by
  change execCancel lvl s = _
  rw [execCancel, onReg_reaches _ hc hl, cancelReg, if_pos hr]

/-! The judgement (R262, R268, R271). -/
/-- The next landing. -/
def nextLanding (s : State) : Nat := s.lnd.num.toNat + 1
/-- Ring time has not reached the next landing, which brings no takeover and has not been judged. -/
structure Judgeable (s : State) : Prop where
  runs : running s = true
  before : s.time.now.toNat < (lndTime s (nextLanding s)).toNat
  noSpare : spareDue s (lndTime s (nextLanding s)) = false
  unjudged : s.lnd.judged = none
/-- The state in the judgement cycle of the next landing. -/
def atJudgement (s : State) : State := atTime s (lndTime s (nextLanding s) - 512)
/-- The next landing judged, with what then waits and what was found. -/
def judgedWith (s : State) (p : Option Commit) (j : Option (Commit × BitVec 4)) : State :=
  { atJudgement s with lnd := { s.lnd with pend := p, judged := some (BitVec.ofNat 64 (nextLanding s), j) } }

section
variable {s : State}

theorem judgeNum_next (h : Judgeable s) : judgeNum s = nextLanding s := by
  have hb : timeGe s (lndTime s (nextLanding s)) = false := by simp [timeGe, h.before]
  change (if timeGe s (lndTime s (nextLanding s)) = true then _ else _) = _
  rw [hb]
  rfl
/-- The judgement of the next landing, by the pending commit. -/
theorem doJudge_next (h : Judgeable s) :
    (s.lnd.pend = none → doJudge s = judgedWith s none none) ∧
    (∀ c, s.lnd.pend = some c →
      (nextLanding s < c.tgt.toNat → doJudge s = judgedWith s (some c) none) ∧
      (c.tgt.toNat ≤ nextLanding s → firstFail s c (nextLanding s) true = 0 → doJudge s = judgedWith s none (some (c, 0))) ∧
      (c.tgt.toNat ≤ nextLanding s → c.revert = none → firstFail s c (nextLanding s) true ≠ 0 →
        doJudge s = missCommit (judgedWith s none (some (c, firstFail s c (nextLanding s) true))) c.tgt (firstFail s c (nextLanding s) true))) := by
  obtain ⟨hrun, hbefore, hspare, hopen⟩ := h
  have hb : timeGe s (lndTime s (nextLanding s)) = false := by simp [timeGe, hbefore]
  obtain ⟨m, hm⟩ := atTime_eq s (lndTime s (nextLanding s) - 512)
  have hfail : ∀ c, firstFail { s with time := { s.time with now := m } } c (nextLanding s) true = firstFail s c (nextLanding s) true := fun _ => rfl
  have hspare' : spareDue { s with time := { s.time with now := m } } (lndTime s (nextLanding s)) = false := hspare
  have hnum : judgeNum s = nextLanding s := judgeNum_next ⟨hrun, hbefore, hspare, hopen⟩
  simp only [doJudge, hrun, hopen, hnum, hb, hm, hspare', hfail, judgedWith, atJudgement, Bool.not_true, Bool.false_eq_true, Option.isSome_none, or_self, if_false]
  refine ⟨fun hp => ?_, fun c hp => ⟨fun hlt => ?_, fun hle hf => ?_, fun hle hr hf => ?_⟩⟩
  · simp only [hp]
  · simp only [hp, hlt, if_true]
  · simp only [hp, Nat.not_lt.mpr hle, if_false, hf, if_true]
    simp
  · simp only [hp, Nat.not_lt.mpr hle, if_false, hr, hf]
    simp
theorem exec_landingJudgement (hc : clocksOn s = true) : exec .landingJudgement s = .next (doJudge s) := by
  change execLandingJudgement s = _
  rw [execLandingJudgement, onCore_on _ hc]
theorem now_judgedWith (p : Option Commit) (j : Option (Commit × BitVec 4)) :
    (judgedWith s p j).time.now.toNat = Nat.max s.time.now.toNat (lndTime s (nextLanding s) - 512).toNat := by
  have hnow := atTime_now s (lndTime s (nextLanding s) - 512)
  obtain ⟨m, hm⟩ := atTime_eq s (lndTime s (nextLanding s) - 512)
  rw [hm] at hnow
  rw [judgedWith, atJudgement, hm]
  exact hnow
theorem judgedWith_back (p : Option Commit) (j : Option (Commit × BitVec 4)) : { judgedWith s p j with lnd := s.lnd, time := s.time } = s := by
  obtain ⟨m, hm⟩ := atTime_eq s (lndTime s (nextLanding s) - 512)
  rw [judgedWith, atJudgement, hm]
theorem imr_judgedWith (p : Option Commit) (j : Option (Commit × BitVec 4)) (a : Nat) : imr (judgedWith s p j) a = imr s a := by
  obtain ⟨m, hm⟩ := atTime_eq s (lndTime s (nextLanding s) - 512)
  rw [judgedWith, atJudgement, hm]
  rfl
theorem sameMemory_judgedWith (p : Option Commit) (j : Option (Commit × BitVec 4)) : SameMemory s (judgedWith s p j) := by
  obtain ⟨m, hm⟩ := atTime_eq s (lndTime s (nextLanding s) - 512)
  rw [judgedWith, atJudgement, hm]
  exact fun _ => rfl
end

/-! The claims. -/
/-- A miss as the obligation states it: counted, named, shown with its reason. -/
def Missed (s u : State) (tgt : Word) (r : BitVec 4) : Prop :=
  imr u aMISS = BitVec.ofNat 32 (Nat.min ((imr s aMISS).toNat + 1) 0xFFFF) ∧ imr u aLASTMISS = tgt ∧ u.lnd.last = 2 ∧ u.lnd.lreason = r
theorem missed_missCommit {s w : State} (hm : imr w aMISS = imr s aMISS) (l : DWord) (r : BitVec 4) : Missed s (missCommit w l r) (l.setWidth 32) r := by
  obtain ⟨hcount, hlast⟩ := missCommit_counts w l r
  rw [Missed, lnd_missCommit, hcount, hm, hlast]
  exact ⟨rfl, rfl, rfl, rfl⟩

/-- Settles O37: by the receipt of a commit, late or pending, and by what the judgement of the next landing finds in the pending place. -/
theorem commitsArePendingThenJudged : Obligations.CommitsArePendingThenJudged := by
  intro s lvl seq c hc hl hst l d late fresh n nb t soon clock missed
  have hr : running s = true := running_of hc hst
  have hpending : ¬late → commitDistance s ≠ 0 ∧ commitDistance s < 2 ^ 31 := fun h =>
    ⟨fun e => h (.inr e), not_le.mp fun e => h (.inl e)⟩
  have hjudge : soon → Judgeable s := fun ⟨hb, hs, hj⟩ => ⟨hr, hb, hs, hj⟩
  refine ⟨fun h => ⟨_, exec_commit seq hc hl hr, ?_⟩, fun h hf => ⟨_, exec_commit seq hc hl hr, ?_⟩, fun h hf => ⟨_, exec_commit seq hc hl hr, ?_⟩,
    fun h => ?_, ⟨_, exec_cancel hc hl hr, ?_⟩, fun h hp => ⟨_, exec_landingJudgement hc, ?_⟩,
    fun h hp => ⟨fun hlt => ⟨_, exec_landingJudgement hc, ?_⟩, fun hle hf => ⟨_, exec_landingJudgement hc, ?_⟩,
      fun hle hrev hf => ⟨_, exec_landingJudgement hc, ?_⟩⟩⟩
  · obtain ⟨v, hv⟩ := recvCommit_late (s := s) seq false 0 h
    rw [hv]
    have hm := missed_missCommit (s := s) (w := { s with
      lnd := { s.lnd with wrdl := false, syncwr := false, pend := none }, boot := { s.boot with vid := v } }) rfl ((imr s aTGT).setWidth 64) 1
    rw [BitVec.setWidth_setWidth_of_le _ (by decide), BitVec.setWidth_eq] at hm
    exact ⟨by rw [lnd_missCommit], hm, (fired_missCommit _ _ _).congr rfl rfl rfl rfl, (sameMemory_missCommit _ _ _ ·)⟩
  · obtain ⟨v, hv, hsame⟩ := recvCommit_pending (s := s) seq false 0 (hpending h).1 (hpending h).2
    rw [hv, freqStart_same (by exact hf)]
    refine ⟨rfl, fun hp => ?_⟩
    rw [hsame hp]
  · obtain ⟨b, hb, hbusy, hlock⟩ := recvCommit_locks seq false 0 (hpending h).1 (hpending h).2 hf
    rw [hb]
    exact ⟨hbusy, hlock, fun _ => rfl, rfl⟩
  · simp only [firstFail, fresh]
    exact if_pos h
  · obtain ⟨v, hv, hsame⟩ := dropPend_eq s
    rw [hv]
    refine ⟨rfl, rfl, fun _ => rfl, fun hp => ?_⟩
    rw [hsame hp, ← hp]
  · rw [(doJudge_next (hjudge h)).1 hp]
    exact ⟨by rw [← hp]; rfl, now_judgedWith _ _, judgedWith_back _ _⟩
  · rw [((doJudge_next (hjudge h)).2 c hp).1 hlt]
    exact ⟨by rw [← hp]; rfl, now_judgedWith _ _⟩
  · rw [((doJudge_next (hjudge h)).2 c hp).2.1 hle hf]
    exact ⟨rfl, now_judgedWith _ _, judgedWith_back _ _⟩
  · rw [((doJudge_next (hjudge h)).2 c hp).2.2 hle hrev hf]
    refine ⟨?_, ?_, missed_missCommit (imr_judgedWith _ _ _) _ _, ?_, fun k => (sameMemory_missCommit _ _ _ k).trans (sameMemory_judgedWith _ _ k)⟩
    · rw [lnd_missCommit]
      rfl
    · rw [lnd_missCommit]
      rfl
    · exact (congrArg (·.now.toNat) (time_missCommit _ _ _)).trans (now_judgedWith _ _)

end Sys2Proof.Machine
end

section
/-! Ring time and its 802.1AS domain (R257 to R259, R271, R272, R330 to R332). -/
namespace Sys2Proof.Machine

/-! Sending on one port leaves the other as it was. -/
theorem portOf_enqueueAs_other (s : State) (q : Nat) (f : Frame) (n : Nat) (cut : Bool) {b c : Bool} (d : Bool) (h : c ≠ b) :
    portOf (enqueueAs s b q f d n cut) c = portOf s c := by
  unfold enqueueAs
  split
  · rfl
  · split
    · rfl
    · split
      · rfl
      · exact portOf_setPort_other s b c _ h
theorem portOf_sendOn_other (s : State) (f : Frame) (express : Bool) {b c : Bool} (h : c ≠ b) : portOf (sendOn s b f express) c = portOf s c :=
  portOf_enqueueAs_other s _ _ _ _ b h
theorem sendsOnly_sendSync (s : State) (b dom1 : Bool) (origin : List Byte) (corr : Nat) : SendsOnly s (sendSync s b dom1 origin corr) := by
  unfold sendSync
  dsimp only
  split
  · exact (sendsOnly_sendOn s b _ false).trans (sendsOnly_sendOn _ b _ false)
  · exact .refl s
theorem portOf_sendSync_other (s : State) (dom1 : Bool) (origin : List Byte) (corr : Nat) {b c : Bool} (h : c ≠ b) :
    portOf (sendSync s b dom1 origin corr) c = portOf s c := by
  unfold sendSync
  dsimp only
  split
  · rw [portOf_sendOn_other _ _ _ h, portOf_sendOn_other _ _ _ h]
  · rfl
theorem SendsOnly.time {s u : State} (h : SendsOnly s u) : u.time = s.time := (congrArg State.time h.rest :)
theorem SendsOnly.evt {s u : State} (h : SendsOnly s u) : u.evt = s.evt := (congrArg State.evt h.rest :)
theorem SendsOnly.tabA {s u : State} (h : SendsOnly s u) : u.reg.tabA = s.reg.tabA := (congrArg (fun v => v.reg.tabA) h.rest :)
theorem SendsOnly.act {s u : State} (h : SendsOnly s u) (a : Nat) : act u a = act s a := (congrArg (fun v => Machine.act v a) h.rest :)
theorem SendsOnly.ofsErr {s u : State} (h : SendsOnly s u) (b : Bool) : (portOf u b).ofsErr = (portOf s b).ofsErr := (congrArg Port.ofsErr (h.port b) :)

/-! A step of ring time (R259, R271, R272). -/
theorem time_timeStep (s : State) (d : DWord) : (timeStep s d).time = { s.time with now := s.time.now + d, slew := 0 } :=
  evFire_frame (·.time) _ _ _ fun _ => rfl
theorem portOf_timeStep (s : State) (d : DWord) (b : Bool) : portOf (timeStep s d) b = portOf s b := portOf_evFire _ _ _ b
theorem sameMemory_timeStep (s : State) (d : DWord) : SameMemory s (timeStep s d) := fun k => evFire_frame (memGet · k) _ _ _ fun _ => rfl
/-- The step is counted and its size shown. -/
theorem imr_timeStep (s : State) (d : DWord) :
    imr (timeStep s d) aSTEPCNT = satAdd (imr s aSTEPCNT) 1 ∧ imr (timeStep s d) aLASTSTEP = stepSat d := by
  have himr : ∀ a, imr (timeStep s d) a =
      imr (setIm (bump { s with time := { s.time with now := s.time.now + d, slew := 0 } } aSTEPCNT) aLASTSTEP (stepSat d)) a := fun a =>
    evFire_frame (imr · a) _ _ _ fun _ => rfl
  rw [himr, himr, imr_setIm_same, imr_setIm_other _ _ _ _ (by decide), imr_bump_same]
  exact ⟨rfl, rfl⟩
/-- The event of a step carries its size and the ring time that it leads to. -/
theorem evSrc_timeStep (s : State) (d : DWord) :
    evSrc (timeStep s d) 0x492 = firedSrc (evSrc s 0x492) ((tabA s .evt 0x492 0).getLsbD 11) (stepSat d) (s.time.now + d) ∧
      ∀ m, m ≠ 0x492 → evSrc (timeStep s d) m = evSrc s m := evFire_fired _ _ _

/-! TIME_STS.STATE. -/
theorem setTimeSt_same {s : State} {t : TimeState} (h : s.time.st = t) : setTimeSt s t = s := if_pos h
/-- What the event of a change of TIME_STS.STATE carries. -/
def stateInfo : TimeState → Word
  | .freerun => 0
  | .sync => 1
  | .holdover => 2
theorem setTimeSt_new {s : State} {t : TimeState} (h : s.time.st ≠ t) :
    setTimeSt s t = evFire { s with time := { s.time with st := t } } 0x493 (stateInfo t) := by
  cases t <;> exact if_neg h
theorem time_setTimeSt (s : State) (t : TimeState) : (setTimeSt s t).time = { s.time with st := t } := by
  by_cases h : s.time.st = t
  · rw [setTimeSt_same h, ← h]
  · rw [setTimeSt_new h]
    exact evFire_frame (·.time) _ _ _ fun _ => rfl
/-- What reads neither the event sources nor the time is as it was. -/
theorem setTimeSt_frame {α : Type} (f : State → α) (s : State) (t : TimeState)
    (h : ∀ l v, f { s with evt := { s.evt with src := l }, time := v } = f s) : f (setTimeSt s t) = f s := by
  by_cases hst : s.time.st = t
  · rw [setTimeSt_same hst]
  · rw [setTimeSt_new hst]
    exact (evFire_frame f { s with time := { s.time with st := t } } _ _ fun l => (h l _).trans (h s.evt.src _).symm).trans (h s.evt.src _)
/-- The change of state has its event. -/
theorem fired_setTimeSt {s : State} {t : TimeState} (h : s.time.st ≠ t) : Fired s (setTimeSt s t) 0x493 (stateInfo t) := by
  rw [setTimeSt_new h]
  exact evFire_fired _ _ _

/-! The servo (R258, R259). -/
/-- The phase correction lies within the step threshold. -/
def Small (s : State) (off : DWord) : Prop := off.toInt.natAbs ≤ fld (act s aSTEPTHR) 0 20
/-- In SYNC the servo follows the rate of each Sync. -/
def followed (s : State) (rate : Word) : State :=
  { s with time := { s.time with syncs := s.time.syncs + 1, rate := rate, rateOk := true, gm := false } }

section
variable {s : State} (b : Bool) {off : DWord} (rate : Word)

theorem servo_slews (hst : s.time.st = .sync) (h : Small s off) :
    servo s b off rate = { followed s rate with time := { (followed s rate).time with slew := off } } := by
  unfold servo
  rw [hst]
  exact if_pos h
theorem servo_steps (hst : s.time.st = .sync) (h : ¬Small s off) : servo s b off rate = timeStep (followed s rate) off := by
  unfold servo
  rw [hst]
  exact if_neg h
/-- Outside SYNC the first Sync steps ring time into SYNC once the port has measured its path. -/
theorem servo_starts (hst : s.time.st ≠ .sync) (h : (portOf s b).pdlyValid = true) :
    servo s b off rate = { timeStep (setTimeSt s .sync) off with
      time := { (timeStep (setTimeSt s .sync) off).time with syncs := 1, rateOk := false, gm := false } } := by
  unfold servo
  split
  · next e => exact absurd e hst
  · exact if_pos h
theorem servo_waits (hst : s.time.st ≠ .sync) (h : (portOf s b).pdlyValid = false) : servo s b off rate = s := by
  unfold servo
  split
  · next e => exact absurd e hst
  · exact if_neg (by simp [h])
end

/-! A Sync that arrives (R330, R331). -/
/-- The port that has just heard its domain. -/
def heardPort (p : Port) (dom1 : Bool) : Port := if dom1 then { p with sync1 := true, syncAge1 := 0 } else { p with sync0 := true, syncAge0 := 0 }
/-- A Sync has been noted at port b and sent on at the other port where that is a MASTER. -/
structure Relayed (s u : State) (b dom1 : Bool) : Prop where
  time : u.time = s.time
  evt : u.evt = s.evt
  tables : u.reg.tabA = s.reg.tabA
  act : ∀ a, act u a = act s a
  heard : portOf u b = heardPort (portOf s b) dom1
  other : asRole s (!b) dom1 ≠ 2 → portOf u (!b) = portOf s (!b)
  memory : SameMemory s u
  stepCount : imr u aSTEPCNT = imr s aSTEPCNT

theorem aSTEPCNT_not_drop (b : Bool) : aSTEPCNT ≠ aPCnt b 5 ∧ aSTEPCNT ≠ aPCnt b 6 := by cases b <;> decide
/-- What sending after a change of a port leaves is a Sync relayed. -/
theorem Relayed.of_sendsOnly {s u : State} {b dom1 : Bool} (h : SendsOnly (setPort s b (heardPort (portOf s b) dom1)) u)
    (heard : portOf u b = heardPort (portOf s b) dom1) (other : asRole s (!b) dom1 ≠ 2 → portOf u (!b) = portOf s (!b)) : Relayed s u b dom1 where
  time := h.time.trans (setPort_frame State.time s b _ fun _ => rfl)
  evt := h.evt.trans (setPort_frame State.evt s b _ fun _ => rfl)
  tables := h.tabA.trans (setPort_frame (·.reg.tabA) s b _ fun _ => rfl)
  act a := (h.act a).trans (setPort_frame (Machine.act · a) s b _ fun _ => rfl)
  heard := heard
  other := other
  memory := (setPort_sameMemory s b _).trans h.sameMemory
  stepCount := (h.counts _ aSTEPCNT_not_drop).trans (setPort_frame (imr · aSTEPCNT) s b _ fun _ => rfl)
theorem doSyncReceive_ignored {s : State} {b dom1 : Bool} (offset : DWord) (rate : Word) (origin : BitVec 80) (corr resid : DWord)
    (h : ¬(asRole s b dom1 = 1 ∧ carries s b = true)) : doSyncReceive b dom1 offset rate origin corr resid s = s := by
  unfold doSyncReceive
  refine if_pos ?_
  rw [Bool.not_eq_true']
  by_cases hr : asRole s b dom1 = 1
  · exact .inr (Bool.eq_false_iff.mpr fun hc => h ⟨hr, hc⟩)
  · exact .inl hr
/-- A Sync on a SLAVE port is relayed; in the selected domain it then drives the servo. -/
theorem doSyncReceive_slave {s : State} {b dom1 : Bool} (offset : DWord) (rate : Word) (origin : BitVec 80) (corr resid : DWord)
    (hr : asRole s b dom1 = 1) (hc : carries s b = true) : ∃ w, Relayed s w b dom1 ∧
      doSyncReceive b dom1 offset rate origin corr resid s = if drives s dom1 then servo w b (offset + BitVec.ofNat 64 (tsLat s b).1) rate else w := by
  unfold doSyncReceive
  rw [if_neg (by simp [hr, hc])]
  refine ⟨_, ?_, rfl⟩
  split
  · next hm =>
    refine .of_sendsOnly (sendsOnly_sendSync _ _ _ _ _) ?_ fun h => absurd hm h
    rw [portOf_sendSync_other _ _ _ _ (by cases b <;> decide), portOf_setPort_same]
    rfl
  · exact .of_sendsOnly (.refl _) (portOf_setPort_same _ _ _) fun _ => portOf_setPort_not _ _ _

/-! Sending one's own Sync (R258, R331, R332). -/
/-- The state of ring time, the grandmaster bit and OFS_ERR of both ports stay. -/
structure KeepsSync (s u : State) : Prop where
  st : u.time.st = s.time.st
  gm : u.time.gm = s.time.gm
  ofsErr : ∀ b, (portOf u b).ofsErr = (portOf s b).ofsErr
  memory : SameMemory s u
  act : ∀ a, act u a = act s a

theorem KeepsSync.refl (s : State) : KeepsSync s s := ⟨rfl, rfl, fun _ => rfl, fun _ => rfl, fun _ => rfl⟩
theorem KeepsSync.trans {s u w : State} (h : KeepsSync s u) (h' : KeepsSync u w) : KeepsSync s w :=
  ⟨h'.st.trans h.st, h'.gm.trans h.gm, fun b => (h'.ofsErr b).trans (h.ofsErr b), h.memory.trans h'.memory, fun a => (h'.act a).trans (h.act a)⟩
theorem KeepsSync.of_sendsOnly {s u : State} (h : SendsOnly s u) : KeepsSync s u :=
  ⟨congrArg (·.st) h.time, congrArg (·.gm) h.time, h.ofsErr, h.sameMemory, h.act⟩
theorem keepsSync_atTime (s : State) (t : DWord) : KeepsSync s (atTime s t) := by
  obtain ⟨m, hm⟩ := atTime_eq s t
  rw [hm]
  exact ⟨rfl, rfl, fun _ => rfl, fun _ => rfl, fun _ => rfl⟩
theorem keepsSync_sendOwn (s : State) (t : DWord) (b dom1 : Bool) : KeepsSync s (sendOwn (atTime s t) b dom1) :=
  (keepsSync_atTime s t).trans (.of_sendsOnly (sendsOnly_sendSync _ _ _ _ _))
theorem keepsSync_sendOwn_if (s : State) (t : DWord) (b dom1 ok : Bool) : KeepsSync s (if ok then sendOwn (atTime s t) b dom1 else s) := by
  split
  · exact keepsSync_sendOwn s t b dom1
  · exact .refl s
/-- Whether the offset of a port's time frames falls within the flight (R332). -/
def ofsOk (s : State) (b : Bool) : Bool := decide (fld (act s (aPort b + 0x34)) 0 27 < period s)
theorem asOfs_eq (s : State) (b : Bool) : asOfs s b = (setPort s b { portOf s b with ofsErr := !ofsOk s b }, ofsOk s b) := rfl
/-- OFS_ERR of both ports as it is noted before a grandmaster sends. -/
def noted (s : State) : State :=
  setPort (setPort s false { portOf s false with ofsErr := !ofsOk s false }) true { portOf s true with ofsErr := !ofsOk s true }
/-- The grandmaster after its Sync frames. -/
def sentSync (s : State) (dom1 : Bool) : State :=
  let s3 := if ofsOk s false then sendOwn (atTime (noted s) (asTime (noted s) false)) false dom1 else noted s
  if ofsOk s true then sendOwn (atTime s3 (asTime s3 true)) true dom1 else s3
theorem keepsSync_sentSync (s : State) (dom1 : Bool) : KeepsSync (noted s) (sentSync s dom1) :=
  (keepsSync_sendOwn_if _ _ _ _ _).trans (keepsSync_sendOwn_if _ _ _ _ _)
theorem doSyncSend_grandmaster {s : State} {dom1 : Bool} (h : grandmaster s dom1 = true) : doSyncSend dom1 s =
    if ((ofsOk s false && carries s false) || (ofsOk s true && carries s true)) && drives s dom1 then
      { setTimeSt (sentSync s dom1) .sync with time := { (setTimeSt (sentSync s dom1) .sync).time with gm := true } }
    else sentSync s dom1 := if_pos h
theorem doSyncSend_other {s : State} {dom1 : Bool} (h : grandmaster s dom1 = false) : doSyncSend dom1 s = s := if_neg (by simp [h])
theorem ofsErr_sentSync (s : State) (dom1 b : Bool) : (portOf (sentSync s dom1) b).ofsErr = !ofsOk s b := by
  rw [(keepsSync_sentSync s dom1).ofsErr]
  cases b <;> rfl
theorem sameMemory_sentSync (s : State) (dom1 : Bool) : SameMemory s (sentSync s dom1) :=
  ((setPort_sameMemory s false _).trans (setPort_sameMemory _ true _)).trans (keepsSync_sentSync s dom1).memory
theorem ofsErr_becomesSync (s : State) (t : TimeState) (b : Bool) : (portOf (setTimeSt s t) b).ofsErr = (portOf s b).ofsErr :=
  setTimeSt_frame (fun v => (portOf v b).ofsErr) s t fun _ _ => rfl
theorem sameMemory_setTimeSt (s : State) (t : TimeState) : SameMemory s (setTimeSt s t) := fun k => setTimeSt_frame (memGet · k) s t fun _ _ => rfl

/-! The loss of a domain (R258, R331). -/
/-- A SLAVE port receives the domain. -/
def hears (s : State) (b dom1 : Bool) : Prop := asRole s b dom1 = 1 ∧ (if dom1 then (portOf s b).sync1 else (portOf s b).sync0) = true
theorem domainCheck_lost {s : State} {dom1 : Bool} (hd : drives s dom1 = true) (hh : ∀ b, ¬hears s b dom1) (hst : s.time.st = .sync)
    (hg : grandmaster s dom1 = false) : domainCheck s dom1 = setTimeSt s .holdover := by
  have hrx : ∀ b, (asRole s b dom1 == 1 && (if dom1 then (portOf s b).sync1 else (portOf s b).sync0)) = false := fun b =>
    Bool.eq_false_iff.mpr fun h => hh b (by simpa [hears] using h)
  unfold domainCheck
  simp only [hd, hrx, hst, hg, Bool.and_false, Bool.not_false, decide_true, Bool.and_self, if_true]
theorem domainCheck_kept {s : State} {dom1 : Bool} (h : drives s dom1 = false ∨ s.time.st ≠ .sync ∨ ∃ b, hears s b dom1) : domainCheck s dom1 = s := by
  unfold domainCheck
  refine if_neg fun hc => ?_
  simp only [Bool.and_eq_true, Bool.not_eq_true', Bool.and_eq_false_iff, beq_eq_false_iff_ne, decide_eq_true_eq] at hc
  obtain ⟨⟨⟨⟨hd, hA⟩, hB⟩, hst⟩, -⟩ := hc
  rcases h with h | h | ⟨b, hr, hs⟩
  · rw [h] at hd
    cases hd
  · exact h hst
  · have hb : asRole s b dom1 ≠ 1 ∨ (if dom1 then (portOf s b).sync1 else (portOf s b).sync0) = false := by
      cases b
      · exact hA
      · exact hB
    rcases hb with hb | hb
    · exact hb hr
    · rw [hs] at hb
      cases hb
/-- The port that has lost its domain. -/
def deafPort (p : Port) (dom1 : Bool) : Port := if dom1 then { p with sync1 := false } else { p with sync0 := false }
theorem doSyncLoss_overdue {s : State} {b dom1 : Bool} (hr : asRole s b dom1 = 1)
    (h : if dom1 then (portOf s b).sync1 = true ∧ 3 ≤ (portOf s b).syncAge1 else (portOf s b).sync0 = true ∧ 3 ≤ (portOf s b).syncAge0) :
    doSyncLoss b dom1 s = domainCheck (setPort s b (deafPort (portOf s b) dom1)) dom1 := by
  unfold doSyncLoss
  rw [if_neg (not_not.mpr hr)]
  cases dom1
  · exact if_pos h
  · exact if_pos h

/-! Path delay (R330, R332). -/
theorem doPdelayReq_late {s : State} {b : Bool} (he : bit (act s (aPort b + 0x30)) 4 = true) (hl : (portOf s b).link = 2) (h : ofsOk s b = false) :
    doPdelayReq b s = setPort s b { portOf s b with ofsErr := true } := by
  unfold doPdelayReq
  rw [if_pos ⟨he, hl⟩]
  simp only [asOfs_eq, h, Bool.not_false, Bool.false_eq_true, if_false]
/-- The request leaves at its offset in the flight. -/
theorem doPdelayReq_sends {s : State} {b : Bool} (he : bit (act s (aPort b + 0x30)) 4 = true) (hl : (portOf s b).link = 2) (h : ofsOk s b = true) :
    ∃ w, SendsOnly (atTime (setPort s b { portOf s b with ofsErr := false }) (asTime s b)) w ∧ portOf w (!b) = portOf s (!b) ∧
      doPdelayReq b s = setPort w b { portOf w b with pdlyOpen := true } := by
  unfold doPdelayReq
  rw [if_pos ⟨he, hl⟩]
  simp only [asOfs_eq, h, Bool.not_true, if_true]
  have ht : asTime (setPort s b { portOf s b with ofsErr := false }) b = asTime s b := setPort_frame (asTime · b) s b _ fun _ => rfl
  rw [ht]
  refine ⟨_, sendsOnly_sendOn _ _ _ _, ?_, rfl⟩
  rw [portOf_sendOn_other _ _ _ (by cases b <;> decide)]
  obtain ⟨m, hm⟩ := atTime_eq (setPort s b { portOf s b with ofsErr := false }) (asTime s b)
  rw [hm]
  exact portOf_setPort_not s b _
theorem doPdelay_measured {s : State} {b : Bool} (delay : BitVec 28) (ratio : Word) (he : bit (act s (aPort b + 0x30)) 4 = true)
    (ho : (portOf s b).pdlyOpen = true) :
    let l := ((delay.toNat - 8 * ((tsLat s b).1 + (tsLat s b).2)) :: (portOf s b).pdly).take 8
    doPdelay b delay ratio s =
      setIm (setPort s b { portOf s b with pdlyOpen := false, pdlyRun := 0, ascap := true, pdlyValid := true, pdly := l, nrr := ratio }) (aPort b + 0x38)
        (BitVec.ofNat 32 (l.foldl (· + ·) 0 / l.length)) := if_pos ⟨he, ho⟩

/-! The claims. -/
theorem onCore_next {f : State → State} {s u : State} (hc : clocksOn s = true) (h : f s = u) : onCore f s = .next u := h ▸ onCore_on f hc
theorem drives_iff (s : State) (dom1 : Bool) : drives s dom1 = true ↔ (act s aTIMECFG).getLsbD 0 = dom1 := beq_iff_eq
theorem carries_iff (s : State) (b : Bool) : carries s b = true ↔ (portOf s b).link = 2 ∧ (portOf s b).ascap = true := by
  simp [carries]
theorem ofsOk_iff (s : State) (b : Bool) : ofsOk s b = true ↔ ((act s (aPort b + 0x34)).extractLsb' 0 27).toNat < period s := by
  rw [ofsOk, fld_eq_extract, decide_eq_true_eq]
/-- A step of ring time as the obligation states it. -/
def Stepped (s u : State) (off : DWord) : Prop :=
  imr u aSTEPCNT = satAdd (imr s aSTEPCNT) 1 ∧ imr u aLASTSTEP = stepSat off ∧
    evSrc u 0x492 = firedSrc (evSrc s 0x492) ((tabA s .evt 0x492 0).getLsbD 11) (stepSat off) (s.time.now + off)
theorem stepped_timeStep {s w : State} (off : DWord) (hi : imr w aSTEPCNT = imr s aSTEPCNT) (he : evSrc w 0x492 = evSrc s 0x492)
    (ht : w.reg.tabA = s.reg.tabA) (hn : w.time.now = s.time.now) : Stepped s (timeStep w off) off := by
  obtain ⟨hcount, hlast⟩ := imr_timeStep w off
  refine ⟨by rw [hcount, hi], hlast, ?_⟩
  rw [(evSrc_timeStep w off).1, he, hn]
  simp only [tabA, ht]
/-- What a Sync leaves at the ports and in memory. -/
def Got (s u : State) (b dom1 : Bool) : Prop :=
  portOf u b = heardPort (portOf s b) dom1 ∧ (asRole s (!b) dom1 ≠ 2 → portOf u (!b) = portOf s (!b)) ∧ SameMemory s u
theorem Relayed.sources {s w : State} {b dom1 : Bool} (h : Relayed s w b dom1) (n : Nat) : evSrc w n = evSrc s n := by
  rw [evSrc, h.evt, evSrc]
theorem Relayed.got {s w : State} {b dom1 : Bool} (h : Relayed s w b dom1) : Got s w b dom1 := ⟨h.heard, h.other, h.memory⟩
theorem Got.timeStep {s w : State} {b dom1 : Bool} (h : Got s w b dom1) (off : DWord) : Got s (timeStep w off) b dom1 :=
  ⟨(portOf_timeStep _ _ _).trans h.1, fun hr => (portOf_timeStep _ _ _).trans (h.2.1 hr), h.2.2.trans (sameMemory_timeStep w off)⟩
theorem Got.setTimeSt {s w : State} {b dom1 : Bool} (h : Got s w b dom1) (t : TimeState) : Got s (setTimeSt w t) b dom1 :=
  ⟨(setTimeSt_frame (portOf · b) w t fun _ _ => rfl).trans h.1, fun hr => (setTimeSt_frame (portOf · (!b)) w t fun _ _ => rfl).trans (h.2.1 hr),
    h.2.2.trans (sameMemory_setTimeSt w t)⟩
/-- A Sync of the selected domain in SYNC. -/
theorem Relayed.servo_sync {s w : State} {b dom1 : Bool} (h : Relayed s w b dom1) (hst : s.time.st = .sync) (off : DWord) (rate : Word) :
    (Small s off → Got s (servo w b off rate) b dom1 ∧
      (servo w b off rate).time = { s.time with slew := off, syncs := s.time.syncs + 1, rate := rate, rateOk := true, gm := false }) ∧
    (¬Small s off → Got s (servo w b off rate) b dom1 ∧ Stepped s (servo w b off rate) off ∧
      (servo w b off rate).time = { s.time with now := s.time.now + off, slew := 0, syncs := s.time.syncs + 1, rate := rate, rateOk := true, gm := false }) := by
  have hst' : w.time.st = .sync := by rw [h.time, hst]
  have hsmall : Small w off ↔ Small s off := by rw [Small, Small, h.act]
  have hfollowed : Got s (followed w rate) b dom1 := h.got
  refine ⟨fun hs => ?_, fun hs => ?_⟩
  · rw [servo_slews b rate hst' (hsmall.mpr hs)]
    refine ⟨hfollowed, ?_⟩
    rw [followed, h.time]
  · rw [servo_steps b rate hst' (mt hsmall.mp hs)]
    have hstep : Stepped s (timeStep (followed w rate) off) off :=
      stepped_timeStep off h.stepCount (h.sources 0x492) h.tables (congrArg RTime.now h.time :)
    refine ⟨hfollowed.timeStep off, hstep, ?_⟩
    rw [time_timeStep, followed, h.time]
/-- A Sync of the selected domain outside SYNC, at a port that has measured its path. -/
theorem Relayed.servo_starts {s w : State} {b dom1 : Bool} (h : Relayed s w b dom1) (hst : s.time.st ≠ .sync) (hp : (portOf s b).pdlyValid = true)
    (off : DWord) (rate : Word) : Got s (servo w b off rate) b dom1 ∧ Stepped s (servo w b off rate) off ∧
      evSrc (servo w b off rate) 0x493 = firedSrc (evSrc s 0x493) ((tabA s .evt 0x493 0).getLsbD 11) 1 s.time.now ∧
      (servo w b off rate).time = { s.time with st := .sync, now := s.time.now + off, slew := 0, syncs := 1, rateOk := false, gm := false } := by
  have hst' : w.time.st ≠ .sync := by rwa [h.time]
  have hp' : (portOf w b).pdlyValid = true := by
    rw [h.heard, heardPort]
    split <;> exact hp
  have hfired := fired_setTimeSt hst'
  have hcount : imr (setTimeSt w .sync) aSTEPCNT = imr s aSTEPCNT := (setTimeSt_frame (imr · aSTEPCNT) w _ fun _ _ => rfl).trans h.stepCount
  have hstep : Stepped s (timeStep (setTimeSt w .sync) off) off :=
    stepped_timeStep off hcount ((hfired.2 0x492 (by decide)).trans (h.sources _)) ((setTimeSt_frame (·.reg.tabA) w _ fun _ _ => rfl).trans h.tables)
      (by rw [time_setTimeSt, h.time])
  rw [Machine.servo_starts b rate hst' hp']
  refine ⟨(h.got.setTimeSt .sync).timeStep off, hstep, ?_, ?_⟩
  · refine ((evSrc_timeStep (setTimeSt w .sync) off).2 0x493 (by decide)).trans (hfired.1.trans ?_)
    rw [h.sources, h.time]
    simp only [tabA, h.tables, stateInfo]
  · rw [time_timeStep, time_setTimeSt, h.time]

/-- A grandmaster after its Sync: OFS_ERR is noted, memory stays, and ring time is in SYNC when a port of the selected domain has carried it. -/
theorem doSyncSend_claims {s : State} {dom1 : Bool} (h : grandmaster s dom1 = true) : let u := doSyncSend dom1 s
    (∀ b, (portOf u b).ofsErr = !ofsOk s b) ∧ SameMemory s u ∧
      (drives s dom1 = true → (∃ b, ofsOk s b = true ∧ carries s b = true) → u.time.st = .sync ∧ u.time.gm = true) ∧
      (drives s dom1 = false ∨ (∀ b, ofsOk s b = true → carries s b = false) → u.time.st = s.time.st ∧ u.time.gm = s.time.gm) := by
  intro u
  have hu : u = _ := doSyncSend_grandmaster h
  have hcarried : ((ofsOk s false && carries s false) || (ofsOk s true && carries s true)) = true ↔ ∃ b, ofsOk s b = true ∧ carries s b = true := by
    simp
  have hkept := keepsSync_sentSync s dom1
  split at hu
  · next hc =>
    rw [Bool.and_eq_true, hcarried] at hc
    obtain ⟨⟨b, hb, hcb⟩, hd⟩ := hc
    rw [hu]
    refine ⟨fun b => (ofsErr_becomesSync _ _ b).trans (ofsErr_sentSync s dom1 b), (sameMemory_sentSync s dom1).trans (sameMemory_setTimeSt _ _),
      fun _ _ => ⟨congrArg RTime.st (time_setTimeSt _ _), rfl⟩, ?_⟩
    rintro (hn | hn)
    · rw [hn] at hd
      cases hd
    · rw [hn b hb] at hcb
      cases hcb
  · next hc =>
    rw [Bool.and_eq_true, hcarried] at hc
    rw [hu]
    exact ⟨ofsErr_sentSync s dom1, sameMemory_sentSync s dom1, fun hd hb => absurd ⟨hb, hd⟩ hc, fun _ => ⟨hkept.st, hkept.gm⟩⟩
/-- The loss of a domain at a SLAVE port. -/
theorem doSyncLoss_claims {s : State} {b dom1 : Bool} (hr : asRole s b dom1 = 1)
    (h : if dom1 then (portOf s b).sync1 = true ∧ 3 ≤ (portOf s b).syncAge1 else (portOf s b).sync0 = true ∧ 3 ≤ (portOf s b).syncAge0) :
    let u := doSyncLoss b dom1 s
    portOf u b = deafPort (portOf s b) dom1 ∧ portOf u (!b) = portOf s (!b) ∧ SameMemory s u ∧
      (drives s dom1 = true → s.time.st = .sync → ¬hears s (!b) dom1 → u.time = { s.time with st := .holdover } ∧ Fired s u 0x493 2) ∧
      (drives s dom1 = false ∨ s.time.st ≠ .sync ∨ hears s (!b) dom1 → u.time = s.time ∧ u.evt = s.evt) := by
  intro u
  have hu : u = _ := doSyncLoss_overdue hr h
  generalize hv : setPort s b (deafPort (portOf s b) dom1) = v at hu
  have hpb : portOf v b = deafPort (portOf s b) dom1 := by rw [← hv, portOf_setPort_same]
  have hpo : portOf v (!b) = portOf s (!b) := by rw [← hv, portOf_setPort_not]
  have hframe : ∀ {α : Type} (f : State → α), (∀ r, f { s with ring := r } = f s) → f v = f s := fun f hf => hv ▸ setPort_frame f s b _ hf
  have htime : v.time = s.time := hframe State.time fun _ => rfl
  have hevt : v.evt = s.evt := hframe State.evt fun _ => rfl
  have hrole : ∀ c, asRole v c dom1 = asRole s c dom1 := fun c => hframe (asRole · c dom1) fun _ => rfl
  have hdrives : drives v dom1 = drives s dom1 := hframe (drives · dom1) fun _ => rfl
  have hmem : SameMemory s v := fun k => hframe (memGet · k) fun _ => rfl
  have hdeaf : ¬hears v b dom1 := by
    rw [hears, hpb, deafPort]
    cases dom1 <;> simp
  have hother : hears v (!b) dom1 ↔ hears s (!b) dom1 := by rw [hears, hears, hrole, hpo]
  have hgm : grandmaster v dom1 = false := by
    rw [grandmaster, hrole, hrole, decide_eq_false_iff_not]
    rintro ⟨hA, hB⟩
    cases b
    · rw [hr] at hA
      cases hA
    · rw [hr] at hB
      cases hB
  by_cases hlost : drives s dom1 = true ∧ s.time.st = .sync ∧ ¬hears s (!b) dom1
  · obtain ⟨hd, hst, hh⟩ := hlost
    have hst' : v.time.st = .sync := by rw [htime, hst]
    have hnone : ∀ c, ¬hears v c dom1 := fun c => by
      by_cases hc : c = b
      · rwa [hc]
      · rwa [Bool.eq_not.mpr hc, hother]
    rw [hu, domainCheck_lost (hdrives.trans hd) hnone hst' hgm]
    refine ⟨(setTimeSt_frame (portOf · b) v _ fun _ _ => rfl).trans hpb, (setTimeSt_frame (portOf · (!b)) v _ fun _ _ => rfl).trans hpo,
      hmem.trans (sameMemory_setTimeSt _ _), fun _ _ _ => ⟨?_, ?_⟩, ?_⟩
    · rw [time_setTimeSt, htime]
    · have hnew : v.time.st ≠ .holdover := by simp [hst']
      exact (fired_setTimeSt hnew).congr (congrArg Evt.src hevt) (hframe (·.reg.tabA) fun _ => rfl) htime rfl
    · rintro (hn | hn | hn)
      · rw [hn] at hd
        cases hd
      · exact absurd hst hn
      · exact absurd hn hh
  · have hkept : drives v dom1 = false ∨ v.time.st ≠ .sync ∨ ∃ c, hears v c dom1 := by
      rw [hdrives, htime]
      by_cases hd : drives s dom1 = true
      · by_cases hst : s.time.st = .sync
        · exact .inr (.inr ⟨!b, hother.mpr (not_not.mp fun hh => hlost ⟨hd, hst, hh⟩)⟩)
        · exact .inr (.inl hst)
      · exact .inl (Bool.eq_false_iff.mpr hd)
    rw [hu, domainCheck_kept hkept]
    exact ⟨hpb, hpo, hmem, fun hd hst hh => absurd ⟨hd, hst, hh⟩ hlost, fun _ => ⟨htime, hevt⟩⟩
/-- A Pdelay_Req that leaves. -/
theorem doPdelayReq_claims {s : State} {b : Bool} (he : bit (act s (aPort b + 0x30)) 4 = true) (hl : (portOf s b).link = 2) (h : ofsOk s b = true) :
    let u := doPdelayReq b s
    (portOf u b).pdlyOpen = true ∧ (portOf u b).ofsErr = false ∧ (portOf u (!b) = portOf s (!b) ∧ SameMemory s u) ∧
      (asTime s b).toNat ≤ u.time.now.toNat := by
  obtain ⟨w, hw, ho, hu⟩ := doPdelayReq_sends he hl h
  intro u
  change (portOf (doPdelayReq b s) b).pdlyOpen = true ∧ (portOf (doPdelayReq b s) b).ofsErr = false ∧
    (portOf (doPdelayReq b s) (!b) = portOf s (!b) ∧ SameMemory s (doPdelayReq b s)) ∧ (asTime s b).toNat ≤ (doPdelayReq b s).time.now.toNat
  have hkept := keepsSync_atTime (setPort s b { portOf s b with ofsErr := false }) (asTime s b)
  have htime : (setPort w b { portOf w b with pdlyOpen := true }).time = w.time := setPort_frame State.time w b _ fun _ => rfl
  rw [hu, portOf_setPort_same, portOf_setPort_not, htime, hw.time, atTime_now]
  refine ⟨rfl, ?_, ⟨ho, ?_⟩, Nat.le_max_right _ _⟩
  · refine (hw.ofsErr b).trans ((hkept.ofsErr b).trans ?_)
    rw [portOf_setPort_same]
  · exact (setPort_sameMemory s b _).trans (hkept.memory.trans (hw.sameMemory.trans (setPort_sameMemory w b _)))

/-- Settles O47: the servo on a relayed Sync, the grandmaster's own Sync, the check of a lost domain, and the path delay of a port. -/
theorem ringTimeFollowsItsDomain : Obligations.RingTimeFollowsItsDomain := by
  intro s b dom1 offset rate origin corr resid delay ratio hc p other t carried ofs rx tx off slave heard selected small o sync got stepped otherHears
  have hsync : exec sync s = .next (doSyncReceive b dom1 offset rate origin corr resid s) := onCore_on _ hc
  have hoff : offset + BitVec.ofNat 64 (tsLat s b).1 = off := by
    rw [tsLat, fld_eq_extract]
  have hselected : selected ↔ drives s dom1 = true := (drives_iff s dom1).symm
  have hsmall : small ↔ Small s off := by
    rw [Small, fld_eq_extract]
  have hrelay : slave → ∃ w, Relayed s w b dom1 ∧ doSyncReceive b dom1 offset rate origin corr resid s =
      if drives s dom1 then servo w b off rate else w := fun ⟨hr, hcar⟩ => by
    rw [← hoff]
    exact doSyncReceive_slave offset rate origin corr resid hr ((carries_iff s b).mpr hcar)
  have hdrives : ∀ (h : slave) (_ : selected), ∃ w, Relayed s w b dom1 ∧ exec sync s = .next (servo w b off rate) := fun h hs => by
    obtain ⟨w, hw, he⟩ := hrelay h
    rw [hselected.mp hs, if_pos rfl] at he
    exact ⟨w, hw, onCore_next hc he⟩
  refine ⟨fun h => ?_, fun h hs => ?_, fun h hs hst => ⟨fun hsm => ?_, fun hsm => ?_⟩, fun h hs hst => ⟨fun hp => ?_, fun hp => ?_⟩, fun hA hB => ?_, fun h => ?_,
    fun hr hage => ?_, fun he hl => ⟨fun h => ?_, fun h => ?_⟩, fun he ho => ?_, fun h => ?_, fun h => ?_, fun h => ?_, ?_⟩
  · rw [hsync, doSyncReceive_ignored offset rate origin corr resid fun ⟨hr, hcar⟩ => h ⟨hr, (carries_iff s b).mp hcar⟩]
  · obtain ⟨w, hw, he⟩ := hrelay h
    rw [if_neg (mt hselected.mpr hs)] at he
    exact ⟨w, onCore_next hc he, hw.got, hw.time⟩
  · obtain ⟨w, hw, he⟩ := hdrives h hs
    exact ⟨_, he, (hw.servo_sync hst off rate).1 (hsmall.mp hsm)⟩
  · obtain ⟨w, hw, he⟩ := hdrives h hs
    exact ⟨_, he, (hw.servo_sync hst off rate).2 (mt hsmall.mpr hsm)⟩
  · obtain ⟨w, hw, he⟩ := hdrives h hs
    exact ⟨_, he, hw.servo_starts hst hp off rate⟩
  · obtain ⟨w, hw, he⟩ := hdrives h hs
    have hp' : (portOf w b).pdlyValid = false := by
      rw [hw.heard, heardPort]
      split <;> exact hp
    rw [servo_waits b rate (by rwa [hw.time]) hp'] at he
    exact ⟨w, he, hw.got, hw.time⟩
  · obtain ⟨hofs, hmem, hdr, hnot⟩ := doSyncSend_claims (s := s) (dom1 := dom1) (decide_eq_true ⟨hA, hB⟩)
    refine ⟨_, onCore_on _ hc, fun c => ?_, hmem, fun hs ⟨c, hco, hca⟩ => hdr (hselected.mp hs) ⟨c, (ofsOk_iff s c).mpr hco, (carries_iff s c).mpr hca⟩,
      fun h => hnot (h.imp (fun hs => Bool.eq_false_iff.mpr (mt hselected.mpr hs)) fun hall c hco =>
        Bool.eq_false_iff.mpr fun hca => hall c ((ofsOk_iff s c).mp hco) ((carries_iff s c).mp hca))⟩
    rw [hofs, ofsOk, fld_eq_extract]
  · refine onCore_next hc (doSyncSend_other ?_)
    rw [grandmaster, decide_eq_false_iff_not]
    rintro ⟨hA, hB⟩
    exact h.elim (· hA) (· hB)
  · obtain ⟨hpb, hpo, hmem, hlost, hkept⟩ := doSyncLoss_claims hr hage
    exact ⟨_, onCore_on _ hc, hpb, ⟨hpo, hmem⟩, fun hs hst hh => hlost (hselected.mp hs) hst hh,
      fun h => hkept (h.imp (fun hs => Bool.eq_false_iff.mpr (mt hselected.mpr hs)) id)⟩
  · obtain ⟨hopen, herr, ho, hnow⟩ := doPdelayReq_claims he hl ((ofsOk_iff s b).mpr h)
    refine ⟨_, onCore_on _ hc, hopen, herr, ho, ?_⟩
    rw [asTime, fld_eq_extract] at hnow
    exact hnow
  · have hlate : ofsOk s b = false := Bool.eq_false_iff.mpr fun hk => absurd ((ofsOk_iff s b).mp hk) (not_lt.mpr h)
    refine ⟨_, onCore_next hc (doPdelayReq_late he hl hlate), portOf_setPort_same _ _ _, portOf_setPort_not _ _ _,
      setPort_sameMemory _ _ _⟩
  · refine ⟨_, onCore_next hc (doPdelay_measured delay ratio he ho), ?_⟩
    rw [tsLat, fld_eq_extract, fld_eq_extract]
    exact ⟨portOf_setPort_same s b _, imr_setIm_same _ _ _, portOf_setPort_not s b _, setPort_sameMemory s b _⟩
  · refine onCore_next hc (if_neg fun ⟨he, ho⟩ => ?_)
    rcases h with h | h
    · exact absurd (he.symm.trans h) (by decide)
    · exact absurd (ho.symm.trans h) (by decide)
  · refine ⟨_, onCore_next hc (if_pos h), portOf_setPort_same _ _ _, portOf_setPort_not _ _ _, setPort_sameMemory _ _ _⟩
  · exact onCore_next hc (if_neg (not_le.mpr h))
  · exact onCore_on _ hc

end Sys2Proof.Machine
end

section
/-! Ring-wide landings (R273 to R277, R294): messages of a session that act at once, and the manager's views. -/
namespace Sys2Proof.Machine

/-! A message that is taken from its session (R297, R300). -/
/-- The state after the one message of a session is taken. -/
def emptied (s : State) (k : Nat) : State := setSess s k { sessOf s k with rxq := [] }

section
variable {s : State} {k : Nat} {m : RxMsg}

theorem takeRx_heads {typ : Byte} (h : Heads s k m) (ht : m.typ = typ) : takeRx s k typ = some (m, emptied s k) := by
  obtain ⟨hq, hr, hw⟩ := h
  rw [takeRx, hq]
  exact if_pos ⟨ht, hr, by rw [hw]; rfl⟩
theorem rxq_emptied (s : State) (k : Nat) : (sessOf (emptied s k) k).rxq = [] := congrArg Sess.rxq (sessOf_setSess_same s k _)
theorem dropBad_empty {u : State} (h : (sessOf u k).rxq = []) : dropBad k u = u := by rw [dropBad, h]; rfl
/-- A command of a session that leaves no message there is what its function makes of the state. -/
theorem onSess_next {f : State → State} {u : State} (hc : clocksOn s = true) (h : f s = u) (hu : (sessOf u k).rxq = []) : onSess k f s = .next u :=
  onCore_next hc (by rw [h, dropBad_empty hu])
end

/-! A message that is sent at once leaves the receive buffer as it was. -/
theorem rxq_transmit (s : State) (k : Nat) (m : TxMsg) (ack : Bool) : (sessOf (transmit s k m ack) k).rxq = (sessOf s k).rxq := by
  have hpub : (if m.typ = 0x17 then pubSent s m.body else s).sct = s.sct := by
    split
    · exact sct_pubSent s m.body
    · rfl
  unfold transmit
  dsimp only
  generalize (if m.typ = 0x17 then pubSent s m.body else s) = v at hpub
  have hsent : ∀ (z : Sess) (f : Byte), (sessOf (sendSess (setSess v k z) k m.typ f (sessOf s k).next m.body) k) = z := fun z f => by
    rw [sessOf, sct_sendSess hpub]
    exact sget_sset_same _ _ _ _
  rw [hsent]
  split_ifs <;> rfl
theorem rxq_sessSend {s : State} {k : Nat} (typ : Byte) (body : List Byte) (h : CanSend s k) :
    (sessOf (sessSend s k typ body) k).rxq = (sessOf s k).rxq := by
  rw [sessSend_canSend typ body h, noneWaiting, sessOf_setSess_same, rxq_transmit, oneWaiting, sessOf_setSess_same]

/-- What is sent after the one message of a session was taken is sent from there. -/
theorem Sent.of_emptied {s v u : State} {k : Nat} {typ : Byte} {body : List Byte} (hv : v.sct = (emptied s k).sct) (h : Sent v u k typ body) :
    Sent s u k typ body := by
  have hs : sessOf v k = { sessOf s k with rxq := [] } := by
    rw [sessOf, hv]
    exact sessOf_setSess_same s k _
  rw [Sent, hs, hv] at h
  exact h
theorem CanSend.emptied {s v : State} {k : Nat} (hv : v.sct = (emptied s k).sct) (h : CanSend s k) : CanSend v k := by
  have hs : sessOf v k = { sessOf s k with rxq := [] } := by
    rw [sessOf, hv]
    exact sessOf_setSess_same s k _
  rw [CanSend, hs]
  exact h
theorem rxq_of_emptied {s v : State} {k : Nat} (hv : v.sct = (Machine.emptied s k).sct) : (sessOf v k).rxq = [] := by
  rw [sessOf, hv]
  exact rxq_emptied s k

/-! LANDSTAGE. -/
/-- A set of records with one record. -/
theorem stageRecs_one {b : List Byte} {s : State} (h : b.length = 20) (ha : bFld b 12 4 % 4 = 0) (ht : stageTarget (bFld b 12 4) = true) :
    stageRecs (b.drop 12) s = ((regWrite 2 (bFld b 12 4) (BitVec.ofNat 32 (bFld b 16 4)) s).getD s, false) := by
  have hlen : (b.drop 12).length = 8 := by simp [h]
  have h16 : b.drop 16 = (b.drop 12).drop 4 := by rw [List.drop_drop]
  have hA : bFld b 12 4 = beNat ((b.drop 12).take 4) := by simp [bFld, slice, h]
  have hV : bFld b 16 4 = beNat (((b.drop 12).drop 4).take 4) := by simp [bFld, slice, h]
  rw [hA] at ha ht
  rw [hA, hV]
  match hd : b.drop 12, hlen with
  | [_, _, _, _, _, _, _, _], _ =>
    rw [hd] at ha ht
    rw [stageRecs]
    exact if_pos ⟨ha, ht⟩
theorem stageTarget_ls {a : Nat} {row : Row} {i : Nat} (h : regAt a = some (row, i)) (hls : row.ls = true) : stageTarget a = true := by
  unfold stageTarget
  rw [h]
  simp [hls]
theorem regWrite_p2 {a : Nat} (v : Word) (s : State) (h4 : a % 4 = 0) (ha : a < 0x110000) : regWrite 2 a v s = some (writeEffect a v s) := by
  rw [regWrite, mayWriteReg, if_pos rfl]
  exact if_pos (by simp [h4, ha])
/-- The first part of a set, with one record for a staged setting. -/
theorem doLandstage_staged {s : State} {k : Nat} {m : RxMsg} {row : Row} {i : Nat} (h : Heads s k m) (ht : m.typ = 0x20) (hlen : m.body.length = 20)
    (hnone : s.lnd.stage = []) (h4 : bFld m.body 12 4 % 4 = 0) (hr : bFld m.body 12 4 < 0x110000) (ha : regAt (bFld m.body 12 4) = some (row, i))
    (hacc : row.acc = .rw) (hls : row.ls = true) (hrun : s.boot.st = .run) (hsync : s.lnd.syncBusy = none) (hj : s.lnd.judged = none)
    (hlock : s.flt.lock = false) :
    let a := bFld m.body 12 4
    let w := mergeReg (stg s a) (BitVec.ofNat 32 (bFld m.body 16 4)) (row.flds i)
    let y : StageSet := { lnd := BitVec.ofNat 64 (bFld m.body 0 8), cnt := m.body.getD 9 0, got := [m.body.getD 8 0]
                          bad := decide ((m.body.getD 9 0).toNat ≤ (m.body.getD 8 0).toNat) }
    ∃ x, doLandstage k s = { emptied s k with
      reg := { s.reg with stg := (setStg s a w.1).reg.stg, rsvd := s.reg.rsvd || w.2 }, lnd := { s.lnd with wrdl := x, stage := [y] } } := by
  intro a w y
  obtain ⟨x, hx⟩ := applyStg_markWrdl (emptied s k) (BitVec.ofNat 32 (bFld m.body 16 4)) ha
  have hrecs := stageRecs_one (s := emptied s k) hlen h4 (stageTarget_ls ha hls)
  rw [regWrite_p2 _ _ h4 hr, Option.getD_some, writeEffect_staged (s := emptied s k) _ ha hacc hls hrun hsync hj hlock, hx] at hrecs
  refine ⟨x, ?_⟩
  rw [doLandstage, takeRx_heads h ht]
  dsimp only
  rw [hrecs]
  have hstage : (emptied s k).lnd.stage = [] := hnone
  dsimp only
  rw [hstage]
  simp [y, byteAt, emptied, setSess, w, a, setStg, stg]

/-! LANDCOMMIT and LANDREVERT. -/
/-- A commit for a later landing changes the pending place and, at most, the standby PLL. -/
theorem recvCommit_eq {s : State} (seq : Half) (ring : Bool) (cnt : Byte) (h0 : commitDistance s ≠ 0) (h31 : commitDistance s < 2 ^ 31) :
    let c := receivedCommit s seq ring cnt
    let r := firstFail s c c.tgt.toNat false
    ∃ b, recvCommit s seq ring cnt =
      ({ s with lnd := { s.lnd with wrdl := false, syncwr := false, pend := some { c with preason := r } }, boot := b }, r) := by
  intro c r
  obtain ⟨v, hv, -⟩ := recvCommit_pending seq ring cnt h0 h31
  rw [hv]
  obtain ⟨b, hb⟩ := freqStart_eq { s with
    lnd := { s.lnd with wrdl := false, syncwr := false, pend := some { c with preason := r } }, boot := { s.boot with vid := v } }
  exact ⟨b, by rw [hb]⟩
/-- The revert of landing l - 1 as it is received (R276, R277). -/
def receivedRevert (s : State) (l : DWord) (prior : Half) : Commit :=
  { tgt := BitVec.ofNat 64 (revertAt s l.toNat), seq := prior + 2, ring := true, revert := some (prior, l - 1), rcv := s.time.now
    preason := if revertRow s prior (l - 1) = 0 then 3 else 0 }
/-- A revert takes the pending place and, at most, starts the standby PLL. -/
theorem recvRevert_eq (s : State) (l : DWord) (prior : Half) :
    let c := receivedRevert s l prior
    ∃ b, recvRevert s l prior = ({ s with lnd := { s.lnd with pend := some c }, boot := b }, c.tgt, c.preason) := by
  intro c
  obtain ⟨v, hv, -⟩ := dropPend_eq s
  unfold recvRevert
  rw [hv]
  have hb : ∀ w : State, ∃ b, (if revertRow s prior (l - 1) = 1 then freqStart w else w) = { w with boot := b } := fun w => by
    split
    · exact freqStart_eq w
    · exact ⟨w.boot, rfl⟩
  obtain ⟨b, hb⟩ := hb { s with lnd := { s.lnd with pend := some c }, boot := { s.boot with vid := v } }
  exact ⟨b, congrArg (·, c.tgt, c.preason) hb⟩

theorem aTGT_not_drop (b : Bool) : aTGT ≠ aPCnt b 5 ∧ aTGT ≠ aPCnt b 6 := by cases b <;> decide
theorem SendsOnly.lnd {s u : State} (h : SendsOnly s u) : u.lnd = s.lnd := (congrArg State.lnd h.rest :)
/-- The answer to a message that was taken: it is sent, nothing stays in the receive buffer, and the rest is as before it. -/
theorem sessSend_answers {s v : State} {k : Nat} (hv : v.sct = (emptied s k).sct) (h : CanSend s k) (typ : Byte) (body : List Byte) :
    Sent s (sessSend v k typ body) k typ body ∧ (sessOf (sessSend v k typ body) k).rxq = [] ∧ SendsOnly v (sessSend v k typ body) := by
  have hsend := h.emptied hv
  exact ⟨(sessSend_sent typ body hsend).of_emptied hv, (rxq_sessSend typ body hsend).trans (rxq_of_emptied hv), sendsOnly_sessSend v k typ body⟩
/-- A LANDCOMMIT for a later landing writes LND_COMMIT_TGT, is pending and is answered. -/
theorem doLandcommit_pending {s : State} {k : Nat} {m : RxMsg} (h : Heads s k m) (ht : m.typ = 0x21) (hs : CanSend s k) :
    let l : DWord := BitVec.ofNat 64 (bFld m.body 0 8)
    let seq : Half := BitVec.ofNat 16 (bFld m.body 8 2)
    let d := (l.setWidth 32 - s.lnd.num.setWidth 32).toNat
    let u := doLandcommit k s
    d ≠ 0 → d < 2 ^ 31 → (sessOf u k).rxq = [] ∧ imr u aTGT = l.setWidth 32 ∧ SameMemory s u ∧ ∃ r,
      u.lnd.pend = some { tgt := s.lnd.num + BitVec.ofNat 64 d, seq := seq, ring := true, rcv := s.time.now, cnt := m.body.getD 10 0, preason := r } ∧
        Sent s u k 0x22 (ackBody s l seq r) := by
  intro l seq d u h0 h31
  generalize hw : setIm (emptied s k) aTGT (l.setWidth 32) = w
  have hd : commitDistance w = d := by
    rw [← hw, commitDistance, imr_setIm_same]
    rfl
  obtain ⟨b, hb⟩ := recvCommit_eq (s := w) seq true (m.body.getD 10 0) (hd ▸ h0) (hd ▸ h31)
  generalize hr : firstFail w (receivedCommit w seq true (m.body.getD 10 0)) (receivedCommit w seq true (m.body.getD 10 0)).tgt.toNat false = r at hb
  generalize hv : { w with
    lnd := { w.lnd with wrdl := false, syncwr := false, pend := some { receivedCommit w seq true (m.body.getD 10 0) with preason := r } }, boot := b } = v at hb
  have hu : u = sessSend v k 0x22 (ackBody v l seq r) := by
    change doLandcommit k s = _
    rw [doLandcommit, takeRx_heads h ht]
    change sessSend (recvCommit (setIm (emptied s k) aTGT (l.setWidth 32)) seq true (m.body.getD 10 0)).1 k 0x22
      (ackBody (recvCommit (setIm (emptied s k) aTGT (l.setWidth 32)) seq true (m.body.getD 10 0)).1 l seq
        (recvCommit (setIm (emptied s k) aTGT (l.setWidth 32)) seq true (m.body.getD 10 0)).2) = _
    rw [hw, hb]
  have hsct : v.sct = (emptied s k).sct := by rw [← hv, ← hw]; rfl
  have hack : ackBody v l seq r = ackBody s l seq r := by rw [← hv, ← hw]; rfl
  have hmem : SameMemory s v := by rw [← hv, ← hw]; exact fun _ => rfl
  have himr : imr v aTGT = l.setWidth 32 := by
    rw [← hv, ← hw]
    exact imr_setIm_same _ _ _
  obtain ⟨hsent, hrxq, honly⟩ := sessSend_answers hsct hs 0x22 (ackBody v l seq r)
  rw [hu]
  refine ⟨hrxq, (honly.counts _ aTGT_not_drop).trans himr, hmem.trans honly.sameMemory, r, ?_, hack ▸ hsent⟩
  rw [honly.lnd, ← hv, receivedCommit, hd, ← hw]
  rfl
/-- A LANDREVERT takes the pending place and is answered. -/
theorem doLandrevert_pending {s : State} {k : Nat} {m : RxMsg} (h : Heads s k m) (ht : m.typ = 0x23) (hs : CanSend s k) :
    let c := receivedRevert s (BitVec.ofNat 64 (bFld m.body 0 8)) (BitVec.ofNat 16 (bFld m.body 8 2))
    let u := doLandrevert k s
    (sessOf u k).rxq = [] ∧ SameMemory s u ∧ u.lnd.pend = some c ∧ Sent s u k 0x22 (ackBody s c.tgt c.seq c.preason) := by
  intro c u
  obtain ⟨b, hb⟩ := recvRevert_eq (emptied s k) (BitVec.ofNat 64 (bFld m.body 0 8)) (BitVec.ofNat 16 (bFld m.body 8 2))
  have hc : receivedRevert (emptied s k) (BitVec.ofNat 64 (bFld m.body 0 8)) (BitVec.ofNat 16 (bFld m.body 8 2)) = c := rfl
  rw [hc] at hb
  generalize hv : { emptied s k with lnd := { (emptied s k).lnd with pend := some c }, boot := b } = v at hb
  have hu : u = sessSend v k 0x22 (ackBody v c.tgt c.seq c.preason) := by
    change doLandrevert k s = _
    rw [doLandrevert, takeRx_heads h ht]
    dsimp only
    rw [hb]
    rfl
  have hsct : v.sct = (emptied s k).sct := by rw [← hv]
  have hack : ackBody v c.tgt c.seq c.preason = ackBody s c.tgt c.seq c.preason := by rw [← hv]; rfl
  have hmem : SameMemory s v := by rw [← hv]; exact fun _ => rfl
  obtain ⟨hsent, hrxq, honly⟩ := sessSend_answers hsct hs 0x22 (ackBody v c.tgt c.seq c.preason)
  rw [hu]
  refine ⟨hrxq, hmem.trans honly.sameMemory, ?_, hack ▸ hsent⟩
  rw [honly.lnd, ← hv]

/-! LANDACK at the manager (R274 to R276). -/
section
variable {s : State} {peer : Byte} {m : RxMsg}

/-- What LANDACK does with the message taken. -/
theorem doLandack_heads (h : Heads s (peerKey peer) m) (ht : m.typ = 0x22) : doLandack peer s =
    let s1 := emptied s (peerKey peer)
    let l := BitVec.ofNat 64 (bFld m.body 0 8)
    let seq := BitVec.ofNat 16 (bFld m.body 8 2)
    let armed := decide (m.body.getD 10 0 = 1)
    match s.lnd.ring.find? fun v => decide (seq = v.prior + 2) && v.rev.any (·.contains peer) with
    | some v =>
      let s2 := setView s1 { v with rev := v.rev.map (·.filter fun b => b ≠ peer) }
      if armed then s2 else mustRestore s2 peer
    | none =>
      match s.lnd.ring.find? fun v => v.l = l with
      | some v => if seq = v.prior + 1 ∧ armed ∧ !v.acks.contains peer then setView s1 { v with acks := v.acks ++ [peer] } else s1
      | none => if s.lnd.num.toNat < l.toNat then setView s1 { l := l, prior := seq - 1, acks := if armed then [peer] else [] } else s1 := by
  rw [doLandack, takeRx_heads h ht]
  rfl
/-- A view alone is written over by one of the same landing. -/
theorem setView_only {w : State} {v v' : RingView} (h : w.lnd.ring = [v]) (hl : v'.l = v.l) : setView w v' = { w with lnd := { w.lnd with ring := [v'] } } := by
  rw [setView, h, putView, if_pos hl]
theorem setView_first {w : State} (v' : RingView) (h : w.lnd.ring = []) : setView w v' = { w with lnd := { w.lnd with ring := [v'] } } := by
  rw [setView, h, putView]
/-- The first LANDACK for a landing still to come opens its view. -/
theorem doLandack_opens (h : Heads s (peerKey peer) m) (ht : m.typ = 0x22) (hr : s.lnd.ring = []) :
    let l : DWord := BitVec.ofNat 64 (bFld m.body 0 8)
    doLandack peer s = { emptied s (peerKey peer) with lnd := if s.lnd.num.toNat < l.toNat then
      { s.lnd with ring := [{ l := l, prior := BitVec.ofNat 16 (bFld m.body 8 2) - 1, acks := if m.body.getD 10 0 = 1 then [peer] else [] }] } else s.lnd } := by
  intro l
  have hr' : (emptied s (peerKey peer)).lnd.ring = [] := hr
  rw [doLandack_heads h ht, hr]
  simp only [List.find?_nil, setView_first _ hr', decide_eq_true_eq]
  split <;> rfl
/-- ARMED is noted in the view of its landing. -/
theorem doLandack_notes (h : Heads s (peerKey peer) m) (ht : m.typ = 0x22) {v : RingView} (hr : s.lnd.ring = [v]) (hrev : v.rev = none)
    (hl : BitVec.ofNat 64 (bFld m.body 0 8) = v.l) (hseq : BitVec.ofNat 16 (bFld m.body 8 2) = v.prior + 1) (ha : m.body.getD 10 0 = 1)
    (hn : v.acks.contains peer = false) :
    doLandack peer s = { emptied s (peerKey peer) with lnd := { s.lnd with ring := [{ v with acks := v.acks ++ [peer] }] } } := by
  have hr' : (emptied s (peerKey peer)).lnd.ring = [v] := hr
  rw [doLandack_heads h ht, hr]
  simp only [List.find?_cons, List.find?_nil, hrev, Option.any_none, Bool.and_false, hl, decide_true, hseq, ha, hn, Bool.not_false, and_self, if_true]
  exact setView_only hr' rfl
/-- An answer to a LANDREVERT takes the worker off the list of those that the manager waits for; one that cannot follow is noted for restoring. -/
theorem doLandack_reverts (h : Heads s (peerKey peer) m) (ht : m.typ = 0x22) {v : RingView} {left : List Byte} (hr : s.lnd.ring = [v])
    (hrev : v.rev = some left) (hleft : left.contains peer = true) (hseq : BitVec.ofNat 16 (bFld m.body 8 2) = v.prior + 2) :
    doLandack peer s = { emptied s (peerKey peer) with
      lnd := { s.lnd with ring := [{ v with rev := some (left.filter fun a => a ≠ peer) }] }
      rm := if m.body.getD 10 0 = 1 ∨ s.rm.restore.contains peer = true then s.rm else { s.rm with restore := s.rm.restore ++ [peer] } } := by
  have hr' : (emptied s (peerKey peer)).lnd.ring = [v] := hr
  rw [doLandack_heads h ht, hr]
  simp only [List.find?_cons, hrev, Option.any_some, hleft, hseq, decide_true, Bool.and_self, Option.map_some]
  have hset := setView_only (v' := { v with rev := some (left.filter fun a => a ≠ peer) }) hr' rfl
  by_cases ha : m.body.getD 10 0 = 1
  · simp only [ha, decide_true, if_true, true_or]
    exact hset
  · simp only [ha, decide_false, Bool.false_eq_true, if_false, false_or]
    rw [hset, mustRestore]
    by_cases hin : s.rm.restore.contains peer = true
    · rw [if_pos hin]
      exact if_pos hin
    · rw [if_neg hin]
      exact if_neg hin
end

/-! The deadline of a ring-wide landing at the manager (R275). -/
theorem sendsOnly_toEach (typ : Byte) (body : List Byte) (as : List Byte) (s : State) :
    SendsOnly s (as.foldl (fun s a => sessSend s (peerKey a) typ body) s) := by
  induction as generalizing s with
  | nil => exact .refl s
  | cons a as ih => exact (sendsOnly_sessSend s _ typ body).trans (ih _)
/-- The revert of a ring-wide landing: its view shows it, and the manager's own revert is pending. -/
theorem revertRing_claims (s : State) (v : RingView) : let u := revertRing s v
    u.lnd.ring = putView { v with due := true, rev := some (workers s) } s.lnd.ring ∧ u.time = s.time ∧
      ∃ c, u.lnd.pend = some c ∧ c.seq = v.prior + 2 ∧ c.revert = some (v.prior, v.l) := by
  obtain ⟨w, hw, hu⟩ : ∃ w, SendsOnly (setView s { v with due := true, rev := some (workers s) }) w ∧ revertRing s v = (recvRevert w (v.l + 1) v.prior).1 :=
    ⟨_, sendsOnly_toEach 0x23 _ (workers s) _, rfl⟩
  obtain ⟨b, hb⟩ := recvRevert_eq w (v.l + 1) v.prior
  rw [hb] at hu
  intro u
  have hring : u.lnd.ring = w.lnd.ring := (congrArg (·.lnd.ring) hu :)
  have htime : u.time = w.time := (congrArg State.time hu :)
  have hpend : u.lnd.pend = some (receivedRevert w (v.l + 1) v.prior) := (congrArg (·.lnd.pend) hu :)
  refine ⟨hring.trans ?_, htime.trans hw.time, _, hpend, rfl, ?_⟩
  · rw [hw.lnd]
    rfl
  · rw [receivedRevert, BitVec.add_sub_cancel]

section
variable {s : State} {v : RingView}

theorem ringViews_only (hr : s.lnd.ring = [v]) (hp : ∀ c, s.lnd.pend = some c → c.revert = none → c.tgt = v.l) : ringViews s = [v] := by
  unfold ringViews
  rw [hr]
  cases hpend : s.lnd.pend with
  | none => rfl
  | some c =>
    cases hrev : c.revert with
    | none => simp [hrev, hp c hpend hrev]
    | some r => simp [hrev]
theorem ringViews_own {c : Commit} (hr : s.lnd.ring = []) (hp : s.lnd.pend = some c) (hrev : c.revert = none) :
    ringViews s = [{ l := c.tgt, prior := s.lnd.tagA }] := by
  simp [ringViews, hr, hp, hrev, putView]
/-- When the manager looks at a landing: LND_GUARD before it. -/
def ringDeadline (s : State) (v : RingView) : DWord := lndTime s v.l.toNat - (act s aGUARD).setWidth 64
/-- The deadline of the one view: it passes when every present worker has armed, and reverts otherwise. -/
theorem doDeadline_only (hv : ringViews s = [v]) (hdue : v.due = false) (hrev : v.rev = none) (hm : s.rm.role = .manager) (hl : s.lnd.num.toNat < v.l.toNat) :
    doDeadline s = if (workers s).all (fun a => v.acks.contains a) then setView (atTime s (ringDeadline s v)) { v with due := true }
      else revertRing (atTime s (ringDeadline s v)) v := by
  have hw : workers (atTime s (lndTime s v.l.toNat - (act s aGUARD).setWidth 64)) = workers s := by
    obtain ⟨n, hn⟩ := atTime_eq s (ringDeadline s v)
    rw [ringDeadline] at hn
    rw [hn]
    rfl
  simp only [doDeadline, hv, List.find?_cons, hdue, hrev, hl, hm, Option.isNone_none, Bool.not_false, decide_true, Bool.and_self, if_true, hw, ringDeadline]
end

/-- Settles O39: each message by what its command does with it, and the deadline by the one view that the manager waits for. -/
theorem ringLandingsAreStagedAndReverted : Obligations.RingLandingsAreStagedAndReverted := by
  intro s peer m hc k b l seq d target
  refine ⟨?_, fun h ht hs h0 h31 => ?_, fun h ht hs => ?_, fun h ht hr => ?_,
    fun v h ht hr hrev hl hseq harm hn => ?_, fun v left h ht hr hrev hleft hseq => ?_, fun v hr hdue hrev hm hl hp => ?_, fun c hr hp hrev hm hl hw => ?_⟩
  · intro row i h ht hlen hst a v h4 hr ha hacc hls hrun hsync hj _ hlock
    obtain ⟨x, hx⟩ := doLandstage_staged h ht hlen hst h4 hr ha hacc hls hrun hsync hj hlock
    refine ⟨_, onSess_next hc hx (rxq_emptied s k), rxq_emptied s k, stg_setStg_same s _ _, stg_setStg_other s _ _, fun _ => rfl, fun _ => rfl, rfl⟩
  · obtain ⟨hrxq, htgt, hmem, r, hp, hsent⟩ := doLandcommit_pending h ht hs h0 h31
    exact ⟨_, onSess_next hc rfl hrxq, htgt, ⟨_, r, hp, rfl, hsent⟩, hmem⟩
  · obtain ⟨hrxq, hmem, hp, hsent⟩ := doLandrevert_pending h ht hs
    exact ⟨_, onSess_next hc rfl hrxq, hmem, _, hp, rfl, rfl, rfl, rfl, rfl, rfl, hsent⟩
  · exact ⟨_, onSess_next hc (doLandack_opens h ht hr) (rxq_emptied s k), rxq_emptied s k, rfl, rfl⟩
  · exact ⟨_, onSess_next hc (doLandack_notes h ht hr hrev hl hseq harm hn) (rxq_emptied s k), rfl, rfl⟩
  · exact ⟨_, onSess_next hc (doLandack_reverts h ht hr hrev hleft hseq) (rxq_emptied s k), rfl, rfl, rfl⟩
  · intro t
    have hd := doDeadline_only (ringViews_only hr hp) hdue hrev hm hl
    have ht : ringDeadline s v = t := rfl
    rw [ht] at hd
    obtain ⟨n, hn⟩ := atTime_eq s t
    have hnow : t.toNat ≤ (atTime s t).time.now.toNat := (atTime_now s t).symm ▸ Nat.le_max_right _ _
    have hring : (atTime s t).lnd.ring = [v] := by rw [hn]; exact hr
    have hwork : workers (atTime s t) = workers s := by rw [hn]; rfl
    rw [hn] at hd hnow hring hwork
    refine ⟨fun hall => ?_, fun hall => ?_⟩
    · rw [if_pos hall, setView_only (v' := { v with due := true }) hring rfl] at hd
      exact ⟨_, onCore_next hc hd, rfl, hnow, rfl⟩
    · rw [if_neg (by rw [hall]; decide)] at hd
      obtain ⟨hr', htime, c, hpend, hseq, hrevert⟩  := revertRing_claims { s with time := { s.time with now := n } } v
      rw [hring, hwork, putView, if_pos rfl] at hr'
      exact ⟨_, onCore_next hc hd, hr', htime.symm ▸ hnow, c, hpend, hseq, hrevert⟩
  · have hd := doDeadline_only (ringViews_own hr hp hrev) rfl rfl hm hl
    rw [if_neg (by cases hws : workers s with | nil => exact absurd hws hw | cons x xs => simp)] at hd
    generalize ringDeadline s _ = t at hd
    obtain ⟨n, hn⟩ := atTime_eq s t
    obtain ⟨hr', -, e, hpend, hseq, hrevert⟩ := revertRing_claims (atTime s t) { l := c.tgt, prior := s.lnd.tagA }
    rw [hn] at hd hr' hpend
    refine ⟨_, onCore_next hc hd, hr'.trans ?_, e, hpend, hseq, hrevert⟩
    change putView _ s.lnd.ring = _
    rw [hr]
    rfl

end Sys2Proof.Machine
end

section
/-! Key slots (R489) and image updates (R491, R492). -/
namespace Sys2Proof.Machine

/-! Key slots. -/
section
variable {s : State} {lvl : Lvl}

theorem keyCmd_refused (f : Boot → Boot) {r : Bool} (h : r = true) : keyCmd r f s = { s with boot := { s.boot with keyRefused := true } } := if_pos h
theorem keyCmd_done (f : Boot → Boot) {r : Bool} (h : r = false) : keyCmd r f s = { s with boot := f { s.boot with keyRefused := false } } :=
  if_neg (by simp [h])
theorem exec_program (k : BitVec 2) (hc : clocksOn s = true) (hl : Reaches lvl 2) : exec (.program lvl k) s = .next (keyProgram k s) := onReg_reaches _ hc hl
theorem exec_revoke (k : BitVec 2) (hc : clocksOn s = true) (hl : Reaches lvl 2) : exec (.revoke lvl k) s = .next (keyRevoke k s) := onReg_reaches _ hc hl
theorem exec_fuseSecure (hc : clocksOn s = true) (hl : Reaches lvl 2) : exec (.fuseSecure lvl) s = .next (fuseSecure s) := onReg_reaches _ hc hl
end

/-! BOOT_UPD_CMD.GO: the checks of R491, before anything changes in flash. -/
/-- The slot that an update names. -/
def updSlot (slotB recovery : Bool) : Nat := (if recovery then 2 else 0) + if slotB then 1 else 0
/-- Where the image of an update lies, and how long it may be. -/
def updSrc (s : State) : Nat := (imr s 0x010010).toNat + (imr s 0x010014).toNat * 2 ^ 32
def updLen (s : State) : Nat := (imr s 0x010018).toNat
/-- What becomes of an update of slot n by the bytes that SCT reads for it: unreadable or not valid, of the wrong SEQ, or started. -/
def updJudged (s : State) (n : Nat) : Option (List Byte) → State
  | none => updResult s 1
  | some b =>
    if imgValid s (byteAt b) = false ∨ updLen s < imgLen (byteAt b) then updResult s 1
    else if s.boot.maint = false ∧ imgSeq (byteAt b) ≠ s.boot.seq + 1 then updResult s 2
    else { s with boot := { s.boot with upd := some { slot := BitVec.ofNat 2 n, img := b.take (imgLen (byteAt b)) } } }

section
variable {s : State} {slotB recovery : Bool}

theorem b2n_updSlot (slotB recovery : Bool) : 2 * b2n recovery + b2n slotB = updSlot slotB recovery := by cases recovery <;> cases slotB <;> rfl
theorem updGo_busy (h : s.boot.upd ≠ none) : updGo slotB recovery s = updResult s 5 := if_pos (Option.isSome_iff_ne_none.mpr h)
/-- What GO does while no update runs. -/
theorem updGo_idle (h : s.boot.upd = none) : updGo slotB recovery s =
    if s.boot.maint = false ∧ s.boot.slot.toNat = updSlot slotB recovery then updResult s 3
    else updJudged s (updSlot slotB recovery) (rdBytes s .sct (updSrc s) (updLen s)) := by
  simp only [updGo, h, b2n_updSlot, Option.isSome_none, Bool.false_eq_true, if_false, Bool.not_eq_true', updSrc, updLen]
  refine congrArg (ite _ (updResult s 3)) ?_
  cases rdBytes s .sct ((imr s 0x010010).toNat + (imr s 0x010014).toNat * 2 ^ 32) (imr s 0x010018).toNat <;> rfl
theorem updGo_ownSlot (h : s.boot.upd = none) (hm : s.boot.maint = false) (hs : s.boot.slot.toNat = updSlot slotB recovery) :
    updGo slotB recovery s = updResult s 3 := by
  rw [updGo_idle h, if_pos ⟨hm, hs⟩]

variable (h : s.boot.upd = none) (ho : s.boot.maint = true ∨ s.boot.slot.toNat ≠ updSlot slotB recovery)
include h ho

theorem updGo_otherSlot : updGo slotB recovery s =
    updJudged s (updSlot slotB recovery) (rdBytes s .sct (updSrc s) (updLen s)) := by
  rw [updGo_idle h, if_neg]
  rintro ⟨hm, hs⟩
  rcases ho with ho | ho
  · rw [hm] at ho
    cases ho
  · exact ho hs
theorem updGo_unreadable (hr : rdBytes s .sct (updSrc s) (updLen s) = none) : updGo slotB recovery s = updResult s 1 := by
  rw [updGo_otherSlot h ho, hr, updJudged]

variable {d : List Byte} (hr : rdBytes s .sct (updSrc s) (updLen s) = some d)
include hr

theorem updGo_invalid (hv : imgValid s (byteAt d) = false ∨ updLen s < imgLen (byteAt d)) : updGo slotB recovery s = updResult s 1 := by
  rw [updGo_otherSlot h ho, hr]
  exact if_pos hv

variable (hv : imgValid s (byteAt d) = true) (hlen : imgLen (byteAt d) ≤ updLen s)
include hv hlen

theorem updGo_valid : updGo slotB recovery s =
    if s.boot.maint = false ∧ imgSeq (byteAt d) ≠ s.boot.seq + 1 then updResult s 2
    else { s with boot := { s.boot with upd := some { slot := BitVec.ofNat 2 (updSlot slotB recovery), img := d.take (imgLen (byteAt d)) } } } := by
  rw [updGo_otherSlot h ho, hr]
  exact if_neg (by simp [hv, hlen])
theorem updGo_wrongSeq (hm : s.boot.maint = false) (hs : imgSeq (byteAt d) ≠ s.boot.seq + 1) : updGo slotB recovery s = updResult s 2 := by
  rw [updGo_valid h ho hr hv hlen, if_pos ⟨hm, hs⟩]
theorem updGo_starts (hs : s.boot.maint = true ∨ imgSeq (byteAt d) = s.boot.seq + 1) : updGo slotB recovery s =
    { s with boot := { s.boot with upd := some { slot := BitVec.ofNat 2 (updSlot slotB recovery), img := d.take (imgLen (byteAt d)) } } } := by
  rw [updGo_valid h ho hr hv hlen, if_neg]
  rintro ⟨hm, hne⟩
  rcases hs with hs | hs
  · rw [hm] at hs
    cases hs
  · exact hne hs
end

/-! Flash. -/
/-- Below its keys a table reads its default. -/
theorem sget_below {α : Type} [DecidableEq α] (d : Nat → α) (e : α) {lo k : Nat} {m : Sparse α} (hm : swfFrom d lo m = true) (h : k < lo) : sget e m k = e := by
  cases m with
  | nil => rfl
  | cons x m =>
    obtain ⟨j, w⟩ := x
    simp only [swfFrom, Bool.and_eq_true, decide_eq_true_eq] at hm
    exact sget_lt _ _ _ _ _ (by omega)
/-- A filter that takes no entry of a key leaves its default there. -/
theorem sget_filter_none {α : Type} (e : α) (p : Nat × α → Bool) (k : Nat) (m : Sparse α) (h : ∀ v, p (k, v) = false) : sget e (m.filter p) k = e := by
  induction m with
  | nil => rfl
  | cons x m ih =>
    obtain ⟨j, w⟩ := x
    by_cases hp : p (j, w) = true
    · have hj : k ≠ j := fun hk => by
        rw [← hk, h w] at hp
        cases hp
      simp only [List.filter_cons, hp, if_true, sget, hj, if_false, ih, ite_self]
    · simp only [List.filter_cons, hp]
      exact ih
/-- A filter that takes every entry of a key leaves its value. -/
theorem sget_filter_all {α : Type} [DecidableEq α] (d : Nat → α) (e : α) (p : Nat × α → Bool) (k lo : Nat) (m : Sparse α) (hm : swfFrom d lo m = true)
    (h : ∀ v, p (k, v) = true) : sget e (m.filter p) k = sget e m k := by
  induction m generalizing lo with
  | nil => rfl
  | cons x m ih =>
    obtain ⟨j, w⟩ := x
    simp only [swfFrom, Bool.and_eq_true, decide_eq_true_eq] at hm
    have hrest := ih (j + 1) hm.2
    by_cases hp : p (j, w) = true
    · simp only [List.filter_cons, hp, if_true, sget, hrest]
    · have hj : k ≠ j := fun hk => hp (hk ▸ h w)
      rw [List.filter_cons_of_neg hp, hrest, sget, if_neg hj]
      split
      · next hlt => exact sget_below d e hm.2 (Nat.lt_succ_of_lt hlt)
      · rfl
theorem slotBase_flash (s : State) (n : BitVec 2) : 0x20_0000_0000 ≤ slotBase s n.toNat ∧ slotBase s n.toNat + slotSize s ≤ 0x21_0000_0000 := by
  have hn := n.isLt
  have hs := s.boot.otpSlot.isLt
  have hsize : slotSize s ≤ 0x1000_0000 := by
    unfold slotSize
    omega
  have hodd : n.toNat % 2 * slotSize s ≤ 1 * slotSize s := Nat.mul_le_mul_right _ (by omega)
  unfold slotBase
  omega
/-- A byte of an erased slot. -/
theorem memGet_eraseSlot_in {s : State} {n : BitVec 2} {k : Nat} (h : slotBase s n.toNat ≤ k ∧ k < slotBase s n.toNat + slotSize s) :
    memGet (eraseSlot s n.toNat) k = 0xFF := by
  obtain ⟨hlo, hhi⟩ := slotBase_flash s n
  have hd : memDef (eraseSlot s n.toNat) k = 0xFF := memDefault_flash _ _ _ (by omega) (by omega)
  exact (sget_filter_none _ _ _ _ fun v => by simp [h]).trans hd
/-- A byte outside an erased slot. -/
theorem memGet_eraseSlot_out {s : State} (hm : MemCanonical s) {n k : Nat} (h : ¬(slotBase s n ≤ k ∧ k < slotBase s n + slotSize s)) :
    memGet (eraseSlot s n) k = memGet s k :=
  sget_filter_all (memDef s) _ _ _ 0 _ hm fun v => by simp [h]
theorem programFlash_eq (bs : List Byte) (a : Nat) (s : State) : ∃ m, programFlash a bs s = { s with mem := m } := by
  induction bs generalizing a s with
  | nil => exact ⟨s.mem, rfl⟩
  | cons b bs ih =>
    obtain ⟨m, hm⟩ := ih (a + 1) (memSet s a b)
    exact ⟨m, hm⟩
/-- A programmed byte. -/
theorem memGet_programFlash_at (bs : List Byte) (a i : Nat) (s : State) (h : i < bs.length) : memGet (programFlash a bs s) (a + i) = bs.getD i 0 := by
  induction bs generalizing a i s with
  | nil => exact absurd h (Nat.not_lt_zero i)
  | cons b bs ih =>
    rw [programFlash]
    cases i with
    | zero => rw [memGet_programFlash_other _ _ _ _ (by omega), Nat.add_zero, memGet_memSet_same, List.getD_cons_zero]
    | succ i =>
      rw [List.getD_cons_succ, ← ih (a + 1) i (memSet s a b) (by simpa using h)]
      congr 1
      omega

/-! The end of an update (R491, R492). -/
/-- The slot erased and all of the image but its header programmed. -/
def bodyProgrammed (s : State) (x : Upd) : State :=
  programFlash (slotBase s x.slot.toNat + 256) (x.img.drop 256) (eraseSlot { s with boot := { s.boot with upd := none } } x.slot.toNat)
/-- The header programmed too. -/
def imageProgrammed (s : State) (x : Upd) : State := programFlash (slotBase s x.slot.toNat) (x.img.take 256) (bodyProgrammed s x)

section
variable {s : State} {x : Upd}

theorem upd_bodyProgrammed : (bodyProgrammed s x).boot.upd = none := by
  obtain ⟨m, hm⟩ := programFlash_eq (x.img.drop 256) (slotBase s x.slot.toNat + 256) (eraseSlot { s with boot := { s.boot with upd := none } } x.slot.toNat)
  rw [bodyProgrammed, hm]
  rfl
theorem upd_imageProgrammed : (imageProgrammed s x).boot.upd = none := by
  obtain ⟨m, hm⟩ := programFlash_eq (x.img.take 256) (slotBase s x.slot.toNat) (bodyProgrammed s x)
  rw [imageProgrammed, hm]
  exact upd_bodyProgrammed
/-- What is neither of the body nor of the slot's erased part stays. -/
theorem memGet_bodyProgrammed_out (hm : MemCanonical s) (h1 : 256 ≤ x.img.length) (h2 : x.img.length ≤ slotSize s) {k : Nat}
    (h : ¬(slotBase s x.slot.toNat ≤ k ∧ k < slotBase s x.slot.toNat + slotSize s)) : memGet (bodyProgrammed s x) k = memGet s k := by
  rw [bodyProgrammed, memGet_programFlash_other _ _ _ _ (by rw [List.length_drop]; omega)]
  exact memGet_eraseSlot_out (s := { s with boot := { s.boot with upd := none } }) hm h
/-- The header and the bytes past the image stay erased. -/
theorem memGet_bodyProgrammed_erased {j : Nat} (hj : j < 256 ∨ x.img.length ≤ j) (hs : j < slotSize s) (h1 : 256 ≤ x.img.length) :
    memGet (bodyProgrammed s x) (slotBase s x.slot.toNat + j) = 0xFF := by
  rw [bodyProgrammed, memGet_programFlash_other _ _ _ _ (by rw [List.length_drop]; omega)]
  exact memGet_eraseSlot_in (s := { s with boot := { s.boot with upd := none } }) ⟨Nat.le_add_right _ _, Nat.add_lt_add_left hs _⟩
theorem memGet_bodyProgrammed_body {j : Nat} (h : 256 ≤ j) (hj : j < x.img.length) :
    memGet (bodyProgrammed s x) (slotBase s x.slot.toNat + j) = x.img.getD j 0 := by
  have hat : slotBase s x.slot.toNat + j = slotBase s x.slot.toNat + 256 + (j - 256) := by omega
  rw [bodyProgrammed, hat, memGet_programFlash_at _ _ _ _ (by rw [List.length_drop]; omega)]
  rw [List.getD_eq_getElem?_getD, List.getElem?_drop, List.getD_eq_getElem?_getD, Nat.add_sub_of_le h]
theorem memGet_imageProgrammed_past {k : Nat} (h1 : 256 ≤ x.img.length) (h : ¬(slotBase s x.slot.toNat ≤ k ∧ k < slotBase s x.slot.toNat + 256)) :
    memGet (imageProgrammed s x) k = memGet (bodyProgrammed s x) k := by
  rw [imageProgrammed, memGet_programFlash_other _ _ _ _ (by rw [List.length_take]; omega)]
theorem memGet_imageProgrammed_image {j : Nat} (h1 : 256 ≤ x.img.length) (hj : j < x.img.length) :
    memGet (imageProgrammed s x) (slotBase s x.slot.toNat + j) = x.img.getD j 0 := by
  by_cases h : j < 256
  · rw [imageProgrammed, memGet_programFlash_at _ _ _ _ (by rw [List.length_take]; omega)]
    rw [List.getD_eq_getElem?_getD, List.getElem?_take, if_pos h, List.getD_eq_getElem?_getD]
  · rw [memGet_imageProgrammed_past h1 (by omega), memGet_bodyProgrammed_body (by omega) hj]
theorem updDone_good (h : s.boot.upd = some x) : ∃ r, (r = 0 ∨ r = 4) ∧ updDone true s = updResult (imageProgrammed s x) r := by
  unfold updDone
  rw [h]
  dsimp only
  rw [if_pos rfl]
  split
  · exact ⟨0, .inl rfl, rfl⟩
  · exact ⟨4, .inr rfl, rfl⟩
theorem updDone_failed (h : s.boot.upd = some x) : updDone false s = updResult (bodyProgrammed s x) 4 := by
  unfold updDone
  rw [h]
  exact if_neg Bool.false_ne_true
theorem updDone_idle (h : s.boot.upd = none) (good : Bool) : updDone good s = s := by
  unfold updDone
  rw [h]
end

end Sys2Proof.Machine
end

section
/-! STANDBY and OFF (R338, R422, R493, R494) and the resume (R279, R421). -/
namespace Sys2Proof.Machine

/-! A ring port that turns off leaves the other as it was (R338). -/
theorem portOf_secTransmit_other {s u : State} {b c : Bool} {x : Option TxSec} (hc : c ≠ b) (h : secTransmit s b = some (u, x)) : portOf u c = portOf s c := by
  unfold secTransmit at h
  split at h
  · obtain ⟨rfl, -⟩ := h
    rfl
  · split at h
    · cases h
    · dsimp only at h
      split at h
      · cases h
      · simp only [Option.some.injEq, Prod.mk.injEq] at h
        rw [← h.1]
        split
        · rw [portOf_evFire, portOf_setPort_other _ _ _ _ hc]
        · exact portOf_setPort_other _ _ _ _ hc
theorem portOf_sendHead_other (s : State) (q : Nat) (f : EgFrame) (rest : Nat) {b c : Bool} (hc : c ≠ b) : portOf (sendHead s b q f rest) c = portOf s c := by
  have hq : portOf (setEgQ s b q ((egQ s b q).drop 1)) c = portOf s c := portOf_setPort_other s b c _ hc
  unfold sendHead
  dsimp only
  split
  · next u x hx =>
    rw [portCount, ← hq, ← portOf_secTransmit_other hc hx]
    exact portOf_setPort_other u b c _ hc
  · exact hq
theorem portOf_atTime (s : State) (t : DWord) (b : Bool) : portOf (atTime s t) b = portOf s b := by
  obtain ⟨n, hn⟩ := atTime_eq s t
  rw [hn]
  rfl
theorem portOf_doTransmitFrame_other (s : State) {b c : Bool} (hc : c ≠ b) : portOf (doTransmitFrame b s) c = portOf s c := by
  unfold doTransmitFrame
  dsimp only
  split
  · rfl
  · split
    · rw [portOf_sendHead_other _ _ _ _ hc, portOf_atTime]
    · split
      · rw [portOf_sendHead_other _ _ _ _ hc, portOf_atTime]
      · rfl
theorem portOf_standbyPort_other (s : State) {b c : Bool} (hc : c ≠ b) : portOf (standbyPort s b) c = portOf s c := by
  unfold standbyPort timesDo
  rw [portOf_setPort_other _ _ _ _ hc]
  generalize List.range _ = l
  induction l generalizing s with
  | nil => rfl
  | cons n l ih => exact (ih _).trans (portOf_doTransmitFrame_other s hc)
/-- A ring port that has turned off. -/
def PortOff (p : Port) : Prop := p.link = 0 ∧ p.q = []
theorem portOff_standbyPort (s : State) (b : Bool) : PortOff (portOf (standbyPort s b) b) := by
  rw [standbyPort, portOf_setPort_same]
  exact ⟨rfl, rfl⟩
theorem portOff_standbyPorts (s : State) (b : Bool) : PortOff (portOf (standbyPort (standbyPort s false) true) b) := by
  cases b
  · rw [portOf_standbyPort_other _ (by decide)]
    exact portOff_standbyPort s false
  · exact portOff_standbyPort _ true

/-! The sources become INACTIVE and the wake watcher is armed (R422). -/
theorem sget_prop {α : Type} {P : α → Prop} {d : α} (hd : P d) (k : Nat) (m : Sparse α) (h : ∀ e ∈ m, P e.2) : P (sget d m k) := by
  induction m with
  | nil => exact hd
  | cons x m ih =>
    obtain ⟨j, w⟩ := x
    have hrest := ih fun e he => h e (List.mem_cons_of_mem _ he)
    unfold sget
    split
    · exact hd
    · split
      · exact h (j, w) List.mem_cons_self
      · exact hrest
theorem evSrc_standbyEvents (s : State) (m : Nat) : (evSrc (standbyEvents s) m).st = .inactive := by
  refine sget_prop (P := fun x : EvSrc => x.st = .inactive) rfl m _ fun e he => ?_
  obtain ⟨y, -, hy⟩ := List.mem_filterMap.mp he
  dsimp only at hy
  split at hy
  · cases hy
  · cases hy
    rfl
theorem standbyScrub_eq (s : State) : ∃ r m, standbyScrub s = { s with reg := r, memc := m } := by
  have h : ∀ l : List Nat, ∀ w : State, ∃ r, l.foldl (fun s m => setIm s (aMEM + 0x100 + 4 * m) 0) w = { w with reg := r } := fun l => by
    induction l with
    | nil => exact fun w => ⟨w.reg, rfl⟩
    | cons n l ih =>
      intro w
      obtain ⟨r, hr⟩ := ih (setIm w (aMEM + 0x100 + 4 * n) 0)
      exact ⟨r, hr⟩
  obtain ⟨r, hr⟩ := h (List.range 10) s
  rw [standbyScrub, hr]
  exact ⟨_, _, rfl⟩

/-! Down (R493, R494). -/
/-- STANDBY or OFF as the obligation states it. -/
structure TurnedDown (u : State) (off : Bool) : Prop where
  st : u.boot.st = if off then .off else .standby
  inh : u.boot.inh = !off
  pwrCmd : u.boot.pwrCmd = 0
  armed : u.evt.wkArmed = true
  sources : ∀ m, (evSrc u m).st = .inactive
  ports : ∀ b, PortOff (portOf u b)

theorem turnedDown_enterStandby (off : Bool) (s : State) : TurnedDown (enterStandby off s) off := by
  unfold enterStandby
  dsimp only
  generalize List.foldl standbyCtx _ _ = w
  have hports := portOff_standbyPorts w
  generalize standbyPort (standbyPort w false) true = v at hports
  have hports' : ∀ b, PortOff (portOf (standbyEvents v) b) := hports
  have harmed : (standbyEvents v).evt.wkArmed = true := rfl
  have hsrc := evSrc_standbyEvents v
  obtain ⟨r, m, hs⟩ := standbyScrub_eq (standbyEvents v)
  rw [hs]
  generalize standbyEvents v = x at hports' harmed hsrc
  exact ⟨rfl, rfl, rfl, harmed, hsrc, hports'⟩
theorem TurnedDown.clocks {u : State} {off : Bool} (h : TurnedDown u off) : clocksOn u = false := by
  rw [clocksOn, h.st]
  cases off <;> simp

section
variable {s : State} {op : BitVec 2}

theorem pwrAsk_updating (h : s.boot.upd ≠ none) : pwrAsk op s = s := if_pos (.inr (.inr (Option.isSome_iff_ne_none.mpr h)))
theorem pwrAsk_idle (h : s.boot.upd = none) (ho : op = 1 ∨ op = 2) : pwrAsk op s = { s with boot := { s.boot with pwrCmd := op } } := by
  refine if_neg ?_
  rw [h]
  rcases ho with rfl | rfl <;> decide
/-- A power command takes place at once in RUN, and is dropped elsewhere. -/
theorem settle_pwrCmd (hset : Settled s) (hc : clocksOn s = true) (ho : op = 1 ∨ op = 2) : settle { s with boot := { s.boot with pwrCmd := op } } =
    if s.boot.st = .run then enterStandby (decide (op = 2)) { s with boot := { s.boot with pwrCmd := op } } else s := by
  obtain ⟨hr, hb, hp⟩ := hset
  have hf : s.flt.f4 = false := by
    rw [clocksOn, Bool.and_eq_true, Bool.not_eq_true'] at hc
    exact hc.1
  have hne : op ≠ 0 := by rcases ho with rfl | rfl <;> decide
  have hback : { s with boot := { s.boot with rstCmd := false, pwrCmd := 0 } } = s := by rw [← hp, ← hb]
  simp only [settle, hr, hb, hf, hne, Bool.false_eq_true, or_self, if_false]
  exact congrArg (ite (s.boot.st = .run) _) hback
theorem settle_pwrAsk_run (hset : Settled s) (hc : clocksOn s = true) (hu : s.boot.upd = none) (hrun : s.boot.st = .run) (ho : op = 1 ∨ op = 2) :
    TurnedDown (settle (pwrAsk op s)) (decide (op = 2)) := by
  rw [pwrAsk_idle hu ho, settle_pwrCmd hset hc ho, if_pos hrun]
  exact turnedDown_enterStandby _ _
theorem settle_pwrAsk_other (hset : Settled s) (hc : clocksOn s = true) (h : s.boot.upd = none → s.boot.st ≠ .run) (ho : op = 1 ∨ op = 2) :
    settle (pwrAsk op s) = s := by
  by_cases hu : s.boot.upd = none
  · rw [pwrAsk_idle hu ho, settle_pwrCmd hset hc ho, if_neg (h hu)]
  · rw [pwrAsk_updating hu, settle_settled hset]
end

/-! The resume (R279, R348, R372, R400, R405, R421, R494). -/
/-- The source of a wake. -/
def wakeSrc : Nat := 0x4D4
/-- What the parts of a resume leave for the event of the wake. -/
structure KeepsWake (s u : State) : Prop where
  boot : u.boot = s.boot
  time : u.time = s.time
  free : u.free = s.free
  tables : u.reg.tabA = s.reg.tabA
  slot : u.evt.wkSlot = s.evt.wkSlot
  source : evSrc u wakeSrc = evSrc s wakeSrc
  memory : SameMemory s u

theorem KeepsWake.refl (s : State) : KeepsWake s s := ⟨rfl, rfl, rfl, rfl, rfl, rfl, fun _ => rfl⟩
theorem KeepsWake.trans {s u w : State} (h : KeepsWake s u) (h' : KeepsWake u w) : KeepsWake s w :=
  ⟨h'.boot.trans h.boot, h'.time.trans h.time, h'.free.trans h.free, h'.tables.trans h.tables, h'.slot.trans h.slot, h'.source.trans h.source,
    h.memory.trans h'.memory⟩
theorem KeepsWake.foldl {α : Type} {f : State → α → State} (l : List α) (h : ∀ u, ∀ x ∈ l, KeepsWake u (f u x)) (s : State) : KeepsWake s (l.foldl f s) := by
  induction l generalizing s with
  | nil => exact .refl s
  | cons x l ih => exact (h s x List.mem_cons_self).trans (ih (fun u y hy => h u y (List.mem_cons_of_mem _ hy)) _)
theorem keepsWake_setUnit (s : State) (k : Nat) (x : DUnit) : KeepsWake s (setUnit s k x) := ⟨rfl, rfl, rfl, rfl, rfl, rfl, fun _ => rfl⟩
theorem keepsWake_evLevel (s : State) {n : Nat} (b : Bool) (info : Word) (h : wakeSrc ≠ n) : KeepsWake s (evLevel s n b info) where
  boot := evLevel_frame State.boot s n b info fun _ => rfl
  time := evLevel_frame State.time s n b info fun _ => rfl
  free := evLevel_frame State.free s n b info fun _ => rfl
  tables := evLevel_frame (·.reg.tabA) s n b info fun _ => rfl
  slot := evLevel_frame (·.evt.wkSlot) s n b info fun _ => rfl
  source := evSrc_evLevel_other s b info h
  memory k := evLevel_frame (memGet · k) s n b info fun _ => rfl
theorem keepsWake_unitActivate (s : State) {k : Nat} (h : k < 0x70) : KeepsWake s (unitActivate s k) := by
  unfold unitActivate
  split
  · refine (keepsWake_setUnit s k _).trans (keepsWake_evLevel _ _ _ ?_)
    unfold wakeSrc
    omega
  · exact keepsWake_setUnit s k _
theorem keepsWake_linkFired (s : State) (b : Bool) (v : BitVec 3) : KeepsWake s (linkFired s b v) where
  boot := linkFired_frame State.boot s b v fun _ _ => rfl
  time := linkFired_frame State.time s b v fun _ _ => rfl
  free := linkFired_frame State.free s b v fun _ _ => rfl
  tables := linkFired_frame (·.reg.tabA) s b v fun _ _ => rfl
  slot := linkFired_frame (·.evt.wkSlot) s b v fun _ _ => rfl
  source := (linkFired_fired s b v).2 wakeSrc (by cases b <;> decide)
  memory k := linkFired_frame (memGet · k) s b v fun _ _ => rfl
theorem keepsWake_ringManager (s : State) (m : Rm) : KeepsWake s { s with rm := m } := ⟨rfl, rfl, rfl, rfl, rfl, rfl, fun _ => rfl⟩
theorem keepsWake_resumePort (s : State) (b : Bool) : KeepsWake s (resumePort s b) := by
  unfold resumePort
  split
  · by_cases hl : (portOf s b).link = 1
    · rw [setLink_same hl]
      exact .refl s
    · obtain ⟨m, hm⟩ := setLink_up (v := 1) (by decide) hl
      rw [hm]
      exact (keepsWake_linkFired s b 1).trans (keepsWake_ringManager _ m)
  · exact .refl s
theorem keepsWake_levelsAgain (s : State) : KeepsWake s (levelsAgain s) := by
  unfold levelsAgain
  refine (KeepsWake.foldl (List.range 4) (fun u i hi => keepsWake_evLevel u _ _ ?_) s).trans (KeepsWake.foldl _ (fun u n _ => ?_) _)
  · have := List.mem_range.mp hi
    unfold wakeSrc
    omega
  · split
    · next h =>
      refine keepsWake_evLevel u _ _ fun hn => ?_
      rw [← hn] at h
      exact absurd h.1 (by decide)
    · exact .refl u
/-- The device runs again, ring time at a free value. -/
def awoken (z : State) : State :=
  { z with time := { now := Config.freeDWord z.free, ref := z.time.ref }, free := z.free + 1, boot := { z.boot with st := .run } }
/-- A unit that was ACTIVE before STANDBY is enabled again. -/
def unitAgain (s : State) (k : Nat) : State :=
  if unitOk k && (unitOf s k).resume then unitActivate (setUnit s k { unitOf s k with resume := false }) k else s
/-- The units and the ports after a resume. -/
def portsAgain (z : State) : State := resumePort (resumePort ((List.range 0x70).foldl unitAgain (awoken z)) false) true
/-- A detached device attaches again. -/
def attachedAgain (s : State) : State := if s.rm.role = .detached then reattach { s with rm := { s.rm with heardMgr := false } } else s
theorem doResume_eq {z : State} (hst : z.boot.st = .resume) (hf : z.flt.f4 = false) :
    doResume z = evFire (levelsAgain (attachedAgain (portsAgain z))) wakeSrc (BitVec.ofNat 32 (attachedAgain (portsAgain z)).evt.wkSlot.toNat) := by
  have hunit : unitAgain = fun s k => if unitOk k && (unitOf s k).resume then unitActivate (setUnit s k { unitOf s k with resume := false }) k else s := rfl
  unfold doResume
  rw [if_neg (by simp [hst, hf]), attachedAgain, portsAgain, hunit, awoken, wakeSrc]
theorem keepsWake_unitAgain (s : State) {k : Nat} (h : k < 0x70) : KeepsWake s (unitAgain s k) := by
  unfold unitAgain
  split
  · exact (keepsWake_setUnit s k _).trans (keepsWake_unitActivate _ h)
  · exact .refl s
theorem keepsWake_portsAgain (z : State) : KeepsWake (awoken z) (portsAgain z) :=
  (KeepsWake.foldl (List.range 0x70) (fun u _ hk => keepsWake_unitAgain u (List.mem_range.mp hk)) (awoken z)).trans
    ((keepsWake_resumePort _ false).trans (keepsWake_resumePort _ true))
theorem keepsWake_attachedAgain (s : State) : KeepsWake s (attachedAgain s) := by
  unfold attachedAgain
  split
  · exact keepsWake_ringManager s _
  · exact .refl s
/-- What a resume leaves. -/
theorem doResume_claims {z : State} (hst : z.boot.st = .resume) (hf : z.flt.f4 = false) : let u := doResume z
    u.boot.st = .run ∧ u.time.now = Config.freeDWord z.free ∧ u.free = z.free + 1 ∧
      evSrc u wakeSrc = firedSrc (evSrc z wakeSrc) ((tabA z .evt wakeSrc 0).getLsbD 11) (BitVec.ofNat 32 z.evt.wkSlot.toNat) (Config.freeDWord z.free) ∧
      SameMemory z u := by
  intro u
  have hlevels := keepsWake_levelsAgain (attachedAgain (portsAgain z))
  have hw := ((keepsWake_portsAgain z).trans (keepsWake_attachedAgain _)).trans hlevels
  have hu : u = _ := doResume_eq hst hf
  rw [← hlevels.slot] at hu
  generalize levelsAgain (attachedAgain (portsAgain z)) = w at hw hu
  have hboot : u.boot = w.boot := hu ▸ evFire_frame State.boot w _ _ fun _ => rfl
  have htime : u.time = w.time := hu ▸ evFire_frame State.time w _ _ fun _ => rfl
  have hfree : u.free = w.free := hu ▸ evFire_frame State.free w _ _ fun _ => rfl
  have hmem : SameMemory w u := hu ▸ evFire_sameMemory w _ _
  have hsrc : evSrc u wakeSrc = _ := hu ▸ (evFire_fired w wakeSrc (BitVec.ofNat 32 w.evt.wkSlot.toNat)).1
  refine ⟨?_, ?_, ?_, ?_, ?_⟩
  · rw [hboot, hw.boot]
    rfl
  · rw [htime, hw.time]
    rfl
  · rw [hfree, hw.free]
    rfl
  · rw [hsrc, hw.slot, hw.source, hw.time]
    simp only [tabA, hw.tables]
    rfl
  · exact fun k => (hmem k).trans (hw.memory k)

/-! The claims. -/
/-- A power command that turns the device down, as the obligation states it. -/
theorem TurnedDown.claims {u : State} {off : Bool} (h : TurnedDown u off) : u.boot.st = (if off then .off else .standby) ∧ u.boot.inh = !off ∧ u.boot.pwrCmd = 0 ∧
    u.evt.wkArmed = true ∧ (∀ m, (evSrc u m).st = .inactive) ∧ u.ring.a.link = 0 ∧ u.ring.b.link = 0 ∧ u.ring.a.q = [] ∧ u.ring.b.q = [] ∧ clocksOn u = false := by
  obtain ⟨hlinkA, hqA⟩ := h.ports false
  obtain ⟨hlinkB, hqB⟩ := h.ports true
  exact ⟨h.st, h.inh, h.pwrCmd, h.armed, h.sources, hlinkA, hlinkB, hqA, hqB, h.clocks⟩
section
variable {s : State} {lvl : Lvl}

theorem exec_standby (hc : clocksOn s = true) (hl : Reaches lvl 2) : exec (.standby lvl) s = .next (settle (pwrAsk 1 s)) :=
  onReg_reaches (fun s => settle (pwrAsk 1 s)) hc hl
theorem exec_off (hc : clocksOn s = true) (hl : Reaches lvl 2) : exec (.off lvl) s = .next (settle (pwrAsk 2 s)) :=
  onReg_reaches (fun s => settle (pwrAsk 2 s)) hc hl
/-- Where no power command takes place, neither changes anything. -/
theorem exec_power_ignored (hc : clocksOn s = true) (hl : Reaches lvl 2) (hset : Settled s) (h : s.boot.upd = none → s.boot.st ≠ .run) :
    exec (.standby lvl) s = .next s ∧ exec (.off lvl) s = .next s := by
  rw [exec_standby hc hl, exec_off hc hl, settle_pwrAsk_other hset hc h (.inl rfl), settle_pwrAsk_other hset hc h (.inr rfl)]
  exact ⟨rfl, rfl⟩
theorem exec_updGo (slotB recovery : Bool) (hc : clocksOn s = true) (hl : Reaches lvl 2) :
    exec (.bootUpdCmdGo lvl slotB recovery) s = .next (updGo slotB recovery s) := onReg_reaches _ hc hl
end

/-- Settles O56: power commands by what is left of STANDBY entry, updates by the checks of GO and the bytes of flash, keys by their command, and the resume by its parts. -/
theorem powerImagesAndKeysFollowTheirCommands : Obligations.PowerImagesAndKeysFollowTheirCommands := by
  intro s lvl slotB recovery k u0 hc n go src len result down key bit4 left
  refine ⟨fun hl hset hu => ⟨fun hrun => ⟨?_, ?_⟩, fun hrun => exec_power_ignored hc hl hset fun _ => hrun⟩,
    fun hl hset hu => exec_power_ignored hc hl hset fun h => absurd h hu,
    fun hl => ⟨fun hu => ?_, fun hu hm hs => ?_, fun hu ho => ⟨fun hr => ?_, fun d hr => ⟨fun hv => ?_, fun hv hlen => ⟨fun hm hs => ?_, fun hs => ?_⟩⟩⟩⟩, ?_,
    fun hu good => onCore_next hc (updDone_idle hu good),
    fun hl => ⟨fun h => ?_, fun h => ?_, fun h => ?_, fun h => ?_, fun h => ?_, fun h => ?_⟩, fun z hst hf => ⟨_, rfl, doResume_claims hst hf⟩⟩
  · exact ⟨_, exec_standby hc hl, (settle_pwrAsk_run hset hc hu hrun (.inl rfl)).claims⟩
  · exact ⟨_, exec_off hc hl, (settle_pwrAsk_run hset hc hu hrun (.inr rfl)).claims⟩
  · exact (exec_updGo slotB recovery hc hl).trans (by rw [updGo_busy hu]; rfl)
  · exact (exec_updGo slotB recovery hc hl).trans (by rw [updGo_ownSlot hu hm hs]; rfl)
  · exact (exec_updGo slotB recovery hc hl).trans (by rw [updGo_unreadable hu ho hr]; rfl)
  · exact (exec_updGo slotB recovery hc hl).trans (by rw [updGo_invalid hu ho hr hv]; rfl)
  · exact (exec_updGo slotB recovery hc hl).trans (by rw [updGo_wrongSeq hu ho hr hv hlen hm hs]; rfl)
  · exact (exec_updGo slotB recovery hc hl).trans (by rw [updGo_starts hu ho hr hv hlen hs]; rfl)
  · intro hu hm h1 h2 base
    refine ⟨?_, _, onCore_next hc (updDone_failed hu), upd_bodyProgrammed, rfl,
      fun j hj => memGet_bodyProgrammed_erased (.inl hj) (by omega) h1, fun k hk => memGet_bodyProgrammed_out hm h1 h2 hk⟩
    obtain ⟨r, hr, hd⟩ := updDone_good hu
    refine ⟨_, onCore_next hc hd, upd_imageProgrammed, fun j hj => memGet_imageProgrammed_image h1 hj, fun j hj hs => ?_, fun k hk => ?_, hr⟩
    · exact (memGet_imageProgrammed_past h1 (by omega)).trans (memGet_bodyProgrammed_erased (.inr hj) hs h1)
    · exact (memGet_imageProgrammed_past h1 (by omega)).trans (memGet_bodyProgrammed_out hm h1 h2 hk)
  · exact (exec_program k hc hl).trans (by rw [keyProgram, keyCmd_refused (r := bit s.boot.prog k.toNat) _ h])
  · exact (exec_program k hc hl).trans (by rw [keyProgram, keyCmd_done (r := bit s.boot.prog k.toNat) _ h])
  · exact (exec_revoke k hc hl).trans (by rw [keyRevoke, keyCmd_refused _ (decide_eq_true h)])
  · exact (exec_revoke k hc hl).trans (by rw [keyRevoke, keyCmd_done _ (decide_eq_false h)])
  · exact (exec_fuseSecure hc hl).trans (by rw [fuseSecure, keyCmd_refused _ (decide_eq_true h)])
  · exact (exec_fuseSecure hc hl).trans (by rw [fuseSecure, keyCmd_done _ (decide_eq_false h)])

end Sys2Proof.Machine
end
